-- ==== Sys2Proof/Word.lean ====
section
/-!
DEFINITION. The word types of the model and their plainest arithmetic: 32-bit registers (R8), bytes in
little-endian order (R5), counters that saturate (R7) and the small integer helpers every chapter uses.
-/
namespace Sys2Proof

abbrev Word := BitVec 32
abbrev Byte := BitVec 8

/-- Bit 0 is the least significant bit (R4): bits `[hi:lo]` of a natural number. -/
def bitsOf (n hi lo : Nat) : Nat := (n / 2 ^ lo) % 2 ^ (hi + 1 - lo)

/-- One bit of a natural number (R4). -/
def bitOf (n k : Nat) : Bool := n / 2 ^ k % 2 == 1

/-- A Boolean as a one-bit number. -/
def b2n (b : Bool) : Nat := if b then 1 else 0

/-- Little-endian value of a byte list (R5): byte 0 holds bits `[7:0]`. -/
def leNat : List Byte → Nat
  | [] => 0
  | b :: bs => b.toNat + 256 * leNat bs

/-- The `n` little-endian bytes of a number (R5). -/
def leBytes : Nat → Nat → List Byte
  | 0, _ => []
  | n + 1, v => BitVec.ofNat 8 v :: leBytes n (v / 256)

/-- Two's complement reading of `n` as a `w`-bit number. -/
def sx (w n : Nat) : Int :=
  let m := n % 2 ^ w
  if 2 * m < 2 ^ w then (m : Int) else (m : Int) - (2 ^ w : Nat)

/-- Two's complement code of an integer in `w` bits. -/
def unsx (w : Nat) (i : Int) : Nat := (i % ((2 ^ w : Nat) : Int)).toNat

/-- Ceiling division of naturals. -/
def cdiv (a b : Nat) : Nat := (a + b - 1) / b

/-- What a field of `w` bits shows of a count: all ones from its all-ones value on (R7). -/
def sat (w n : Nat) : Nat := min n (2 ^ w - 1)

/-- A counter of `w` bits that saturates at its all-ones value (R7). -/
def satAdd (w n k : Nat) : Nat := min (n + k) (2 ^ w - 1)

/-- Round an exact quotient `n / d` to the nearest integer, ties to even (the RNE of R99, R224). -/
def rneDiv (n : Int) (d : Nat) : Int :=
  let q := n.fdiv d
  let r := n - q * d
  if 2 * r < d then q else if 2 * r > d then q + 1 else if q % 2 = 0 then q else q + 1

/-- Replace element `i` of a list; a list shorter than that is unchanged. -/
def listSet {α : Type} (l : List α) (i : Nat) (x : α) : List α := l.set i x

/-- Look a key up in an association list. -/
def assoc {β : Type} (l : List (Nat × β)) (k : Nat) : Option β := (l.find? (fun e => e.1 == k)).map (·.2)

/-- Insert into an association list kept in ascending key order, replacing an equal key. -/
def assocPut {β : Type} : List (Nat × β) → Nat → β → List (Nat × β)
  | [], k, v => [(k, v)]
  | (a, b) :: t, k, v =>
    if k < a then (k, v) :: (a, b) :: t else if k = a then (k, v) :: t else (a, b) :: assocPut t k v

/-- Remove a key from an association list. -/
def assocDel {β : Type} (l : List (Nat × β)) (k : Nat) : List (Nat × β) := l.filter (fun e => e.1 != k)

end Sys2Proof
end

