-- ==== Sys2Proof/Syntax.lean ====
section
/-!
DEFINITION. The commands of the PVH-8384: one constructor of `Instr` for each row of spec/opcode_table.json, with
the operands that reach the device from outside. Rows that are Pricking words (R60, R61) name the word by its
partition and its index in the image's OPS section; a slab-expanded word (R242, R294, R337) adds its descriptor.
-/
namespace Sys2Proof

/-- A Rehebor command packet as received (R420), without its opcode, which the command's row gives. -/
structure Pkt where
  tag     : BitVec 16
  len     : BitVec 16
  rsvd    : BitVec 16
  payload : List Byte
  crc     : Word
  deriving DecidableEq, Repr

/-- One private write that carries a packet (R419): the address it names, its command code in HDR-DDR (none in SDR), and the packet. -/
structure HostWrite where
  da  : BitVec 7
  hdr : Option Byte
  pkt : Pkt
  deriving DecidableEq, Repr

/-- The bus side of a register command whose packet is well formed: address, command code in HDR-DDR (none in SDR), and tag. -/
structure Bus where
  da  : BitVec 7
  hdr : Option Byte
  tag : BitVec 16
  deriving DecidableEq, Repr

/-- Link facts of a packet received on a CSI-2 receive port (R125): whether a header ECC bit was corrected and
whether the payload CRC-16 failed; and the CCLK cycles since its header was received (R99). -/
structure RxHdr where
  port     : Fin 4
  vc       : Fin 16
  eccFixed : Bool
  crcBad   : Bool
  headAgo  : Nat := 0
  deriving DecidableEq, Repr

/-- Why a receive packet was discarded (R124, R125): before its data type was taken, or as a 0x30 packet, given by its bytes,
that is none of the three in-band commands (R131). -/
inductive DropCause where
  | sync | headerEcc | dataType
  | inband (bytes : List Byte)
  deriving DecidableEq, Repr

/-- What a boot reads from the flash (R457, R458). -/
structure FlashRead where
  sel0  : List Byte
  sel1  : List Byte
  bank0 : List Byte
  bank1 : List Byte
  deriving DecidableEq, Repr

/-- The commands. -/
inductive Instr where
  -- host command packets (R426)
  | hello (w : HostWrite)
  | regRead (w : HostWrite)
  | regWrite (w : HostWrite)
  | regReadBlock (w : HostWrite)
  | prickingLoad (w : HostWrite)
  | prickingVerify (w : HostWrite)
  | partitionSet (w : HostWrite)
  | partitionStart (w : HostWrite)
  | partitionHalt (w : HostWrite)
  | jobSubmitBegin (w : HostWrite)
  | jobSubmitEnd (w : HostWrite)
  | jobCancel (w : HostWrite)
  -- in-band packets (R442)
  | jobBegin (r : RxHdr) (pkt : Pkt)
  | jobEnd (r : RxHdr) (pkt : Pkt)
  | pageMark (r : RxHdr) (pkt : Pkt)
  | tableLoad (w : HostWrite)
  | tableSwap (w : HostWrite)
  | calibrate (w : HostWrite)
  | adaptRunStart (w : HostWrite)
  | adaptRunStop (w : HostWrite)
  | adaptRunCheckpoint (w : HostWrite)
  | adaptRunResume (w : HostWrite)
  | powerState (w : HostWrite)
  | fwUpdate (w : HostWrite)
  | fwSwitch (w : HostWrite)
  | statusGet (w : HostWrite)
  | errorLogRead (w : HostWrite)
  -- the I3C bus (R414 to R419)
  | privateRead (da : BitVec 7) (hdr : Bool) (code : Byte) (count : Nat)
  | privateWriteDiscarded (da : BitVec 7)
  | entdaa (da : BitVec 7)
  | setdasa (static : BitVec 7) (da : BitVec 7)
  | rstdaa
  | getpid (da : BitVec 7)
  | getbcr (da : BitVec 7)
  | getdcr (da : BitVec 7)
  | getcaps (da : BitVec 7)
  | getmxds (da : BitVec 7)
  | getstatus (da : BitVec 7)
  | enecDisec (broadcast : Bool) (da : BitVec 7) (enable : Bool) (events : Byte)
  | enthdr0
  | rstact (broadcast : Bool) (da : BitVec 7) (action : Byte)
  | targetReset
  -- register accesses with a row of their own
  | timeLoad (b : Bus) (value : Word)
  | globalTimeLoRead (b : Bus) (block : Bool)
  | stitchCountLoRead (b : Bus) (block : Bool)
  | beatsLoRead (b : Bus) (n : Fin 8) (block : Bool)
  | tableWindowRead (b : Bus) (n : Fin 4) (a : BitVec 18)
  | tableWindowWrite (b : Bus) (n : Fin 4) (a : BitVec 18) (value : Word)
  | coefDataAccess (b : Bus) (t : Fin 4) (write : Option Word)
  | ctxDataRead (b : Bus)
  | tambEnable (b : Bus) (t : Fin 4) (value : Word)
  | tambMode (b : Bus) (t : Fin 4) (value : Word)
  | coefSwap (b : Bus) (t : Fin 4) (value : Word)
  | rxinEnable (b : Bus) (x : Fin 4) (value : Word)
  | txPortEnable (b : Bus) (x : Fin 2) (value : Word)
  | outEnable (b : Bus) (value : Word)
  | txtEnable (b : Bus) (value : Word)
  | kvmEnable (b : Bus) (value : Word)
  | adaptEnable (b : Bus) (value : Word)
  | ddrEnable (b : Bus) (value : Word)
  | bobbinOffline (b : Bus) (n : Fin 8) (value : Word)
  | encPosClear (b : Bus) (t : Fin 4)
  | tambCountsClear (b : Bus) (t : Fin 4)
  | rxinCountsClear (b : Bus) (x : Fin 4)
  | numCountsClear (b : Bus) (n : Fin 8)
  | perfCountsClear (b : Bus) (n : Fin 8)
  | kvmCountsClear (b : Bus)
  | txtCountsClear (b : Bus)
  | outCountsClear (b : Bus)
  | adaptCountsClear (b : Bus)
  | cmdCountsClear (b : Bus)
  | ddrCountsClear (b : Bus)
  | healthCountsClear (b : Bus) (n : Fin 8)
  | seccCountsClear (b : Bus)
  | unitReset (b : Bus) (unit : BitVec 5)
  | unitResetDone
  | bistStart (b : Bus) (n : Fin 8)
  | bistDone (n : Fin 8) (pass : Bool) (area : BitVec 4) (loc : Word)
  | thermalTripClear (b : Bus)
  -- power, reset, boot and firmware (R447 to R460)
  | powerOnReset
  | pwrokRise (sa : BitVec 2) (testen : Bool)
  | chipReset
  | resetNRelease
  | bootComplete (flash : FlashRead) (micros : Word)
  | standbyCheckDone (bank : List Byte)
  | fwProgramDone (matched : Bool)
  | fwStartTimeout
  | loadTransferTimeout
  | refclkLost
  | pllRelock
  | stitchBoundary
  -- Tambours (R81 to R106)
  | modeEffect (t : Fin 4)
  | lineTrigger (t : Fin 4)
  | encEdge (t : Fin 4) (a b : Bool)
  | encTimeout (t : Fin 4)
  | stampCapture (t : Fin 4)
  | patternDone (t : Fin 4)
  | calComplete (t : Fin 4)
  | calTimeout (t : Fin 4)
  | sensorSample (now : List (BitVec 16))
  -- receive ports (R122 to R143)
  | frameStart (r : RxHdr) (number : BitVec 16)
  | frameEnd (r : RxHdr) (number : BitVec 16)
  | lineStart (r : RxHdr) (number : BitVec 16)
  | pixelLine (r : RxHdr) (dt : BitVec 6) (payload : List Byte)
  | embeddedData (r : RxHdr) (payload : List Byte)
  | codedData (r : RxHdr) (payload : List Byte)
  | jobTimeout (port : Fin 4) (vc : Fin 16)
  | textInput (r : RxHdr) (payload : List Byte)
  | tokenizeDone
  | bulkLoad (r : RxHdr) (payload : List Byte)
  -- Pricking words (R60, R61)
  | nop (p : Fin 8) (i : Nat)
  | matmul (p : Fin 8) (i : Nat)
  | wload (p : Fin 8) (i : Nat)
  | add (p : Fin 8) (i : Nat)
  | sub (p : Fin 8) (i : Nat)
  | mul (p : Fin 8) (i : Nat)
  | fma (p : Fin 8) (i : Nat)
  | max (p : Fin 8) (i : Nat)
  | min (p : Fin 8) (i : Nat)
  | convert (p : Fin 8) (i : Nat)
  | exp (p : Fin 8) (i : Nat)
  | recip (p : Fin 8) (i : Nat)
  | rsqrt (p : Fin 8) (i : Nat)
  | maxabs (p : Fin 8) (i : Nat)
  | rowstat (p : Fin 8) (i : Nat)
  | lsCopy (p : Fin 8) (i : Nat)
  | psRead (p : Fin 8) (i : Nat)
  | psWrite (p : Fin 8) (i : Nat)
  | ddrRead (p : Fin 8) (i : Nat)
  | ddrWrite (p : Fin 8) (i : Nat)
  | ddrBcast (p : Fin 8) (i : Nat)
  | gather (p : Fin 8) (i : Nat)
  | depthwise (p : Fin 8) (i : Nat)
  | maxpool (p : Fin 8) (i : Nat)
  | avgpool (p : Fin 8) (i : Nat)
  | resample (p : Fin 8) (i : Nat)
  | crop (p : Fin 8) (i : Nat)
  | fwd (p : Fin 8) (i : Nat)
  | decode (p : Fin 8) (i d : Nat)
  | bwd (p : Fin 8) (i : Nat)
  | kvCreate (p : Fin 8) (i : Nat)
  | kvAppend (p : Fin 8) (i : Nat)
  | kvWrite (p : Fin 8) (i d : Nat)
  | kvFree (p : Fin 8) (i : Nat)
  | kvService (p : Fin 8) (i : Nat)
  | txtFetch (p : Fin 8) (i : Nat)
  | decide (p : Fin 8) (i d : Nat)
  | emit (p : Fin 8) (i : Nat)
  | jobDone (p : Fin 8) (i : Nat)
  | slab (p : Fin 8) (i : Nat)
  | guard (p : Fin 8) (i : Nat)
  | operationComplete
  | late
  -- output unit (R348 to R381)
  | jobRelease (p : Fin 8) (o : Nat)
  | pageEnd (p : Fin 8) (o : Nat)
  | recordSend (x : Fin 2)
  | hsExit (x : Fin 2)
  | outHold (x : Fin 2)
  | outHoldRelease (x : Fin 2)
  | holdTimeout (x : Fin 2)
  -- adaptation, memory controller, remaining events
  | stageFillDone
  | batchStaged
  | checkpointDone
  | restoreDone
  | ddrTrainingEnd (failed : Option (BitVec 4)) (sub : BitVec 3)
  | selfRefreshReturn
  | dramTempRead (hot : Bool)
  | patrolScrub
  | packetDiscarded (r : RxHdr) (cause : DropCause)
  | unknownOpcode (da : BitVec 7) (hdr : Option Byte) (bytes : List Byte)
  | hdrExitPattern
  | newFirmwareStarted (_ : Unit)
  | feedPeriodEnd (t : Fin 4) (k : Fin 8)
  | patternStepEnd (t : Fin 4)
  | jtagUpdateIr (code : Byte)
  | jtagUpdateDr (value : BitVec 10)
  | jtagCaptureDr
  | flashSpiTransferEnd (captured : Byte)
  | trstNLow
  deriving DecidableEq, Repr

end Sys2Proof
end

