-- ==== Sys2Proof/Config.lean ====
section
/-!
DEFINITION. What an implementation fixes and the free values: each is a constant with no body, so no proof can
see what it is and a claim that mentions it holds for every value (DESIGN CHOICE each; assumption log entries 10 and 13 to 18).
-/
namespace Sys2Proof.Config

/-- The fuse value of BOB0_GOV_COEF as trimmed for the part (R9, R515); clamped to its ranges where it is read. -/
opaque govCoef : Nat → Nat
/-- The outcome of an ECC error pattern of three or more bits (R496): none is a zero syndrome, some bit
below 72 a syndrome equal to that bit's, any other number a double-bit report. -/
opaque eccOutcome : BitVec 72 → Option Nat
/-- The syndrome a reported pattern produces (R493 W4); the parity-check matrix is not published (R496). -/
opaque eccSyndrome : BitVec 72 → BitVec 32
/-- FP32 result of a special function before the conversion, of which R197 and R238 state only an error bound:
operation (0 EXP, 1 RECIP, 2 RSQRT, 3 natural logarithm), signed odd significand and exponent of the operand. -/
opaque sfuRaw : Nat → Int → Int → BitVec 32
/-- Sign of the NaN that an invalid operation generates (R154 names the sign only for a NaN input): 0 a sum of
opposite infinities, 1 a product of zero and infinity, 2 RSQRT of a negative value, 3 a quotient without a value, 4 a sum in which NaNs of both signs meet. -/
opaque nanSign : Nat → Bool
/-- A window read of working storage whose layout the manual does not fix (R305 and the output buffer):
store code, byte address and the free counter of the state. -/
opaque workingByte : Nat → Nat → Nat → BitVec 8
/-- A value the manual leaves open (log entry 14), by its kind and the free counter of the state, or what stands in its
place: 1 the last high nibble of an odd number of INT4 codes, 2 local store beyond 20 MiB (by address), 3 a dynamic scale of a
NaN statistic (by its bits), 5 CONTEXT of a KV_CREATE entry that fails or is not processed, 6 the bytes of a ring group that is
not a ring (R252), 7 a calibration entry of a channel in which none passes (R105), 8 the lock time of the PLL at boot, 9 the phase of CCLK after a
lock, 11 the cycles of a boot that is cut off, 10 OPCODE and TAG of a packet too short to hold them, 12 where a record lies in the output buffer (log entry 13),
13 what Capture-DR finds in the boundary-scan register (log entry 9). -/
opaque openValue : Nat → Nat → BitVec 32

end Sys2Proof.Config
end

