-- ==== Sys2Proof/Machine/State.lean ====
section
/-!
DEFINITION. The state of the PVH-8384 as plain data: the committed unit state table (R50), the queue of waiting
commands, and one record per unit. Register fields that only hold what was written live in `Dev.regs` and, while
they wait for a boundary, in `Dev.shadow` (R12); every read-only field is computed from the records.
-/
namespace Sys2Proof.Machine

/-- Why the machine stops with a fault. The model never faults: every command answers a next state. -/
inductive Fault where
  /-- Raised by nobody (safe): no rule of the spec stops the device. -/
  | none
  deriving DecidableEq, Repr

/-- Why a command has no meaning. -/
inductive Refusal where
  /-- Raised by an arm of exec that is not modelled yet (safe: the run stops). -/
  | notModelled (mnemonic : String)
  deriving DecidableEq, Repr

/-- Unit states of R48. -/
inductive UnitSt where
  | disabled | idle | run | halted | faulted | failed | offline
  deriving DecidableEq, Repr

/-- Power states of R451. -/
inductive PState where
  | run | idle | sleep
  deriving DecidableEq, Repr

/-- Clocks and the Stitch tick (R21 to R26, R38 to R45). -/
structure Clk where
  /-- CCLK cycles since the PLL last locked. -/
  mono      : Nat := 0
  /-- Cycle offset in the current Stitch (R44). -/
  offset    : Nat := 0
  /-- Whether the Stitch tick runs (R39). -/
  ticking   : Bool := false
  /-- Boundary count (R45), 64 bits. -/
  count     : BitVec 64 := 0
  /-- Upper half latched by a read of SEQ_STITCH_COUNT_LO (R45). -/
  countHi   : Word := 0
  /-- Device time counter (R22), 64 bits, wraps. -/
  time      : BitVec 64 := 0
  /-- CCLK cycles since CCLK and TCLK last rose together, 0 to 10 (R21). -/
  phase     : Nat := 0
  /-- Upper half latched by a read of GLOBAL_TIME_LO (R24). -/
  timeHi    : Word := 0
  /-- A committed load that waits for the next TCLK edge (R25). -/
  timeLoad  : Option (BitVec 64) := none
  /-- GLOBAL_CLK_STATUS.PLL_LOCK (R30). -/
  pllLock   : Bool := false
  /-- GLOBAL_CLK_STATUS.REFCLK_LOST (R30). -/
  refLost   : Bool := false
  /-- REFCLK is absent: the running PLL is in holdover (R26, R30). -/
  holdover  : Bool := false
  /-- REFCLK has been absent in this SLEEP (R455). -/
  sleepLost : Bool := false
  /-- CCLK cycle in which REFCLK_LOST was last set (R11). -/
  refAt     : Option Nat := none
  /-- The clearable counters as the present CCLK cycle found them, in the order of `allCounts` (R180 and the other clears);
  the model's own field, empty at reset. -/
  was       : List Nat := []
  deriving DecidableEq, Repr

/-- Power, reset and boot (R447 to R467, R540). -/
structure Pwr where
  /-- PWROK counts high and TESTEN was low: the device is out of power-on reset (R448, R525). -/
  powered   : Bool := false
  /-- PWROK counts high, also where TESTEN keeps the device in power-on reset (R448, R525). -/
  pwrok     : Bool := false
  /-- RESET_N counts low (R448): out of power-on reset a pin chip reset is held. -/
  resetLow  : Bool := false
  /-- A boot runs (R457). -/
  booting   : Bool := false
  /-- CCLK cycle at which the chip reset in progress began (R448). -/
  resetAt   : Nat := 0
  /-- Boot has completed and the firmware, or the mask ROM in recovery, serves (R457, R459). -/
  booted    : Bool := false
  /-- PWR_BOOT_STATUS.RECOVERY (R459). -/
  recovery  : Bool := false
  /-- Committed power state (R451). -/
  state     : PState := .run
  /-- Power state request awaiting the boundary (R452). -/
  pend      : Option PState := none
  /-- Cycle at which RUN last committed from IDLE (R453). -/
  runAt     : Option Nat := none
  /-- PWR_RESET_CAUSE (R465). -/
  cause     : BitVec 3 := 0
  /-- Kind of the reset whose boot is running. -/
  bootKind  : BitVec 3 := 0
  /-- PWR_BOOT_TIME (R465). -/
  micros    : Word := 0
  /-- PWR_BOOT_STATUS fields (R466). -/
  fallback  : Bool := false
  selected  : Bool := false
  selValid  : BitVec 2 := 0
  bankValid : BitVec 2 := 0
  bank      : Bool := false
  /-- The standby check of R540 runs. -/
  check     : Bool := false
  /-- PWR_UNIT_RESET_STATUS (R467). -/
  urBusy    : Bool := false
  urUnit    : BitVec 5 := 0
  /-- Straps sampled when PWROK counts (R415, R525). -/
  sa        : BitVec 2 := 0
  testen    : Bool := false
  /-- STATUS_GET payload frozen at the entry to SLEEP (R454). -/
  frozen    : List Byte := []
  /-- The boot in progress is a wake: private reads return the POWER_STATE reply (R454). -/
  waking    : Bool := false
  deriving DecidableEq, Repr

/-- A reply (R421). -/
structure Reply where
  opcode  : BitVec 16 := 0xFFFF
  tag     : BitVec 16 := 0
  status  : BitVec 16 := 0
  payload : List Byte := []
  deriving DecidableEq, Repr

/-- The I3C target and the session (R414 to R428). -/
structure I3c where
  /-- Dynamic address, 0 none (R415). -/
  da       : BitVec 7 := 0
  /-- The bus is in HDR-DDR after ENTHDR0 (R416). -/
  hdr      : Bool := false
  /-- Protocol error of GETSTATUS (R418). -/
  protErr  : Bool := false
  /-- RSTACT action, 0x01 after any reset (R417). -/
  rstact   : Byte := 1
  /-- The reply buffer (R421, R422). -/
  reply    : Reply := {}
  /-- A command whose reply is not yet complete: opcode and tag (R422); a firmware switch or a boot. -/
  busy     : Option (BitVec 16 × BitVec 16) := none
  /-- Session version and HELLO_DONE (R428, R445). -/
  major    : BitVec 4 := 1
  minor    : BitVec 4 := 0
  hello    : Bool := false
  /-- What the device last answered on the bus: acknowledge and bytes driven (the model's output). -/
  ack      : Bool := false
  out      : List Byte := []
  /-- CMD_CNT_ERR fields (R446). -/
  parity   : Nat := 0
  crcBad   : Nat := 0
  refused  : Nat := 0
  deriving DecidableEq, Repr

/-- CMD_FW_STATUS.STATE (R445). -/
inductive FwSt where
  | idle | receiving | programming | ready | failed
  deriving DecidableEq, Repr

/-- One boot-selector copy as the device knows it (R458, R460). -/
structure SelCopy where
  valid : Bool := false
  seq   : Word := 0
  bank  : Bool := false
  deriving DecidableEq, Repr

/-- Firmware update (R437 to R439, R460). -/
structure Fw where
  state    : FwSt := .idle
  cause    : BitVec 3 := 0
  active   : Bool := false
  release0 : BitVec 16 := 0
  release1 : BitVec 16 := 0
  sel0     : SelCopy := {}
  sel1     : SelCopy := {}
  /-- The copy FW_SWITCH wrote, while the new firmware has not started (R439, R460). -/
  wrote    : Option Bool := none
  /-- CCLK cycle of the switch in progress (R439). -/
  wroteAt  : Nat := 0
  /-- Release in the image being programmed. -/
  progRel  : BitVec 16 := 0
  /-- Flash writes the device makes: byte address and bytes (the model's output). -/
  flash    : List (Nat × List Byte) := []
  deriving DecidableEq, Repr

/-- The one inline transfer of R435. -/
structure Xfer where
  opcode : BitVec 16
  target : Byte
  total  : Nat
  got    : Nat
  rom    : Bool
  /-- CCLK cycle of its last fragment (R435). -/
  at_    : Nat := 0
  deriving DecidableEq, Repr

/-- A timed step of an operation in flight. -/
inductive Act where
  /-- Beat d of row r reaches the DPUs (R189). -/
  | beat (r d : Nat)
  /-- Element group i enters the vector unit (R200). -/
  | group (i : Nat)
  /-- Chunk j of an on-chip move (R201). -/
  | chunk (j : Nat)
  /-- The whole work of the operation at its stated cycle. -/
  | whole
  /-- Entry k of a list word (R381). -/
  | entry (k : Nat)
  /-- Results become readable: key, bytes. -/
  | put (ws : List (Nat × List Byte))
  /-- Saturations reach a guard (R174). -/
  | sats (g n : Nat)
  /-- Accumulator updates that overflowed are complete (R170, R182). -/
  | ovf (n : Nat)
  /-- The last result is readable: the operation is complete (R63). -/
  | finish
  /-- The cycle after ISSUE + DURATION of an operation that has not completed (R63). -/
  | late
  /-- Phases of the boundary window (R40): publication, refill, governor. -/
  | publish
  | refill
  | govern
  /-- A tick comes at which a Tambour takes up committed values, or at which an encoder trigger falls (R81, R86). -/
  | tambours
  deriving DecidableEq, Repr

/-- An agenda entry: cycle offset in the Stitch, order within the cycle, flight, step. -/
structure Ev where
  at_  : Nat
  prio : Nat
  fl   : Nat
  act  : Act
  deriving DecidableEq, Repr

/-- An operation in flight (R62, R63). -/
structure Flight where
  id    : Nat
  part  : Nat
  op    : Nat
  word  : BitVec 128
  desc  : List Byte
  aux   : List Byte
  /-- Physical Bobbin, for a word with a Bobbin target. -/
  bob   : Option Nat
  /-- Slab step the word was expanded from: index in Part.steps. -/
  step  : Option Nat
  issue : Nat
  /-- ISSUE + DURATION from the actual issue cycle: LATE is recorded in the cycle after (R63). -/
  limit : Nat
  /-- Completion cycle; none when it cannot complete in its Stitch (R482). -/
  done  : Option Nat
  late  : Bool := false
  /-- Values gathered so far: exact values of a MAXABS or ROWSTAT word, query rows of an ATTN word (sign or kind, significand,
  exponent). -/
  vals  : List (Nat × Nat × Int) := []
  /-- Rows in progress of an ATTN word: m, l and O of each (R237), or the gradients of a BWD word (R253). -/
  rows  : List (List Word) := []
  deriving DecidableEq, Repr

/-- One issue of a slab (R71). -/
structure StepSt where
  op    : Nat
  slab  : Nat
  issue : Nat
  deriving DecidableEq, Repr

/-- A fault recorded against an operation: cycle, 1 ISSUE_MISS or 2 LATE, OPS index (R63). -/
structure FaultRec where
  cycle : Nat
  kind  : Nat
  op    : Nat
  deriving DecidableEq, Repr

/-- A job that an age names for a Stitch, with its output width and H, which outlive its PAGE_END (R218). -/
structure Aged where
  job    : Nat
  width  : Nat
  height : Nat
  deriving DecidableEq, Repr

/-- One partition (R46 to R66). -/
structure Part where
  /-- Image in the Pricking store: base and size in 256-byte granules, size 0 none (R59). -/
  base    : Nat := 0
  size    : Nat := 0
  /-- IMAGE_SIZE of the loaded image in bytes. -/
  bytes   : Nat := 0
  /-- SEQ_PARTn_STATUS (R66). -/
  detail  : Byte := 0
  check   : BitVec 4 := 0
  faultOp : Nat := 0
  /-- Governor densities F and S of each logical Bobbin, in beats per 4,096 (R501). -/
  dens    : List (Nat × Nat) := []
  /-- Rate granted for the Stitch (R503). -/
  grant   : Nat := 256
  /-- OPS words issued or judged in this Stitch, with the descriptor of an expanded word. -/
  issued  : List (Nat × Option Nat) := []
  /-- Slab steps of this Stitch. -/
  steps   : List StepSt := []
  /-- Faults recorded in this Stitch (R63). -/
  faults  : List FaultRec := []
  /-- Guards tripped in this Stitch with their counts (R174). -/
  trips   : List (Nat × Nat) := []
  /-- Zero-range granules of REPORT_ZR operations, and rows ended empty, in this Stitch (R175, R257). -/
  zr      : Nat := 0
  empty   : Nat := 0
  /-- Jobs numbered at the last boundary on each INPUTS binding: job identities by age (R218). -/
  ages    : List (List Aged) := []
  /-- Last owned DDR5 cycle taken in this Stitch (R482). -/
  ddrLast : Option Nat := none
  deriving DecidableEq, Repr

/-- Numeric statistics of one Bobbin or of the KV manager (R178, R304). -/
structure Stats where
  sat    : Nat := 0
  uflow  : Nat := 0
  nan    : Nat := 0
  zr     : Nat := 0
  accOvf : Nat := 0
  deriving DecidableEq, Repr

/-- What a weight bank was last loaded with (R184, R185). -/
structure Bank where
  fmt     : Nat := 0
  lines   : Nat := 0
  /-- First and last cycle of the claim in the running Stitch. -/
  claim   : Option (Nat × Nat) := none
  deriving DecidableEq, Repr

/-- One Bobbin outside its stores (R181, R204 to R211, R498, R499, R509 to R511). -/
structure Bob where
  accepting : Bool := true
  bankA     : Bank := {}
  bankB     : Bank := {}
  num       : Stats := {}
  replay    : Nat := 0
  trips     : BitVec 64 := 0
  /-- Guards tripped in the running Stitch. -/
  tripNow   : BitVec 64 := 0
  /-- Saturation counts of the 64 guards in this Stitch (R174). -/
  guards    : List (Nat × Nat) := []
  beats     : Nat := 0
  beatsHi   : Word := 0
  dummy     : Nat := 0
  words     : Nat := 0
  /-- Cycle (CCLK since lock) of the last real beat (R192). -/
  lastBeat  : Option Nat := none
  /-- Beat cycles that the ramp plans on, first and last of each span, as CCLK cycles since lock (R193). -/
  plan      : List (Nat × Nat) := []
  /-- Cycle up to which DUMMY is counted, and the real beats since then (R210). -/
  settled   : Nat := 0
  since     : Nat := 0
  bistBusy  : Bool := false
  result    : BitVec 2 := 0
  area      : BitVec 4 := 0
  loc       : Word := 0
  /-- A self-test pass that commits DISABLED, or the cause for which FAILED commits, at the boundary (R498, R499). -/
  passDue   : Bool := false
  failDue   : Option Nat := none
  /-- Uncorrectable errors in the current Stitch and in the Stitches before it, newest first (R498). -/
  ueNow     : Nat := 0
  uePast    : List Nat := []
  ueCnt     : Nat := 0
  ceCnt     : Nat := 0
  deriving DecidableEq, Repr

/-- The level of one timing-generator output (R83). -/
inductive Level where
  | hiz | low | high
  deriving DecidableEq, Repr

/-- Timing of the line in progress, latched at its trigger (R92). -/
structure LineCfg where
  t0     : Nat
  period : Nat
  start  : Nat
  stop   : Nat
  quiet  : Nat
  xavg   : Nat
  dark   : Bool
  deriving DecidableEq, Repr

/-- CAL_RESULT.STATE (R119). -/
inductive CalSt where
  | idle | running | pass | fail
  deriving DecidableEq, Repr

/-- Calibration of one Tambour (R103 to R106). -/
structure Cal where
  state   : CalSt := .idle
  cause   : BitVec 2 := 0
  bad     : Nat := 0
  first   : Nat := 0
  last    : Nat := 0
  /-- An accepted CALIBRATE awaits its start boundary. -/
  due     : Bool := false
  /-- The new bank becomes active at the next boundary (R106). -/
  swapDue : Bool := false
  /-- Index of the next calibration line. -/
  line    : Nat := 0
  /-- Sums of the widened samples over the black and the white window. -/
  black   : List Nat := []
  white   : List Nat := []
  /-- Effect edge of the start boundary, in ticks; whether line 0 may be taken: its trigger or frame start has followed that edge (R104). -/
  from_   : Nat := 0
  armed   : Bool := false
  /-- Triggers since the start, and lines of earlier triggers still to arrive. -/
  trig    : Nat := 0
  skip    : Nat := 0
  /-- CCLK cycle of the start boundary, and the one at which the last line of the windows is readable (R106). -/
  startAt : Nat := 0
  lastAt  : Nat := 0
  deriving DecidableEq, Repr

/-- One Tambour (R81 to R121). -/
structure Tamb where
  active   : BitVec 2 := 0
  /-- Whether the enabled state has taken effect on the outputs (R84). -/
  driving  : Bool := false
  line     : Option LineCfg := none
  lastTrig : Option Nat := none
  /-- Whether the Tambour is committed RUN, as its enable has reached it (R81). -/
  on       : Bool := false
  /-- Effect edge of the last boundary, in ticks, while it lies ahead (R81). -/
  edge     : Option Nat := none
  /-- Register words that the last commit has replaced, by address: in force until the effect edge (R81). -/
  held     : List (Nat × Word) := []
  /-- A committed COEF_SWAP awaits the effect edge (R102). -/
  swapping : Bool := false
  /-- Tick of an encoder trigger to come (R86). -/
  trigAt   : Option Nat := none
  /-- TGk_CFG, TGk_SET and TGk_CLR of each output, as latched when LINE mode took effect or at the last trigger since (R92). -/
  outs     : List (Nat × Nat × Nat) := []
  /-- CCLK cycles in which the active bank has changed (R99). -/
  flips    : List Nat := []
  /-- Effect edge, in ticks, of a committed mode change or disable that has not taken effect (R84). -/
  effAt    : Option Nat := none
  /-- First tick at which a timer trigger may fall (R85). -/
  trigFrom : Nat := 0
  stamps   : List (BitVec 64 × Nat) := []
  stampDue : Bool := false
  bank     : Bool := false
  trigMiss : Bool := false
  encErr   : Bool := false
  encTmo   : Bool := false
  stampFlt : Bool := false
  /-- CCLK cycles in which these four bits were last set (R11). -/
  missAt   : Option Nat := none
  errAt    : Option Nat := none
  tmoAt    : Option Nat := none
  fltAt    : Option Nat := none
  pos      : Int := 0
  /-- Level of ENC_A at the last edge (R86); 0 after power-on reset (DESIGN CHOICE, log entry 9). -/
  encA     : Bool := false
  /-- Level of ENC_B at the last edge (R86); 0 after power-on reset (DESIGN CHOICE, log entry 9). -/
  encB     : Bool := false
  /-- Ticks at which the inputs last took new levels (R86). -/
  tookA    : Option Nat := none
  tookB    : Option Nat := none
  /-- Tick of the last counted edge, first tick at which its timeout counts, and whether this gap has set the bit (R89). -/
  edgeAt   : Nat := 0
  gapFrom  : Nat := 0
  gapDone  : Bool := false
  remain   : Nat := 0
  /-- C is loaded with D again at the first trigger (R87). -/
  reload   : Bool := false
  nEncErr  : Nat := 0
  nTrigMis : Nat := 0
  nLost    : Nat := 0
  nMissing : Nat := 0
  nDisc    : Nat := 0
  pgStep   : Nat := 0
  pgPasses : Nat := 0
  pgDone   : Bool := false
  /-- First tick and length in ticks of the pattern step in progress (R94). -/
  pgAt     : Nat := 0
  pgLen    : Nat := 0
  /-- First tick and length F of the feed period in progress of each output (R93). -/
  feedAt   : Vector Nat 8 := Vector.replicate 8 0
  feedF    : Vector Nat 8 := Vector.replicate 8 0
  cal      : Cal := {}
  deriving DecidableEq, Repr

/-- A text string being gathered on a virtual channel (R141). -/
structure Gather where
  job  : Word
  kind : Nat
  next : Nat
  text : List Byte
  excess : Bool
  deriving DecidableEq, Repr

/-- One virtual channel of a receive port (R127 to R150). -/
structure Vc where
  /-- The open job, by identity. -/
  job      : Option Nat := none
  seqEnd   : Bool := false
  stale    : Nat := 0
  /-- Time-stamp of the frame start of the current frame (R96). -/
  frame    : Option (BitVec 64) := none
  /-- Widths in force for the frame (R101). -/
  xavg     : Nat := 0
  /-- Line-start number of the frame's first line and of the current line (R133). -/
  firstLn  : Option Nat := none
  curLn    : Option Nat := none
  /-- The last OVERLAP rows of the strip before, none for a missing row (R135). -/
  prior    : Option (List (Option (List Byte))) := none
  str      : Option Gather := none
  /-- Fragments of a discarded string are dropped until the next fragment 0 (R141). -/
  strBad   : Bool := false
  deriving DecidableEq, Repr

/-- Bulk load of one port (R142, R148). -/
structure Bulk where
  state  : BitVec 2 := 0
  cause  : BitVec 4 := 0
  id     : BitVec 16 := 0
  bytes  : Nat := 0
  target : Nat := 0
  next   : Nat := 0
  crc    : Word := 0xFFFFFFFF
  deriving DecidableEq, Repr

/-- One receive port (R122 to R150). -/
structure RxPort where
  eccFixed : Nat := 0
  hdrBad   : Nat := 0
  crcBad   : Nat := 0
  wcBad    : Nat := 0
  noJob    : Nat := 0
  inband   : Nat := 0
  bulk     : Bulk := {}
  vcs      : Vector Vc 16 := Vector.replicate 16 {}
  deriving DecidableEq, Repr

/-- Decoder of a coded job (R138, R139). -/
structure Coded where
  /-- Bits not yet decoded, most significant bit first. -/
  bits    : List Bool := []
  /-- Colour changes of the reference row; none when it is missing. -/
  ref     : Option (List Nat) := none
  row     : Nat := 0
  /-- Waiting for an EOL that is followed by a one-dimensionally coded row. -/
  resync  : Bool := false
  /-- Decoded rows of the band in progress, judged and written with it (R137). -/
  held    : List (Nat × List Nat) := []
  stopped : Bool := false
  started : Bool := false
  deriving DecidableEq, Repr

/-- A job held by a partition (R127 to R140). -/
structure Job where
  id       : Nat
  part     : Nat
  port     : Nat
  vc       : Nat
  seq      : Word
  kind     : Nat := 0
  k        : Nat := 0
  flags    : Nat := 0
  width    : Nat := 0
  height   : Nat := 0
  /-- Row size in bytes and bytes per pixel (R132). -/
  rowBytes : Nat := 0
  bpp      : Nat := 1
  /-- Page store granules (4 KiB) of its allocation, in order; none without space. -/
  pages    : List Nat := []
  bandRows : Nat := 16
  emb      : Bool := false
  embUsed  : Nat := 0
  /-- Next row of the row counter, rows stored and rows marked missing. -/
  next     : Nat := 0
  stored   : List Nat := []
  missing  : List Nat := []
  staleRow : List Nat := []
  linkLost : Bool := false
  opened   : BitVec 64 := 0
  /-- CCLK cycle of its opening; of a strip, the one in which its first line is readable (R130). -/
  openAt   : Nat := 0
  /-- MAX_W and MAX_H as they stood when the job opened (R139, R145). -/
  limits   : Nat × Nat := (0, 0)
  /-- MIN_ROWS_PCT and TIMEOUT_MS as they stood when the job opened (R145). -/
  minPct   : Nat := 0
  tmoMs    : Nat := 0
  /-- CCLK cycle of the last accepted packet of the job (R127). -/
  lastPkt  : Nat := 0
  /-- CCLK cycle from which each stored or stale row counts as readable (R15, R16, R134). -/
  rowAt    : List (Nat × Nat) := []
  /-- Rows copied from the strip before, and the line number of the first new line (R133, R135). -/
  lead     : Nat := 0
  lnBase   : Option Nat := none
  stamp0   : Option (BitVec 64) := none
  dimBad   : Bool := false
  coded    : Option Coded := none
  marks    : List (Nat × Word) := []
  isOpen   : Bool := true
  cancel   : Bool := false
  /-- Verdict of R140 once closed, and whether it has been published. -/
  verdict  : Option Bool := none
  /-- CCLK cycle of the close. -/
  closedAt : Nat := 0
  /-- Published bands (R17, R134). -/
  bands    : List Nat := []
  pubVer   : Bool := false
  /-- The job is read again under R76. -/
  reread   : Bool := false
  ecc      : Bool := false
  doneNamed : Bool := false
  sequences : Nat := 0
  ended    : Bool := false
  deriving DecidableEq, Repr

/-- A deferred JOB_SUBMIT (R432). -/
structure Submit where
  port  : Nat
  vc    : Nat
  begin_ : Bool
  body  : List Byte
  deriving DecidableEq, Repr

/-- A KV context that is not FREE (R265, R266). -/
structure Ctx where
  state    : Nat
  cls      : Nat
  part     : Nat
  cause    : Nat := 0
  job      : Word
  length   : Nat := 0
  startLen : Nat := 0
  nl       : Nat
  shape    : Nat
  formats  : Nat
  ecc      : Bool := false
  hold     : Bool := false
  stalled  : Bool := false
  ks       : Word
  vs       : Word
  parent   : Word
  readyAt  : Option (BitVec 64) := none
  place    : Nat := 0
  ringHead : Nat := 0
  ringCnt  : Nat := 0
  gen      : Nat := 0
  ring     : List Word := []
  /-- Page identifiers of each layer in slot order (R275). -/
  pages    : List (List Nat) := []
  /-- Positions appended to each layer since the last COMMIT (R292). -/
  tdone    : List Nat := []
  /-- Lines moved so far by the spill or resumption in progress, and frames taken for it (R285, R286). -/
  moved    : Nat := 0
  reserve  : List Nat := []
  /-- Spilled pages that the resumption in progress has copied, each with its frame: the model's own field (R286). -/
  copied   : List (Nat × Nat) := []
  deriving DecidableEq, Repr

/-- KV manager (R264 to R304). -/
structure Kvm where
  /-- Contexts that are not FREE, by number. -/
  ctx     : List (Nat × Ctx) := []
  /-- Owning partition of each frame and spill slot in use. -/
  frames  : List (Nat × Nat) := []
  spill   : List (Nat × Nat) := []
  stats   : Stats := {}
  preempt : Nat := 0
  resume  : Nat := 0
  refused : Nat := 0
  stall   : Nat := 0
  cow     : Nat := 0
  lenlim  : Nat := 0
  /-- Use of each partition as of the last boundary: lines, frames, spill slots (R300). -/
  use     : Vector (Nat × Nat × Nat) 8 := Vector.replicate 8 (0, 0, 0)
  free    : Nat := 65536
  deriving DecidableEq, Repr

/-- TXT_STATUS.STANDBY codes of a table buffer (R343). -/
inductive BufSt where
  | empty | loading | valid | draining
  deriving DecidableEq, Repr

/-- A field awaiting its TEXT piece (R333). -/
structure Field where
  label  : Nat
  offset : Nat
  len    : Nat
  flags  : Nat
  deriving DecidableEq, Repr

/-- Text state of an occupied slot (R315, R325 to R335, R339). -/
structure Slot where
  part    : Nat
  slab    : Nat
  idx     : Nat
  ctx     : Nat
  /-- Pinned buffer. -/
  buf     : Nat
  state   : Nat := 0
  gen     : BitVec 64 := 0
  held    : List Byte := []
  /-- Bytes released so far, bytes of the pending piece, and bytes of the segment in progress with its offset. -/
  text    : Nat := 0
  piece   : List Byte := []
  seg     : List Byte := []
  segAt   : Nat := 0
  fields  : List Field := []
  forced  : Bool := false
  /-- The DECIDE descriptor that covers the slot, from its first decision on (R339). -/
  desc    : List Byte := []
  /-- The sequence ended during the Stitch. -/
  ended   : Bool := false
  /-- KV_FORMAT_WIDER was met in the step, or MAX_TOKENS reached: the end at the end of the step (R245, R288). -/
  endDue  : Nat := 0
  /-- The slot runs empty in this Stitch (R281). -/
  stalled : Bool := false
  deriving DecidableEq, Repr

/-- A string waiting for the tokenizer (R317 to R319). -/
structure Str where
  port  : Nat
  vc    : Nat
  job   : Word
  kind  : Nat
  text  : List Byte
  trunc : Bool
  /-- Tokens and SET_ID as the set gave them that was active when tokenization started; none while the string waits (R315). -/
  toks  : Option (List Nat × Word) := none
  deriving DecidableEq, Repr

/-- An input-queue entry (R320). -/
structure InEntry where
  port   : Nat
  vc     : Nat
  job    : Word
  kind   : Nat
  setId  : Word
  trunc  : Bool
  kept   : Nat
  cut    : Nat
  tokens : List Nat
  /-- Partition it was published to, none before its boundary. -/
  part   : Option Nat
  /-- CCLK cycle in which its tokenization ended. -/
  doneAt : Nat := 0
  deriving DecidableEq, Repr

/-- Text unit (R305 to R347). -/
structure Txt where
  buf0    : BufSt := .empty
  buf1    : BufSt := .empty
  set0    : Word := 0
  set1    : Word := 0
  active  : Bool := false
  swap    : Bool := false
  detail  : Byte := 0
  slots   : List Slot := []
  strs    : List Str := []
  queue   : List InEntry := []
  tokens  : Nat := 0
  forced  : Nat := 0
  blocked : Nat := 0
  fend    : Nat := 0
  dead    : Nat := 0
  stop    : Nat := 0
  trunc   : Nat := 0
  nan     : Nat := 0
  dropped : Nat := 0
  /-- The text unit has worked in its working storage since that was last zero, and the words of it that the host has written
  since the unit last ran (R36, R37). -/
  worked  : Bool := false
  wrote   : List Nat := []
  deriving DecidableEq, Repr

/-- A record waiting in the output buffer, with the crop lines that follow it (R352, R361). -/
structure Rec where
  bytes : List Byte
  lines : List (List Byte) := []
  /-- CCLK cycle from which the 70 cycles of Record out run: its hand-over, or its release where that is later (R15, R16). -/
  at_   : Nat := 0
  /-- It waited when its job was released (R368). -/
  early : Bool := false
  /-- Where the record lies in the output buffer: a free value (log entry 13). -/
  addr  : Nat := 0
  deriving DecidableEq, Repr

/-- A job on one binding of its partition (R368 to R375). -/
structure OutJob where
  job      : Nat
  part     : Nat
  out      : Nat
  port     : Nat
  vc       : Nat
  admitted : Option Bool := none
  released : Bool := false
  ended    : Bool := false
  /-- Events raised before release and records handed over before release, in order. -/
  evs      : List Rec := []
  recs     : List Rec := []
  count    : Nat := 0
  crops    : Nat := 0
  lost     : Nat := 0
  lostB    : Nat := 0
  firstLost : Option Nat := none
  /-- The frame start, and the PAGE_BEGIN, of the open frame have been sent. -/
  started  : Bool := false
  frame    : Bool := false
  reread   : Bool := false
  deriving DecidableEq, Repr

/-- A packet on the transmit lanes (R350). -/
inductive Packet where
  | frameStart (vc n : Nat)
  | frameEnd (vc n : Nat)
  | record (vc : Nat) (bytes : List Byte)
  | cropLine (vc : Nat) (bytes : List Byte)
  deriving DecidableEq, Repr

/-- A queued element of a virtual channel. -/
inductive OutItem where
  | frameStart (n : Nat)
  | frameEnd (n : Nat)
  | item (r : Rec)
  deriving DecidableEq, Repr

/-- One virtual channel of a transmit port: what may be sent, in order (R368, R370). -/
structure TxVc where
  /-- Records tied to no job that wait, ahead of unsent job records. -/
  free    : List Rec := []
  /-- Released job records and frame packets, in order. -/
  q       : List OutItem := []
  /-- A STREAM_HEADER is still to be written before the next record, and the one written but not sent (R355). -/
  header  : Bool := true
  stream  : Option Rec := none
  /-- Jobs dropped whole since the last GAP: count of records, bytes, first and last job (R375). -/
  drop    : Option (Nat × Nat × Word × Word) := none
  deriving DecidableEq, Repr

/-- One transmit port (R348 to R351, R372 to R378, R386, R387). -/
structure TxPort where
  held    : Bool := false
  hs      : Bool := false
  tmo     : Bool := false
  /-- CCLK cycle in which HOLD_TIMEOUT was last set (R11). -/
  tmoAt   : Option Nat := none
  /-- CCLK cycle in which the present hold came into force (R377). -/
  heldAt  : Nat := 0
  /-- The timeout of the present hold has been judged (R377). -/
  tmoDone : Bool := false
  sent    : Nat := 0
  lost    : Nat := 0
  tmos    : Nat := 0
  holds   : Nat := 0
  used    : Nat := 0
  last    : Nat := 15
  vcs     : Vector TxVc 16 := Vector.replicate 16 {}
  /-- Packets the port sent in its last RECORD_SEND (the model's output). -/
  wire    : List Packet := []
  /-- Of each of them: the CCLK cycle by which its last byte is sent, and the quota that returns then (R351, R373). -/
  leaving : List (Nat × Nat) := []
  /-- CCLK cycle from which the next packet may start in HS, or from which the lanes are in LP-11 out of it (R351). -/
  laneAt  : Nat := 0
  /-- CCLK cycle up to which a port that has been taken out of HS ends its packet (R376). -/
  hsEnd   : Nat := 0
  /-- Crop lines of a CROP_REF that a hold has cut off, with their virtual channel (R376). -/
  rest    : Option (Nat × List (List Byte)) := none
  deriving DecidableEq, Repr

/-- Output unit (R348 to R388). -/
structure Out where
  jobs : List OutJob := []
  tx   : Vector TxPort 2 := Vector.replicate 2 {}
  bad  : Nat := 0
  /-- Snapshots and events that wait for the OUT_SNAP port to run (R383). -/
  snap : List Rec := []
  /-- Records written into the buffer so far: the model's own counter, for the free value of log entry 13. -/
  placed : Nat := 0
  /-- The output unit has worked in its store since that store was last zero, and the words of it that the host has written
  since the unit last ran (R36, R37). -/
  worked : Bool := false
  wrote  : List Nat := []
  deriving DecidableEq, Repr

/-- ADAPT_STATUS.RUN_STATE (R412). -/
inductive RunSt where
  | idle | active | done
  deriving DecidableEq, Repr

/-- A staged or published batch (R395, R397, R398). -/
structure Batch where
  step  : Nat
  count : Nat
  spos  : Nat
  last  : Bool
  apply : Bool
  p1    : Word
  p2    : Word
  deriving DecidableEq, Repr

/-- Adaptation control (R389 to R413). -/
structure Adapt where
  run     : RunSt := .idle
  /-- 0 none, 1 checkpoint, 2 restore (R412). -/
  copy    : BitVec 2 := 0
  fail    : Bool := false
  clean   : Bool := false
  ready   : Bool := false
  half    : Bool := false
  /-- ADAPT_RUN actions that take effect at the next boundary, in order (R391). -/
  pend    : List Nat := []
  seed    : BitVec 64 := 0
  first   : Word := 0
  epochs  : Nat := 0
  /-- Epochs completed, and epochs whose batches are all staged. -/
  done    : Nat := 0
  sIdx    : Nat := 0
  /-- Epochs that ended in corrupt samples only and whose end awaits the boundary (R395). -/
  tail    : Nat := 0
  epoch   : Word := 0
  pos     : Nat := 0
  spos    : Nat := 0
  step    : Word := 0
  batch   : Nat := 0
  p1      : Word := 0x3F800000
  p2      : Word := 0x3F800000
  perm    : List Nat := []
  staged  : Option Batch := none
  shown   : Option Batch := none
  filling : Bool := false
  /-- CCLK cycles from which batches are staged, and a copy runs: offset 64 of a boundary (R391, R398, R403). -/
  stageAt : Nat := 0
  copyAt  : Nat := 0
  /-- The partition committed RUN during a restore (R404). -/
  broken  : Bool := false
  skipped : Nat := 0
  empty   : Nat := 0
  rUsed   : Nat := 0
  rSkip   : Nat := 0
  rList   : List Nat := []
  rLoss   : Word := 0
  rLossN  : Nat := 0
  rFlags  : Nat := 0
  rEcc    : Bool := false
  deriving DecidableEq, Repr

/-- DDR_STATUS.STATE (R488). -/
inductive DdrSt where
  | off | training | ready | selfRefresh | failed
  deriving DecidableEq, Repr

/-- Memory controller (R468 to R491). -/
structure Ddr where
  state    : DdrSt := .off
  failStep : BitVec 4 := 0
  failSub  : BitVec 3 := 0
  micros   : Word := 0
  /-- CCLK cycle of the commit that enabled the controller (R488). -/
  enabledAt : Nat := 0
  /-- Ranges that step 7 has zeroed or that have been written since: first byte and length (R472). -/
  known    : List (Nat × Nat) := []
  /-- Indices of the free values that stand for the bytes outside them: in the training area, and elsewhere (log entry 12). -/
  trainTok : Nat := 0
  lostTok  : Nat := 0
  /-- DDR_CFG committed when the controller was last READY, while self-refresh keeps the contents (R474). -/
  kept     : Option Word := none
  /-- Course of the training in progress: 0 step 6 only, 1 steps 2 to 6, 2 full. -/
  course   : Nat := 2
  /-- Self-refresh entered by the thermal trip or by IDLE (R451, R506). -/
  tripSr   : Bool := false
  idleSr   : Bool := false
  /-- CCLK cycle of the last access (R477). -/
  lastAt   : Nat := 0
  scrubPos : Word := 0
  ce       : Nat := 0
  ue       : Nat := 0
  range    : Nat := 0
  hot      : Bool := false
  /-- CCLK cycle at which MR4 is read next (R477). -/
  hotDue   : Nat := 0
  deriving DecidableEq, Repr

/-- An error-log entry (R494). -/
structure LogEntry where
  seq    : Nat
  code   : Nat
  unit   : Nat := 255
  part   : Nat := 255
  time   : BitVec 64
  job    : Word := 0xFFFFFFFF
  ctx    : Word := 0xFFFFFFFF
  detail : List Nat := []
  flags  : Nat := 0
  /-- CCLK cycle in which it was raised (R494). -/
  at_    : Nat := 0
  deriving DecidableEq, Repr

/-- One temperature sensor (R505): latest sample, highest of the last Stitch, highest so far in this Stitch. -/
structure Sensor where
  now  : BitVec 16 := 0
  max_ : BitVec 16 := 0
  cur  : Option (BitVec 16) := none
  hot  : Bool := false
  deriving DecidableEq, Repr

/-- Health (R492 to R516). -/
structure Health where
  log      : List LogEntry := []
  seq      : Nat := 0
  lost     : Nat := 0
  sensors  : Vector Sensor 12 := Vector.replicate 12 {}
  /-- CCLK cycle at which the sensors are sampled next (R505). -/
  sampleDue : Nat := 0
  trip     : Bool := false
  /-- The trip acts at the next boundary (R506). -/
  tripDue  : Bool := false
  tripSens : BitVec 4 := 0
  tripTemp : BitVec 16 := 0
  demand   : Bool := false
  demandN  : Nat := 0
  rateMin  : Nat := 256
  iEst     : Nat := 0
  secc     : Vector (Nat × Nat) 6 := Vector.replicate 6 (0, 0)
  /-- Corrections of this Stitch: store code, Bobbin or 255, first address, count (R497). -/
  fixes    : List (Nat × Nat × Nat × Nat) := []
  /-- CMD_STATUS_SUMMARY W1C bits; and, in `summary`, its read-only bits but for PENDING as of the last boundary (R444). -/
  eccUe    : Bool := false
  govDem   : Bool := false
  /-- CCLK cycles in which these two bits were last set (R11). -/
  ueAt     : Option Nat := none
  demAt    : Option Nat := none
  summary  : Word := 0
  deriving DecidableEq, Repr

/-- JTAG (R535, R536). -/
structure Jtag where
  ir     : Byte := 2
  flash  : Bool := false
  csN    : Bool := true
  busy   : Bool := false
  next   : Option (BitVec 10) := none
  /-- The captured byte (R536); before any transfer 0 (DESIGN CHOICE, log entry 9). -/
  byte   : Byte := 0
  /-- Whether the last transfer has ended (R536); before any transfer 1 (DESIGN CHOICE, log entry 9). -/
  ended  : Bool := true
  /-- The data register as the last Capture-DR loaded it (R535, R536); before one 0 (DESIGN CHOICE, log entry 9). -/
  dr     : Word := 0
  /-- The update stage of the boundary-scan register, as far as the command carries it (R535); before an Update-DR 0 (DESIGN CHOICE,
  log entry 9). -/
  bsr    : BitVec 10 := 0
  spi    : List Byte := []
  deriving DecidableEq, Repr

/-- Everything but the queue and the committed unit state table. -/
structure Dev where
  clk     : Clk := {}
  pwr     : Pwr := {}
  i3c     : I3c := {}
  fw      : Fw := {}
  xfer    : Option Xfer := none
  /-- A transfer was abandoned because the memory controller left READY; its next fragment is refused (R435). -/
  xferLost : Bool := false
  /-- Pending unit state requests (R50), by unit number. -/
  req     : Vector (Option UnitSt) 32 := Vector.replicate 32 none
  /-- Committed values of stored register fields that differ from reset, by address. -/
  regs    : List (Nat × Word) := []
  /-- Shadow values that await the boundary (R12), by address. -/
  shadow  : List (Nat × Word) := []
  /-- Every store, DDR5 included, in one canonical list (Machine/Ops.lean lays it out). -/
  mem     : List Host.Cell := []
  /-- Words that hold bits in error: word number and flipped bits (R496). -/
  ecc     : List (Nat × BitVec 72) := []
  parts   : Vector Part 8 := Vector.replicate 8 {}
  flights : List Flight := []
  agenda  : List Ev := []
  nextId  : Nat := 0
  bobs    : Vector Bob 8 := Vector.replicate 8 {}
  tambs   : Vector Tamb 4 := Vector.replicate 4 {}
  rx      : Vector RxPort 4 := Vector.replicate 4 {}
  /-- Jobs held, in submission order (R130). -/
  jobs    : List Job := []
  nextJob : Nat := 0
  /-- Jobs whose last PAGE_END was emitted in the cycle noted with them: their rows read on in that cycle (R218). -/
  gone    : List (Nat × Job) := []
  /-- Bytes in the bulk path, in elevenths, and the cycle they were counted (R143). -/
  bulkLevel : Nat := 0
  bulkAt    : Nat := 0
  submits : List Submit := []
  cancels : List (Nat × Word) := []
  kvm     : Kvm := {}
  txt     : Txt := {}
  out     : Out := {}
  adapt   : Adapt := {}
  ddr     : Ddr := {}
  health  : Health := {}
  jtag    : Jtag := {}
  /-- Fresh index for free values: the model's own field, 0 at reset (DESIGN CHOICE, log entry 10). -/
  free    : Nat := 0
  deriving DecidableEq, Repr

/-- The whole machine. -/
structure State where
  /-- Commands that wait, first in, first out (the model's own field). -/
  pending   : List Instr
  /-- The committed unit state table (R50, R51), by unit number. -/
  committed : Vector UnitSt 32
  dev       : Dev
  deriving DecidableEq, Repr

/-- The RESET entry of a power-on reset, the first of the cleared log (R450, R494, R495). -/
def resetEntry : LogEntry := { seq := 0, code := 0x0101, time := 0, detail := [0, 0] }

/-- The machine with power-on reset in force (R447, R449, R461): every unit DISABLED, nothing pending, every
register at its reset value, the error log with its RESET entry. -/
def State.reset : State :=
  { pending := [], committed := Vector.replicate 32 .disabled, dev := { health := { log := [resetEntry], seq := 1 } } }

end Sys2Proof.Machine
end

