-- ==== Sys2Proof/Machine/Ops.lean ====
section
/-!
DEFINITION. Named operations over the stores, the committed table, the clock and the error log: the layout of
memory (R20, R34, R195), ECC (R496, R497, R498, R539), CRC-32C, and the log (R494, R495).
-/
namespace Sys2Proof.Machine

abbrev Units := Vector UnitSt 32

/-- Code of a unit state (R48). -/
def UnitSt.code : UnitSt → Nat
  | .disabled => 0 | .idle => 1 | .run => 2 | .halted => 3 | .faulted => 4 | .failed => 5 | .offline => 6

/-- Committed state of unit u (R50); the SEQ entry is derived (R51). -/
def ust (tab : Units) (u : Nat) : UnitSt :=
  if u == 31 then
    if (List.range 8).any (fun p => let x := (tab[p]?).getD .disabled; x == .run || x == .faulted) then .run else .disabled
  else (tab[u]?).getD .disabled

/-- Unit u is committed RUN. -/
def running (c : Units) (u : Nat) : Bool := ust c u == .run

/-- Partition p counts as enabled: RUN or FAULTED (R52). -/
def partOn (c : Units) (p : Nat) : Bool := ust c p == .run || ust c p == .faulted

/-- A meaning that cannot change the committed unit state table (R49, R77). -/
def onDev (f : Units → Dev → Dev) (s : State) : Host.Outcome State Fault Refusal :=
  .next { s with dev := f s.committed s.dev }

/-! ### Memory -/

/-- Where a store begins in the one list of cells: page store 1, KV store 2, text store 3, output buffer 4,
Pricking store 5, remainder 6, DDR5 7, local store of Bobbin n 8 + n (R34), weight banks 16 + n, accumulators
24 + n (R181), command processor memory 32, pattern RAM 40 + t (R94). -/
def key (store a : Nat) : Nat := store * 2 ^ 44 + a

/-- Size of a store in bytes (R20, R34, R94, R181). -/
def storeSize (store : Nat) : Nat :=
  if store == 1 then 134217728 else if store == 2 then 67108864 else if store == 3 then 16777216
  else if store == 4 then 8388608 else if store == 5 then 4194304 else if store == 6 then 4194304
  else if store == 7 then 137438953472
  else if 8 ≤ store && store < 16 then 20971520
  else if 16 ≤ store && store < 24 then 128 * 2 * 4608
  else if 24 ≤ store && store < 32 then 128 * 512 * 4
  else if store == 32 then 2097152 else if 40 ≤ store && store < 44 then 8192 else 0

/-- Bytes of the Tambour coefficient banks in the remainder store (R102). -/
def coefBytes : Nat := 4 * 2 * 24576 * 4

/-- What an unlisted address reads as: zero, but for the gain bytes of the coefficient banks, G = 0x2000 (R102, R449). -/
def Memory.unlisted (k : Nat) : Byte :=
  if 6 * 2 ^ 44 ≤ k && k < 6 * 2 ^ 44 + coefBytes && k % 4 == 3 then 0x20 else 0

/-- Read one byte. -/
def Memory.get (m : List Host.Cell) (a : Nat) : Byte :=
  match m.find? (fun c => c.1 == a) with
  | some c => c.2
  | none => Memory.unlisted a

/-- The cells of consecutive bytes, those that need no listing left out. -/
def Memory.cells : Nat → List Byte → List Host.Cell
  | _, [] => []
  | a, b :: bs => if b = Memory.unlisted a then Memory.cells (a + 1) bs else (a, b) :: Memory.cells (a + 1) bs

/-- Write consecutive bytes, keeping the canonical form. -/
def Memory.setAll (m : List Host.Cell) (a : Nat) (bs : List Byte) : List Host.Cell :=
  m.filter (fun c => decide (c.1 < a)) ++ Memory.cells a bs ++ m.filter (fun c => decide (a + bs.length ≤ c.1))

/-- The canonical form: addresses strictly rising from `lo`, no entry equal to what it reads as unlisted. -/
def Memory.wfFrom : Nat → List Host.Cell → Bool
  | _, [] => true
  | lo, (k, v) :: t => decide (lo ≤ k) && (v != Memory.unlisted k) && Memory.wfFrom (k + 1) t

/-- The canonical form of a memory. -/
def Memory.wf (m : List Host.Cell) : Bool := Memory.wfFrom 0 m

/-- Read n consecutive bytes; the list before the address is passed over once. -/
def Memory.getN (m : List Host.Cell) (a : Nat) : Nat → List Byte
  | 0 => []
  | n + 1 =>
    match m.dropWhile (fun c => decide (c.1 < a)) with
    | [] => Memory.unlisted a :: Memory.getN [] (a + 1) n
    | (k, v) :: t => (if k == a then v else Memory.unlisted a) :: Memory.getN ((k, v) :: t) (a + 1) n

/-- Keep only the cells whose key satisfies a test (reset of some stores). -/
def Memory.keep (m : List Host.Cell) (p : Nat → Bool) : List Host.Cell := m.filter (fun c => p c.1)

/-- Erase a range of keys back to what it reads as unlisted. -/
def Memory.erase (m : List Host.Cell) (a n : Nat) : List Host.Cell := Memory.keep m (fun k => k < a || a + n ≤ k)

/-! ### ECC -/

/-- Number of flipped bits. -/
def flipCount (f : BitVec 72) : Nat := (List.range 72).foldl (fun n i => n + b2n (f.getLsbD i)) 0

/-- What the code does with an error pattern (R496): the bits delivered wrong, and 0 no report, 1 corrected,
2 uncorrectable. -/
def eccJudge (f : BitVec 72) : BitVec 72 × Nat :=
  match flipCount f with
  | 0 => (0, 0)
  | 1 => (0, 1)
  | 2 => (f, 2)
  | _ => match Config.eccOutcome f with
    | none => (f, 0)
    | some b => if b < 72 then (f ^^^ (1 <<< b), 1) else (f, 2)

/-- Error pattern of the word that holds a key. -/
def flipsAt (d : Dev) (k : Nat) : BitVec 72 := ((d.ecc.find? (fun e => e.1 == k / 8)).map (·.2)).getD 0

/-- One byte as a read delivers it (R496). -/
def peek1 (d : Dev) (k : Nat) : Byte :=
  let v := Memory.get d.mem k
  if d.ecc.isEmpty then v
  else v ^^^ BitVec.ofNat 8 ((eccJudge (flipsAt d k)).1.toNat / 2 ^ (8 * (k % 8)))

/-- n bytes as a read delivers them. -/
def peek (d : Dev) (k n : Nat) : List Byte :=
  if d.ecc.isEmpty then Memory.getN d.mem k n else (List.range n).map (fun i => peek1 d (k + i))

/-- A little-endian number as a read delivers it (R5). -/
def peekNat (d : Dev) (k n : Nat) : Nat := leNat (peek d k n)

/-- Words in error within a range of keys. -/
def eccIn (d : Dev) (k n : Nat) : List (Nat × BitVec 72) :=
  if n = 0 then [] else d.ecc.filter (fun e => k / 8 ≤ e.1 && e.1 ≤ (k + n - 1) / 8)

/-- A read of the range meets an uncorrectable error. -/
def eccBad (d : Dev) (k n : Nat) : Bool := (eccIn d k n).any (fun e => (eccJudge e.2).2 == 2)

/-! ### CRC-32C -/

/-- One bit of CRC-32C, reflected, polynomial 0x82F6_3B78. -/
def crcBit (c : Word) : Word := if c.getLsbD 0 then (c >>> 1) ^^^ 0x82F63B78 else c >>> 1

/-- One byte of CRC-32C. -/
def crcByte (c : Word) (b : Byte) : Word :=
  let x := c ^^^ b.zeroExtend 32
  crcBit (crcBit (crcBit (crcBit (crcBit (crcBit (crcBit (crcBit x)))))))

/-- CRC-32C of a byte string, continued from a raw register value. -/
def crcFrom (c : Word) (bs : List Byte) : Word := bs.foldl crcByte c

/-- CRC-32C of a byte string. -/
def crc32c (bs : List Byte) : Word := ~~~ crcFrom 0xFFFFFFFF bs

/-- CRC-32C of an image with its bytes 12 to 15 taken as zero (R53, R306, R458). -/
def crcImage (bs : List Byte) : Word := crc32c (bs.take 12 ++ [0, 0, 0, 0] ++ bs.drop 16)

/-! ### Bytes of descriptors and payloads -/

/-- Little-endian field of n bytes at offset o; bytes beyond the end read zero. -/
def fld (bs : List Byte) (o n : Nat) : Nat := leNat ((bs.drop o).take n)

/-- All bytes of a range are zero. -/
def zeroAt (bs : List Byte) (o n : Nat) : Bool := ((bs.drop o).take n).all (· == 0)

/-! ### Vectors of units -/

/-- Update element i of a vector by a function; out of range nothing changes. -/
def vmod {α : Type} {n : Nat} (v : Vector α n) (i : Nat) (f : α → α) : Vector α n :=
  match v[i]? with
  | some x => v.setIfInBounds i (f x)
  | none => v

def partOf (d : Dev) (p : Nat) : Part := (d.parts[p]?).getD {}
def bobOf (d : Dev) (n : Nat) : Bob := (d.bobs[n]?).getD {}
def tambOf (d : Dev) (t : Nat) : Tamb := (d.tambs[t]?).getD {}
def rxOf (d : Dev) (x : Nat) : RxPort := (d.rx[x]?).getD {}
def vcOf (d : Dev) (x v : Nat) : Vc := ((rxOf d x).vcs[v]?).getD {}
def txOf (d : Dev) (x : Nat) : TxPort := (d.out.tx[x]?).getD {}
def reqOf (d : Dev) (u : Nat) : Option UnitSt := (d.req[u]?).getD none

def setPart (d : Dev) (p : Nat) (f : Part → Part) : Dev := { d with parts := vmod d.parts p f }
def setBob (d : Dev) (n : Nat) (f : Bob → Bob) : Dev := { d with bobs := vmod d.bobs n f }
def setTamb (d : Dev) (t : Nat) (f : Tamb → Tamb) : Dev := { d with tambs := vmod d.tambs t f }
def setRx (d : Dev) (x : Nat) (f : RxPort → RxPort) : Dev := { d with rx := vmod d.rx x f }
def setVc (d : Dev) (x v : Nat) (f : Vc → Vc) : Dev := setRx d x (fun r => { r with vcs := vmod r.vcs v f })
def setTx (d : Dev) (x : Nat) (f : TxPort → TxPort) : Dev := { d with out := { d.out with tx := vmod d.out.tx x f } }
def setReq (d : Dev) (u : Nat) (r : Option UnitSt) : Dev := { d with req := d.req.setIfInBounds u r }
def setTxVc (d : Dev) (x v : Nat) (f : TxVc → TxVc) : Dev := setTx d x (fun t => { t with vcs := vmod t.vcs v f })

/-! ### Counters that a clear register names; the state holds the count, the register shows it saturated (R7; R121, R147, R180, R211, R303, R347, R388, R413, R446, R491, R512) -/

def tambCounts (m : Tamb) : List Nat := [m.nEncErr, m.nTrigMis, m.nLost, m.nMissing, m.nDisc]
def rxCounts (x : RxPort) : List Nat := [x.eccFixed, x.hdrBad, x.crcBad, x.wcBad, x.noJob, x.inband]
def numCounts (b : Bob) : List Nat := [b.num.sat, b.num.uflow, b.num.nan, b.num.zr, b.num.accOvf, b.replay]
def perfCounts (b : Bob) : List Nat := [b.beats, b.dummy, b.words]
def healthCounts (b : Bob) : List Nat := [b.ueCnt, b.ceCnt]
def kvmCounts (k : Kvm) : List Nat :=
  [k.preempt, k.resume, k.refused, k.stall, k.cow, k.lenlim, k.stats.sat, k.stats.uflow, k.stats.nan, k.stats.zr, k.stats.accOvf]
def txtCounts (t : Txt) : List Nat := [t.tokens, t.forced, t.blocked, t.fend, t.dead, t.stop, t.trunc, t.nan, t.dropped]
def txCounts (t : TxPort) : List Nat := [t.sent, t.lost, t.tmos, t.holds]
def outCounts (o : Out) : List Nat := o.bad :: o.tx.toList.flatMap txCounts
def adaptCounts (a : Adapt) : List Nat := [a.skipped, a.empty]
def cmdCounts (i : I3c) : List Nat := [i.parity, i.crcBad, i.refused]
def ddrCounts (r : Ddr) : List Nat := [r.ce, r.ue, r.range]
def seccCounts (h : Health) : List Nat := h.secc.toList.flatMap (fun x => [x.1, x.2])

/-- All of them, in the order of the positions below. -/
def allCounts (d : Dev) : List Nat :=
  d.tambs.toList.flatMap tambCounts ++ d.rx.toList.flatMap rxCounts
    ++ d.bobs.toList.flatMap (fun b => numCounts b ++ perfCounts b ++ healthCounts b)
    ++ kvmCounts d.kvm ++ txtCounts d.txt ++ outCounts d.out ++ adaptCounts d.adapt ++ cmdCounts d.i3c ++ ddrCounts d.ddr
    ++ seccCounts d.health

/-- Positions in `allCounts`. -/
def atTamb (t : Nat) : Nat := 5 * t
def atRx (x : Nat) : Nat := 20 + 6 * x
def atNum (n : Nat) : Nat := 44 + 11 * n
def atPerf (n : Nat) : Nat := 50 + 11 * n
def atHealth (n : Nat) : Nat := 53 + 11 * n
def atKvm : Nat := 132
def atTxt : Nat := 143
def atOut : Nat := 152
def atAdapt : Nat := 161
def atCmd : Nat := 163
def atDdr : Nat := 166
def atSecc : Nat := 169

/-- What a counter at a position holds after a clear: 1 if events were counted in the cycle of the clear, else 0 (R180, R211,
R303, R347, R388, R413, R446, R491, R512). For the counters of a Tambour and of a receive port, of which R121 and R147 do not
say this, it is the model's choice (DESIGN CHOICE, log entry 99). -/
def countNow (d : Dev) (at_ v : Nat) : Nat := min 1 (v - (d.clk.was[at_]?).getD 0)

/-- A clear of n counters from a position: counts of the present cycle are all that they hold. -/
def forgetCounts (d : Dev) (at_ n : Nat) : Dev :=
  { d with clk := { d.clk with was := d.clk.was.mapIdx (fun i v => if at_ ≤ i && i < at_ + n then 0 else v) } }

/-- A reset of counters within a cycle: those that it has taken back have counted nothing before it. -/
def lowerCounts (d : Dev) : Dev := { d with clk := { d.clk with was := d.clk.was.zipWith Nat.min (allCounts d) } }

/-- A W1C bit after a write: cleared by a 1, unless an event set it in this very cycle (R11). -/
def w1c (d : Dev) (bit : Bool) (setAt : Option Nat) (one : Bool) : Bool := bit && (!one || setAt == some d.clk.mono)

/-- Whether the partition holds an image (R59). -/
def hasImage (d : Dev) (p : Nat) : Bool := 0 < (partOf d p).size

/-! ### The error log -/

/-- Entries of one cycle stand by lower unit number, then by lower code, and those alike in the order raised (R494). -/
def LogEntry.stands (a b : LogEntry) : Bool := a.at_ < b.at_ || (a.at_ == b.at_ && (a.unit < b.unit || (a.unit == b.unit && a.code ≤ b.code)))

/-- An entry takes its place in the log: behind the entries of earlier cycles, and within its cycle in the order of R494; the entries
behind it move on by one number. -/
def insertLog (log : List LogEntry) (e : LogEntry) : List LogEntry :=
  let keep := (log.reverse.dropWhile (fun x => x.at_ == e.at_ && !x.stands e)).reverse
  let after := log.drop keep.length
  match after.head? with
  | none => log ++ [e]
  | some x => keep ++ [{ e with seq := x.seq }] ++ after.map (fun y => { y with seq := y.seq + 1 })

/-- Store an error-log entry (R494); a full log counts what it cannot hold instead (R495). -/
def logAt (d : Dev) (code unit part : Nat) (job ctx : Word) (detail : List Nat) (flags : Nat) : Dev :=
  let h := d.health
  if 1024 ≤ h.log.length then { d with health := { h with lost := satAdd 32 h.lost 1 } }
  else if 0xFFFFFFFF ≤ h.seq then d
  else
    let e : LogEntry := { seq := h.seq, code, unit, part, time := d.clk.time, job, ctx, detail, flags, at_ := d.clk.mono }
    { d with health := { h with log := insertLog h.log e, seq := h.seq + 1 } }

/-- A log-only entry of R495 tied to nothing. -/
def logOnly (d : Dev) (code unit part : Nat) (detail : List Nat) : Dev :=
  logAt d code unit part 0xFFFFFFFF 0xFFFFFFFF detail 0

/-- RESET entry (R450, R495): kind, and the unit for a unit reset. -/
def logReset (d : Dev) (kind unit : Nat) : Dev := logOnly d 0x0101 (if kind == 4 then unit else 255) 255 [kind, unit]

/-- The 64 bytes of an entry (R494). -/
def LogEntry.bytes (e : LogEntry) : List Byte :=
  leBytes 4 e.seq ++ leBytes 2 e.code ++ leBytes 1 e.unit ++ leBytes 1 e.part ++ leBytes 8 e.time.toNat
    ++ leBytes 4 e.job.toNat ++ leBytes 4 e.ctx.toNat
    ++ (List.range 9).flatMap (fun i => leBytes 4 (e.detail.getD i 0)) ++ leBytes 1 e.flags ++ [0, 0, 0]

/-! ### Power -/

/-- The chip is out of reset and its core is clocked: events reach the units. -/
def alive (d : Dev) : Bool := d.pwr.powered && !d.pwr.resetLow && d.pwr.booted && d.pwr.state != .sleep

/-- Units that do Pricking work and the ports are clocked (R451). -/
def clocked (d : Dev) : Bool := alive d && d.pwr.state == .run && !d.pwr.recovery

end Sys2Proof.Machine
end

