-- ==== Sys2Proof/Machine/Regs.lean ====
section
/-!
DEFINITION. The register space (R27): every register with its address, its fields, their access codes and reset
values, written from the register tables of the chapters; the stored fields' committed and shadow values (R12, R14).
-/
namespace Sys2Proof.Machine

/-- Access codes of R10. -/
inductive Acc where
  | rw | ro | w1c | wo | rws | rwl
  deriving DecidableEq, Repr

/-- One field of a register: bits [hi:lo], access and reset value (R9). -/
structure FieldDef where
  hi  : Nat
  lo  : Nat
  acc : Acc
  rst : Nat
  deriving DecidableEq, Repr

/-- A field definition. -/
def fd (hi lo : Nat) (acc : Acc) (rst : Nat) : FieldDef := ⟨hi, lo, acc, rst⟩

/-- The registers of R28, R42, R107, R144, R177, R206, R297, R342, R382, R408, R443, R463, R486 and R508. -/
inductive Reg where
  | globalId | clkStatus | timeLo | timeHi | timeLoadLo | timeLoadHi | timeCtrl | winBase | period | offset
  | countLo | countHi | partCfg | partStatus | partImage | unitState | share | tCtrl | tStatus | tLineCfg
  | tRes | tTrig | tPeriod | tExposure | tEncPos | tEncTmo | tFeed | tTgCfg | tTgSet | tTgClr
  | tPgCtrl | tPgLoop | tPgStatus | tCalCfg | tCalWindow | tCalTarget | tCalLimits | tCalBounds | tCalResult | tCalBadIdx
  | tCoefIndex | tCoefData | tCountTrig | tCountStamp | tCountDisc | tCountClr | tPgRam | pageLimits | jobCfg | pool
  | rxCfg | rxStale | rxCntHdr | rxCntPkt | rxCntJob | rxBulk | rxBulkBytes | rxCntClr | vcCfg | vcLines
  | vcSeq | vcStatus | bCtrl | bStatus | bBeatsLo | bBeatsHi | bDummy | bWords | bPerfClr | bNum
  | bTripLo | bTripHi | bNumClr | bBistCtrl | bBistStatus | bBistWhere | bEccCfg | bEccCnt | bEccRecent | bHealthClr
  | govCfg | govLimit | govCoef | govStatus | therm | tsens | secc | seccClr | kCtrl | kPool
  | kCtxFree | kCntClr | kCnt | kCtxSel | kCtxData | kQuota | kSpill | kUse | kSpillUse | kPrio
  | xCtrl | xStatus | xSetActive | xSetStandby | xPinned | xLoadStatus | xEventEn | xCnt | xCntClr | oCtrl
  | oSnap | oCntBad | oCntClr | oCfg | oQuota | oTiming | oStatus | oSent | oLost | oHoldCnt
  | dCtrl | dCfg | dStatus | dTrainTime | dRegBase | dRegSize | dScrub | dScrubPos | dCnt | dCntClr
  | pwrState | resetCause | bootStatus | bootTime | unitReset | unitResetStatus | summary | session | fwStatus | fwBanks
  | cntErr | cmdCntClr | aCtrl | aCfg | aSetBase | aSetCount | aStage | aSeedLo | aSeedHi | aEpochFirst
  | aEpochs | aLr | aBeta1 | aBeta2 | aEps | aWd | aStateBase | aStateSize | aCkptBase | aStatus
  | aPos | aEpochNow | aStep | aCntSkipped | aCntEmpty | aCntClr
  deriving DecidableEq, Repr

/-- A row of the register map: name, first address, two index ranges with their strides, fields. -/
structure RegRow where
  reg : Reg
  base : Nat
  n1 : Nat
  s1 : Nat
  n2 : Nat
  s2 : Nat
  fields : List FieldDef
  deriving DecidableEq, Repr

/-- GLOBAL and SEQ (R28 to R33, R42 to R68). -/
def regTable0 : List RegRow := [
  ⟨.globalId, 0x0, 1, 1, 1, 1, [fd 31 16 .ro 0, fd 15 8 .ro 0]⟩,
  ⟨.clkStatus, 0x4, 1, 1, 1, 1, [fd 2 2 .ro 0, fd 1 1 .w1c 0, fd 0 0 .ro 0]⟩,
  ⟨.timeLo, 0x10, 1, 1, 1, 1, [fd 31 0 .ro 0]⟩,
  ⟨.timeHi, 0x14, 1, 1, 1, 1, [fd 31 0 .ro 0]⟩,
  ⟨.timeLoadLo, 0x18, 1, 1, 1, 1, [fd 31 0 .rws 0]⟩,
  ⟨.timeLoadHi, 0x1c, 1, 1, 1, 1, [fd 31 0 .rws 0]⟩,
  ⟨.timeCtrl, 0x20, 1, 1, 1, 1, [fd 0 0 .rws 0]⟩,
  ⟨.winBase, 0x40, 4, 4, 1, 1, [fd 31 28 .rw 0, fd 18 0 .rw 0]⟩,
  ⟨.period, 0x10000, 1, 1, 1, 1, [fd 24 0 .rwl 4194304]⟩,
  ⟨.offset, 0x10004, 1, 1, 1, 1, [fd 23 0 .ro 0]⟩,
  ⟨.countLo, 0x10008, 1, 1, 1, 1, [fd 31 0 .ro 0]⟩,
  ⟨.countHi, 0x1000c, 1, 1, 1, 1, [fd 31 0 .ro 0]⟩,
  ⟨.partCfg, 0x10100, 8, 32, 1, 1, [fd 7 4 .rwl 0, fd 2 0 .rwl 0]⟩,
  ⟨.partStatus, 0x10104, 8, 32, 1, 1, [fd 31 24 .ro 0, fd 23 20 .ro 0, fd 17 0 .ro 0]⟩,
  ⟨.partImage, 0x10108, 8, 32, 1, 1, [fd 30 16 .ro 0, fd 14 0 .ro 0]⟩,
  ⟨.unitState, 0x10400, 32, 4, 1, 1, [fd 16 16 .ro 0, fd 11 8 .ro 0, fd 3 0 .ro 0]⟩,
  ⟨.share, 0x11000, 4, 128, 32, 4, [fd 31 28 .rws 15, fd 27 24 .rws 15, fd 23 20 .rws 15, fd 19 16 .rws 15, fd 15 12 .rws 15, fd 11 8 .rws 15, fd 7 4 .rws 15, fd 3 0 .rws 15]⟩]

/-- TAMBn (R107 to R121). -/
def regTable1 : List RegRow := [
  ⟨.tCtrl, 0x20000, 4, 16384, 1, 1, [fd 7 7 .rws 0, fd 6 6 .rws 0, fd 5 4 .rws 0, fd 0 0 .rws 0]⟩,
  ⟨.tStatus, 0x20004, 4, 16384, 1, 1, [fd 12 8 .ro 0, fd 7 7 .ro 0, fd 6 5 .ro 0, fd 4 4 .ro 0, fd 3 3 .w1c 0, fd 2 2 .w1c 0, fd 1 1 .w1c 0, fd 0 0 .w1c 0]⟩,
  ⟨.tLineCfg, 0x20008, 4, 16384, 1, 1, [fd 28 28 .rwl 0, fd 27 24 .rwl 0, fd 23 20 .rwl 0, fd 14 0 .rwl 16384]⟩,
  ⟨.tRes, 0x2000c, 4, 16384, 1, 1, [fd 3 2 .rws 0, fd 1 0 .rws 0]⟩,
  ⟨.tTrig, 0x20010, 4, 16384, 1, 1, [fd 31 16 .rws 1, fd 9 9 .rws 0, fd 8 8 .rws 0, fd 7 0 .rws 4]⟩,
  ⟨.tPeriod, 0x20014, 4, 16384, 1, 1, [fd 23 0 .rws 20000]⟩,
  ⟨.tExposure, 0x20018, 4, 16384, 1, 1, [fd 31 16 .rws 4000, fd 15 0 .rws 0]⟩,
  ⟨.tEncPos, 0x2001c, 4, 16384, 1, 1, [fd 31 0 .ro 0]⟩,
  ⟨.tEncTmo, 0x20020, 4, 16384, 1, 1, [fd 23 0 .rws 0]⟩,
  ⟨.tFeed, 0x20024, 4, 16384, 1, 1, [fd 23 0 .rws 0]⟩,
  ⟨.tTgCfg, 0x20040, 4, 16384, 8, 16, [fd 5 5 .rws 0, fd 4 4 .rws 0, fd 3 0 .rws 0]⟩,
  ⟨.tTgSet, 0x20044, 4, 16384, 8, 16, [fd 23 0 .rws 0]⟩,
  ⟨.tTgClr, 0x20048, 4, 16384, 8, 16, [fd 23 0 .rws 0]⟩,
  ⟨.tPgCtrl, 0x200c0, 4, 16384, 1, 1, [fd 31 16 .rws 1, fd 15 8 .rws 0]⟩,
  ⟨.tPgLoop, 0x200c4, 4, 16384, 1, 1, [fd 27 16 .rws 0, fd 11 0 .rws 0]⟩,
  ⟨.tPgStatus, 0x200c8, 4, 16384, 1, 1, [fd 31 31 .ro 0, fd 27 16 .ro 0, fd 15 0 .ro 0]⟩,
  ⟨.tCalCfg, 0x20100, 4, 16384, 1, 1, [fd 25 25 .rws 0, fd 24 16 .rws 64, fd 8 0 .rws 64]⟩,
  ⟨.tCalWindow, 0x20104, 4, 16384, 1, 1, [fd 31 16 .rws 64, fd 15 0 .rws 0]⟩,
  ⟨.tCalTarget, 0x20108, 4, 16384, 1, 1, [fd 31 16 .rws 1000, fd 15 0 .rws 61440]⟩,
  ⟨.tCalLimits, 0x2010c, 4, 16384, 1, 1, [fd 31 16 .rws 32768, fd 15 0 .rws 2048]⟩,
  ⟨.tCalBounds, 0x20110, 4, 16384, 1, 1, [fd 31 16 .rws 16, fd 15 0 .rws 8192]⟩,
  ⟨.tCalResult, 0x20114, 4, 16384, 1, 1, [fd 31 30 .ro 0, fd 29 28 .ro 0, fd 14 0 .ro 0]⟩,
  ⟨.tCalBadIdx, 0x20118, 4, 16384, 1, 1, [fd 30 16 .ro 0, fd 14 0 .ro 0]⟩,
  ⟨.tCoefIndex, 0x20120, 4, 16384, 1, 1, [fd 15 15 .rw 0, fd 14 0 .rw 0]⟩,
  ⟨.tCoefData, 0x20124, 4, 16384, 1, 1, [fd 31 16 .rw 8192, fd 15 0 .rw 0]⟩,
  ⟨.tCountTrig, 0x20140, 4, 16384, 1, 1, [fd 31 16 .ro 0, fd 15 0 .ro 0]⟩,
  ⟨.tCountStamp, 0x20144, 4, 16384, 1, 1, [fd 31 16 .ro 0, fd 15 0 .ro 0]⟩,
  ⟨.tCountDisc, 0x20148, 4, 16384, 1, 1, [fd 15 0 .ro 0]⟩,
  ⟨.tCountClr, 0x2014c, 4, 16384, 1, 1, [fd 1 1 .wo 0, fd 0 0 .wo 0]⟩,
  ⟨.tPgRam, 0x22000, 4, 16384, 2048, 4, [fd 31 16 .rw 0, fd 15 0 .rw 0]⟩]

/-- RXIN (R144 to R150). -/
def regTable2 : List RegRow := [
  ⟨.pageLimits, 0x30000, 1, 1, 1, 1, [fd 31 16 .rws 14336, fd 15 0 .rws 10240]⟩,
  ⟨.jobCfg, 0x30004, 1, 1, 1, 1, [fd 31 16 .rws 1000, fd 6 0 .rws 90]⟩,
  ⟨.pool, 0x30008, 1, 1, 1, 1, [fd 15 0 .ro 0]⟩,
  ⟨.rxCfg, 0x30100, 4, 64, 1, 1, [fd 12 12 .rwl 0, fd 11 8 .rwl 0, fd 4 4 .rwl 0, fd 2 1 .rwl 0, fd 0 0 .rws 0]⟩,
  ⟨.rxStale, 0x30104, 4, 64, 1, 1, [fd 23 0 .rws 0]⟩,
  ⟨.rxCntHdr, 0x30108, 4, 64, 1, 1, [fd 31 16 .ro 0, fd 15 0 .ro 0]⟩,
  ⟨.rxCntPkt, 0x3010c, 4, 64, 1, 1, [fd 31 16 .ro 0, fd 15 0 .ro 0]⟩,
  ⟨.rxCntJob, 0x30110, 4, 64, 1, 1, [fd 31 16 .ro 0, fd 15 0 .ro 0]⟩,
  ⟨.rxBulk, 0x30114, 4, 64, 1, 1, [fd 31 30 .ro 0, fd 29 26 .ro 0, fd 15 0 .ro 0]⟩,
  ⟨.rxBulkBytes, 0x30118, 4, 64, 1, 1, [fd 31 0 .ro 0]⟩,
  ⟨.rxCntClr, 0x3011c, 4, 64, 1, 1, [fd 0 0 .wo 0]⟩,
  ⟨.vcCfg, 0x31000, 4, 1024, 16, 16, [fd 31 30 .rwl 0, fd 29 29 .rwl 0, fd 27 24 .rwl 0, fd 23 16 .rwl 0, fd 15 0 .rwl 16384]⟩,
  ⟨.vcLines, 0x31004, 4, 1024, 16, 16, [fd 17 16 .rwl 0, fd 15 0 .rwl 0]⟩,
  ⟨.vcSeq, 0x31008, 4, 1024, 16, 16, [fd 31 0 .rws 0]⟩,
  ⟨.vcStatus, 0x3100c, 4, 1024, 16, 16, [fd 31 31 .ro 0, fd 30 30 .ro 0, fd 15 0 .ro 0]⟩]

/-- BOBn (R177 to R180, R206 to R211, R508 to R516). -/
def regTable3 : List RegRow := [
  ⟨.bCtrl, 0x40000, 8, 8192, 1, 1, [fd 8 8 .rws 0, fd 6 0 .rwl 64]⟩,
  ⟨.bStatus, 0x40004, 8, 8192, 1, 1, [fd 11 11 .ro 0, fd 10 10 .ro 0, fd 9 9 .ro 0, fd 7 4 .ro 0]⟩,
  ⟨.bBeatsLo, 0x40010, 8, 8192, 1, 1, [fd 31 0 .ro 0]⟩,
  ⟨.bBeatsHi, 0x40014, 8, 8192, 1, 1, [fd 31 0 .ro 0]⟩,
  ⟨.bDummy, 0x40018, 8, 8192, 1, 1, [fd 31 0 .ro 0]⟩,
  ⟨.bWords, 0x4001c, 8, 8192, 1, 1, [fd 31 0 .ro 0]⟩,
  ⟨.bPerfClr, 0x40020, 8, 8192, 1, 1, [fd 0 0 .wo 0]⟩,
  ⟨.bNum, 0x40200, 8, 8192, 6, 4, [fd 31 0 .ro 0]⟩,
  ⟨.bTripLo, 0x40218, 8, 8192, 1, 1, [fd 31 0 .ro 0]⟩,
  ⟨.bTripHi, 0x4021c, 8, 8192, 1, 1, [fd 31 0 .ro 0]⟩,
  ⟨.bNumClr, 0x40220, 8, 8192, 1, 1, [fd 0 0 .wo 0]⟩,
  ⟨.bBistCtrl, 0x40300, 8, 8192, 1, 1, [fd 0 0 .wo 0]⟩,
  ⟨.bBistStatus, 0x40304, 8, 8192, 1, 1, [fd 31 31 .ro 0, fd 25 24 .ro 0, fd 19 16 .ro 0]⟩,
  ⟨.bBistWhere, 0x40308, 8, 8192, 1, 1, [fd 31 0 .ro 0]⟩,
  ⟨.bEccCfg, 0x4030c, 8, 8192, 1, 1, [fd 14 8 .rws 16, fd 7 0 .rws 4]⟩,
  ⟨.bEccCnt, 0x40310, 8, 8192, 1, 1, [fd 31 16 .ro 0, fd 15 0 .ro 0]⟩,
  ⟨.bEccRecent, 0x40314, 8, 8192, 1, 1, [fd 7 0 .ro 0]⟩,
  ⟨.bHealthClr, 0x40318, 8, 8192, 1, 1, [fd 0 0 .wo 0]⟩,
  ⟨.govCfg, 0x40380, 1, 1, 1, 1, [fd 16 16 .rws 0, fd 8 0 .rws 256]⟩,
  ⟨.govLimit, 0x40384, 1, 1, 1, 1, [fd 31 20 .rws 1200, fd 19 12 .rws 95, fd 11 0 .rws 64]⟩,
  ⟨.govCoef, 0x40388, 1, 1, 1, 1, [fd 31 20 .ro 0, fd 19 10 .ro 0, fd 9 0 .ro 0]⟩,
  ⟨.govStatus, 0x4038c, 1, 1, 1, 1, [fd 31 31 .ro 0, fd 24 16 .ro 0, fd 11 0 .ro 0]⟩,
  ⟨.therm, 0x40390, 1, 1, 1, 1, [fd 31 31 .w1c 0, fd 19 16 .ro 0, fd 15 0 .ro 0]⟩,
  ⟨.tsens, 0x403a0, 12, 4, 1, 1, [fd 31 16 .ro 0, fd 15 0 .ro 0]⟩,
  ⟨.secc, 0x403d0, 6, 4, 1, 1, [fd 31 16 .ro 0, fd 15 0 .ro 0]⟩,
  ⟨.seccClr, 0x403e8, 1, 1, 1, 1, [fd 0 0 .wo 0]⟩]

/-- KVM and TXT (R297 to R304, R342 to R347). -/
def regTable4 : List RegRow := [
  ⟨.kCtrl, 0x50000, 1, 1, 1, 1, [fd 12 8 .rwl 0, fd 0 0 .rws 0]⟩,
  ⟨.kPool, 0x50004, 1, 1, 1, 1, [fd 28 16 .rws 0, fd 12 0 .rws 0]⟩,
  ⟨.kCtxFree, 0x50008, 1, 1, 1, 1, [fd 16 0 .ro 0]⟩,
  ⟨.kCntClr, 0x5000c, 1, 1, 1, 1, [fd 0 0 .wo 0]⟩,
  ⟨.kCnt, 0x50010, 9, 4, 1, 1, [fd 31 0 .ro 0]⟩,
  ⟨.kCtxSel, 0x50040, 1, 1, 1, 1, [fd 20 16 .rw 0, fd 15 0 .rw 0]⟩,
  ⟨.kCtxData, 0x50044, 1, 1, 1, 1, [fd 31 0 .ro 0]⟩,
  ⟨.kQuota, 0x50100, 8, 16, 1, 1, [fd 30 16 .rws 0, fd 12 0 .rws 0]⟩,
  ⟨.kSpill, 0x50104, 8, 16, 1, 1, [fd 31 20 .rws 0, fd 19 0 .rws 0]⟩,
  ⟨.kUse, 0x50108, 8, 16, 1, 1, [fd 30 16 .ro 0, fd 12 0 .ro 0]⟩,
  ⟨.kSpillUse, 0x5010c, 8, 16, 1, 1, [fd 19 0 .ro 0]⟩,
  ⟨.kPrio, 0x50200, 32, 4, 1, 1, [fd 31 28 .rws 0, fd 27 24 .rws 0, fd 23 20 .rws 0, fd 19 16 .rws 0, fd 15 12 .rws 0, fd 11 8 .rws 0, fd 7 4 .rws 0, fd 3 0 .rws 0]⟩,
  ⟨.xCtrl, 0x60000, 1, 1, 1, 1, [fd 0 0 .rws 0]⟩,
  ⟨.xStatus, 0x60004, 1, 1, 1, 1, [fd 23 16 .ro 0, fd 8 8 .ro 0, fd 5 4 .ro 0, fd 1 1 .ro 0, fd 0 0 .ro 0]⟩,
  ⟨.xSetActive, 0x60008, 1, 1, 1, 1, [fd 31 0 .ro 0]⟩,
  ⟨.xSetStandby, 0x6000c, 1, 1, 1, 1, [fd 31 0 .ro 0]⟩,
  ⟨.xPinned, 0x60010, 1, 1, 1, 1, [fd 31 16 .ro 0, fd 15 0 .ro 0]⟩,
  ⟨.xLoadStatus, 0x60014, 1, 1, 1, 1, [fd 31 24 .ro 0]⟩,
  ⟨.xEventEn, 0x60018, 1, 1, 1, 1, [fd 3 3 .rws 1, fd 2 2 .rws 1, fd 1 1 .rws 1, fd 0 0 .rws 1]⟩,
  ⟨.xCnt, 0x60020, 9, 4, 1, 1, [fd 31 0 .ro 0]⟩,
  ⟨.xCntClr, 0x60044, 1, 1, 1, 1, [fd 0 0 .wo 0]⟩]

/-- OUT, DDR, PWR and CMD (R382 to R388, R486 to R491, R463 to R467, R443 to R446). -/
def regTable5 : List RegRow := [
  ⟨.oCtrl, 0x70000, 1, 1, 1, 1, [fd 0 0 .rws 0]⟩,
  ⟨.oSnap, 0x70004, 1, 1, 1, 1, [fd 31 16 .rws 0, fd 9 9 .rws 0, fd 8 8 .rws 0, fd 3 0 .rws 0]⟩,
  ⟨.oCntBad, 0x70008, 1, 1, 1, 1, [fd 31 0 .ro 0]⟩,
  ⟨.oCntClr, 0x7000c, 1, 1, 1, 1, [fd 0 0 .wo 0]⟩,
  ⟨.oCfg, 0x70100, 2, 32, 1, 1, [fd 31 16 .rwl 4500, fd 4 4 .rwl 1, fd 0 0 .rws 0]⟩,
  ⟨.oQuota, 0x70104, 2, 32, 1, 1, [fd 27 16 .rwl 256, fd 11 0 .rwl 1024]⟩,
  ⟨.oTiming, 0x70108, 2, 32, 1, 1, [fd 31 16 .rws 100, fd 15 8 .rwl 16, fd 7 0 .rwl 32]⟩,
  ⟨.oStatus, 0x7010c, 2, 32, 1, 1, [fd 31 31 .ro 0, fd 30 30 .ro 0, fd 29 29 .w1c 0, fd 23 0 .ro 0]⟩,
  ⟨.oSent, 0x70110, 2, 32, 1, 1, [fd 31 0 .ro 0]⟩,
  ⟨.oLost, 0x70114, 2, 32, 1, 1, [fd 31 0 .ro 0]⟩,
  ⟨.oHoldCnt, 0x70118, 2, 32, 1, 1, [fd 31 16 .ro 0, fd 15 0 .ro 0]⟩,
  ⟨.dCtrl, 0x80000, 1, 1, 1, 1, [fd 1 1 .rwl 0, fd 0 0 .rws 0]⟩,
  ⟨.dCfg, 0x80004, 1, 1, 1, 1, [fd 12 12 .rwl 0, fd 9 8 .rwl 1, fd 5 4 .rwl 2, fd 2 0 .rwl 5]⟩,
  ⟨.dStatus, 0x80008, 1, 1, 1, 1, [fd 23 16 .ro 0, fd 11 8 .ro 0, fd 6 4 .ro 0, fd 2 0 .ro 0]⟩,
  ⟨.dTrainTime, 0x8000c, 1, 1, 1, 1, [fd 31 0 .ro 0]⟩,
  ⟨.dRegBase, 0x80010, 5, 8, 1, 1, [fd 16 0 .rwl 0]⟩,
  ⟨.dRegSize, 0x80014, 5, 8, 1, 1, [fd 17 0 .rwl 0]⟩,
  ⟨.dScrub, 0x80040, 1, 1, 1, 1, [fd 7 0 .rws 24]⟩,
  ⟨.dScrubPos, 0x80044, 1, 1, 1, 1, [fd 31 0 .ro 0]⟩,
  ⟨.dCnt, 0x80050, 3, 4, 1, 1, [fd 31 0 .ro 0]⟩,
  ⟨.dCntClr, 0x8005c, 1, 1, 1, 1, [fd 0 0 .wo 0]⟩,
  ⟨.pwrState, 0x90000, 1, 1, 1, 1, [fd 16 16 .ro 0, fd 9 8 .ro 0, fd 1 0 .ro 0]⟩,
  ⟨.resetCause, 0x90004, 1, 1, 1, 1, [fd 2 0 .ro 0]⟩,
  ⟨.bootStatus, 0x90008, 1, 1, 1, 1, [fd 12 12 .ro 0, fd 11 11 .ro 0, fd 10 10 .ro 0, fd 9 8 .ro 0, fd 5 4 .ro 0, fd 0 0 .ro 0]⟩,
  ⟨.bootTime, 0x9000c, 1, 1, 1, 1, [fd 31 0 .ro 0]⟩,
  ⟨.unitReset, 0x90010, 1, 1, 1, 1, [fd 31 31 .wo 0, fd 4 0 .wo 0]⟩,
  ⟨.unitResetStatus, 0x90014, 1, 1, 1, 1, [fd 31 31 .ro 0, fd 4 0 .ro 0]⟩,
  ⟨.summary, 0xa0000, 1, 1, 1, 1, [fd 31 24 .ro 0, fd 23 16 .ro 0, fd 11 11 .ro 0, fd 10 10 .ro 0, fd 9 9 .ro 0, fd 8 8 .ro 0, fd 7 7 .w1c 0, fd 6 6 .ro 0, fd 5 5 .ro 0, fd 4 4 .w1c 0, fd 3 3 .ro 0, fd 2 2 .ro 0, fd 1 1 .ro 0, fd 0 0 .ro 0]⟩,
  ⟨.session, 0xa0004, 1, 1, 1, 1, [fd 23 20 .ro 0, fd 19 16 .ro 0, fd 15 15 .ro 0, fd 6 0 .ro 0]⟩,
  ⟨.fwStatus, 0xa0008, 1, 1, 1, 1, [fd 10 8 .ro 0, fd 4 4 .ro 0, fd 2 0 .ro 0]⟩,
  ⟨.fwBanks, 0xa000c, 1, 1, 1, 1, [fd 31 16 .ro 0, fd 15 0 .ro 0]⟩,
  ⟨.cntErr, 0xa0010, 1, 1, 1, 1, [fd 31 24 .ro 0, fd 23 12 .ro 0, fd 11 0 .ro 0]⟩,
  ⟨.cmdCntClr, 0xa0014, 1, 1, 1, 1, [fd 0 0 .wo 0]⟩]

/-- ADAPT (R408 to R413). -/
def regTable6 : List RegRow := [
  ⟨.aCtrl, 0xb0000, 1, 1, 1, 1, [fd 0 0 .rws 0]⟩,
  ⟨.aCfg, 0xb0004, 1, 1, 1, 1, [fd 31 16 .rws 0, fd 14 8 .rwl 7, fd 2 0 .rwl 0]⟩,
  ⟨.aSetBase, 0xb0008, 1, 1, 1, 1, [fd 31 0 .rwl 0]⟩,
  ⟨.aSetCount, 0xb000c, 1, 1, 1, 1, [fd 16 0 .rwl 1]⟩,
  ⟨.aStage, 0xb0010, 1, 1, 1, 1, [fd 28 16 .rwl 128, fd 14 0 .rwl 0]⟩,
  ⟨.aSeedLo, 0xb0014, 1, 1, 1, 1, [fd 31 0 .rws 0]⟩,
  ⟨.aSeedHi, 0xb0018, 1, 1, 1, 1, [fd 31 0 .rws 0]⟩,
  ⟨.aEpochFirst, 0xb001c, 1, 1, 1, 1, [fd 31 0 .rws 0]⟩,
  ⟨.aEpochs, 0xb0020, 1, 1, 1, 1, [fd 15 0 .rws 1]⟩,
  ⟨.aLr, 0xb0024, 1, 1, 1, 1, [fd 31 0 .rws 981668463]⟩,
  ⟨.aBeta1, 0xb0028, 1, 1, 1, 1, [fd 31 0 .rws 1063675494]⟩,
  ⟨.aBeta2, 0xb002c, 1, 1, 1, 1, [fd 31 0 .rws 1065336439]⟩,
  ⟨.aEps, 0xb0030, 1, 1, 1, 1, [fd 31 0 .rws 841731191]⟩,
  ⟨.aWd, 0xb0034, 1, 1, 1, 1, [fd 31 0 .rws 1008981770]⟩,
  ⟨.aStateBase, 0xb0038, 1, 1, 1, 1, [fd 31 0 .rwl 0]⟩,
  ⟨.aStateSize, 0xb003c, 1, 1, 1, 1, [fd 31 0 .rwl 0]⟩,
  ⟨.aCkptBase, 0xb0040, 1, 1, 1, 1, [fd 31 0 .rws 0]⟩,
  ⟨.aStatus, 0xb0080, 1, 1, 1, 1, [fd 9 8 .ro 0, fd 6 6 .ro 0, fd 5 5 .ro 0, fd 4 4 .ro 0, fd 3 3 .ro 0, fd 2 2 .ro 0, fd 1 0 .ro 0]⟩,
  ⟨.aPos, 0xb0084, 1, 1, 1, 1, [fd 31 0 .ro 0]⟩,
  ⟨.aEpochNow, 0xb0088, 1, 1, 1, 1, [fd 31 0 .ro 0]⟩,
  ⟨.aStep, 0xb008c, 1, 1, 1, 1, [fd 31 0 .ro 0]⟩,
  ⟨.aCntSkipped, 0xb0090, 1, 1, 1, 1, [fd 31 0 .ro 0]⟩,
  ⟨.aCntEmpty, 0xb0094, 1, 1, 1, 1, [fd 31 0 .ro 0]⟩,
  ⟨.aCntClr, 0xb0098, 1, 1, 1, 1, [fd 0 0 .wo 0]⟩]

/-- The whole map. -/
def regTable : List RegRow := regTable0 ++ regTable1 ++ regTable2 ++ regTable3 ++ regTable4 ++ regTable5 ++ regTable6

/-- A register at an address: its name and indices. -/
structure RegAt where
  row : RegRow
  i : Nat
  j : Nat
  deriving DecidableEq, Repr

/-- The indices at which a row lies at an address, if any. -/
def RegRow.at? (r : RegRow) (a : Nat) : Option RegAt :=
  if a < r.base then none
  else
    let o := a - r.base
    let i := o / r.s1
    let o2 := o % r.s1
    let i' := if r.n1 == 1 then 0 else i
    let o2' := if r.n1 == 1 then o else o2
    let j := o2' / r.s2
    let j' := if r.n2 == 1 then 0 else j
    let o3 := if r.n2 == 1 then o2' else o2' % r.s2
    if i' < r.n1 && j' < r.n2 && o3 == 0 then some ⟨r, i', j'⟩ else none

/-- The register at an address, whose two lowest bits are ignored (R8). -/
def regAt (a : Nat) : Option RegAt := regTable.findSome? (fun r => r.at? (a / 4 * 4))

/-- The row of a register. -/
def rowOf (r : Reg) : RegRow := (regTable.find? (fun x => x.reg == r)).getD ⟨r, 0, 0, 1, 0, 1, []⟩

/-- Address of a register with its indices. -/
def addrOf (r : Reg) (i j : Nat) : Nat := let x := rowOf r; x.base + i * x.s1 + j * x.s2

/-- Place a value in bits [hi:lo] of a word, leaving the others. -/
def putField (w hi lo v : Nat) : Nat :=
  w - bitsOf w hi lo * 2 ^ lo + v % 2 ^ (hi + 1 - lo) * 2 ^ lo

/-- Reset word of the stored fields of a row. -/
def resetWord (fs : List FieldDef) : Nat := fs.foldl (fun w f => putField w f.hi f.lo f.rst) 0

/-- A field whose written value is stored: RW, RWS and RWL (R10). -/
def FieldDef.stored (f : FieldDef) : Bool := f.acc == .rw || f.acc == .rws || f.acc == .rwl

/-- A field that goes through the shadow (R10). -/
def FieldDef.shadowed (f : FieldDef) : Bool := f.acc == .rws || f.acc == .rwl

/-- Committed word of the stored fields at an address. -/
def comAt (d : Dev) (r : RegAt) (a : Nat) : Nat :=
  match assoc d.regs a with
  | some w => w.toNat
  | none => resetWord r.row.fields

/-- Shadow word: the pending value where one is pending, otherwise the committed value (R429). -/
def shaAt (d : Dev) (r : RegAt) (a : Nat) : Nat :=
  match assoc d.shadow a with
  | some w => w.toNat
  | none => comAt d r a

/-- Committed word of a register by name. -/
def com (d : Dev) (r : Reg) (i j : Nat) : Nat := let x := rowOf r; comAt d ⟨x, i, j⟩ (addrOf r i j)

/-- Shadow word of a register by name. -/
def sha (d : Dev) (r : Reg) (i j : Nat) : Nat := let x := rowOf r; shaAt d ⟨x, i, j⟩ (addrOf r i j)

/-- Committed field. -/
def cf (d : Dev) (r : Reg) (i j hi lo : Nat) : Nat := bitsOf (com d r i j) hi lo

/-- Shadow field. -/
def sf (d : Dev) (r : Reg) (i j hi lo : Nat) : Nat := bitsOf (sha d r i j) hi lo

/-- Store a committed word, keeping the list canonical: ascending addresses, none equal to its reset word. -/
def putCom (d : Dev) (r : Reg) (i j v : Nat) : Dev :=
  let a := addrOf r i j
  let l := assocDel d.regs a
  { d with regs := if v == resetWord (rowOf r).fields then l else assocPut l a (BitVec.ofNat 32 v) }

/-- Store a shadow word that awaits the boundary. -/
def putSha (d : Dev) (r : Reg) (i j v : Nat) : Dev :=
  { d with shadow := assocPut d.shadow (addrOf r i j) (BitVec.ofNat 32 v) }

/-- Return every register of a set of addresses to its reset value, shadows included. -/
def resetRegs (d : Dev) (p : Nat → Bool) : Dev :=
  { d with regs := d.regs.filter (fun e => !p e.1), shadow := d.shadow.filter (fun e => !p e.1) }

end Sys2Proof.Machine
end

