-- ==== Sys2Proof/Machine/Image.lean ====
section
/-!
DEFINITION. Reading a Pricking image (R53 to R57, R60): header, sections, operation words, and what a partition's
loaded image binds (R46, R59, R173).
-/
namespace Sys2Proof.Machine

/-- Entries of the section table: TYPE, ENTRY_SIZE, OFFSET, SIZE, COUNT (R55). -/
def sectTable (img : List Byte) : List (Nat × Nat × Nat × Nat × Nat) :=
  let t := img.drop (fld img 24 4)
  (List.range (fld img 22 2)).map fun i =>
    let e := (t.drop (16 * i)).take 16
    (fld e 0 2, fld e 2 2, fld e 4 4, fld e 8 4, fld e 12 4)

/-- The section of a type: entry size, offset and count. -/
def sect (img : List Byte) (ty : Nat) : Option (Nat × Nat × Nat) :=
  ((sectTable img).find? (fun e => e.1 == ty)).map (fun e => (e.2.1, e.2.2.1, e.2.2.2.2))

/-- First Pricking-store key of a partition's image. -/
def imgKey (d : Dev) (p : Nat) : Nat := key 5 ((partOf d p).base * 256)

/-- The bytes of a partition's image as reads of the Pricking store deliver them. -/
def imgSeen (d : Dev) (p : Nat) : List Byte := if (partOf d p).size = 0 then [] else peek d (imgKey d p) (partOf d p).bytes

/-- The loaded image of a partition (R59); empty when it holds none. The sequencer reads its operation words and descriptors from the
Pricking store, as reads deliver them; the rest it has held since the load (DESIGN CHOICE, log entry 101). -/
def imgOf (d : Dev) (p : Nat) : List Byte :=
  if (partOf d p).size = 0 then []
  else
    let held := Memory.getN d.mem (imgKey d p) (partOf d p).bytes
    if d.ecc.isEmpty then held
    else [1, 2].foldl (fun img ty => match sect held ty with
      | some (z, o, n) => img.take o ++ peek d (imgKey d p + o) (z * n) ++ img.drop (o + z * n)
      | none => img) held

/-- Cut a byte list into n entries of z bytes. -/
def cutEntries (z : Nat) : Nat → List Byte → List (List Byte)
  | 0, _ => []
  | n + 1, bs => bs.take z :: cutEntries z n (bs.drop z)

/-- All entries of a section. -/
def entries (img : List Byte) (ty : Nat) : List (List Byte) :=
  match sect img ty with
  | none => []
  | some (z, o, n) => cutEntries z n (img.drop o)

/-- Entry i of a section. -/
def entryAt (img : List Byte) (ty i : Nat) : Option (List Byte) :=
  match sect img ty with
  | none => none
  | some (z, o, n) => if i < n then some ((img.drop (o + z * i)).take z) else none

/-! ### Operation words (R60) -/

def wIssue (w : Nat) : Nat := bitsOf w 127 104
def wClass (w : Nat) : Nat := bitsOf w 103 100
def wTarget (w : Nat) : Nat := bitsOf w 99 96
def wOp (w : Nat) : Nat := bitsOf w 95 88
def wReplay (w : Nat) : Bool := bitOf w 87
def wSlack (w : Nat) : Bool := bitOf w 86
def wGuard (w : Nat) : Nat := bitsOf w 85 80
def wDur (w : Nat) : Nat := bitsOf w 79 56
def wOper (w : Nat) : Nat := bitsOf w 55 0
/-- DESC index of the classes that carry it in OPERANDS[55:40] (R187, R199, R201, R379 and the others). -/
def wDesc (w : Nat) : Nat := bitsOf w 55 40

/-- The OPS words of an image. -/
def opsOf (img : List Byte) : List Nat := (entries img 1).map leNat

/-- The OPS word at an index. -/
def opAt (img : List Byte) (i : Nat) : Option Nat := (entryAt img 1 i).map leNat

/-- A descriptor of 64 bytes; zeros beyond the section. -/
def descAt (img : List Byte) (i : Nat) : List Byte := (entryAt img 2 i).getD (List.replicate 64 0)

/-! ### What an image binds -/

/-- INPUTS bindings: receive port and virtual channel (R57). -/
def inputsOf (img : List Byte) : List (Nat × Nat) := (entries img 4).map (fun e => (fld e 0 1, fld e 1 1))
/-- OUTPUTS bindings: transmit port and virtual channel (R57). -/
def outputsOf (img : List Byte) : List (Nat × Nat) := (entries img 5).map (fun e => (fld e 0 1, fld e 1 1))

/-- The partition whose image binds a receive port and virtual channel (R78). Where several images do, the lowest-numbered one is
taken, whatever state its partition is in (DESIGN CHOICE, log entry 98). -/
def binder (d : Dev) (x v : Nat) : Option Nat :=
  (List.range 8).find? (fun p => hasImage d p && (inputsOf (imgOf d p)).contains (x, v))

/-- The partition whose image binds a transmit port and virtual channel (R355); of several, the lowest-numbered (DESIGN CHOICE, log
entry 98). -/
def outBinder (d : Dev) (x v : Nat) : Option Nat :=
  (List.range 8).find? (fun p => hasImage d p && (outputsOf (imgOf d p)).contains (x, v))

/-- Committed extent of a partition: FIRST and COUNT (R47). -/
def extent (d : Dev) (p : Nat) : Nat × Nat := (cf d .partCfg p 0 2 0, cf d .partCfg p 0 7 4)

/-- Physical Bobbin that serves a logical one: the extent in order, or through SPAREMAP (R57, R80). -/
def physIn (img : List Byte) (first i : Nat) : Nat :=
  if fld img 21 1 == 1 then first + fld ((entryAt img 9 0).getD []) i 1 else first + i

/-- Physical Bobbin of a logical one, in the committed extent. -/
def phys (d : Dev) (img : List Byte) (p i : Nat) : Nat := physIn img (extent d p).1 i

/-- The physical Bobbins a partition maps. -/
def mapped (d : Dev) (p : Nat) : List Nat :=
  let img := imgOf d p
  if hasImage d p then (List.range (fld img 20 1)).map (phys d img p) else []

/-- The partition whose committed extent holds a Bobbin. -/
def extentOf (d : Dev) (n : Nat) : Option Nat :=
  (List.range 8).find? (fun p => let e := extent d p; e.1 ≤ n && n < e.1 + e.2)

/-- Slab entries by index; SLAB_ID, SLOTS, STEP_CYCLES, SEQ_CLASS, MAX_TOKENS (R70). -/
def slabsOf (img : List Byte) : List (Nat × Nat × Nat × Nat × Nat) :=
  (entries img 6).map (fun e => (fld e 0 1, fld e 2 2, fld e 4 4, fld e 8 1, fld e 12 4))

/-- Slack windows: START, LENGTH, MAX_DELAY (R57). -/
def slackOf (img : List Byte) : List (Nat × Nat × Nat) :=
  (entries img 7).map (fun e => (fld e 0 4, fld e 4 4, fld e 8 4))

/-- The slack window that holds a cycle. -/
def windowOf (img : List Byte) (c : Nat) : Option (Nat × Nat × Nat) :=
  (slackOf img).find? (fun w => w.1 ≤ c && c < w.1 + w.2.1)

/-- Stitch period, Bobbins and format minor version of an image. -/
def imgPeriod (img : List Byte) : Nat := fld img 16 4
def imgBobs (img : List Byte) : Nat := fld img 20 1
def imgMinor (img : List Byte) : Nat := fld img 4 2

/-- Second descriptor of a word, where its class names one. -/
def auxOf (img : List Byte) (w : Nat) : List Byte :=
  if (wClass w == 4 || wClass w == 5) && bitsOf w 39 24 != 0xFFFF then descAt img (bitsOf w 39 24) else []

/-- Whether an image holds a word of a class. -/
def hasClass (img : List Byte) (k : Nat) : Bool := (opsOf img).any (fun w => wClass w == k)

/-! ### Slab descriptors (R71, R242, R294, R337) -/

/-- Whether a word names a descriptor, as DESC or AUX. -/
def namesDesc (w i : Nat) : Bool :=
  (1 ≤ wClass w && wClass w ≤ 8 && wDesc w == i) || ((wClass w == 4 || wClass w == 5) && bitsOf w 39 24 == i)

/-- The class of a slab descriptor. The layouts of R259, R294 and R339 hold no field that tells them apart, so a descriptor
that no OPS word names is read by its shape: K_ADDR and V_ADDR of all ones make it a DECODE, CHUNK_BYTES a DECIDE, and
NSLOTS alone a KV_WRITE (DEDUCED, log entry 75). -/
def slabKind (img : List Byte) (i : Nat) : Option Nat :=
  let e := descAt img i
  if (entryAt img 2 i).isNone || (opsOf img).any (fun w => namesDesc w i) then none
  else if fld e 4 8 == 2 ^ 64 - 1 then some 5
  else if fld e 54 2 != 0 then some 7
  else if fld e 10 2 != 0 then some 6 else none

/-- An operation word of its class, target and function, naming a descriptor and no second one. -/
def slabWord (cls target op di low : Nat) : Nat := cls * 2 ^ 100 + target * 2 ^ 96 + op * 2 ^ 88 + di * 2 ^ 40 + low

/-- Word that a slab descriptor stands for: DECODE on its BOBBIN, KV_WRITE, DECIDE. -/
def slabOp (img : List Byte) (kind i : Nat) : Nat :=
  if kind == 5 then slabWord 5 (fld (descAt img i) 44 1) 1 i (0xFFFF * 2 ^ 24)
  else if kind == 6 then slabWord 6 15 2 i 0 else slabWord 7 15 1 i 0

/-- SLAB_ID and OFFSET of a slab descriptor. -/
def slabPlace (img : List Byte) (kind i : Nat) : Nat × Nat :=
  let e := descAt img i
  if kind == 5 then (fld e 45 1, fld e 40 4) else (fld e 0 1, fld e 4 4)

/-- The slab descriptors of an image with their class. -/
def slabDescs (img : List Byte) : List (Nat × Nat) :=
  (List.range (((sect img 2).map (fun s => s.2.2)).getD 0)).filterMap (fun i => (slabKind img i).map (fun k => (k, i)))

end Sys2Proof.Machine
end

