-- ==== Sys2Proof/Machine/Flags.lean ====
section
/-!
DEFINITION. Status and flag computations shared by registers, replies and records: the summary word (R444), the unit
bytes (R365), free quota (R373, R386), the highest temperature (R505), the activity level and DUMMY (R192, R193, R210).
-/
namespace Sys2Proof.Machine

/-! ### Status codes (R425) -/

def stOk : Nat := 0x0000
def stDeferred : Nat := 0x0001
def stProgress : Nat := 0x0002
def stOpcode : Nat := 0x0100
def stLength : Nat := 0x0101
def stCrc : Nat := 0x0102
def stVersion : Nat := 0x0103
def stValue : Nat := 0x0104
def stConflict : Nat := 0x0200
def stOffline : Nat := 0x0201
def stRejected : Nat := 0x0300
def stExhausted : Nat := 0x0400
def stFirmware : Nat := 0x0500

/-- Firmware release and stepping of this device at boot of its active bank (R428, R446). -/
def fwRelease (d : Dev) : Nat := (if d.fw.active then d.fw.release1 else d.fw.release0).toNat

/-- Quota of a transmit port in bytes (R385). -/
def quotaBytes (d : Dev) (x : Nat) : Nat := cf d .oQuota x 0 11 0 * 4096

/-- Quota of the packets that a port is still sending: it returns with the last byte (R373). -/
def leavingBytes (d : Dev) (x : Nat) : Nat :=
  (txOf d x).leaving.foldl (fun n p => if d.clk.mono < p.1 then n + p.2 else n) 0

/-- FREE of a port (R386). -/
def freeBytes (d : Dev) (x : Nat) : Nat := quotaBytes d x - ((txOf d x).used + leavingBytes d x)

/-- Highest MAX of the twelve sensors (R505); the sensors read 0 in SLEEP. -/
def tjMax (d : Dev) : BitVec 16 :=
  if d.pwr.state == .sleep then 0
  else d.health.sensors.toList.foldl (fun m s => if m.slt s.max_ then s.max_ else m) (-32768)

/-- TJ_MAX with every sensor at reset read as 0 (R516). -/
def tjField (d : Dev) : Nat := (tjMax d).toNat

/-- Any shadow write or state request, POWER_STATE among them, awaits a boundary (R444 PENDING). -/
def anyPending (d : Dev) : Bool := !d.shadow.isEmpty || d.req.toList.any (·.isSome) || d.pwr.pend.isSome

/-- Units of a range of the committed table in a state, as a mask. -/
def maskOf (c : Units) (base n : Nat) (s : UnitSt) : Nat :=
  (List.range n).foldl (fun m i => m + b2n (ust c (base + i) == s) * 2 ^ i) 0

/-- The read-only bits of CMD_STATUS_SUMMARY, but for PENDING, as a boundary finds them (R444). -/
def summaryBits (c : Units) (d : Dev) : Nat :=
  maskOf c 0 8 .run * 2 ^ 24 + maskOf c 0 8 .faulted * 2 ^ 16 + b2n (d.fw.state == .programming) * 2048
    + b2n (d.adapt.copy != 0) * 1024 + b2n (d.tambs.toList.any (fun t => t.cal.state == .running)) * 512
    + b2n d.clk.refLost * 256 + b2n (d.out.tx.toList.any (·.held)) * 32 + b2n d.health.trip * 8
    + b2n (!d.health.log.isEmpty) * 4 + b2n (maskOf c 8 8 .failed != 0) * 2 + b2n (maskOf c 0 8 .faulted != 0)

/-- The read-only bits are taken as of a boundary (R444). -/
def noteSummary (c : Units) (d : Dev) : Dev := { d with health := { d.health with summary := BitVec.ofNat 32 (summaryBits c d) } }

/-- CMD_STATUS_SUMMARY (R444): the read-only bits as of the last boundary; PENDING follows its source, since nothing awaits a boundary
as of one (DEDUCED, log entry 20). -/
def summaryWord (d : Dev) : Nat :=
  d.health.summary.toNat + b2n d.health.eccUe * 128 + b2n (anyPending d) * 64 + b2n d.health.govDem * 16

/-- Unit byte of STATUS_SNAPSHOT: committed state in [3:0], pending state or 0xF in [7:4] (R365). -/
def unitByte (c : Units) (d : Dev) (u : Nat) : Nat :=
  (ust c u).code + 16 * (match reqOf d u with | some s => s.code | none => 15)

/-- STATUS_GET payload (R440). -/
def statusPayload (c : Units) (d : Dev) : List Byte :=
  leBytes 8 d.clk.time.toNat ++ leBytes 8 d.clk.count.toNat ++ leBytes 4 (summaryWord d)
    ++ (List.range 32).flatMap (fun u => leBytes 1 (unitByte c d u))
    ++ leBytes 4 (freeBytes d 0) ++ leBytes 4 (freeBytes d 1) ++ leBytes 2 (tjField d) ++ [0, 0]
    ++ leBytes 4 d.health.log.length

/-- Enabled for the lock of R12 (R52): a partition RUN or FAULTED, another unit RUN. -/
def unitOn (c : Units) (u : Nat) : Bool := if u < 8 then partOn c u else running c u

/-- Units that a partition committed RUN or FAULTED binds (R544, R475): transmit and receive ports, TXT, KVM, OUT. -/
def usesUnit (img : List Byte) (u : Nat) : Bool :=
  let ins := inputsOf img
  let outs := outputsOf img
  let slabs := !(entries img 6).isEmpty
  if 0x14 ≤ u && u < 0x18 then ins.any (fun b => b.1 == u - 0x14)
  else if u == 0x18 || u == 0x19 then outs.any (fun b => b.1 == u - 0x18)
  else if u == 0x1A then hasClass img 7 || slabs
  else if u == 0x1B then hasClass img 6 || slabs
  else if u == 0x1C then !ins.isEmpty || !outs.isEmpty || hasClass img 8
  else false

/-! ### The ramp (R192, R193) -/

/-- RAMP of a Bobbin (R194). -/
def rampOf (d : Dev) (n : Nat) : Nat := cf d .bCtrl n 0 6 0

/-- Activity level of R192 at cycle c, with the beat cycle at or before it and the next one after it: the first that applies of
the four cases. -/
def levelOf (ramp c : Nat) (e b : Option Nat) : Nat :=
  let s := ramp / 8
  if e == some c || (match e, b with | some e, some b => decide (b - e < 2 * ramp) | _, _ => false) then 8
  else if (match e with | some e => decide (c ≤ e + ramp) | none => false) then 8 - (c - e.getD 0) / s
  else match b with
    | some b => if b ≤ c + ramp then (c + ramp - b) / s + 1 else 0
    | none => 0

/-- Activity level at a cycle under ascending beat spans. -/
def levelAt (ramp : Nat) (spans : List (Nat × Nat)) (c : Nat) : Nat :=
  let e := spans.foldl (fun m s => if s.1 ≤ c then some (Nat.min c s.2) else m) none
  let b := (spans.find? (fun s => c < s.1)).map (fun s => s.1)
  levelOf ramp c e b

/-- Runs of cycles with L > 0 under ascending beat spans, the cycle after the last excluded: the beats with their ramp-up, or the
short gap before them, and the ramp-downs. -/
def activeRuns (ramp : Nat) : Option Nat → List (Nat × Nat) → List (Nat × Nat)
  | e, [] => match e with | some e => [(e + 1, e + ramp)] | none => []
  | none, (x, y) :: t => (x - ramp, y + 1) :: activeRuns ramp (some y) t
  | some e, (x, y) :: t =>
    (if x - e < 2 * ramp then [(e + 1, y + 1)] else [(e + 1, e + ramp), (Nat.max (x - ramp) (e + ramp + 1), y + 1)])
      ++ activeRuns ramp (some y) t

/-- Cycles of runs that lie from lo on and before hi. -/
def cyclesIn (runs : List (Nat × Nat)) (lo hi : Nat) : Nat :=
  runs.foldl (fun n r => n + (Nat.min r.2 hi - Nat.max r.1 lo)) 0

/-- DUMMY as it stands: cycles with L > 0 and no real beat, up to the present one (R210). -/
def dummyNow (d : Dev) (n : Nat) : Nat :=
  let b := bobOf d n
  let act := cyclesIn (activeRuns (rampOf d n) none b.plan) b.settled d.clk.mono
  b.dummy + (act - (b.since - b2n (b.lastBeat == some d.clk.mono)))

/-- Count DUMMY up to the present cycle, before the plan or RAMP changes. -/
def settleBob (d : Dev) (n : Nat) : Dev :=
  setBob d n (fun b => { b with
    dummy := dummyNow d n, settled := d.clk.mono, since := b2n (b.lastBeat == some d.clk.mono) })

/-- Beats that the present cycle has not delivered, and those behind it, are no longer planned: the ramp-down starts from the last one
delivered (R193, R204). -/
def cutPlan (d : Dev) (n : Nat) : Dev :=
  setBob (settleBob d n) n (fun b =>
    let stop := d.clk.mono + b2n (b.lastBeat == some d.clk.mono)
    { b with plan := b.plan.filterMap (fun s => if s.1 < stop then some (s.1, Nat.min s.2 (stop - 1)) else none) })

/-- A Bobbin accepts no word from the present cycle on (R193, R204). -/
def stopBob (d : Dev) (n : Nat) : Dev := setBob (cutPlan d n) n (fun b => { b with accepting := false })

end Sys2Proof.Machine
end

