-- ==== Sys2Proof/Machine/Records.lean ====
section
/-!
DEFINITION. Output records (R352 to R366) and the output unit's queues: bindings (R367), release and order (R368 to
R371), quotas, GAP and whole-job drops (R373 to R375).
-/
namespace Sys2Proof.Machine

/-! ### Record layouts -/

/-- The 16-byte header (R352): type, flags (bit 0 ECC, bit 1 REREAD), length, job, context. -/
def recHead (ty : Nat) (ecc reread : Bool) (len : Nat) (job ctx : Word) : List Byte :=
  leBytes 1 ty ++ [0x10] ++ leBytes 2 (b2n ecc + 2 * b2n reread) ++ leBytes 4 len ++ leBytes 4 job.toNat ++ leBytes 4 ctx.toNat

/-- No job, no context. -/
def noWord : Word := 0xFFFFFFFF

/-- EVENT (R363). -/
def recEvent (reread : Bool) (job ctx : Word) (code unit part : Nat) (time : BitVec 64) (detail : List Nat) : List Byte :=
  recHead 0x0A false reread 64 job ctx ++ leBytes 2 code ++ leBytes 1 unit ++ leBytes 1 part ++ leBytes 8 time.toNat
    ++ (List.range 9).flatMap (fun i => leBytes 4 (detail.getD i 0))

/-- GAP (R364); its counts saturate (R7). -/
def recGap (reread : Bool) (job : Word) (n bytes : Nat) (whole : Bool) (w : Nat) : List Byte :=
  recHead 0x0B false reread 32 job noWord ++ leBytes 4 (sat 32 n) ++ leBytes 4 (sat 32 bytes) ++ leBytes 1 (b2n whole) ++ [0, 0, 0] ++ leBytes 4 w

/-- STREAM_HEADER (R355). -/
def recStream (d : Dev) (x v : Nat) : List Byte :=
  let p := outBinder d x v
  let model := match p with | some q => fld (imgOf d q) 56 8 | none => 0
  recHead 0x01 false false 48 noWord noWord ++ leBytes 1 x ++ leBytes 1 v ++ leBytes 2 1 ++ leBytes 4 (p.getD 255)
    ++ leBytes 2 0x8384 ++ leBytes 2 0xA1 ++ leBytes 4 (fwRelease d) ++ leBytes 8 d.clk.time.toNat
    ++ leBytes 8 model

/-- STATUS_SNAPSHOT (R365). -/
def recSnapshot (c : Units) (d : Dev) (x : Nat) : List Byte :=
  recHead 0x0C false false 80 noWord noWord ++ leBytes 8 d.clk.time.toNat ++ leBytes 8 d.clk.count.toNat
    ++ leBytes 4 (summaryWord d) ++ (List.range 32).flatMap (fun u => leBytes 1 (unitByte c d u))
    ++ leBytes 4 (freeBytes d x) ++ leBytes 2 (tjField d) ++ [0, 0] ++ leBytes 4 d.health.log.length

/-- PAGE_BEGIN (R356). -/
def recPageBegin (j : Job) (reread : Bool) : List Byte :=
  let row0 := j.stored.contains 0 && !j.missing.contains 0
  recHead 0x02 false reread 48 j.seq noWord ++ leBytes 1 j.port ++ leBytes 1 j.vc ++ leBytes 1 j.kind
    ++ leBytes 1 (b2n (j.verdict == some true) + 2 * b2n reread + 4 * b2n (!j.marks.isEmpty))
    ++ leBytes 4 j.width ++ leBytes 4 j.height ++ leBytes 4 (if j.dimBad then j.height else j.missing.length)
    ++ leBytes 8 (if row0 then (j.stamp0.getD j.opened).toNat else j.opened.toNat)
    ++ leBytes 4 ((j.marks.getLast?.map (fun m => m.2.toNat)).getD 0) ++ [0, 0, 0, 0]

/-- PAGE_END (R362); its counts saturate (R7). -/
def recPageEnd (d : Dev) (j : Job) (reread : Bool) (n lines : Nat) (gap abandoned : Bool) : List Byte :=
  recHead 0x09 j.ecc reread 40 j.seq noWord ++ leBytes 4 (sat 32 n) ++ leBytes 4 (sat 32 lines)
    ++ leBytes 1 (b2n (j.verdict == some true) + 2 * b2n j.ecc + 4 * b2n gap + 8 * b2n abandoned) ++ [0, 0, 0]
    ++ leBytes 4 (sat 32 j.sequences) ++ leBytes 8 d.clk.time.toNat

/-- Quota that a record takes: its length, and each crop line rounded up to a multiple of 4 (R373). -/
def Rec.size (r : Rec) : Nat := r.lines.foldl (fun n l => n + (l.length + 3) / 4 * 4) r.bytes.length

/-- Frame number of a job (R350). -/
def frameNo (seq : Word) : Nat := seq.toNat % 65535 + 1

/-! ### Quota -/

/-- Reserve of a port: 128 bytes for every binding that an image holds on it (R373; DEDUCED, log entry 21). -/
def reserveBytes (d : Dev) (x : Nat) : Nat :=
  128 * ((List.range 8).foldl (fun n p => n + ((outputsOf (imgOf d p)).filter (fun b => b.1 == x)).length) 0)

/-- A record outside PAGE_END and GAP fits in the free space less the reserve (R373, R374). -/
def fits (d : Dev) (x n : Nat) : Bool := n + reserveBytes d x ≤ freeBytes d x

/-- A record outside PAGE_END and GAP fits on a virtual channel, together with a STREAM_HEADER that is due before it, which may not
use the reserve either (R355, R373; DESIGN CHOICE, log entry 100). -/
def fitsOn (d : Dev) (x v n : Nat) : Bool :=
  fits d x (n + 48 * b2n (((txOf d x).vcs[v]?).getD {}).header)

/-- Take quota. -/
def takeQuota (d : Dev) (x n : Nat) : Dev := setTx d x (fun t => { t with used := t.used + n })
/-- Return quota. -/
def giveQuota (d : Dev) (x n : Nat) : Dev := setTx d x (fun t => { t with used := t.used - n })
/-- Count lost records (R387). -/
def countLost (d : Dev) (x n : Nat) : Dev := setTx d x (fun t => { t with lost := t.lost + n })

/-! ### Writing into the output buffer -/

/-- A record is written into the buffer: the 70 cycles of Record out begin (R15, R16). Where it lies there is open (R20; DESIGN
CHOICE, log entry 13). -/
def placeRec (d : Dev) (r : Rec) : Dev × Rec :=
  ({ d with out := { d.out with placed := d.out.placed + 1 } },
   { r with at_ := d.clk.mono, addr := 8 * ((Config.openValue 12 d.out.placed).toNat % 2 ^ 20) })

/-! ### Queues of a virtual channel -/

/-- The next packet of a virtual channel is a record. -/
def TxVc.nextIsRec (t : TxVc) : Bool := !t.free.isEmpty || (match t.q.head? with | some (.item _) => true | _ => false)

/-- A record waits on a virtual channel. -/
def TxVc.hasRec (t : TxVc) : Bool := !t.free.isEmpty || t.q.any (fun i => match i with | .item _ => true | _ => false)

/-- A STREAM_HEADER that is due is written, where it fits (R355, R373). -/
def writeStream (d : Dev) (x v : Nat) : Dev :=
  if (((txOf d x).vcs[v]?).getD {}).header && fits d x 48 then
    let (e, r) := placeRec d { bytes := recStream d x v }
    setTxVc (takeQuota e x 48) x v (fun t => { t with header := false, stream := some r })
  else d

/-- The STREAM_HEADER is written as the first record after it falls due comes to wait (R355). -/
def openStream (d : Dev) (x v : Nat) : Dev :=
  if (((txOf d x).vcs[v]?).getD {}).hasRec then writeStream d x v else d

/-- A STREAM_HEADER falls due; one not sent yet is written anew (R355). -/
def renewStream (d : Dev) (x v : Nat) : Dev :=
  let t := ((txOf d x).vcs[v]?).getD {}
  let d := if t.stream.isSome then giveQuota d x 48 else d
  openStream (setTxVc d x v (fun t => { t with header := true, stream := none })) x v

/-- Elements come to wait behind those of their virtual channel. -/
def queueItems (d : Dev) (x v : Nat) (items : List OutItem) : Dev :=
  openStream (setTxVc d x v (fun t => { t with q := t.q ++ items })) x v

/-- Place of a record among those of its cycle: text-unit records, EMIT records, events (R368). -/
def Rec.rank (r : Rec) : Nat :=
  let ty := fld r.bytes 0 1
  if ty == 0x05 || ty == 0x06 then 0 else if ty == 0x0A then 2 else 1

/-- A waiting record of the same cycle that stands behind r: of higher rank, and not one that the release found waiting (R368). -/
def Rec.behind (r e : Rec) : Bool := e.at_ == r.at_ && !e.early && r.rank < e.rank

/-- A job record takes its place behind the records of earlier cycles, and in its own cycle by rank (R368). -/
def putRec (r : Rec) (q : List Rec) : List Rec :=
  let k := q.length - (q.reverse.takeWhile r.behind).length
  q.take k ++ r :: q.drop k

/-- The same in the queue of a virtual channel. -/
def putItem (r : Rec) (q : List OutItem) : List OutItem :=
  let k := q.length - (q.reverse.takeWhile (fun i => match i with | .item e => r.behind e | _ => false)).length
  q.take k ++ .item r :: q.drop k

/-! ### Jobs on bindings -/

/-- A held job by identity. -/
def jobOf (d : Dev) (id : Nat) : Option Job := d.jobs.find? (fun j => j.id == id)

/-- Update a held job. -/
def setJob (d : Dev) (id : Nat) (f : Job → Job) : Dev :=
  { d with jobs := d.jobs.map (fun j => if j.id == id then f j else j) }

/-- A job held by a partition whose PAGE_END has not been emitted, by sequence number. -/
def heldJob (d : Dev) (p : Nat) (seq : Word) : Option Job := d.jobs.find? (fun j => j.part == p && j.seq == seq && !j.ended)

/-- The held job of a sequence: none for one that is tied to no job (R266). -/
def seqJob (d : Dev) (p : Nat) (job : Word) : Option Job := if job == noWord then none else heldJob d p job

/-- Update the entry of a job on a binding. -/
def setOut (d : Dev) (job o : Nat) (f : OutJob → OutJob) : Dev :=
  { d with out := { d.out with jobs := d.out.jobs.map (fun x => if x.job == job && x.out == o then f x else x) } }

/-- Bind a new job to every OUTPUTS entry of its partition (R367). -/
def bindJob (d : Dev) (j : Job) : Dev :=
  let bs := (outputsOf (imgOf d j.part)).mapIdx
    (fun o b => ({ job := j.id, part := j.part, out := o, port := b.1, vc := b.2, reread := j.reread } : OutJob))
  { d with out := { d.out with jobs := d.out.jobs ++ bs } }

/-- Admission of a job on a binding when its first record is to be written: 48 bytes are taken for its PAGE_BEGIN. A STREAM_HEADER
that is due is written with it. An admitted job whose PAGE_BEGIN does not fit in the free space less the reserve has lost its record of
index 0 (R364, R373, R374). -/
def takeJob (d : Dev) (x : OutJob) : Dev × Bool :=
  match x.admitted with
  | some b => (d, b)
  | none =>
    let ok := cf d .oQuota x.port 0 27 16 * 4096 ≤ freeBytes d x.port
    if ok && fitsOn d x.port x.vc 48 then
      (setOut (takeQuota (writeStream d x.port x.vc) x.port 48) x.job x.out (fun y => { y with admitted := some true }), true)
    else if ok then
      (setOut (countLost d x.port 1) x.job x.out (fun y =>
        { y with admitted := some true, firstLost := some 0, lost := y.lost + 1, lostB := y.lostB + 48 }), true)
    else (setOut d x.job x.out (fun y => { y with admitted := some false }), false)

/-- The entry of a job on a binding as it now stands. -/
def outNow (d : Dev) (x : OutJob) : OutJob := (d.out.jobs.find? (fun y => y.job == x.job && y.out == x.out)).getD x

/-- Hand one record of a job to one binding (R368, R374, R375). -/
def handOut (d : Dev) (x : OutJob) (r : Rec) (isEvent : Bool) : Dev :=
  let (d, ok) := takeJob d x
  let x := outNow d x
  let n := r.size
  let lose := fun (d : Dev) =>
    setOut (countLost d x.port 1) x.job x.out (fun y =>
      { y with
        lost := y.lost + 1, lostB := y.lostB + n
        firstLost := match y.firstLost with
          | some i => some i
          | none => some (if x.released then x.count else 1 + x.evs.length + (if isEvent then 0 else x.recs.length)) })
  if !ok || x.firstLost.isSome then lose d
  else if fitsOn d x.port x.vc n then
    let (d, r) := placeRec (takeQuota (writeStream d x.port x.vc) x.port n) r
    if x.released then
      setOut (setTxVc d x.port x.vc (fun t => { t with q := putItem r t.q })) x.job x.out
        (fun y => { y with count := y.count + 1, crops := y.crops + r.lines.length })
    else if isEvent then setOut d x.job x.out (fun y => { y with evs := y.evs ++ [r] })
    else setOut d x.job x.out (fun y => { y with recs := putRec r y.recs })
  else lose d

/-- Live bindings of a job. -/
def outsOf (d : Dev) (job : Nat) : List OutJob := d.out.jobs.filter (fun x => x.job == job && !x.ended)

/-- Hand a record of a job to binding o of its partition; of a job whose verdict is unread it is discarded without count (R140,
R380). -/
def handRec (d : Dev) (job o : Nat) (r : Rec) : Dev :=
  if (jobOf d job).any (fun j => j.verdict == some false) then d
  else
  match (outsOf d job).find? (fun x => x.out == o) with
  | some x => handOut d x r false
  | none => d

/-- A record tied to no job goes ahead of job records not yet started; one that does not fit is lost (R370, R378). -/
def handFree (d : Dev) (x v : Nat) (r : Rec) : Dev :=
  if fitsOn d x v r.size then
    let (d, r) := placeRec (takeQuota (writeStream d x v) x r.size) r
    setTxVc d x v (fun t => { t with free := t.free ++ [r] })
  else countLost d x 1

/-- Port and virtual channel of OUT_SNAP (R383). -/
def snapAt (d : Dev) : Nat × Nat := (cf d .oSnap 0 0 8 8, cf d .oSnap 0 0 3 0)

/-- Hand a record to OUT_SNAP: it waits while the port is not committed RUN (R383). -/
def handSnap (c : Units) (d : Dev) (r : Rec) : Dev :=
  let (x, v) := snapAt d
  if running c (0x18 + x) then handFree d x v r else { d with out := { d.out with snap := d.out.snap ++ [r] } }

/-- Records that waited for the OUT_SNAP port are written once it runs. -/
def drainSnap (c : Units) (d : Dev) : Dev :=
  let (x, v) := snapAt d
  if running c (0x18 + x) then
    d.out.snap.foldl (fun d r => handFree d x v r) { d with out := { d.out with snap := [] } }
  else d

/-! ### Release, PAGE_END, re-reading and cancelling -/

/-- Earlier jobs of the partition, in submission order (R130), whose PAGE_END has not been emitted on a binding. -/
def firstOn (d : Dev) (p o : Nat) : Option OutJob :=
  d.jobs.findSome? (fun j => d.out.jobs.find? (fun x => x.job == j.id && x.part == p && x.out == o && !x.ended))

/-- Release of the oldest job of a binding once its verdict is published (R368). -/
def release (d : Dev) (p o : Nat) : Dev :=
  match firstOn d p o with
  | none => d
  | some x0 =>
    match jobOf d x0.job with
    | none => d
    | some j =>
      if x0.released || !j.pubVer then d
      else
        -- an unread job keeps its events only (R380)
        let read := j.verdict == some true
        let drop := if read then 0 else x0.recs.foldl (fun n r => n + r.size) 0
        let d := giveQuota d x0.port drop
        let recs := if read then x0.recs else []
        let (d, ok) := takeJob d x0
        let begun := (outNow d x0).firstLost != some 0
        if !ok then setOut d x0.job x0.out (fun y => { y with released := true, recs := [] })
        else
          -- the whole-job GAP of R375 before the PAGE_BEGIN of the next admitted job
          let vc := ((txOf d x0.port).vcs[x0.vc]?).getD {}
          let (d, gap) := match vc.drop with
            | none => (d, [])
            | some (n, b, f, l) =>
              let d := takeQuota d x0.port 32
              let d := logAt d 0x000D 0x1C x0.part noWord noWord [x0.port, x0.vc, sat 32 n, sat 32 b, 1, f.toNat, l.toNat] 0
              let (d, r) := placeRec d { bytes := recGap false f n b true l.toNat }
              (d, [OutItem.item r])
          let (d, first) := placeRec d { bytes := recPageBegin j x0.reread }
          let items := gap ++ .frameStart (frameNo j.seq) :: (if begun then [.item first] else [])
            ++ (x0.evs ++ recs).map (fun r => OutItem.item { r with at_ := d.clk.mono, early := true })
          let d := queueItems (setTxVc d x0.port x0.vc (fun t => { t with drop := none })) x0.port x0.vc items
          setOut d x0.job x0.out (fun y =>
            { y with
              released := true, count := b2n begun + x0.evs.length + recs.length, evs := [], recs := []
              crops := (x0.evs ++ recs).foldl (fun n r => n + r.lines.length) 0 })

/-- Every context of the job is FREE, or ENDED with its final piece handed over, which the end itself does (R369). -/
def contextsDone (d : Dev) (j : Job) : Bool :=
  j.seq == noWord || !(d.kvm.ctx.any (fun c => c.2.part == j.part && c.2.job == j.seq && c.2.state != 4))

/-- The PAGE_END of a job has been emitted on every binding: the job leaves the partition and the page store, from the next cycle on
(R218), and its input-queue entries, published or not, are freed (R19, R320, R369). -/
def retire (d : Dev) (job : Nat) : Dev :=
  if (outsOf d job).isEmpty then
    let mine := fun (e : InEntry) => match jobOf d job with
      | some j => (match e.part with | some p => p == j.part | none => binder d e.port e.vc == some j.part) && e.job == j.seq
      | none => false
    { d with jobs := d.jobs.filter (fun j => j.id != job)
             gone := d.gone.filter (fun g => g.1 == d.clk.mono) ++ ((jobOf d job).map (fun j => (d.clk.mono, j))).toList
             txt := { d.txt with queue := d.txt.queue.filter (fun e => !mine e) }
             out := { d.out with jobs := d.out.jobs.filter (fun x => x.job != job) } }
  else d

/-- PAGE_END of the oldest job of a binding, when it is released and its conditions hold (R369). -/
def pageEnd (d : Dev) (p o : Nat) : Dev :=
  match firstOn d p o with
  | none => d
  | some x =>
    match jobOf d x.job with
    | none => d
    | some j =>
      let read := j.verdict == some true
      if !x.released || (read && !(j.doneNamed && contextsDone d j)) then d
      else if x.admitted == some false then
        let n := x.lost + 2
        let b := x.lostB + 88
        let d := setTxVc (countLost d x.port 2) x.port x.vc (fun t => { t with
          drop := match t.drop with
            | none => some (n, b, j.seq, j.seq)
            | some (m, c, f, _) => some (m + n, c + b, f, j.seq) })
        retire (setOut d x.job x.out (fun y => { y with ended := true })) x.job
      else
        let (d, gap, k) := match x.firstLost with
          | none => (d, [], 0)
          | some i =>
            let d := takeQuota d x.port 32
            let d := logAt d 0x000D 0x1C x.part j.seq noWord [x.port, x.vc, sat 32 x.lost, sat 32 x.lostB, 0, j.seq.toNat, j.seq.toNat] 0
            let (d, r) := placeRec d { bytes := recGap x.reread j.seq x.lost x.lostB false i }
            (d, [OutItem.item r], 1)
        let (d, pe) := placeRec (takeQuota d x.port 40)
          { bytes := recPageEnd d j x.reread (x.count + k) x.crops x.firstLost.isSome false }
        let d := queueItems d x.port x.vc (gap ++ [.item pe, .frameEnd (frameNo j.seq)])
        retire (setOut d x.job x.out (fun y => { y with ended := true })) x.job

/-- A partition without bindings emits nothing: its oldest job leaves once its conditions hold (R369). -/
def retireBare (d : Dev) (p : Nat) : Dev :=
  match d.jobs.find? (fun j => j.part == p) with
  | some j =>
    if (d.out.jobs.any (fun x => x.job == j.id)) || !j.pubVer || (j.verdict == some true && !(j.doneNamed && contextsDone d j)) then d
    else retire d j.id
  | none => d

/-- Whether a queued element belongs to a job: its records, or its frame packets; the GAP of whole jobs that stands before it does not
(R364, R371, R375). -/
def OutItem.ofJob (seq : Word) : OutItem → Bool
  | .frameStart n => n == frameNo seq
  | .frameEnd n => n == frameNo seq
  | .item r => fld r.bytes 8 4 == seq.toNat && !(fld r.bytes 0 1 == 0x0B && fld r.bytes 24 1 == 1)

/-- Size of a queued element. -/
def OutItem.size : OutItem → Nat
  | .item r => r.size
  | _ => 0

/-- Records and crop lines of a job in a list of queued elements, its PAGE_END left out (R362). -/
def countItems (l : List OutItem) : Nat × Nat :=
  l.foldl (fun n i => match i with
    | .item r => if fld r.bytes 0 1 == 9 then n else (n.1 + 1, n.2 + r.lines.length)
    | _ => n) (0, 0)

/-- Discard the unsent records of a job on one binding; the records and crop lines of it that have been sent, a GAP included and a
PAGE_END not (R362, R371). -/
def discardUnsent (d : Dev) (x : OutJob) (seq : Word) : Dev × Nat × Nat :=
  let t := ((txOf d x.port).vcs[x.vc]?).getD {}
  let gone := if x.released then t.q.filter (OutItem.ofJob seq) else []
  let keep := if x.released then t.q.filter (fun i => !i.ofJob seq) else t.q
  let wait := (x.evs ++ x.recs).foldl (fun n r => n + r.size) 0
  let hold := if x.admitted == some true && !x.released && x.firstLost != some 0 then 48 else 0
  let size := gone.foldl (fun n i => n + i.size) 0
  let n := countItems gone
  let d := giveQuota d x.port (size + wait + hold)
  (setTxVc d x.port x.vc (fun t => { t with q := keep }), x.count + b2n (x.ended && x.firstLost.isSome) - n.1, x.crops - n.2)

/-- Entries of a job on its bindings, those whose PAGE_END is written included. -/
def allOuts (d : Dev) (job : Nat) : List OutJob := d.out.jobs.filter (fun x => x.job == job)

/-- R371: a held job is read again on every binding; its records go to the bindings of the image that reads it. A frame whose PAGE_BEGIN
has been sent is closed by a PAGE_END with ABANDONED, one that has only been opened by its frame end alone (DESIGN CHOICE, log
entry 100). -/
def rereadOut (d : Dev) (j : Job) : Dev :=
  let d := (allOuts d j.id).foldl (fun d x =>
    let (d, sent, lines) := discardUnsent d x j.seq
    if x.frame then
      let (d, pe) := placeRec (takeQuota d x.port 40) { bytes := recPageEnd d j x.reread sent lines x.firstLost.isSome true }
      queueItems d x.port x.vc [.item pe, .frameEnd (frameNo j.seq)]
    else if x.started then queueItems d x.port x.vc [.frameEnd (frameNo j.seq)]
    else d) d
  bindJob { d with out := { d.out with jobs := d.out.jobs.filter (fun x => x.job != j.id) } } { j with reread := true }

/-- R371, R433: a cancelled job gets no further record; an open frame is closed by a frame end. -/
def cancelOut (d : Dev) (j : Job) : Dev :=
  let d := (allOuts d j.id).foldl (fun d x =>
    let d := (discardUnsent d x j.seq).1
    if x.started then queueItems d x.port x.vc [.frameEnd (frameNo j.seq)] else d) d
  { d with jobs := d.jobs.filter (fun y => y.id != j.id), out := { d.out with jobs := d.out.jobs.filter (fun x => x.job != j.id) } }

end Sys2Proof.Machine
end

