-- ==== Sys2Proof/Machine/Events.lean ====
section
/-!
DEFINITION. Raising events (R492, R493) and the ECC reports of reads and partial writes (R496 to R498, R511, R513,
R539, R542).
-/
namespace Sys2Proof.Machine

/-- What an event is tied to (R492). -/
inductive Tie where
  | job (id : Nat)
  | part (p : Nat)
  | nothing
  deriving DecidableEq, Repr

/-- An event of R493. -/
structure Event where
  code   : Nat
  unit   : Nat := 255
  ctx    : Word := 0xFFFFFFFF
  detail : List Nat := []
  log    : Bool := false
  deriving DecidableEq, Repr

/-- Raise an event: its records where it reaches a binding, and its log entry (R492). -/
def raise (c : Units) (d : Dev) (tie : Tie) (e : Event) : Dev :=
  let t := d.clk.time
  match tie with
  | .job id =>
    match jobOf d id with
    | none => logAt d e.code e.unit 255 noWord e.ctx e.detail 0
    | some j =>
      let bs := outsOf d id
      let d := bs.foldl (fun d x =>
        match d.out.jobs.find? (fun y => y.job == id && y.out == x.out) with
        | some y => handOut d y { bytes := recEvent y.reread j.seq e.ctx e.code e.unit j.part t e.detail } true
        | none => d) d
      if e.log || bs.isEmpty then logAt d e.code e.unit j.part j.seq e.ctx e.detail (b2n !bs.isEmpty) else d
  | .part p =>
    let bs := outputsOf (imgOf d p)
    let d := bs.foldl (fun d b => handFree d b.1 b.2 { bytes := recEvent false noWord e.ctx e.code e.unit p t e.detail }) d
    if e.log || bs.isEmpty then logAt d e.code e.unit p noWord e.ctx e.detail (b2n !bs.isEmpty) else d
  | .nothing =>
    let on := cf d .oSnap 0 0 9 9 == 1
    let d := if on then handSnap c d { bytes := recEvent false noWord e.ctx e.code e.unit 255 t e.detail } else d
    if e.log || !on then logAt d e.code e.unit 255 noWord e.ctx e.detail (b2n on) else d

/-! ### ECC -/

/-- Who reads or writes: reading unit (R542), partition and job served. -/
structure Who where
  unit : Nat
  part : Nat := 255
  job  : Option Nat := none
  deriving DecidableEq, Repr

/-- Store code of a key (R496), 0 for a memory without the code, and the Bobbin of codes 8 to 10. -/
def storeCode (k : Nat) : Nat × Nat :=
  let s := k / 2 ^ 44
  if 1 ≤ s && s ≤ 7 then (s, 255) else if 8 ≤ s && s < 16 then (8, s - 8) else if 16 ≤ s && s < 24 then (9, s - 16)
  else if 24 ≤ s && s < 32 then (10, s - 24) else if s == 32 then (11, 255) else (0, 255)

/-- Note a corrected word for the coalesced entry of the Stitch (R497) and count it (R491, R511, R513). -/
def noteCe (d : Dev) (word : Nat) : Dev :=
  let k := word * 8
  let (code, bob) := storeCode k
  let a := k % 2 ^ 44
  let h := d.health
  let hit := fun (f : Nat × Nat × Nat × Nat) => f.1 == code && f.2.1 == bob
  let fixes := if h.fixes.any hit then h.fixes.map (fun f => if hit f then (f.1, f.2.1, f.2.2.1, f.2.2.2 + 1) else f)
    else h.fixes ++ [(code, bob, a, 1)]
  let d := { d with health := { h with fixes } }
  if bob < 8 then setBob d bob (fun b => { b with ceCnt := b.ceCnt + 1 })
  else if code == 7 then { d with ddr := { d.ddr with ce := d.ddr.ce + 1 } }
  else if 1 ≤ code && code ≤ 6 then
    { d with health := { d.health with secc := vmod d.health.secc (code - 1) (fun x => (x.1, x.2 + 1)) } }
  else d

/-- Uncorrectable errors of a Bobbin within the window in force (R498, R511). -/
def recentUe (d : Dev) (n : Nat) : Nat :=
  let b := bobOf d n
  b.ueNow + ((b.uePast.take (cf d .bEccCfg n 0 14 8 - 1)).foldl (· + ·) 0)

/-- A Bobbin that reaches ECC_FAIL_LIMIT stops accepting words and fails at the boundary (R204, R498). -/
def judgeLimit (c : Units) (d : Dev) (n : Nat) : Dev :=
  let lim := cf d .bEccCfg n 0 7 0
  if lim != 0 && lim ≤ recentUe d n then
    setBob (stopBob d n) n (fun b => { b with
      failDue := if ust c (8 + n) == .failed then b.failDue else match b.failDue with | none => some 2 | x => x })
  else d

/-- Raise ECC_UNCORRECTABLE for a word and count it (R496, R498, R511, R513). -/
def noteUe (c : Units) (d : Dev) (w : Who) (word : Nat) (flips : BitVec 72) : Dev :=
  let k := word * 8
  let (code, bob) := storeCode k
  let a := k % 2 ^ 44
  let d := { d with health := { d.health with eccUe := true, ueAt := some d.clk.mono } }
  let d :=
    if bob < 8 then
      judgeLimit c (setBob d bob (fun b => { b with ueCnt := b.ueCnt + 1, ueNow := b.ueNow + 1 })) bob
    else if code == 7 then { d with ddr := { d.ddr with ue := d.ddr.ue + 1 } }
    else if 1 ≤ code && code ≤ 6 then
      { d with health := { d.health with secc := vmod d.health.secc (code - 1) (fun x => (x.1 + 1, x.2)) } }
    else d
  let tie := match w.job.bind (jobOf d) with
    | some j => Tie.job j.id
    | none => if w.part < 8 then .part w.part else .nothing
  let u := if bob < 8 then 8 + bob else w.unit
  raise c d tie { code := 0x000F, unit := u, log := true
                  detail := [code, a % 2 ^ 32, a / 2 ^ 32, w.unit, (Config.eccSyndrome flips).toNat] }

/-- The reports of one read of a range (R496), and whether it met an uncorrectable error. -/
def eccRead (c : Units) (d : Dev) (w : Who) (k n : Nat) : Dev × Bool :=
  if d.ecc.isEmpty then (d, false)
  else
    (eccIn d k n).foldl (fun (x : Dev × Bool) e =>
      match (eccJudge e.2).2 with
      | 0 => x
      | 1 => (noteCe x.1 e.1, x.2)
      | _ => (noteUe c x.1 w e.1 e.2, true)) (d, false)

/-- Write bytes (R539): words covered whole are renewed; a word covered in part is merged after a checked read. -/
def store (c : Units) (d : Dev) (w : Who) (k : Nat) (bs : List Byte) : Dev :=
  if bs.isEmpty then d
  else if d.ecc.isEmpty then { d with mem := Memory.setAll d.mem k bs }
  else
    let n := bs.length
    let hit := eccIn d k n
    let part := hit.filter (fun e => e.1 * 8 < k || k + n < e.1 * 8 + 8)
    let d := part.foldl (fun d e =>
      let d := match (eccJudge e.2).2 with | 0 => d | 1 => noteCe d e.1 | _ => noteUe c d w e.1 e.2
      { d with mem := Memory.setAll d.mem (e.1 * 8) (peek d (e.1 * 8) 8) }) d
    let d := { d with ecc := d.ecc.filter (fun e => !hit.any (fun h => h.1 == e.1)) }
    { d with mem := Memory.setAll d.mem k bs }

/-- A list of writes. -/
def storeAll (c : Units) (d : Dev) (w : Who) (ws : List (Nat × List Byte)) : Dev :=
  ws.foldl (fun d x => store c d w x.1 x.2) d

end Sys2Proof.Machine
end

