-- ==== Sys2Proof/Machine/Num.lean ====
section
/-!
DEFINITION. Number formats (R151 to R172): exact values, the one rounding of a conversion, saturation, the
conversion control word, and the special functions within their stated bounds (R197, R198, R238).
-/
namespace Sys2Proof.Machine

/-- An exact extended value: (−1)^s × m × 2^e, an infinity, or a NaN with its sign. -/
inductive Xv where
  | nan (s : Bool)
  | inf (s : Bool)
  | fin (s : Bool) (m : Nat) (e : Int)
  deriving DecidableEq, Repr

/-- Exact zero. -/
def Xv.zero : Xv := .fin false 0 0

/-- Exact integer. -/
def Xv.ofInt (i : Int) : Xv := .fin (i < 0) i.natAbs 0

/-- Value of a code of a binary floating layout with infinities and NaNs, unless `nanOnly` (E4M3, R151, R152). -/
def floatVal (eb mb : Nat) (bias : Int) (nanOnly : Bool) (code : Nat) : Xv :=
  let s := bitOf code (eb + mb)
  let ex := bitsOf code (eb + mb - 1) mb
  let m := code % 2 ^ mb
  if nanOnly && ex == 2 ^ eb - 1 && m == 2 ^ mb - 1 then .nan s
  else if !nanOnly && ex == 2 ^ eb - 1 then (if m == 0 then .inf s else .nan s)
  else if ex == 0 then .fin s m (1 - bias - mb)
  else .fin s (2 ^ mb + m) ((ex : Int) - bias - mb)

/-- Magnitude of a PF4 element code in halves (R155). -/
def pf4Halves (c : Nat) : Nat := [0, 1, 2, 3, 4, 6, 8, 12].getD (c % 8) 0

/-- Value of a code (R151 to R156); for PF4 the block's scale byte is given. -/
def codeVal (fmt code sb : Nat) : Xv :=
  match fmt with
  | 0 => floatVal 8 23 127 false code
  | 1 => floatVal 8 7 127 false code
  | 2 => floatVal 4 3 7 true code
  | 3 => floatVal 5 2 15 false code
  | 4 => Xv.ofInt (sx 8 code)
  | 5 => Xv.ofInt (sx 4 code)
  | 6 => .fin false (code % 256) 0
  | _ => if sb == 0 then Xv.zero else .fin (bitOf code 3) (pf4Halves code) ((sb : Int) - 129)

/-- Value of an FP32 code. -/
def f32 (w : Word) : Xv := codeVal 0 w.toNat 0

/-- Whether a value is zero. -/
def Xv.isZero : Xv → Bool
  | .fin _ 0 _ => true
  | _ => false

/-- Negation, under which a NaN keeps the sign of the input (R154). -/
def Xv.neg : Xv → Xv
  | .nan s => .nan s | .inf s => .inf (!s) | .fin s m e => .fin (!s) m e

/-- Signed significand of a finite value at exponent e0 ≤ e. -/
def sig (s : Bool) (m : Nat) (e e0 : Int) : Int :=
  let v : Int := (m * 2 ^ (e - e0).toNat : Nat)
  if s then -v else v

/-- Sign of the result where NaNs of two signs meet: their own where they agree, else open (R154; DESIGN CHOICE, log entry 17). -/
def nanMeet (s t : Bool) : Bool := if s == t then s else Config.nanSign 4

/-- Exact sum (R170): opposite infinities give a NaN; an exact zero is −0 only when both terms are. -/
def Xv.add : Xv → Xv → Xv
  | .nan s, .nan t => .nan (nanMeet s t)
  | .nan s, _ => .nan s
  | _, .nan s => .nan s
  | .inf a, .inf b => if a == b then .inf a else .nan (Config.nanSign 0)
  | .inf a, _ => .inf a
  | _, .inf b => .inf b
  | .fin a m e, .fin b n f =>
    let e0 := if e ≤ f then e else f
    let t := sig a m e e0 + sig b n f e0
    if t == 0 then .fin (a && b && m == 0 && n == 0) 0 0 else .fin (t < 0) t.natAbs e0

/-- Exact product: zero times infinity gives a NaN. -/
def Xv.mul : Xv → Xv → Xv
  | .nan s, .nan t => .nan (nanMeet s t)
  | .nan s, _ => .nan s
  | _, .nan s => .nan s
  | .inf a, .inf b => .inf (a != b)
  | .inf a, .fin b n _ => if n == 0 then .nan (Config.nanSign 1) else .inf (a != b)
  | .fin a m _, .inf b => if m == 0 then .nan (Config.nanSign 1) else .inf (a != b)
  | .fin a m e, .fin b n f => .fin (a != b) (m * n) (e + f)

/-- Exact difference. -/
def Xv.sub (a b : Xv) : Xv := a.add b.neg

/-- Exact a × b + c: a NaN operand gives the sign of the NaN, also where the product alone would generate one (R154, R198). -/
def Xv.fma (a b c : Xv) : Xv :=
  match a, b, c with
  | .nan _, _, _ | _, .nan _, _ => (a.mul b).add c
  | _, _, .nan s => .nan s
  | _, _, _ => (a.mul b).add c

/-- Sign of a NaN, and of an infinity. -/
def Xv.nanOf : Xv → Option Bool
  | .nan s => some s
  | _ => none
def Xv.infOf : Xv → Option Bool
  | .inf s => some s
  | _ => none

/-- Exact sum of a list from a start value, whatever the order of the terms (R170): a NaN where a term is one, or where
infinities meet; where NaNs of both signs meet its sign is open. -/
def Xv.sum (z : Xv) (l : List Xv) : Xv :=
  let ns := (z :: l).filterMap Xv.nanOf
  let is := (z :: l).filterMap Xv.infOf
  match ns, is with
  | [], [] => l.foldl Xv.add z
  | [], s :: t => if t.all (· == s) then .inf s else .nan (Config.nanSign 0)
  | s :: t, _ => .nan (if t.all (· == s) then s else Config.nanSign 4)

/-- Comparison of finite values as signed numbers: true when a < b. -/
def finLt (a b : Bool × Nat × Int) : Bool :=
  let e0 := if a.2.2 ≤ b.2.2 then a.2.2 else b.2.2
  sig a.1 a.2.1 a.2.2 e0 < sig b.1 b.2.1 b.2.2 e0

/-- a < b for values that are not NaN, with −0 equal to +0. -/
def Xv.lt : Xv → Xv → Bool
  | .inf true, .inf true => false
  | .inf true, _ => true
  | _, .inf true => false
  | .inf false, _ => false
  | _, .inf false => true
  | .fin a m e, .fin b n f => finLt (a, m, e) (b, n, f)
  | _, _ => false

/-- a is below b with −0 below +0 (R198, R223). -/
def Xv.below (a b : Xv) : Bool :=
  match a, b with
  | .fin s 0 _, .fin t 0 _ => s && !t
  | a, b => a.lt b

/-- Larger and smaller of two values under R198. -/
def Xv.max2 : Xv → Xv → Xv
  | .nan s, _ => .nan s
  | _, .nan s => .nan s
  | a, b => if a.below b then b else a
def Xv.min2 : Xv → Xv → Xv
  | .nan s, _ => .nan s
  | _, .nan s => .nan s
  | a, b => if b.below a then b else a

/-! ### Rounding (R158) -/

/-- floor(log2 (a / b)) for positive a and b. -/
def log2Rat (a b : Nat) : Int :=
  let k : Int := (Nat.log2 a : Int) - (Nat.log2 b : Int)
  let lhs := if k < 0 then a * 2 ^ (-k).toNat else a
  let rhs := if k < 0 then b else b * 2 ^ k.toNat
  if lhs < rhs then k - 1 else k

/-- Round a / b × 2^e to an integer multiple of 2^q: nearest with ties to even, or toward zero. -/
def roundAt (rtz : Bool) (a b : Nat) (e q : Int) : Nat :=
  let d := e - q
  let num := if d < 0 then a else a * 2 ^ d.toNat
  let den := if d < 0 then b * 2 ^ (-d).toNat else b
  let n := num / den
  let r := num % den
  if rtz then n else if 2 * r < den then n else if den < 2 * r then n + 1 else if n % 2 == 0 then n else n + 1

/-- Round a positive a / b × 2^e to a grid of mb mantissa bits whose smallest step is 2^qmin: significand and step. -/
def roundGrid (rtz : Bool) (a b : Nat) (e : Int) (mb : Nat) (qmin : Int) : Nat × Int :=
  if a == 0 then (0, qmin)
  else
    let ex := log2Rat a b + e
    let q := if ex - mb < qmin then qmin else ex - mb
    (roundAt rtz a b e q, q)

/-- Code, and what a conversion counts (R159 to R161). -/
structure Cv where
  code  : Nat
  sat   : Bool := false
  uflow : Bool := false
  nan   : Bool := false
  deriving DecidableEq, Repr

/-- Layout of a floating format: exponent bits, mantissa bits, bias (R151). -/
def floatFmt (fmt : Nat) : Nat × Nat × Int :=
  if fmt == 0 then (8, 23, 127) else if fmt == 1 then (8, 7, 127) else if fmt == 2 then (4, 3, 7) else (5, 2, 15)

/-- Encode n × 2^q, on the grid, in a floating layout; the exponent field may exceed its width for a value out
of range. -/
def encodeGrid (eb mb : Nat) (bias : Int) (n : Nat) (q : Int) : Nat :=
  if n == 0 then 0
  else
    let l := Nat.log2 n
    let ex : Int := q + l + bias
    if ex < 1 then n
    else
      let m := if l ≤ mb then n * 2 ^ (mb - l) else n / 2 ^ (l - mb)
      ex.toNat * 2 ^ mb + (m - 2 ^ mb) + 0 * eb

/-- Largest finite code of a format without its sign (R151). -/
def maxCode (fmt : Nat) : Nat :=
  if fmt == 0 then 0x7F7FFFFF else if fmt == 1 then 0x7F7F else if fmt == 2 then 0x7E else if fmt == 3 then 0x7B
  else if fmt == 4 then 127 else if fmt == 5 then 7 else if fmt == 6 then 255 else 7

/-- Canonical NaN code without its sign (R154). -/
def nanCode (fmt : Nat) : Nat :=
  if fmt == 0 then 0x7FC00000 else if fmt == 1 then 0x7FC0 else if fmt == 2 then 0x7F else 0x7F

/-- Sign bit of a floating format. -/
def signBit (fmt : Nat) : Nat := if fmt == 0 then 0x80000000 else if fmt == 1 then 0x8000 else 0x80

/-- Convert the exact value x / (sn × 2^se) to a format other than PF4 (R158 to R161). -/
def convert1 (fmt : Nat) (rtz nonsat : Bool) (sn : Nat) (se : Int) (x : Xv) : Cv :=
  if fmt < 4 then
    let (eb, mb, bias) := floatFmt fmt
    let sg := fun (s : Bool) => if s then signBit fmt else 0
    match x with
    | .nan s => { code := nanCode fmt + sg s, nan := true }
    | .inf s => { code := (if nonsat then (2 ^ eb - 1) * 2 ^ mb else maxCode fmt) + sg s, sat := true }
    | .fin s m e =>
      let (n, q) := roundGrid rtz m sn (e - se) mb (1 - bias - mb)
      let c := encodeGrid eb mb bias n q
      if maxCode fmt < c then { code := (if nonsat then (2 ^ eb - 1) * 2 ^ mb else maxCode fmt) + sg s, sat := true }
      else { code := c + sg s, uflow := m != 0 && n == 0 }
  else
    let w := if fmt == 5 then 4 else 8
    let top := maxCode fmt
    match x with
    | .nan _ => { code := 0, nan := true }
    | .inf s => { code := if fmt == 6 && s then 0 else if s then unsx w (-(top : Int)) else top, sat := true }
    | .fin s m e =>
      let n := roundAt rtz m sn (e - se) 0
      if fmt == 6 then
        (if s && n != 0 then { code := 0, sat := true }
         else if top < n then { code := top, sat := true } else { code := n, uflow := m != 0 && n == 0 })
      else if top < n then { code := if s then unsx w (-(top : Int)) else top, sat := true }
      else { code := if s then unsx w (-(n : Int)) else n, uflow := m != 0 && n == 0 }

/-- RNE_FP32 of an exact value inside an operation: IEEE 754, so a result out of range is an infinity (R170). -/
def rne32 (x : Xv) : Word :=
  match x with
  | .nan s => if s then 0xFFC00000 else 0x7FC00000
  | .inf s => if s then 0xFF800000 else 0x7F800000
  | .fin s m e =>
    let (n, q) := roundGrid false m 1 e 23 (-149)
    let c := encodeGrid 8 23 127 n q
    BitVec.ofNat 32 ((if 0x7F7FFFFF < c then 0x7F800000 else c) + (if s then 0x80000000 else 0))

/-- RNE_FP32 of the exact quotient of two finite values, the divisor not zero. -/
def rneQuot (s : Bool) (a b : Nat) (e : Int) : Word :=
  let (n, q) := roundGrid false a b e 23 (-149)
  let c := encodeGrid 8 23 127 n q
  BitVec.ofNat 32 ((if 0x7F7FFFFF < c then 0x7F800000 else c) + (if s then 0x80000000 else 0))

/-- IEEE quotient of two exact values rounded once to FP32. -/
def div32 (x y : Xv) : Word :=
  match x, y with
  | .nan s, .nan t => rne32 (.nan (nanMeet s t))
  | .nan s, _ => rne32 (.nan s)
  | _, .nan s => rne32 (.nan s)
  | .inf _, .inf _ => rne32 (.nan (Config.nanSign 3))
  | .inf a, .fin b _ _ => rne32 (.inf (a != b))
  | .fin a _ _, .inf b => rne32 (.fin (a != b) 0 0)
  | .fin a m e, .fin b n f =>
    if n == 0 then (if m == 0 then rne32 (.nan (Config.nanSign 3)) else rne32 (.inf (a != b)))
    else rneQuot (a != b) m n (e - f)

/-! ### Scales (R162 to R165) -/

/-- A scale as read by a unit: positive and finite, or the zero scale (R162). -/
inductive Scale where
  | one
  | zero
  | val (m : Nat) (e : Int)
  deriving DecidableEq, Repr

/-- An FP32 word as a scale: anything that is not positive and finite is +0, and whether it is a valid scale. -/
def scaleOf (w : Word) : Scale × Bool :=
  match f32 w with
  | .fin false 0 _ => (.zero, true)
  | .fin false m e => (.val m e, true)
  | _ => (.zero, false)

/-- Exact value of a scaled code (R162). -/
def scaled (x : Xv) : Scale → Xv
  | .one => x
  | .zero => Xv.zero
  | .val m e => x.mul (.fin false m e)

/-- QMAX of R164. -/
def qmax (fmt : Nat) : Nat :=
  if fmt == 4 then 127 else if fmt == 5 then 7 else if fmt == 6 then 255 else if fmt == 2 then 448 else 57344

/-- Absolute value. -/
def Xv.abs : Xv → Xv
  | .nan _ => .nan false | .inf _ => .inf false | .fin _ m e => .fin false m e

/-- Max-abs statistic of a granule (R163): NaN elements are ignored. -/
def maxAbs (l : List Xv) : Xv :=
  l.foldl (fun a x => match x with | .nan _ => a | x => if a.lt x.abs then x.abs else a) Xv.zero

/-- Dynamic scale from a statistic (R164): the FP32 code, +0 for a zero-range granule; open for a NaN statistic
(DESIGN CHOICE, log entry 24). -/
def dynScale (fmt : Nat) (m : Word) : Word :=
  match f32 m with
  | .fin _ 0 _ => 0
  | .fin false a e =>
    let c := (rneQuot false a (qmax fmt) e).toNat
    BitVec.ofNat 32 (min 0x7F7FFFFF (max 1 c))
  | .inf false => 0x7F7FFFFF
  | .nan _ => Config.openValue 3 m.toNat
  | _ => 1

/-- Exponent of a PF4 block from its max-abs (R165): the smallest e with m ≤ 6 × 2^e, limited to −127 to 127. -/
def pf4Exp (m : Xv) : Int :=
  match m with
  | .fin _ a e =>
    let k : Int := (Nat.log2 a : Int) + e - 3
    let fits := fun (x : Int) => !(Xv.lt (.fin false 6 x) (.fin false a e))
    let x := if fits k then k else if fits (k + 1) then k + 1 else k + 2
    if x < -127 then -127 else if 127 < x then 127 else x
  | _ => 127

/-- One PF4 element at a block exponent (R155, R165). -/
def pf4Elem (rtz : Bool) (ex : Int) (x : Xv) : Cv :=
  match x with
  | .nan _ => { code := 0, nan := true }
  | .inf s => { code := 7 + (if s then 8 else 0), sat := true }
  | .fin s m e =>
    let (n, q) := roundGrid rtz m 1 (e - ex) 1 (-1)
    let c := encodeGrid 2 1 1 n q
    if 7 < c then { code := 7 + (if s then 8 else 0), sat := true }
    else { code := c + (if s then 8 else 0), uflow := m != 0 && n == 0 }

/-- Counts of one conversion. -/
structure Tally where
  sat   : Nat := 0
  uflow : Nat := 0
  nan   : Nat := 0
  zr    : Nat := 0
  ovf   : Nat := 0
  /-- Granules under a valid scale +0: zero-range granules met (R160, R175) that R178 does not count. -/
  met   : Nat := 0
  deriving DecidableEq, Repr

/-- Add the counts of an element. -/
def Tally.add (t : Tally) (c : Cv) : Tally :=
  { t with sat := t.sat + b2n c.sat, uflow := t.uflow + b2n c.uflow, nan := t.nan + b2n c.nan }

/-- Sum of two tallies. -/
def Tally.join (a b : Tally) : Tally :=
  { sat := a.sat + b.sat, uflow := a.uflow + b.uflow, nan := a.nan + b.nan, zr := a.zr + b.zr, ovf := a.ovf + b.ovf,
    met := a.met + b.met }

/-- Whether a value is a NaN. -/
def Xv.isNan : Xv → Bool
  | .nan _ => true
  | _ => false

/-- One PF4 block of at most 16 elements: scale byte, codes, counts (R165). -/
def pf4Block (rtz : Bool) (xs : List Xv) : Nat × List Nat × Tally :=
  let m := maxAbs xs
  if m.isZero then
    (0, xs.map (fun _ => 0), { nan := (xs.filter Xv.isNan).length, zr := 1 })
  else
    let ex := pf4Exp m
    let cs := xs.map (pf4Elem rtz ex)
    ((ex + 128).toNat, cs.map (·.code), cs.foldl Tally.add {})

/-- Convert elements under one scale; under the zero scale every code is 0 (R160, R171). -/
def convertAll (fmt : Nat) (rtz nonsat : Bool) (sc : Scale) (xs : List Xv) : List Nat × Tally :=
  match sc with
  | .zero => (xs.map (fun _ => 0), { nan := (xs.filter Xv.isNan).length })
  | .one => let cs := xs.map (convert1 fmt rtz nonsat 1 0); (cs.map (·.code), cs.foldl Tally.add {})
  | .val m e => let cs := xs.map (convert1 fmt rtz nonsat m e); (cs.map (·.code), cs.foldl Tally.add {})

/-! ### The conversion control word (R166, R167) -/

/-- Fields of a CCW. -/
structure Ccw where
  fmt    : Nat
  rtz    : Bool
  nonsat : Bool
  src    : Nat
  gran   : Nat
  guard_ : Nat
  guarded : Bool
  repZr  : Bool
  rsvd   : Nat
  scale  : Word
  deriving DecidableEq, Repr

/-- Read a CCW (R166). -/
def ccwOf (n : Nat) : Ccw :=
  { fmt := bitsOf n 3 0, rtz := bitOf n 4, nonsat := bitOf n 5, src := bitsOf n 7 6, gran := bitsOf n 9 8,
    guard_ := bitsOf n 15 10, guarded := bitOf n 16, repZr := bitOf n 17, rsvd := bitsOf n 31 18,
    scale := BitVec.ofNat 32 (n / 2 ^ 32) }

/-- The whole tensor is one zero-range granule: its static scale is +0 (R160, R162). -/
def Ccw.zeroTensor (c : Ccw) : Bool := c.src == 1 && c.gran == 0 && c.scale == 0

/-- A CCW that governs a conversion is not reserved (R166, R167). -/
def Ccw.ok (c : Ccw) : Bool :=
  c.fmt < 8 && c.gran < 3 && c.src < 3 && c.rsvd == 0 && (c.guarded || c.guard_ == 0)
    && (!c.nonsat || c.fmt == 1 || c.fmt == 3)
    && (c.src == 0 || !(c.fmt == 0 || c.fmt == 1))
    && (c.fmt != 7 || (c.src == 2 && c.gran == 2)) && (c.gran != 2 || c.fmt == 7)
    && (scaleOf c.scale).2 && (c.scale == 0 || (c.src == 1 && c.gran == 0))

/-- Byte size of one element of a format; PF4 and INT4 are packed (R151, R183). -/
def fmtBytes (fmt : Nat) : Nat := if fmt == 0 then 4 else if fmt == 1 then 2 else 1

/-- Bytes of n packed elements of a format; PF4 in tiles of 144 bytes (R157, R183). -/
def packedBytes (fmt n : Nat) : Nat :=
  if fmt == 5 then cdiv n 2 else if fmt == 7 then 144 * cdiv n 256 else n * fmtBytes fmt

/-! ### Special functions (R197, R198, R238) -/

/-- ln 2 × 2^120, rounded down. -/
def ln2Fix : Nat := 921350637599661305226344307672478454

/-- Taylor sum of e^r in units of 2^-120 for a fixed-point r. -/
def expTaylor (r : Int) : Nat → Int
  | 0 => 0
  | n + 1 =>
    let rec go (k : Nat) (term acc : Int) (i : Nat) : Int :=
      match k with
      | 0 => acc
      | k + 1 => let t := (term * r) / (2 ^ 120 * (i : Int)); go k t (acc + t) (i + 1)
    go n (2 ^ 120) (2 ^ 120) 1

/-- e^x as a fixed-point number times 2^k: (significand at 2^-120, k), for |x| below 512. -/
def expFix (s : Bool) (m : Nat) (e : Int) : Nat × Int :=
  let v : Int := if e + 120 < 0 then (m / 2 ^ (-(e + 120)).toNat : Nat) else (m * 2 ^ (e + 120).toNat : Nat)
  let x := if s then -v else v
  let k := x.fdiv (ln2Fix : Int)
  ((expTaylor (x - k * (ln2Fix : Int)) 48).toNat, k)

/-- A positive FP32 code lies within relative distance 2^-p of a / b × 2^e. -/
def within (w : Word) (a b : Nat) (e : Int) (p : Nat) : Bool :=
  match f32 w with
  | .fin false m f =>
    let d := f - e
    let l : Int := (m * b * 2 ^ p * (if d < 0 then 1 else 2 ^ d.toNat) : Nat)
    let r : Int := (a * 2 ^ p * (if d < 0 then 2 ^ (-d).toNat else 1) : Nat)
    let t : Int := (a * (if d < 0 then 2 ^ (-d).toNat else 1) : Nat)
    m != 0 && decide (l - r ≤ t) && decide (r - l ≤ t)
  | _ => false

/-- The operand of a special function in the form Config.sfuRaw takes: signed odd significand and exponent. -/
def oddForm (s : Bool) (m : Nat) (e : Int) : Int × Int :=
  let rec strip (fuel n : Nat) (k : Int) : Nat × Int :=
    match fuel with
    | 0 => (n, k)
    | f + 1 => if n != 0 && n % 2 == 0 then strip f (n / 2) (k + 1) else (n, k)
  let (n, k) := strip 300 m e
  (if s then -(n : Int) else n, k)

/-- exp32 (R197): exactly 1 for 0, +0 for −inf, +inf for +inf; otherwise the part's value if it meets the stated
bound, which the device's value does, else the rounded exact value. -/
def exp32 (x : Xv) : Word :=
  match x with
  | .nan s => rne32 (.nan s)
  | .inf true => 0
  | .inf false => 0x7F800000
  | .fin s m e =>
    if m == 0 then 0x3F800000
    else if Xv.lt (.fin false 128 0) (.fin false m e) then (if s then 0 else 0x7F800000)
    else
      let (a, k) := expFix s m e
      let near := rneQuot false a 1 (k - 120)
      let (om, oe) := oddForm s m e
      let raw := Config.sfuRaw 0 om oe
      if within raw a 1 (k - 120) 22 then raw else near

/-- RECIP before its conversion (R197, R198). -/
def recip32 (x : Xv) : Word :=
  match x with
  | .nan s => rne32 (.nan s)
  | .inf s => rne32 (.fin s 0 0)
  | .fin s m e =>
    if m == 0 then rne32 (.inf s)
    else
      let near := rneQuot s 1 m (-e)
      let (om, oe) := oddForm s m e
      let raw := Config.sfuRaw 1 om oe
      let mag := if s then raw ^^^ 0x80000000 else raw
      if within mag 1 m (-e) 23 then raw else near

/-- Integer square root. -/
def isqrt (n : Nat) : Nat :=
  let rec go (k r : Nat) : Nat :=
    match k with
    | 0 => r
    | k + 1 => let c := r + 2 ^ k; go k (if c * c ≤ n then c else r)
  go (Nat.log2 n / 2 + 2) 0

/-- 1 / √(m × 2^e) as a fixed-point number: (significand, exponent), 100 bits. -/
def rsqrtFix (m : Nat) (e : Int) : Nat × Int :=
  let odd := e % 2
  let m' := if odd == 0 then m else 2 * m
  let e' := e - odd
  (isqrt (2 ^ 400 / m'), -(e' / 2) - 200)

/-- RSQRT before its conversion (R197, R198). -/
def rsqrt32 (x : Xv) : Word :=
  match x with
  | .nan s => rne32 (.nan s)
  | .inf false => 0
  | .inf true => rne32 (.nan (Config.nanSign 2))
  | .fin s m e =>
    if m == 0 then rne32 (.inf s)
    else if s then rne32 (.nan (Config.nanSign 2))
    else
      let (a, k) := rsqrtFix m e
      let near := rneQuot false a 1 k
      let (om, oe) := oddForm false m e
      let raw := Config.sfuRaw 2 om oe
      if within raw a 1 k 22 then raw else near

/-- ln of a positive value, in units of 2^-120. -/
def lnFix (m : Nat) (e : Int) : Int :=
  let l := Nat.log2 m
  -- z = (f - 1) / (f + 1) for f = m / 2^l
  let z : Nat := (m - 2 ^ l) * 2 ^ 120 / (m + 2 ^ l)
  let z2 := z * z / 2 ^ 120
  let rec go (k : Nat) (p acc i : Nat) : Nat :=
    match k with
    | 0 => acc
    | k + 1 => go k (p * z2 / 2 ^ 120) (acc + p / i) (i + 2)
  (2 * go 60 z 0 1 : Nat) + (e + l) * (ln2Fix : Int)

/-- ln of a value of at least 1 as FP32, to the error that R238 states. -/
def ln32 (x : Xv) : Word :=
  match x with
  | .fin false m e =>
    let v := lnFix m e
    if v ≤ 0 then 0
    else
      let near := rneQuot false v.toNat 1 (-120)
      let (om, oe) := oddForm false m e
      let raw := Config.sfuRaw 3 om oe
      if within raw v.toNat 1 (-120) 22 then raw else near
  | .fin true _ _ => rne32 (.nan (Config.nanSign 2))
  | .inf s => if s then rne32 (.nan (Config.nanSign 2)) else 0x7F800000
  | .nan s => rne32 (.nan s)

/-- √ of a non-negative finite value times a finite factor, as an exact ratio rounded once to FP32 (R399):
f × √(m × 2^e) × 2^fe / q. -/
def sqrtScaled (f : Nat) (fe : Int) (q : Nat) (qe : Int) (m : Nat) (e : Int) : Word :=
  if m == 0 || f == 0 then 0
  else
    let odd := e % 2
    let m' := if odd == 0 then m else 2 * m
    let r := isqrt (m' * 2 ^ 400)
    -- a sticky unit keeps the rounding of the irrational root exact
    let sticky := if r * r == m' * 2 ^ 400 then 0 else 1
    rneQuot false ((2 * r + sticky) * f) q ((e - odd) / 2 - 201 + fe - qe)

/-- An exact value as it is gathered in a flight, and back. -/
def Xv.pack : Xv → Nat × Nat × Int
  | .fin s m e => (b2n s, m, e)
  | .inf s => (2 + b2n s, 0, 0)
  | .nan s => (4 + b2n s, 0, 0)
def Xv.unpack (x : Nat × Nat × Int) : Xv :=
  if x.1 < 2 then .fin (x.1 == 1) x.2.1 x.2.2 else if x.1 < 4 then .inf (x.1 == 3) else .nan (x.1 == 5)

/-- The largest of a row's scores for the block step of R237: a NaN where a score is one, and where an unmasked score is +inf
(R239). -/
def scoreMax (s : List Xv) : Xv :=
  match s.foldl Xv.max2 (.inf true) with
  | .inf false => .nan (Config.nanSign 0)
  | x => x

end Sys2Proof.Machine
end

