-- ==== Sys2Proof/Machine/Clock.lean ====
section
/-!
DEFINITION. Time inside a Stitch: clocks (R21 to R25), the agenda of the operations in flight, their completion and
their faults (R63), and the local stores' ports (R195, R196).
-/
namespace Sys2Proof.Machine

/-- TCLK edges in n CCLK cycles from a phase: ten VCO ticks a cycle, eleven an edge (R21). -/
def tclkEdges (phase n : Nat) : Nat := 10 * (phase + n) / 11 - 10 * phase / 11

/-- Let n CCLK cycles pass within a Stitch (R22, R25, R44). -/
def elapse (d : Dev) (n : Nat) : Dev :=
  if n = 0 then d
  else
    let k := d.clk
    let time := match k.timeLoad with
      | none => k.time + BitVec.ofNat 64 (tclkEdges k.phase n)
      | some v => v + BitVec.ofNat 64 (tclkEdges ((k.phase + 1) % 11) (n - 1))
    { d with clk := { k with
      mono := k.mono + n, offset := k.offset + n, time, phase := (k.phase + n) % 11, timeLoad := none, was := allCounts d } }

/-- Order of agenda entries: cycle, order within the cycle, age of the operation. -/
def Ev.before (a b : Ev) : Bool := a.at_ < b.at_ || (a.at_ == b.at_ && (a.prio < b.prio || (a.prio == b.prio && a.fl < b.fl)))

/-- Insert an agenda entry behind its equals. -/
def insertEv (e : Ev) : List Ev → List Ev
  | [] => [e]
  | x :: t => if e.before x then e :: x :: t else x :: insertEv e t

/-- Schedule a step of an operation. -/
def addEv (d : Dev) (at_ prio fl : Nat) (act : Act) : Dev := { d with agenda := insertEv ⟨at_, prio, fl, act⟩ d.agenda }

/-! Order within a cycle: reads, then writes with the port that stands higher in R195 applied last (R196), then
completion. -/

def prioRead : Nat := 0
/-- Entries of OUT words: behind what the text unit hands over in the same cycle, before every write (R196, R368). -/
def prioOut : Nat := 5
def prioRing : Nat := 10
def prioMove : Nat := 11
def prioWin : Nat := 12
def prioVec : Nat := 13
def prioDrain : Nat := 14
def prioEnd : Nat := 100

/-! ### Staging halves (R396) -/

/-- Batch size B and the half size H. -/
def batchSize (d : Dev) : Nat := cf d .aCfg 0 0 14 8 + 1
def halfSize (d : Dev) : Nat := 4096 + batchSize d * cf d .aStage 0 0 28 16 * 1024

/-- First byte of the staging range. -/
def stageBase (d : Dev) : Nat := cf d .aStage 0 0 14 0 * 4096

/-- Where a page-store byte that a move engine or a window unit names lies: the published half is found at S0 (R396). -/
def pageMap (d : Dev) (a : Nat) : Nat :=
  let s := stageBase d
  let h := halfSize d
  if !d.adapt.half || a < s || s + 2 * h ≤ a then a else if a < s + h then a + h else a - h

/-- Stretches of n page-store bytes as a move engine or a window unit reaches them: key and length. -/
def pageSpans (d : Dev) (a n : Nat) : List (Nat × Nat) :=
  if !d.adapt.half then [(key 1 a, n)]
  else
    let s := stageBase d
    let h := halfSize d
    let starts := a :: [s, s + h, s + 2 * h].filter (fun x => a < x && x < a + n)
    let stops := starts.drop 1 ++ [a + n]
    (List.zip starts stops).map (fun x => (key 1 (pageMap d x.1), x.2 - x.1))

/-- A write of a unit, page-store addresses mapped to their half. -/
def pageWrite (d : Dev) (w : Nat × List Byte) : List (Nat × List Byte) :=
  if !d.adapt.half || w.1 / 2 ^ 44 != 1 then [w]
  else
    ((pageSpans d (w.1 % 2 ^ 44) w.2.length).foldl (fun (x : List (Nat × List Byte) × List Byte) y =>
      (x.1 ++ [(y.1, x.2.take y.2)], x.2.drop y.2)) ([], w.2)).1

/-- Results that become readable at a cycle are written in the cycle before, after its reads. -/
def putAt (d : Dev) (readable prio fl : Nat) (ws : List (Nat × List Byte)) : Dev :=
  if ws.isEmpty then d else addEv d (readable - 1) prio fl (.put (ws.flatMap (pageWrite d)))

/-- The flight of an agenda entry. -/
def flightOf (d : Dev) (id : Nat) : Option Flight := d.flights.find? (fun f => f.id == id)

/-- Update a flight. -/
def setFlight (d : Dev) (id : Nat) (f : Flight → Flight) : Dev :=
  { d with flights := d.flights.map (fun x => if x.id == id then f x else x) }

/-- Record a fault against an operation (R63). -/
def fault (d : Dev) (p cycle kind op : Nat) : Dev :=
  setPart d p (fun s => { s with faults := s.faults ++ [⟨cycle, kind, op⟩] })

/-- An operation completes at a cycle: its flight leaves, in time or after LATE. -/
def completeAt (d : Dev) (f : Flight) (cycle : Nat) : Dev :=
  let d := setFlight d f.id (fun x => { x with done := some cycle })
  addEv d cycle prioEnd f.id .finish

/-- Who reads for a Bobbin word (R542). -/
def whoBob (f : Flight) (job : Option Nat) : Who := { unit := 8 + f.bob.getD 0, part := f.part, job }

/-! ### Local stores -/

/-- Bytes of a Bobbin's local store; beyond its end the value is open (DESIGN CHOICE, log entry 22). -/
def lsGet (d : Dev) (n a len : Nat) : List Byte :=
  if a + len ≤ 20971520 then peek d (key (8 + n) a) len
  else peek d (key (8 + n) a) (20971520 - a)
    ++ (List.range (len - (20971520 - a))).map (fun i => (Config.openValue 2 (a + i)).truncate 8)

/-- A write to a Bobbin's local store; bytes beyond its end are not written. -/
def lsPut (n a : Nat) (bs : List Byte) : Nat × List Byte := (key (8 + n) a, bs.take (20971520 - a))

/-- A little-endian number in a local store. -/
def lsNat (d : Dev) (n a len : Nat) : Nat := leNat (lsGet d n a len)

/-- An FP32 word in a local store. -/
def lsWord (d : Dev) (n a : Nat) : Word := BitVec.ofNat 32 (lsNat d n a 4)

/-- ECC reports of a local-store read. -/
def lsNote (c : Units) (d : Dev) (w : Who) (n a len : Nat) : Dev × Bool := eccRead c d w (key (8 + n) a) len

/-! ### Elements in memory -/

/-- Element i of packed data in a byte list: FP32, BF16, bytes, INT4 nibbles, PF4 tiles (R157, R183); with the
scale byte of a PF4 element. -/
def elemAt (fmt : Nat) (bs : List Byte) (i : Nat) : Nat × Nat :=
  let nib := fun (o : Nat) => bitsOf (fld bs (o + i % 256 / 2) 1) (if i % 2 = 0 then 3 else 7) (if i % 2 = 0 then 0 else 4)
  if fmt == 0 then (fld bs (4 * i) 4, 0)
  else if fmt == 1 then (fld bs (2 * i) 2, 0)
  else if fmt == 5 then (bitsOf (fld bs (i / 2) 1) (if i % 2 = 0 then 3 else 7) (if i % 2 = 0 then 0 else 4), 0)
  else if fmt == 7 then (nib (i / 256 * 144), fld bs (i / 256 * 144 + 128 + i % 256 / 16) 1)
  else (fld bs i 1, 0)

/-- Exact value of element i of packed data. -/
def valAt (fmt : Nat) (bs : List Byte) (i : Nat) : Xv := let e := elemAt fmt bs i; codeVal fmt e.1 e.2

/-- Values of elements lo to lo + n − 1 of packed data at a local-store address. -/
def lsVals (d : Dev) (n fmt a lo cnt : Nat) : List Xv :=
  if fmt == 7 then
    let t0 := lo / 256
    let bs := lsGet d n (a + 144 * t0) (144 * (cdiv (lo + cnt) 256 - t0))
    (List.range cnt).map (fun i => valAt 7 bs (lo - 256 * t0 + i))
  else if fmt == 5 then
    let bs := lsGet d n (a + lo / 2) (cdiv (lo % 2 + cnt) 2)
    (List.range cnt).map (fun i => valAt 5 bs (lo % 2 + i))
  else
    let z := fmtBytes fmt
    let bs := lsGet d n (a + z * lo) (z * cnt)
    (List.range cnt).map (fun i => valAt fmt bs i)

/-- Pack codes of a format other than PF4; an odd number of INT4 codes leaves the last high nibble open (DESIGN CHOICE, log entry 23). -/
def packCodes (fmt free : Nat) : List Nat → List Byte
  | [] => []
  | x :: t =>
    if fmt == 5 then
      match t with
      | [] => [BitVec.ofNat 8 (x + 16 * bitsOf (Config.openValue 1 free).toNat 3 0)]
      | y :: t => BitVec.ofNat 8 (x + 16 * y) :: packCodes fmt free t
    else leBytes (fmtBytes fmt) x ++ packCodes fmt free t

/-- One PF4 tile from at most 256 values: 128 bytes of elements, 16 scale bytes; padding is code 0 (R157, R165). -/
def pf4Tile (rtz : Bool) (xs : List Xv) : List Byte × Tally :=
  let blocks := (List.range 16).map (fun b =>
    let ys := (xs.drop (16 * b)).take 16
    if ys.isEmpty then (0, List.replicate 16 0, ({} : Tally))
    else
      let r := pf4Block rtz ys
      (r.1, r.2.1 ++ List.replicate (16 - ys.length) 0, r.2.2))
  (packCodes 5 0 (blocks.flatMap (fun b => b.2.1)) ++ blocks.map (fun b => BitVec.ofNat 8 b.1),
   blocks.foldl (fun t b => t.join b.2.2) {})

/-- Count a tally in a Bobbin's statistics (R178). -/
def countNum (d : Dev) (n : Nat) (t : Tally) : Dev :=
  setBob d n (fun b => { b with num := {
    sat := b.num.sat + t.sat, uflow := b.num.uflow + t.uflow, nan := b.num.nan + t.nan
    zr := b.num.zr + t.zr, accOvf := b.num.accOvf + t.ovf } })

/-- Book a conversion: statistics, guard saturations at completion (R174), granules to report (R175). -/
def book (d : Dev) (f : Flight) (ccw : Ccw) (t : Tally) : Dev :=
  let d := countNum d (f.bob.getD 0) t
  let met := t.zr + t.met
  let d := if ccw.repZr && met != 0 then setPart d f.part (fun s => { s with zr := s.zr + met }) else d
  if ccw.guarded && t.sat != 0 then addEv d (f.done.getD f.limit) (prioEnd - 1) f.id (.sats ccw.guard_ t.sat) else d

end Sys2Proof.Machine
end

