-- ==== Sys2Proof/Machine/Array.lean ====
section
/-!
DEFINITION. Array operations (R181 to R193): MATMUL and WLOAD words, their beats, weight banks and claims, the
accumulator update (R168 to R171), the activity ramp (R192).
-/
namespace Sys2Proof.Machine

/-! ### Word fields (R187) -/

def maBank (w : Nat) : Nat := bitsOf w 39 39
def maAcc (w : Nat) : Bool := bitOf w 38
def maOut (w : Nat) : Bool := bitOf w 37
def maRows (w : Nat) : Nat := bitsOf w 36 28 + 1
def maDepth (w : Nat) : Nat := bitsOf w 27 22 + 1
def maBase (w : Nat) : Nat := bitsOf w 21 13
/-- Beats of a MATMUL (R189). -/
def maBeats (w : Nat) : Nat := maRows w * maDepth w
/-- LINES of a WLOAD. -/
def wlLines (w : Nat) : Nat := bitsOf w 38 34 + 1

/-- Integer formats (R168). -/
def isInt (f : Nat) : Bool := f == 4 || f == 5 || f == 6

/-- E, activation bytes and weight bytes of one beat for an operand pair; none when the array does not accept it
(R168, R183). -/
def pairOf (act wt : Nat) : Option (Nat × Nat × Nat) :=
  let ok := fun f => 1 ≤ f && f ≤ 7
  if !(ok act && ok wt) then none
  else
    let bits := fun (f : Nat) => if f == 1 then 16 else if f == 5 || f == 7 then 4 else 8
    let e := if act == 1 || wt == 1 then 32 else if act == 7 && wt == 7 then 256 else 128
    some (e, e * bits act / 8, e * bits wt / 8)

/-- Greatest depth a bank serves (R183). -/
def depthMax (wb : Nat) : Nat := min 64 (4096 / wb)

/-- First byte of a bank of a DPU: 4,096 data bytes and 512 scale bytes (R181). -/
def bankKey (n dpu bank : Nat) : Nat := key (16 + n) ((dpu * 2 + bank) * 4608)
/-- First byte of an accumulator entry. -/
def accKey (n dpu e : Nat) : Nat := key (24 + n) ((dpu * 512 + e) * 4)

/-- Weight values d × E onward of a DPU's bank (R182). -/
def weightVals (d : Dev) (n dpu bank fmt e beat : Nat) : List Xv :=
  let k := bankKey n dpu bank
  if fmt == 7 then
    -- lines of 256 elements with 16 scale bytes each
    (List.range e).map (fun i =>
      let x := beat * e + i
      let c := leNat (peek d (k + x / 2) 1)
      let s := leNat (peek d (k + 4096 + x / 16) 1)
      codeVal 7 (if x % 2 = 0 then c % 16 else c / 16) s)
  else
    let len := if fmt == 5 then e / 2 else e * fmtBytes fmt
    let bs := peek d (k + beat * len) len
    (List.range e).map (valAt fmt bs)

/-- Activation values of beat b of row r (R188). -/
def actVals (d : Dev) (n : Nat) (desc : List Byte) (e r b : Nat) : List Xv :=
  let fmt := fld desc 12 1
  let row := fld desc 0 4 + r * fld desc 4 4
  if fmt == 7 then lsVals d n 7 row (b * e) e
  else lsVals d n fmt (row + b * fld desc 8 4) 0 e

/-- One accumulator update (R170): the new entry and whether it overflowed. -/
def accUpdate (int : Bool) (acc : Word) (clear : Bool) (a w : List Xv) : Word × Bool :=
  let ps := List.zipWith Xv.mul a w
  if int then
    let z : Int := if clear then 0 else sx 32 acc.toNat
    let v := ps.foldl (fun s x => match x with | .fin sg m e => s + sig sg m e 0 | _ => s) z
    if v < -2147483648 then (0x80000000, true) else if 2147483647 < v then (0x7FFFFFFF, true)
    else (BitVec.ofInt 32 v, false)
  else
    let v := Xv.sum (if clear then Xv.zero else f32 acc) ps
    let r := rne32 v
    (r, match v with | .fin _ _ _ => r == 0x7F800000 || r == 0xFF800000 | _ => false)

/-- Output scale of channel j: value, and whether it was an invalid channel scale (R167, R171). -/
def chanScale (d : Dev) (n : Nat) (ccw : Ccw) (addr j : Nat) : Scale × Bool :=
  if ccw.src == 0 then (.one, false)
  else if ccw.src == 1 && ccw.gran == 0 then ((scaleOf ccw.scale).1, false)
  else let s := scaleOf (lsWord d n (addr + 4 * j)); (s.1, !s.2)

/-- Bytes of a write that is under way to a key, the youngest first in the agenda. -/
def pendingPut (d : Dev) (k : Nat) : Option (List Byte) :=
  d.agenda.reverse.findSome? (fun e => match e.act with
    | .put ws => (ws.find? (fun w => w.1 == k)).map (fun w => w.2)
    | _ => none)

/-- An accumulator entry as the next update finds it: updates under way have reached it in order (R182). -/
def accNow (d : Dev) (n j e : Nat) : Word :=
  BitVec.ofNat 32 (leNat ((pendingPut d (accKey n j e)).getD (peek d (accKey n j e) 4)))

/-- Write-out of row r through the CCW (R171, R189) from its accumulators; a channel scale counts once, in the first row
(R160, R167). -/
def rowOut (d : Dev) (n : Nat) (acc : Nat → Word) (desc : List Byte) (int : Bool) (r : Nat) : List Byte × Tally :=
  let ccw := ccwOf (fld desc 32 8)
  let cols := fld desc 13 1 + 1
  let mAddr := fld desc 28 4
  let xs := (List.range cols).map (fun j =>
    let v := if int then Xv.ofInt (sx 32 (acc j).toNat) else f32 (acc j)
    let m := if mAddr == 0xFFFFFFFF then BitVec.ofNat 32 (fld desc 24 4) else lsWord d n (mAddr + 4 * j)
    let s := chanScale d n ccw (fld desc 40 4) j
    let x := match s.1 with | .zero => v | _ => v.mul (f32 m)
    let (cs, t) := convertAll ccw.fmt ccw.rtz ccw.nonsat s.1 [x]
    let zero : Bool := match s.1 with | .zero => ccw.gran == 1 | _ => false
    (cs.headD 0, if r == 0 then { t with zr := b2n s.2, met := b2n (zero && !s.2) } else t))
  let t := xs.foldl (fun t x => t.join x.2) {}
  (packCodes ccw.fmt d.free (xs.map (·.1)), if r == 0 && ccw.zeroTensor then { t with met := t.met + 1 } else t)

/-! ### Beats -/

/-- Note a real beat (R209). -/
def noteBeat (d : Dev) (n : Nat) : Dev :=
  setBob d n (fun b => { b with beats := b.beats + 1, since := b.since + 1, lastBeat := some d.clk.mono })

/-! ### Steps of the operations -/

/-- ECC reports of what a beat reads: activations with their PF4 scale bytes, and in every DPU the weights with theirs (R181,
R182, R496). -/
def noteOperands (c : Units) (d : Dev) (f : Flight) (n bank act wt : Nat) (pair : Nat × Nat × Nat) (r b : Nat) : Dev :=
  if d.ecc.isEmpty then d
  else
    let (e, ab, wb) := pair
    let w := whoBob f none
    let a0 := fld f.desc 0 4 + r * fld f.desc 4 4
    let tile := a0 + 144 * (b * e / 256)
    let spans := if act == 7 then [(tile + b * e % 256 / 2, e / 2), (tile + 128 + b * e % 256 / 16, e / 16)]
      else [(a0 + b * fld f.desc 8 4, ab)]
    let d := spans.foldl (fun d s => (lsNote c d w n s.1 s.2).1) d
    (List.range 128).foldl (fun d j =>
      let d := (eccRead c d w (bankKey n j bank + b * wb) wb).1
      if wt == 7 then (eccRead c d w (bankKey n j bank + 4096 + b * e / 16) (e / 16)).1 else d) d

/-- ECC reports of the accumulator entry that an update adds to. -/
def noteAcc (c : Units) (d : Dev) (f : Flight) (n entry : Nat) : Dev :=
  if d.ecc.isEmpty then d
  else (List.range 128).foldl (fun d j => (eccRead c d (whoBob f none) (accKey n j entry) 4).1) d

/-- ECC reports of the multiplier vector and the channel scales that a write-out reads (R171, R496; how often is the model's choice,
log entry 101). -/
def noteScales (c : Units) (d : Dev) (f : Flight) (n : Nat) : Dev :=
  if d.ecc.isEmpty then d
  else
    let ccw := ccwOf (fld f.desc 32 8)
    let len := 4 * (fld f.desc 13 1 + 1)
    let d := if fld f.desc 28 4 == 0xFFFFFFFF then d else (lsNote c d (whoBob f none) n (fld f.desc 28 4) len).1
    if ccw.src == 0 || (ccw.src == 1 && ccw.gran == 0) then d else (lsNote c d (whoBob f none) n (fld f.desc 40 4) len).1

/-- Beat b of row r of a MATMUL (R182, R189): its update enters the accumulators 14 cycles after it arrives. -/
def actBeat (c : Units) (d : Dev) (f : Flight) (r b : Nat) : Dev :=
  let w := f.word.toNat
  let n := f.bob.getD 0
  let depth := maDepth w
  let bank := maBank w
  let info := if bank == 0 then (bobOf d n).bankA else (bobOf d n).bankB
  let act := fld f.desc 12 1
  match pairOf act info.fmt with
  | none => d
  | some (e, ab, wb) =>
    let int := isInt act && isInt info.fmt
    let d := noteBeat d n
    let d := noteOperands c d f n bank act info.fmt (e, ab, wb) r b
    let xs := actVals d n f.desc e r b
    let entry := maBase w + r
    let clear := !maAcc w && b == 0
    let d := if maAcc w && b == 0 then noteAcc c d f n entry else d
    let res := (List.range 128).map (fun j => accUpdate int (accNow d n j entry) clear xs (weightVals d n j bank info.fmt e b))
    let ovf := (res.filter (fun x => x.2)).length
    let d := putAt d (d.clk.offset + 14) prioVec f.id (res.mapIdx (fun j x => (accKey n j entry, leBytes 4 x.1.toNat)))
    let d := if ovf == 0 then d else addEv d (d.clk.offset + 14) prioRead f.id (.ovf ovf)
    let d := if b + 1 == depth && maOut w then
        let d := noteScales c d f n
        let (bs, t) := rowOut d n (fun j => ((res[j]?).map (·.1)).getD 0) f.desc int r
        let d := book { d with free := d.free + 1 } f (ccwOf (fld f.desc 32 8)) t
        putAt d (f.issue + (r + 1) * depth + 57) prioDrain f.id [lsPut n (fld f.desc 16 4 + r * fld f.desc 20 4) bs]
      else d
    if r + 1 == maRows w && b + 1 == depth then d
    else addEv d (d.clk.offset + 1) prioRead f.id (if b + 1 == depth then .beat (r + 1) 0 else .beat r (b + 1))

/-- Delay of a SLACK word at the granted rate (R503). -/
def slackDelay (d : Dev) (img : List Byte) (p w : Nat) : Nat :=
  if !wSlack w then 0
  else
    let r := (partOf d p).grant
    match windowOf img (wIssue w) with
    | some (start, _, _) => if r = 0 then 0 else cdiv ((wIssue w - start) * (256 - r)) r
    | none => 0

/-- Last cycle of the claim that a WLOAD opens: the last beat of the MATMULs that name its bank before the next WLOAD
into it, with the governor's delays, or its last write cycle (R185). -/
def claimEnd (d : Dev) (p w issue : Nat) : Nat :=
  let img := imgOf d p
  let mine := (opsOf img).filter (fun x => wClass x == 1 && wTarget x == wTarget w && maBank x == maBank w && wIssue w < wIssue x)
  let next := (mine.filter (fun x => wOp x == 1)).foldl (fun m x => min m (wIssue x)) 16777216
  (mine.filter (fun x => wOp x == 0 && wIssue x < next)).foldl
    (fun m x => max m (wIssue x + slackDelay d img p x + 22 + maBeats x - 1)) (issue + 21 + 16 * wlLines w)

/-- A WLOAD writes its bank (R184, R185): cycle k of its 16 × LINES write cycles takes line k / 16 of eight DPUs, lowest DPU first
(DEDUCED, log entry 77). -/
def actWload (c : Units) (d : Dev) (f : Flight) (k : Nat) : Dev :=
  let w := f.word.toNat
  let n := f.bob.getD 0
  let bank := maBank w
  let lines := wlLines w
  let fmt := fld f.desc 8 1
  let src := fld f.desc 0 4
  let stride := fld f.desc 4 4
  let dpus := fld f.desc 9 1 + 1
  let l := k / 16
  let who := whoBob f none
  let d := (List.range 8).foldl (fun d i =>
    let j := k % 16 * 8 + i
    let z := if fmt == 7 then 144 else 128
    let a := src + j * stride + z * l
    -- DPUs beyond DPU_COUNT are filled with zero codes
    let (d, bs) := if j < dpus then ((lsNote c d who n a z).1, lsGet d n a z) else (d, List.replicate z 0)
    let d := store c d who (bankKey n j bank + 128 * l) (bs.take 128)
    if fmt == 7 then store c d who (bankKey n j bank + 4096 + 16 * l) (bs.drop 128) else d) d
  let d := if k != 0 then d
    else
      let b : Bank := { fmt, lines, claim := some (f.issue + 22, claimEnd d f.part w f.issue) }
      setBob d n (fun x => if bank == 0 then { x with bankA := b } else { x with bankB := b })
  if k + 1 < 16 * lines then addEv d (d.clk.offset + 1) prioRead f.id (.chunk (k + 1)) else d

/-- Steps that an accepted array word schedules, and its completion (R189). -/
def startArray (d : Dev) (f : Flight) : Dev :=
  let w := f.word.toNat
  if wOp w == 0 then
    let d := completeAt d f (f.issue + maBeats w + (if maOut w then 57 else 35))
    addEv d (f.issue + 22) prioRead f.id (.beat 0 0)
  else
    let d := completeAt d f (f.issue + 22 + 16 * wlLines w)
    addEv d (f.issue + 22) prioRead f.id (.chunk 0)

/-! ### Image checks of array words (R187 to R190) -/

/-- Operand checks of a MATMUL word and its descriptor that need no other word. -/
def matmulOk (w : Nat) (desc : List Byte) : Bool :=
  let ccw := ccwOf (fld desc 32 8)
  let act := fld desc 12 1
  bitsOf w 12 0 == 0 && maBase w + maRows w ≤ 512 && 1 ≤ act && act ≤ 7
    && fld desc 0 4 % (if act == 7 then 16 else 64) == 0
    && fld desc 13 1 ≤ 127 && zeroAt desc 14 2 && zeroAt desc 44 20
    && ccw.ok && ccw.fmt != 7 && ccw.src != 2

/-- Operand checks of a WLOAD word and its descriptor. -/
def wloadOk (w : Nat) (desc : List Byte) : Bool :=
  let fmt := fld desc 8 1
  let al := if fmt == 7 then 16 else 128
  bitsOf w 33 0 == 0 && 1 ≤ fmt && fmt ≤ 7 && fld desc 0 4 % al == 0 && fld desc 4 4 % al == 0
    && fld desc 9 1 ≤ 127 && zeroAt desc 10 54

end Sys2Proof.Machine
end

