-- ==== Sys2Proof/Machine/Ddr.lean ====
section
/-!
DEFINITION. The memory controller (R468 to R491): capacity and regions, guarded accesses, the partitions' owned cycles,
and the commands that stand for its own events.
-/
namespace Sys2Proof.Machine

/-- Density in GiB of one component times 8, width in bits: capacity in GiB of a DDR_CFG word (R470). -/
def capGiB (cfg : Nat) : Nat :=
  let w := if bitsOf cfg 5 4 == 0 then 4 else if bitsOf cfg 5 4 == 1 then 8 else 16
  let gb := 8 * (bitsOf cfg 9 8 + 1)
  8 * (bitsOf cfg 12 12 + 1) * (32 / w) * gb / 8

/-- Committed capacity in bytes. -/
def ddrCap (d : Dev) : Nat := capGiB (com d .dCfg 0 0) * 2 ^ 30

/-- G of R469: bytes per owned CCLK cycle. -/
def ddrG (d : Dev) : Nat := 96 + 16 * cf d .dCfg 0 0 2 0

/-- Channel and subchannel that hold a byte, as FAIL_SUB codes them: channel × 2 + subchannel (R471, R488). -/
def subOf (a : Nat) : Nat := a / 256 % 8

/-- The training area: the top 1 MiB of the capacity, which only training writes (R471). -/
def inTraining (d : Dev) (a : Nat) : Bool := ddrCap d - 2 ^ 20 ≤ a && a < ddrCap d

/-- A region as committed: first byte and length (R478). -/
def region (d : Dev) (k : Nat) : Nat × Nat := (cf d .dRegBase k 0 16 0 * 2 ^ 20, cf d .dRegSize k 0 17 0 * 2 ^ 20)

/-- Regions open to an accessor (R478). -/
def regsMove : List Nat := [0, 3]
def regsBulk : List Nat := [0, 3, 4]
def regsKv : List Nat := [1, 2]
def regsAdapt : List Nat := [3]
def regsStage : List Nat := [4]

/-- Every byte of a range lies in one of some ranges: it is covered range by range. -/
def covered (rs : List (Nat × Nat)) (a n : Nat) : Bool :=
  let go := fun (x : Nat) => rs.foldl (fun m r => if r.1 ≤ x && x < r.1 + r.2 then max m (r.1 + r.2) else m) x
  n == 0 || a + n ≤ (List.range rs.length).foldl (fun x _ => go x) a

/-- Every byte of a range lies in the allowed regions (R480). -/
def inRegions (d : Dev) (ks : List Nat) (a n : Nat) : Bool := covered (ks.map (region d)) a n

/-- STAGE is present and the controller is READY (R435). -/
def stageReady (d : Dev) : Bool := d.ddr.state == .ready && (region d 4).2 != 0

/-- A refused DDR5 access counts and is logged (R480). -/
def ddrRefuse (d : Dev) (w : Who) (a : Nat) (write : Bool) : Dev :=
  let d := { d with ddr := { d.ddr with range := d.ddr.range + 1 } }
  logAt d 0x010C 0x1E w.part noWord noWord [a % 2 ^ 32, a / 2 ^ 32, w.unit, b2n write] 0

/-- An access in IDLE brings the DRAM out of self-refresh for that access (R477). -/
def ddrWake (d : Dev) : Dev := { d with ddr := { d.ddr with idleSr := false, lastAt := d.clk.mono } }

/-- A byte of DDR5 as a read delivers it: zero or what was written where step 7 of R472 or a write has reached it, else open, and the
same at every read until the training that next leaves it open (R472, R474; DESIGN CHOICE, log entry 12). -/
def ddrByte (d : Dev) (a : Nat) : Byte :=
  if covered d.ddr.known a 1 then peek1 d (key 7 a)
  else
    Config.workingByte 7 a (if inTraining d a then d.ddr.trainTok else d.ddr.lostTok)
      ^^^ BitVec.ofNat 8 ((eccJudge (flipsAt d (key 7 a))).1.toNat / 2 ^ (8 * (a % 8)))

/-- Bytes of DDR5 as a read delivers them. -/
def ddrPeek (d : Dev) (a n : Nat) : List Byte :=
  if covered d.ddr.known a n then peek d (key 7 a) n else (List.range n).map (fun i => ddrByte d (a + i))

/-- Read DDR5 (R476, R480, R484): the bytes, and whether an uncorrectable error was met. -/
def ddrRead (c : Units) (d : Dev) (w : Who) (ks : List Nat) (a n : Nat) : Dev × List Byte × Bool :=
  if d.ddr.state != .ready then (d, List.replicate n 0, false)
  else if !inRegions d ks a n then (ddrRefuse d w a false, List.replicate n 0, false)
  else
    let bs := ddrPeek d a n
    let (d, bad) := eccRead c (ddrWake d) w (key 7 a) n
    (d, bs, bad)

/-- Write DDR5 (R476, R480). -/
def ddrWrite (c : Units) (d : Dev) (w : Who) (ks : List Nat) (a : Nat) (bs : List Byte) : Dev :=
  if d.ddr.state != .ready then d
  else if !inRegions d ks a bs.length then ddrRefuse d w a true
  else
    let d := store c (ddrWake d) w (key 7 a) bs
    if covered d.ddr.known a bs.length then d else { d with ddr := { d.ddr with known := d.ddr.known ++ [(a, bs.length)] } }

/-! ### Share slots (R67, R482) -/

/-- Owner of slot s of resource r: 0 DDR5, 1 TXT, 2 OUT, 3 KVM (R68). -/
def slotOwner (d : Dev) (r s : Nat) : Nat := bitsOf (com d .share r (s / 8)) (4 * (s % 8) + 3) (4 * (s % 8))

/-- Committed Stitch period. -/
def periodOf (d : Dev) : Nat := cf d .period 0 0 24 0

/-- Every cycle from a to b lies in slots of resource r that p owns. -/
def ownsSpan (own : Nat → Nat) (per p a b : Nat) : Bool :=
  let w := per / 256
  (List.range (b / w + 1 - a / w)).all (fun i => own (a / w + i) == p)

/-- Last of the first n owned cycles at or after a start, within the Stitch (R482). -/
def takeCycles (own : Nat → Nat) (per p start n : Nat) : Option Nat :=
  let w := per / 256
  let r := (List.range 256).foldl (fun (x : Nat × Option Nat) s =>
    match x.2 with
    | some _ => x
    | none =>
      if own s != p then x
      else
        let lo := max start (s * w)
        let hi := (s + 1) * w
        if hi ≤ lo then x
        else if x.1 ≤ hi - lo then (0, some (lo + x.1 - 1)) else (x.1 - (hi - lo), none)) (n, none)
  r.2

/-- Cycle in which a resource gives a word its k-th cycle of service, counted from 0 (R67): the owned cycles at or after its
issue, in order; none when the Stitch has too few. -/
def servedAt (d : Dev) (r p issue k : Nat) : Option Nat := takeCycles (slotOwner d r) (periodOf d) p issue (k + 1)

/-- Schedule a step at a cycle of service; a step that finds none is never carried out (R63). -/
def addServed (d : Dev) (r : Nat) (f : Flight) (k prio : Nat) (act : Act) : Dev :=
  match servedAt d r f.part f.issue k with
  | some t => addEv d t prio f.id act
  | none => d

/-- The completion of a word that takes n cycles of service, if it falls within the Stitch. -/
def completeServed (d : Dev) (r : Nat) (f : Flight) (n : Nat) : Dev :=
  match servedAt d r f.part f.issue (n - 1) with
  | some t => if t + 1 < periodOf d then completeAt d f (t + 1) else d
  | none => d

/-- Owned cycles from a start up to a cycle, not counting it. -/
def ownedBefore (own : Nat → Nat) (per p start stop : Nat) : Nat :=
  let w := per / 256
  (List.range 256).foldl (fun n s =>
    if own s != p then n else n + (min stop ((s + 1) * w) - max start (s * w))) 0

/-- A DDR5 word takes its owned cycles; none when the Stitch has too few left. A replay word that is not offered takes them too: no
other work uses its cycles (R62). -/
def takeDdr (d : Dev) (p issue bytes : Nat) : Dev × Option Nat :=
  let start := match (partOf d p).ddrLast with | some l => max (issue + 6) (l + 1) | none => issue + 6
  match takeCycles (slotOwner d 0) (periodOf d) p start (cdiv bytes (ddrG d)) with
  | some l => (setPart d p (fun s => { s with ddrLast := some l }), some l)
  | none => (setPart d p (fun s => { s with ddrLast := some (periodOf d) }), none)

/-! ### The balls of a channel (R524) -/

/-- What the controller drives on a group of DDR5 balls: nothing, low, JESD79-5 traffic, or the levels of self-refresh with CK
stopped. -/
inductive DdrDrive where
  | hiZ
  | low
  | jedec
  | selfRefresh
  deriving DecidableEq, Repr

/-- States of DDRc_RESET_N (none while it is not driven), of CK, CA and CS_N, and of DQ, CB and DQS. -/
structure DdrPins where
  resetN : Option Bool
  ctl    : DdrDrive
  data   : DdrDrive
  deriving DecidableEq, Repr

/-- The states of R524, the same on every channel, from power-on reset on: no row of the table says that the rails have gone. They follow
what the controller does with the DRAM; self-refresh lasts
through IDLE, SLEEP, the boot behind it and the trip of R506 (R477, R506). -/
def ddrPins (d : Dev) : DdrPins :=
  if !d.pwr.powered then ⟨some false, .low, .hiZ⟩
  else if d.ddr.state == .selfRefresh || (d.ddr.state == .ready && d.ddr.idleSr) then ⟨some true, .selfRefresh, .hiZ⟩
  else if d.pwr.booting then ⟨some false, .low, .hiZ⟩
  else match d.ddr.state with
    | .training | .ready => ⟨some true, .jedec, .jedec⟩
    | _ => ⟨some false, .low, .hiZ⟩

/-! ### Commands -/

/-- A training step that the course in progress runs (R472, R474). -/
def courseRuns (course step : Nat) : Bool :=
  if course == 0 then step == 6 else if course == 1 then 2 ≤ step && step ≤ 6 else step ≤ 5 || step == 7

/-- What a course of training leaves in the DRAM (R472, R474): step 7 zeroes the present regions, and the rest is open; a retraining
leaves the training area open and keeps the rest; step 6 alone keeps everything. -/
def trainDone (d : Dev) : Dev :=
  if d.ddr.course == 2 then
    { d with
      mem := Memory.erase d.mem (key 7 0) (storeSize 7)
      ecc := d.ecc.filter (fun e => e.1 * 8 < key 7 0 || key 7 (storeSize 7) ≤ e.1 * 8)
      ddr := { d.ddr with
        known := ((List.range 5).map (region d)).filter (fun r => r.2 != 0), trainTok := d.free, lostTok := d.free }
      free := d.free + 1 }
  else if d.ddr.course == 1 then { d with ddr := { d.ddr with trainTok := d.free }, free := d.free + 1 }
  else d

/-- READY: in IDLE the DRAM goes into self-refresh (R451, R477); MICROS is the time from the commit of the enable, whole microseconds
counted (R488; DESIGN CHOICE, log entry 12). -/
def trainReady (d : Dev) : Dev :=
  { d with ddr := { d.ddr with
    state := .ready, micros := BitVec.ofNat 32 ((d.clk.mono - d.ddr.enabledAt) / 1100), idleSr := d.pwr.state == .idle } }

/-- End of training: READY with what its course leaves, or FAILED at a step on a subchannel (R472 to R474). -/
def execDdrTrainingEnd (failed : Option (BitVec 4)) (sub : BitVec 3) (s : State) : Host.Outcome State Fault Refusal :=
  onDev (fun _ d =>
    if !(alive d && d.ddr.state == .training) then d
    else match failed with
      | some st =>
        if !courseRuns d.ddr.course st.toNat then d
        else
          logOnly { d with ddr := { d.ddr with state := .failed, failStep := st, failSub := sub } } 0x010B 0x1E 255
            [st.toNat, sub.toNat]
      | none => trainReady (trainDone d)) s

/-- First 64-byte unit at or after one that lies in a present region. -/
def nextScrub (d : Dev) (u : Nat) : Option Nat :=
  (List.range 5).foldl (fun m k =>
    let r := region d k
    if r.2 == 0 then m
    else
      let lo := r.1 / 64
      let hi := (r.1 + r.2) / 64
      let x := if u ≤ lo then some lo else if u < hi then some u else none
      match x, m with
      | none, m => m
      | some a, none => some a
      | some a, some b => some (min a b)) none

/-- The 64-byte unit that patrol scrub reads next: behind the last one read, and from the lowest region on behind the end of the last
(R485, R490). -/
def scrubNext (d : Dev) : Option Nat :=
  match nextScrub d d.ddr.scrubPos.toNat with
  | some u => some u
  | none => nextScrub d 0

/-- Scrub one 64-byte burst: corrected words are written back, uncorrectable ones reported (R485). -/
def scrubAt (c : Units) (d : Dev) (u : Nat) : Dev :=
  let k := key 7 (u * 64)
  let d := (eccIn d k 64).foldl (fun d e =>
    match (eccJudge e.2).2 with
    | 0 => d
    | 1 =>
      let bs := peek d (e.1 * 8) 8
      let d := noteCe d e.1
      { d with mem := Memory.setAll d.mem (e.1 * 8) bs, ecc := d.ecc.filter (fun x => x.1 != e.1) }
    | _ => noteUe c d { unit := 0x1E } e.1 e.2) d
  { d with ddr := { d.ddr with scrubPos := BitVec.ofNat 32 (u + 1) } }

/-- Patrol scrub reads the next burst of the present regions (R485). -/
def execPatrolScrub (s : State) : Host.Outcome State Fault Refusal :=
  onDev (fun c d =>
    if !(alive d && d.pwr.state == .run && d.ddr.state == .ready && cf d .dScrub 0 0 7 0 != 0) then d
    else match scrubNext d with
      | some u => scrubAt c d u
      | none => d) s

end Sys2Proof.Machine
end

