-- ==== Sys2Proof/Machine/Operands.lean ====
section
/-!
DEFINITION. Operand address forms shared by MOVE and WINDOW words (R217, R218, R219): local store, page-store claims and
the rows of published jobs.
-/
namespace Sys2Proof.Machine

/-- Where an address of R217 leads. -/
inductive Place where
  | localStore (a : Nat)
  | claim (buf off : Nat)
  | rows (inp age r0 : Nat)
  | bad
  deriving DecidableEq, Repr

/-- Read an address (R217); unlisted bits set, or a reserved space, make it bad. -/
def placeOf (a : Nat) : Place :=
  match bitsOf a 63 60 with
  | 0 => if bitsOf a 59 25 == 0 then .localStore (bitsOf a 24 0) else .bad
  | 1 => if bitsOf a 51 32 == 0 then .claim (bitsOf a 59 52) (bitsOf a 31 0) else .bad
  | 2 => if bitsOf a 47 32 == 0 then .rows (bitsOf a 59 56) (bitsOf a 55 48) (bitsOf a 31 0) else .bad
  | _ => .bad

/-- A BUFFERS entry: STORE, READ_ONLY, BASE and SIZE in bytes (R57). -/
def bufAt (img : List Byte) (i : Nat) : Option (Nat × Bool × Nat × Nat) :=
  (entryAt img 3 i).map (fun e =>
    let u := if fld e 0 1 == 7 then 256 else 1
    (fld e 0 1, bitOf (fld e 1 1) 0, fld e 4 4 * u, fld e 8 4 * u))

/-- All BUFFERS entries. -/
def bufsOf (img : List Byte) : List (Nat × Bool × Nat × Nat) :=
  (entries img 3).map (fun e =>
    let u := if fld e 0 1 == 7 then 256 else 1
    (fld e 0 1, bitOf (fld e 1 1) 0, fld e 4 4 * u, fld e 8 4 * u))

/-- What an age names for the present Stitch (R218). -/
def agedEntry (d : Dev) (p inp age : Nat) : Option Aged := ((partOf d p).ages[inp]?).bind (fun l => l[age]?)

/-- A job that has left the partition in this very cycle: its rows read on until the next one (R218). -/
def leftNow (d : Dev) (id : Nat) : Option Job := (d.gone.find? (fun g => g.1 == d.clk.mono && g.2.id == id)).map (·.2)

/-- The job that an age names on an INPUTS binding in the running Stitch, up to the cycle of its last PAGE_END (R218). -/
def agedJob (d : Dev) (p inp age : Nat) : Option Job :=
  (agedEntry d p inp age).bind (fun a => (jobOf d a.job).or (leftNow d a.job))

/-- A job row that may be read: published at the boundary that opened the Stitch and not marked missing (R218). -/
def rowReadable (j : Job) (r : Nat) : Bool := j.bands.contains (r / j.bandRows) && !j.missing.contains r && !j.pages.isEmpty

/-- Key of one byte of a job's allocation (R132). -/
def jobAt (j : Job) (off : Nat) : Nat := key 1 (j.pages.getD (off / 4096) 0 * 4096 + off % 4096)

/-- Stretches of a job's allocation: page store address and length of n bytes from an offset (R132). -/
def jobSpans (j : Job) (off n : Nat) : List (Nat × Nat) :=
  if n = 0 then []
  else
    (List.range ((off + n - 1) / 4096 + 1 - off / 4096)).map (fun i =>
      let q := off / 4096 + i
      let lo := Nat.max off (q * 4096)
      let hi := Nat.min (off + n) ((q + 1) * 4096)
      (jobAt j lo, hi - lo))

/-- n bytes of a job's allocation. -/
def jobPeek (d : Dev) (j : Job) (off n : Nat) : List Byte := (jobSpans j off n).flatMap (fun x => peek d x.1 x.2)

/-- Write bytes into a job's allocation. -/
def jobStore (c : Units) (d : Dev) (w : Who) (j : Job) (off : Nat) (bs : List Byte) : Dev :=
  ((jobSpans j off bs.length).foldl (fun (x : Dev × List Byte) y =>
    (store c x.1 w y.1 (x.2.take y.2), x.2.drop y.2)) (d, bs)).1

/-- Stretches of a job's allocation as a move engine or a window unit reaches them: the staging halves are mapped (R396). -/
def jobReach (d : Dev) (j : Job) (off n : Nat) : List (Nat × Nat) :=
  (jobSpans j off n).flatMap (fun x => pageSpans d (x.1 % 2 ^ 44) x.2)

/-- n bytes of a job row from a column byte; 0xFF where R218 and R202 say so. -/
def jobRowBytes (d : Dev) (j : Job) (r o n : Nat) : List Byte :=
  if r < j.height && rowReadable j r then
    let m := min n (j.rowBytes - o)
    (jobReach d j (r * j.rowBytes + o) m).flatMap (fun x => peek d x.1 x.2) ++ List.replicate (n - m) 0xFF
  else List.replicate n 0xFF

/-- ECC reports of a read of several stretches. -/
def noteSpans (c : Units) (d : Dev) (w : Who) (sp : List (Nat × Nat)) : Dev × Bool :=
  sp.foldl (fun (x : Dev × Bool) y => let r := eccRead c x.1 w y.1 y.2; (r.1, x.2 || r.2)) (d, false)

/-- ECC reports of a read of a job's allocation. -/
def jobNote (c : Units) (d : Dev) (w : Who) (j : Job) (off n : Nat) : Dev × Bool := noteSpans c d w (jobSpans j off n)

/-- Note the ECC of a read of job rows; the job's records then carry the flag (R362). -/
def noteRow (c : Units) (d : Dev) (w : Who) (j : Job) (r o n : Nat) : Dev × Bool :=
  if d.ecc.isEmpty || !(r < j.height && rowReadable j r) then (d, false)
  else
    let (d, bad) := noteSpans c d { w with job := some j.id } (jobReach d j (r * j.rowBytes + o) (min n (j.rowBytes - o)))
    (if bad then setJob d j.id (fun j => { j with ecc := true }) else d, bad)

/-- Base byte of a page-store claim. -/
def claimBase (img : List Byte) (buf : Nat) : Nat := ((bufAt img buf).map (fun b => b.2.2.1)).getD 0

/-- Order of a page-store write within its cycle: the lower logical Bobbin, and the window unit over the move engine,
are applied last (R219). -/
def prioPage (lb : Nat) (window : Bool) : Nat := 20 + 2 * (7 - lb) + b2n window

end Sys2Proof.Machine
end

