-- ==== Sys2Proof/Machine/Context.lean ====
section
/-!
DEFINITION. KV contexts (R264 to R268), frames, spill slots and page headers (R269 to R275), the map lines a context
holds (R276), and what one append writes (R279, R280, R290).
-/
namespace Sys2Proof.Machine

/-! ### Contexts -/

/-- The record of a context; none while it is FREE. -/
def ctxOf (d : Dev) (n : Nat) : Option Ctx := assoc d.kvm.ctx n

/-- Update a context. -/
def setCtx (d : Dev) (n : Nat) (f : Ctx → Ctx) : Dev :=
  { d with kvm := { d.kvm with ctx := d.kvm.ctx.map (fun e => if e.1 == n then (e.1, f e.2) else e) } }

/-- What an event of a sequence is tied to: its job while the partition holds it, otherwise the partition. -/
def seqTie (d : Dev) (p : Nat) (job : Word) : Tie :=
  match seqJob d p job with
  | some j => .job j.id
  | none => .part p

/-- The 64-byte record (R266). -/
def Ctx.record (x : Ctx) : List Byte :=
  leBytes 1 x.state ++ leBytes 1 x.cls ++ leBytes 1 x.part ++ leBytes 1 (if x.state == 4 then x.cause else 0)
    ++ leBytes 4 x.job.toNat ++ leBytes 2 x.length ++ leBytes 2 x.startLen ++ leBytes 1 x.nl ++ leBytes 1 x.shape
    ++ leBytes 1 x.formats ++ leBytes 1 (b2n x.ecc + 2 * b2n x.hold + 4 * b2n x.stalled)
    ++ leBytes 4 x.ks.toNat ++ leBytes 4 x.vs.toNat ++ leBytes 4 x.parent.toNat
    ++ leBytes 8 ((x.readyAt.map BitVec.toNat).getD 0) ++ leBytes 2 x.place ++ leBytes 1 x.ringHead
    ++ leBytes 1 x.ringCnt ++ leBytes 2 x.gen ++ List.replicate 22 0

/-- The 64-byte token ring (R268). -/
def Ctx.ringBytes (x : Ctx) : List Byte := (List.range 16).flatMap (fun i => leBytes 4 ((x.ring.getD i 0).toNat))

/-- Heads, dimension and formats of a context or descriptor (R266). -/
def headsOf (shape : Nat) : Nat := shape % 16 + 1
def hdimOf (shape : Nat) : Nat := 16 * (shape / 16 + 1)
def kFmtOf (formats : Nat) : Nat := formats % 16
def vFmtOf (formats : Nat) : Nat := formats / 16
/-- Format in which a couching buffer holds values (R274). -/
def couchFmt (v : Nat) : Nat := if v == 7 then 2 else v

/-- A row's bytes rounded up to 64 (R273). -/
def rowPitch (fmt n : Nat) : Nat := 64 * cdiv (packedBytes fmt n) 64

/-- First byte of the values in a frame (R273). -/
def vOff (heads hdim kFmt : Nat) : Nat := 16 * heads * rowPitch kFmt hdim

/-- Layout bytes of R274. -/
def layoutBytes (shape formats : Nat) : Nat :=
  let h := headsOf shape
  let n := hdimOf shape
  vOff h n (kFmtOf formats) + 16 * h * rowPitch (couchFmt (vFmtOf formats)) n

/-- Formats of keys and values, and scales, that a create may name (R274). -/
def kvFmtOk (f : Nat) : Bool := f == 1 || f == 2 || f == 3 || f == 4 || f == 5 || f == 7
def posFinite (w : Word) : Bool := match scaleOf w with | (.val _ _, true) => true | _ => false

/-! ### Frames and spill slots -/

/-- Identifier NONE (R270). -/
def pageNone : Nat := 0xFFFFF

/-- First key not in an ascending association list, from k on. -/
def gapFrom {β : Type} : List (Nat × β) → Nat → Nat
  | [], k => k
  | (a, _) :: t, k => if k < a then k else gapFrom t (k + 1)

/-- Data and header of a page (R269, R270). -/
def pageKey (d : Dev) (id : Nat) : Nat :=
  if id < 0x2000 then key 2 (id * 8192) else key 7 ((region d 1).1 + (id - 0x2000) * 8256)
def headKey (d : Dev) (id : Nat) : Nat :=
  if id < 0x2000 then key 2 (0x03F80000 + id * 64) else key 7 ((region d 1).1 + (id - 0x2000) * 8256 + 8192)

/-- Field of n bytes at offset o of a page header (R272). -/
def headFld (d : Dev) (id o n : Nat) : Nat := peekNat d (headKey d id + o) n
def pageCount (d : Dev) (id : Nat) : Nat := headFld d id 2 1 % 32
def pageRefs (d : Dev) (id : Nat) : Nat := headFld d id 12 4 % 131072
/-- A page that is never written again (R279). -/
def pageFull (d : Dev) (id : Nat) : Bool := headFld d id 0 1 % 16 == 2
/-- Page still to be copied into a frame, if any (R280). -/
def copyFrom (d : Dev) (id : Nat) : Option Nat :=
  let q := headFld d id 20 4 % 1048576
  if id < 0x2000 && q < 0x2000 then some q else none

/-- The page whose data holds the entries of a frame: the one it is still to be copied from, through a chain of frames none of
which has been written yet (DEDUCED, log entry 30). -/
def dataPage (d : Dev) : Nat → Nat → Nat
  | 0, id => id
  | n + 1, id => match copyFrom d id with | some q => dataPage d n q | none => id

/-- Who acts for the KV manager on behalf of a partition. -/
def whoKv (p : Nat) : Who := { unit := 0x1B, part := p }

/-- Who acts for it on a context: its reads serve the context's job (R493, R542). -/
def whoCtx (d : Dev) (x : Ctx) : Who := { whoKv x.part with job := (seqJob d x.part x.job).map (·.id) }

/-- Write bytes of a page header. -/
def putHead (c : Units) (d : Dev) (p id o : Nat) (bs : List Byte) : Dev := store c d (whoKv p) (headKey d id + o) bs

/-- Frames, spill slots and lines that a partition may still take (R271). -/
def freeFrames (d : Dev) (p : Nat) : Nat :=
  min (8128 - d.kvm.frames.length) (cf d .kQuota p 0 12 0 - (d.kvm.frames.filter (fun e => e.2 == p)).length)
def freeSpill (d : Dev) (p : Nat) : Nat :=
  cf d .kSpill p 0 19 0 - (d.kvm.spill.filter (fun e => e.2 == p)).length

/-- Lines a context with these pages holds (R276). -/
def pageLines (pages : List (List Nat)) : Nat := pages.foldl (fun n l => n + cdiv l.length 16) 2

/-- Lines a context holds: none while SPILLED (R276). -/
def Ctx.lines (x : Ctx) : Nat := if x.state == 0 || x.state == 6 then 0 else pageLines x.pages

def usedLines (d : Dev) (p : Nat) : Nat := d.kvm.ctx.foldl (fun n e => if e.2.part == p then n + e.2.lines else n) 0
def freeLines (d : Dev) (p : Nat) : Nat := cf d .kQuota p 0 30 16 - usedLines d p

/-- Take the lowest-numbered free frame (R271). -/
def takeFrame (d : Dev) (p : Nat) : Dev × Nat :=
  let n := gapFrom d.kvm.frames 0
  ({ d with kvm := { d.kvm with frames := assocPut d.kvm.frames n p } }, n)

/-- Take the lowest-numbered free spill slot (R271); its identifier. -/
def takeSpill (d : Dev) (p : Nat) : Dev × Nat :=
  let n := gapFrom d.kvm.spill 0
  ({ d with kvm := { d.kvm with spill := assocPut d.kvm.spill n p } }, n + 0x2000)

/-- Free a frame or a spill slot. -/
def freePage (c : Units) (d : Dev) (p id : Nat) : Dev :=
  if id < 0x2000 then
    let d := putHead c d p id 0 [0]
    { d with kvm := { d.kvm with frames := assocDel d.kvm.frames id } }
  else { d with kvm := { d.kvm with spill := assocDel d.kvm.spill (id - 0x2000) } }

/-- Take 1 from the REFS of a page; at 0 it returns to the free pool (R283, R289). -/
def dropRef (c : Units) (d : Dev) (p id : Nat) : Dev :=
  if 0x2000 ≤ id then freePage c d p id
  else
    let r := pageRefs d id - 1
    let d := putHead c d p id 12 (leBytes 4 r)
    if r == 0 then freePage c d p id else d

/-- A page that a context gives up: the page it was still to be copied from loses its reference too (DEDUCED, log entry 30). -/
def leavePage (c : Units) (d : Dev) (p id : Nat) : Dev :=
  let from_ := if id < 0x2000 then headFld d id 20 4 % 1048576 else pageNone
  let d := dropRef c d p id
  if from_ < 0x2000 && pageRefs d id == 0 then dropRef c d p from_ else d

/-- A fresh couching frame for slot i of a layer (R272, R280). -/
def newHead (x : Ctx) (layer slot count from_ : Nat) (ecc : Bool) : List Byte :=
  [1] ++ leBytes 1 (kFmtOf x.formats + 16 * couchFmt (vFmtOf x.formats)) ++ leBytes 1 count ++ leBytes 1 x.shape
    ++ leBytes 4 x.ks.toNat ++ leBytes 4 x.vs.toNat ++ leBytes 4 1 ++ leBytes 2 layer ++ leBytes 2 slot
    ++ leBytes 4 from_ ++ leBytes 1 (b2n ecc) ++ List.replicate 39 0

/-- Identifiers of a layer. -/
def layerPages (x : Ctx) (layer : Nat) : List Nat := x.pages.getD layer []

/-- Replace the pages of a layer. -/
def setLayer (d : Dev) (cid layer : Nat) (l : List Nat) : Dev :=
  setCtx d cid (fun x => { x with pages := x.pages.set layer l })

/-- Add a fresh frame at the end of a layer's page table. -/
def addFrame (c : Units) (d : Dev) (cid layer : Nat) : Dev :=
  match ctxOf d cid with
  | none => d
  | some x =>
    let (d, n) := takeFrame d x.part
    let l := layerPages x layer
    let d := store c d (whoKv x.part) (headKey d n) (newHead x layer l.length 0 pageNone false)
    setLayer d cid layer (l ++ [n])

/-- Slot of the couching page of a layer: the lowest whose page is not full (R278). -/
def couchSlot (d : Dev) (l : List Nat) : Option Nat := l.findIdx? (fun i => pageCount d i < 16)

/-- Other contexts name the couching page of a layer too (R280, R283). -/
def sharedCouch (d : Dev) (l : List Nat) : Bool :=
  match (couchSlot d l).bind (fun s => l[s]?) with
  | some i => i < 0x2000 && 1 < pageRefs d i
  | none => false

/-- Replace the shared page in a slot of a layer by a copy frame (R280). -/
def copySlot (c : Units) (d : Dev) (cid layer slot : Nat) : Dev :=
  match ctxOf d cid with
  | none => d
  | some x =>
    let l := layerPages x layer
    match l[slot]? with
    | none => d
    | some old =>
      let (d, n) := takeFrame d x.part
      let h := newHead x layer slot (pageCount d old) old (headFld d old 24 1 % 2 == 1)
      let h := h.take 1 ++ leBytes 1 (headFld d old 1 1) ++ h.drop 2
      setLayer (store c d (whoKv x.part) (headKey d n) h) cid layer (l.set slot n)

/-- Replace the shared couching page of a layer. -/
def addCopy (c : Units) (d : Dev) (cid layer : Nat) : Dev :=
  match (ctxOf d cid).bind (fun x => couchSlot d (layerPages x layer)) with
  | some slot => copySlot c d cid layer slot
  | none => d

/-- Frames that one layer needs for k more positions: fresh ones, and whether a copy frame (R280). -/
def layerNeed (d : Dev) (l : List Nat) (k : Nat) : Nat × Bool :=
  let n := match l.getLast? with | some i => pageCount d i | none => 0
  (if n == 0 then cdiv k 16 else cdiv (n + k) 16 - 1, sharedCouch d l)

/-- Frames and lines that a context needs for k more positions in every layer (R280, R281). -/
def seqNeed (d : Dev) (x : Ctx) (k : Nat) : Nat × Nat :=
  x.pages.foldl (fun a l =>
    let n := layerNeed d l k
    (a.1 + n.1 + b2n n.2, a.2 + (cdiv (l.length + n.1) 16 - cdiv l.length 16))) (0, 0)

/-- Take a layer's frames for k more positions. -/
def takeLayer (c : Units) (d : Dev) (cid layer k : Nat) : Dev :=
  match ctxOf d cid with
  | none => d
  | some x =>
    let n := layerNeed d (layerPages x layer) k
    let d := if n.2 then addCopy c d cid layer else d
    (List.range n.1).foldl (fun d _ => addFrame c d cid layer) d

/-- Take every frame a context needs (R281). -/
def takeSeq (c : Units) (d : Dev) (cid k : Nat) : Dev :=
  match ctxOf d cid with
  | none => d
  | some x => (List.range x.pages.length).foldl (fun d y => takeLayer c d cid y k) d

/-! ### Appends -/

/-- PF4 exponent of a block whose max-abs is m under a scale (R165, R279). -/
def pf4ExpS (sn : Nat) (se : Int) (m : Xv) : Int :=
  match m with
  | .fin _ a e =>
    let k : Int := log2Rat a sn + (e - se) - 3
    let fits := fun (x : Int) => !(Xv.lt (.fin false (6 * sn) x) (.fin false a (e - se)))
    let x := if fits k then k else if fits (k + 1) then k + 1 else k + 2
    if x < -127 then -127 else if 127 < x then 127 else x
  | _ => 127

/-- PF4 block of exact values divided by a scale (R165, R279). -/
def pf4BlockS (sn : Nat) (se : Int) (xs : List Xv) : Nat × List Nat × Tally :=
  let m := maxAbs xs
  if m.isZero then (0, xs.map (fun _ => 0), { zr := 1 })
  else
    let ex := pf4ExpS sn se m
    let elem := fun (x : Xv) => match x with
      | .fin s a e =>
        let (n, q) := roundGrid false a sn (e - se - ex) 1 (-1)
        let k := encodeGrid 2 1 1 n q
        let sg := if s then 8 else 0
        if 7 < k then ({ code := 7 + sg, sat := true } : Cv) else { code := k + sg, uflow := a != 0 && n == 0 }
      | x => pf4Elem false ex x
    let cs := xs.map elem
    ((ex + 128).toNat, cs.map (·.code), cs.foldl Tally.add {})

/-- PF4 tile of at most 256 values under a scale. -/
def pf4TileS (sc : Scale) (xs : List Xv) : List Byte × Tally :=
  let (sn, se, zero) := match sc with | .one => (1, (0 : Int), false) | .val m e => (m, e, false) | .zero => (1, 0, true)
  let blocks := (List.range 16).map (fun b =>
    let ys := (xs.drop (16 * b)).take 16
    if ys.isEmpty || zero then (0, List.replicate 16 0, ({} : Tally))
    else
      let r := pf4BlockS sn se ys
      (r.1, r.2.1 ++ List.replicate (16 - ys.length) 0, r.2.2))
  (packCodes 5 0 (blocks.flatMap (fun b => b.2.1)) ++ blocks.map (fun b => BitVec.ofNat 8 b.1),
   blocks.foldl (fun t b => t.join b.2.2) {})

/-- One row in its stored format (R279). -/
def kvRow (fmt : Nat) (scale : Word) (xs : List Xv) : List Byte × Tally :=
  let sc := (scaleOf scale).1
  if fmt == 7 then
    let (bs, t) := pf4TileS sc xs
    (bs ++ List.replicate (rowPitch 7 xs.length - bs.length) 0, t)
  else
    let (cs, t) := convertAll fmt false false sc xs
    (packCodes fmt 0 cs, t)

/-- Count an append's conversions (R279, R304). -/
def countKv (d : Dev) (t : Tally) : Dev :=
  let s := d.kvm.stats
  { d with kvm := { d.kvm with stats := { s with
    sat := s.sat + t.sat, uflow := s.uflow + t.uflow, zr := s.zr + t.zr } } }

/-- Mark a page, and a context that read it, as holding data in error (R290). -/
def markEcc (c : Units) (d : Dev) (p cid id : Nat) : Dev :=
  setCtx (putHead c d p id 24 [1]) cid (fun x => { x with ecc := true })

/-- The first write to a copy frame copies the shared entries and drops the reference (R280, R290). -/
def makeCopy (c : Units) (d : Dev) (cid id : Nat) : Dev :=
  match ctxOf d cid, copyFrom d id with
  | some x, some shared =>
      let from_ := dataPage d 8128 shared
      let h := headsOf x.shape
      let n := hdimOf x.shape
      let rk := rowPitch (kFmtOf x.formats) n
      let rv := rowPitch (couchFmt (vFmtOf x.formats)) n
      let k := pageCount d id
      let spans := (List.range h).map (fun i => (i * 16 * rk, k * rk))
        ++ (List.range h).map (fun i => (16 * h * rk + i * 16 * rv, k * rv))
      let (d, bad) := spans.foldl (fun (a : Dev × Bool) s =>
        let (d, b) := eccRead c a.1 (whoCtx d x) (pageKey a.1 from_ + s.1) s.2
        (store c d (whoCtx d x) (pageKey d id + s.1) (peek d (pageKey d from_ + s.1) s.2), a.2 || b)) (d, false)
      let d := if bad then markEcc c d x.part cid from_ else d
      let d := if headFld d from_ 24 1 % 2 == 1 || headFld d shared 24 1 % 2 == 1 then markEcc c d x.part cid id else d
      let d := putHead c d x.part id 20 (leBytes 4 pageNone)
      let d := dropRef c d x.part shared
      { d with kvm := { d.kvm with cow := d.kvm.cow + 1 } }
  | _, _ => d

/-- A full frame is flushed: FULL, and PF4 values converted in place from E4M3 at scale VS, read with their ECC (R279, R290). -/
def flushPage (c : Units) (d : Dev) (cid : Nat) (x : Ctx) (id : Nat) : Dev :=
  let h := headsOf x.shape
  let n := hdimOf x.shape
  let base := pageKey d id + vOff h n (kFmtOf x.formats)
  let d := putHead c d x.part id 0 [2]
  if vFmtOf x.formats != 7 then d
  else
    let rv := rowPitch 2 n
    let (d, bad) := eccRead c d (whoCtx d x) base (16 * h * rv)
    let d := if bad then markEcc c d x.part cid id else d
    let sc := (scaleOf x.vs).1
    let rows := (List.range h).map (fun i => (List.range 16).map (fun t =>
      let bs := peek d (base + (i * 16 + t) * rv) n
      (List.range n).map (fun e => scaled (valAt 2 bs e) sc)))
    let tiles := rows.flatMap (fun r => (List.range (n / 16)).map (fun k =>
      pf4TileS .one ((List.range 256).map (fun i => (r.getD (i % 16) []).getD (16 * k + i / 16) Xv.zero))))
    let d := tiles.mapIdx (fun i t => (i, t)) |>.foldl (fun d t =>
      countKv (store c d (whoCtx d x) (base + 144 * t.1) t.2.1) t.2.2) d
    let d := putHead c d x.part id 1 (leBytes 1 (kFmtOf x.formats + 16 * 7))
    putHead c d x.part id 8 (leBytes 4 0x3F800000)

/-- A page that other contexts came to share after the boundary is copied before the append (R283), into the lowest free
frame; with none left the append goes to the shared page (DESIGN CHOICE, log entry 96). -/
def unshare (c : Units) (d : Dev) (cid layer slot : Nat) : Dev :=
  match ctxOf d cid with
  | none => d
  | some x =>
    match (layerPages x layer)[slot]? with
    | some id =>
      if id < 0x2000 && 1 < pageRefs d id && freeFrames d x.part != 0 then copySlot c d cid layer slot else d
    | none => d

/-- One token position is written into a layer: key and value rows by head (R279); `bad` when a row was read in error (R272). A full
page is never written again. -/
def putPos (c : Units) (d : Dev) (cid layer pos : Nat) (ks vs : List (List Xv)) (bad : Bool) : Dev :=
  match ctxOf d cid with
  | none => d
  | some x =>
    if ((layerPages x layer)[pos / 16]?).any (pageFull d) then d
    else
    let d := unshare c d cid layer (pos / 16)
    match ((ctxOf d cid).map (fun x => layerPages x layer)).bind (fun l => l[pos / 16]?) with
    | none => d
    | some id =>
      let d := makeCopy c d cid id
      let d := if bad then markEcc c d x.part cid id else d
      let h := headsOf x.shape
      let n := hdimOf x.shape
      let t := pos % 16
      let kf := kFmtOf x.formats
      let vf := couchFmt (vFmtOf x.formats)
      let base := pageKey d id
      let d := ks.mapIdx (fun i r => (i, r)) |>.foldl (fun d r =>
        let (bs, tl) := kvRow kf x.ks r.2
        countKv (store c d (whoCtx d x) (base + (r.1 * 16 + t) * rowPitch kf n) bs) tl) d
      let d := vs.mapIdx (fun i r => (i, r)) |>.foldl (fun d r =>
        let (bs, tl) := kvRow vf x.vs r.2
        countKv (store c d (whoCtx d x) (base + vOff h n kf + (r.1 * 16 + t) * rowPitch vf n) bs) tl) d
      let d := putHead c d x.part id 2 (leBytes 1 (t + 1))
      if t == 15 then flushPage c d cid x id else d

/-- Source rows of one position in a local store, by head (R292, R294). -/
def srcRows (d : Dev) (bob fmt addr heads hdim : Nat) : List (List Xv) :=
  (List.range heads).map (fun h => lsVals d bob fmt (addr + h * rowPitch fmt hdim) 0 hdim)

end Sys2Proof.Machine
end

