-- ==== Sys2Proof/Machine/Pieces.lean ====
section
/-!
DEFINITION. Text leaving a slot: released bytes, pieces and their flags (R328, R330, R335), segments and fields (R331 to
R333), TEXT and FIELD records (R358, R359), and the end of a sequence (R267, R288, R289, R334).
-/
namespace Sys2Proof.Machine

/-! ### Reading a table set (R305 to R312) -/

/-- Bytes of the table buffer b. -/
def tabGet (d : Dev) (b o n : Nat) : List Byte := peek d (key 3 (b * 7340032 + o)) n
def tabNat (d : Dev) (b o n : Nat) : Nat := leNat (tabGet d b o n)

/-- Section entry: offset, size, count, parameter (R307). -/
def tabSect (d : Dev) (b i : Nat) : Nat × Nat × Nat × Nat :=
  let e := tabGet d b (32 + 16 * i) 16
  (fld e 0 4, fld e 4 4, fld e 8 4, fld e 12 4)

/-- Entry k of a section of entry size z. -/
def tabEntry (d : Dev) (b i z k : Nat) : List Byte := tabGet d b ((tabSect d b i).1 + z * k) z

/-- ECC of text-store words read for a slot sets ECC in the slot's context; the reads serve its job (R493, R496). -/
def noteTab (c : Units) (d : Dev) (p cid b : Nat) (spans : List (Nat × Nat)) : Dev :=
  if d.ecc.isEmpty then d
  else
    let job := (ctxOf d cid).bind (fun x => (seqJob d p x.job).map (·.id))
    spans.foldl (fun d s =>
      let (d, bad) := eccRead c d { unit := 0x1A, part := p, job } (key 3 (b * 7340032 + s.1)) s.2
      if bad then setCtx d cid (fun x => { x with ecc := true }) else d) d

/-! ### Slots -/

/-- The slot that holds a context. -/
def slotOf (d : Dev) (cid : Nat) : Option Slot := d.txt.slots.find? (fun s => s.ctx == cid)

/-- The slot at an index of a slab. -/
def slotAt (d : Dev) (p slab idx : Nat) : Option Slot :=
  d.txt.slots.find? (fun s => s.part == p && s.slab == slab && s.idx == idx)

/-- Update the slot of a context. -/
def setSlot (d : Dev) (cid : Nat) (f : Slot → Slot) : Dev :=
  { d with txt := { d.txt with slots := d.txt.slots.map (fun s => if s.ctx == cid then f s else s) } }

/-- Parameters of the DECIDE descriptor of a slot (R339). -/
def Slot.flag (s : Slot) (k : Nat) : Bool := bitOf (fld s.desc 1 1) k
def Slot.chunk (s : Slot) : Nat := fld s.desc 54 2

/-! ### Fields (R331 to R333) -/

/-- Trie nodes on the walk along a segment: depth, label and kind of each entry met, and the words read. -/
def trieWalk (d : Dev) (b : Nat) : List Byte → Nat → Nat → List (Nat × Nat × Nat) × List (Nat × Nat)
  | [], _, _ => ([], [])
  | x :: t, node, depth =>
    let n := tabEntry d b 8 12 node
    let first := fld n 0 4
    let cnt := fld n 4 2
    let eo := (tabSect d b 9).1
    let edge := ((List.range cnt).map (fun i => tabNat d b (eo + 4 * (first + i)) 4)).find? (fun e => e % 256 == x.toNat)
    let rd := [((tabSect d b 8).1 + 12 * node, 12), (eo + 4 * first, 4 * cnt)]
    match edge with
    | none => ([], rd)
    | some e =>
      let child := e / 256
      let m := tabEntry d b 8 12 child
      let r := trieWalk d b t child (depth + 1)
      ((if fld m 8 1 == 0 then [] else [(depth + 1, fld m 6 2, fld m 8 1)]) ++ r.1,
       rd ++ [((tabSect d b 8).1 + 12 * child, 12)] ++ r.2)

/-- The field of a complete segment that begins at a text offset, and the words read (R332, R333). -/
def segField (d : Dev) (s : Slot) (off : Nat) (seg : List Byte) (unterminated : Bool) : Option Field × List (Nat × Nat) :=
  if seg.isEmpty then (none, [])
  else
    let (ms, rd) := trieWalk d s.buf seg 0 0
    let n := seg.length
    let u := 8 * b2n unterminated
    let best := ms.foldl (fun (a : Option (Nat × Nat × Nat)) m => if m.2.2 == 1 || m.1 == n then some m else a) none
    match best with
    | some (k, l, kind) =>
      (some (if kind == 1 then { label := l, offset := off + k, len := n - k, flags := 1 + u }
             else { label := l, offset := off, len := n, flags := 2 + u }), rd)
    | none => (if s.flag 4 then some { label := 0xFFFF, offset := off, len := n, flags := 4 + u } else none, rd)

/-! ### Pieces -/

/-- What a slot hands over: a piece of text with its offset, or a field. -/
inductive Hand where
  | text (off : Nat) (bytes : List Byte)
  | field (f : Field)
  deriving DecidableEq, Repr

/-- Bytes at the end of a piece that begin a character they do not complete, at most 3 (R330). -/
def openTail (bs : List Byte) : Nat :=
  let r := bs.reverse
  let need := fun (b : Byte) => if b.toNat < 0xC2 then 1 else if b.toNat < 0xE0 then 2 else if b.toNat < 0xF0 then 3
    else if b.toNat < 0xF5 then 4 else 1
  let k := (r.takeWhile (fun b => b.toNat / 64 == 2)).length
  match r[k]? with
  | some b => if k < 3 && k + 1 < need b then k + 1 else 0
  | none => 0

/-- Hand over the first n bytes of the pending piece, and the fields whose segments end in it (R330). -/
def cutPiece (s : Slot) (n : Nat) : Slot × List Hand :=
  let start := s.text - s.piece.length
  let stop := start + n
  let done := s.fields.filter (fun f => f.offset + f.len ≤ stop)
  ({ s with piece := s.piece.drop n, fields := s.fields.filter (fun f => stop < f.offset + f.len) },
   .text start (s.piece.take n) :: done.map Hand.field)

/-- A complete segment: its field waits for its piece, or goes at once when that piece has gone. -/
def endSegment (d : Dev) (s : Slot) (unterminated : Bool) : Slot × List Hand × List (Nat × Nat) :=
  let (f, rd) := segField d s s.segAt s.seg unterminated
  match f with
  | none => (s, [], rd)
  | some f =>
    if f.offset + f.len ≤ s.text - s.piece.length then (s, [.field f], rd) else ({ s with fields := s.fields ++ [f] }, [], rd)

/-- Release bytes of a decision, or of the end of the sequence (R328, R330, R331): the slot, what is handed over, the
words read, and whether a field segment was completed. -/
def releaseBytes (d : Dev) (fin : Bool) : Slot → List Byte → Slot × List Hand × List (Nat × Nat) × Bool
  | s, [] => (s, [], [], false)
  | s, b :: t =>
    let sep := s.flag 5 && fld s.desc 3 1 == b.toNat
    let s1 := { s with text := s.text + 1, piece := s.piece ++ [b] }
    let (s2, h2, rd, done) :=
      if !s.flag 3 then (s1, [], [], false)
      else if sep then
        let (x, h, rd) := endSegment d s1 false
        ({ x with seg := [], segAt := x.text }, h, rd, true)
      else ({ s1 with seg := s1.seg ++ [b] }, [], [], false)
    let (s3, h3) :=
      if s2.piece.length == s2.chunk && !(fin && t.isEmpty) then cutPiece s2 (s2.piece.length - openTail s2.piece) else (s2, [])
    let (s4, h4, rd4, done4) := releaseBytes d fin s3 t
    (s4, h2 ++ h3 ++ h4, rd ++ rd4, done || done4)

/-! ### Records -/

/-- TEXT (R358). -/
def recText (ecc reread : Bool) (job ctx : Word) (flags cause off : Nat) (bs : List Byte) : List Byte :=
  let n := bs.length
  let pad := cdiv n 4 * 4 - n
  recHead 0x05 ecc reread (32 + n + pad) job ctx ++ leBytes 2 flags ++ leBytes 1 cause ++ [0] ++ leBytes 4 off ++ leBytes 2 n
    ++ List.replicate 6 0 ++ bs ++ List.replicate pad 0

/-- FIELD (R359). -/
def recField (ecc reread : Bool) (job ctx : Word) (incomplete : Bool) (f : Field) : List Byte :=
  recHead 0x06 ecc reread 32 job ctx ++ leBytes 2 f.label ++ leBytes 1 f.flags ++ leBytes 1 (b2n incomplete)
    ++ leBytes 4 f.offset ++ leBytes 4 f.len ++ [0, 0, 0, 0]

/-- Hand a record of a sequence to OUTPUTS entry 0 of its partition (R367, R370). -/
def handText (d : Dev) (p : Nat) (job : Word) (mk : Bool → List Byte) : Dev :=
  if job == noWord then
    match (outputsOf (imgOf d p))[0]? with
    | some (x, v) => handFree d x v { bytes := mk false }
    | none => d
  else
    match heldJob d p job with
    | some j => handRec d j.id 0 { bytes := mk j.reread }
    | none => d

/-- Hand over pieces and fields; a final piece carries its flags and cause, a field INCOMPLETE (R333). -/
def handAll (d : Dev) (cid : Nat) (x : Ctx) (flags cause : Nat) (inc : Bool) (hs : List Hand) : Dev :=
  let cw := BitVec.ofNat 32 cid
  hs.foldl (fun d h =>
    match h with
    | .text off bs => handText d x.part x.job (fun rr => recText x.ecc rr x.job cw flags cause off bs)
    | .field f => handText d x.part x.job (fun rr => recField x.ecc rr x.job cw inc f)) d

/-! ### The end of a sequence -/

/-- INCOMPLETE of a cause (R334). -/
def incomplete (cause : Nat) : Bool := cause == 4 || cause == 5 || cause == 6 || cause == 9

/-- TEXT_FLAGS of a final piece (R335). -/
def finalFlags (cause : Nat) (stopIn forced : Bool) : Nat :=
  1 + 2 * b2n (incomplete cause) + 4 * b2n (cause == 2) + 8 * b2n stopIn + 16 * b2n (cause == 3) + 32 * b2n (cause == 4)
    + 64 * b2n forced + 128 * b2n (cause == 5)

/-- A slot's text at an end: held bytes released, last segment, final piece and fields (R330, R334). -/
def finishText (c : Units) (d : Dev) (cid cause : Nat) (stopIn : Bool) : Dev :=
  match slotOf d cid with
  | none => d
  | some s =>
    let stop := fun (d : Dev) => setSlot d cid (fun y => { y with ended := true, held := [], piece := [], seg := [], fields := [] })
    if cause == 7 || cause == 8 then stop d
    else
      let (s1, h1, rd1, _) := releaseBytes d true s s.held
      let (s2, h2, rd2) := if s1.flag 3 then endSegment d s1 (s1.flag 5) else (s1, [], [])
      let d := noteTab c d s.part cid s.buf (rd1 ++ rd2)
      match ctxOf d cid with
      | none => stop d
      | some x =>
        let d := handAll d cid x 0 0 (incomplete cause) h1
        let (s3, h3) := cutPiece s2 s2.piece.length
        let rest := s3.fields.map Hand.field
        let flags := finalFlags cause stopIn s.forced
        let d := handAll d cid x flags cause (incomplete cause) (h2 ++ h3 ++ rest)
        setSlot (stop d) cid (fun y => { y with text := s2.text })

/-- A cause that ends a context: one tied to no job is ended only by LENGTH_LIMIT, KV_FREE or its partition's disable, which frees
it (R289; DEDUCED that this holds against the causes of R334 and R245 too, log entry 96). -/
def endable (x : Ctx) (cause : Nat) : Bool := x.job != 0xFFFFFFFF || cause == 5 || cause == 9

/-- A sequence ends (R267, R289, R334): at most once, in the cycle in which it is decided. -/
def endSeq (c : Units) (d : Dev) (cid cause : Nat) (stopIn : Bool) : Dev :=
  match ctxOf d cid with
  | none => d
  | some x =>
    if x.state == 4 || !endable x cause then d
    else
      let d := setCtx d cid (fun y => { y with state := 4, cause })
      let d := match seqJob d x.part x.job with
        | some j => setJob d j.id (fun j => { j with sequences := j.sequences + 1 })
        | none => d
      finishText c d cid cause stopIn

/-- LENGTH_LIMIT (R288): the end, its event and its counter. -/
def endLimit (c : Units) (d : Dev) (cid limit : Nat) : Dev :=
  match ctxOf d cid with
  | none => d
  | some x =>
    if x.state == 4 then d
    else
      let d := endSeq c d cid 5 false
      let d := { d with kvm := { d.kvm with lenlim := d.kvm.lenlim + 1 } }
      raise c d (seqTie d x.part x.job)
        { code := 0x0017, unit := 0x1B, ctx := BitVec.ofNat 32 cid, detail := [x.length, limit] }

end Sys2Proof.Machine
end

