-- ==== Sys2Proof/Machine/Kv.lean ====
section
/-!
DEFINITION. KV words (R291 to R295): creates, appends, slab writes, frees and service; and the KV manager's boundary work
(R280, R281, R284 to R289).
-/
namespace Sys2Proof.Machine

/-! ### Lists (R291, R292) -/

/-- Count of a list word: N_MAX entries, of which n are processed (R292, R381). -/
def listCount (d : Dev) (bob : Nat) (desc : List Byte) : Nat :=
  if fld desc 8 4 == 0xFFFFFFFF then fld desc 2 2 else lsNat d bob (fld desc 8 4) 4

/-- The priority of a class (R301). -/
def prioOf (d : Dev) (cls : Nat) : Nat := cf d .kPrio (cls / 8) 0 (4 * (cls % 8) + 3) (4 * (cls % 8))

/-- Log KV_REFUSED and count it (R287). -/
def kvRefuse (d : Dev) (p cause : Nat) (job : Word) : Dev :=
  let d := { d with kvm := { d.kvm with refused := d.kvm.refused + 1 } }
  if cause == 0 then d
  else logAt d 0x0106 0x1B p job noWord [cause, freeSpill d p, freeLines d p] 0

/-- One KV_CREATE entry: the device, the context and the status (R264, R282, R287). -/
def createEntry (c : Units) (d : Dev) (p : Nat) (desc e : List Byte) : Dev × Option Nat × Nat :=
  let job := BitVec.ofNat 32 (fld e 0 4)
  let parent := fld e 4 4
  let nl := fld desc 16 1
  let shape := fld desc 17 1
  let formats := fld desc 18 1
  let ks := BitVec.ofNat 32 (fld desc 20 4)
  let vs := BitVec.ofNat 32 (fld desc 24 4)
  let par := if parent == 0xFFFFFFFF then none else ctxOf d parent
  let parOk := match par with
    | some a => a.part == p && a.nl == nl && a.shape == shape && a.formats == formats && a.ks == ks && a.vs == vs
        && (a.state == 2 || a.state == 3 || (a.state == 1 && a.length != 0))
    | none => parent == 0xFFFFFFFF
  if 4 ≤ fld e 9 1 || !zeroAt e 10 6 || (job != noWord && (heldJob d p job).isNone) || 8192 < layoutBytes shape formats
      || nl == 0 || cf d .kCtrl 0 0 12 8 + 1 < nl then (d, none, stValue)
  else if !parOk then (d, none, stConflict)
  else if (match par with | some a => decide (fld desc 28 2 < a.length) | none => false) then (d, none, stValue)
  else
    let pages := match par with | some a => a.pages | none => List.replicate nl []
    let n := gapFrom d.kvm.ctx 0
    if 65536 ≤ n then (kvRefuse d p 1 job, none, stExhausted)
    else if freeSpill d p < cf d .kSpill p 0 31 20 then (kvRefuse d p 2 job, none, stExhausted)
    else if freeLines d p < pageLines pages then (kvRefuse d p 3 job, none, stExhausted)
    else
      let ready := bitOf (fld e 9 1) 0
      let len := match par with | some a => a.length | none => 0
      let x : Ctx :=
        { state := if ready then 2 else 1, cls := fld e 8 1, part := p, job, length := len, startLen := len, nl, shape
          formats, hold := bitOf (fld e 9 1) 1, ks, vs, parent := BitVec.ofNat 32 parent
          readyAt := if ready then some (d.clk.count + 1) else none
          ring := List.replicate 16 0, pages, tdone := List.replicate nl 0 }
      let d := { d with kvm := { d.kvm with ctx := assocPut d.kvm.ctx n x } }
      let d := pages.flatten.foldl (fun d i => putHead c d p i 12 (leBytes 4 (pageRefs d i + 1))) d
      (d, some n, stOk)

/-- One KV_APPEND entry (R292). -/
def appendEntry (c : Units) (d : Dev) (p bob : Nat) (desc e : List Byte) : Dev × Nat :=
  let cid := fld e 0 4
  let t := fld e 4 2
  let layer := fld desc 16 2
  let fmt := fld desc 18 1
  let commit := bitOf (fld desc 19 1) 0
  let shape := fld desc 22 1 + 16 * fld desc 23 1
  match ctxOf d cid with
  | none => (d, stConflict)
  | some x =>
    if x.part != p || !(x.state == 1 || x.state == 2) then (d, stConflict)
    else if t == 0 || fld desc 20 2 < t || shape != x.shape || x.nl ≤ layer || 2 ≤ fld e 6 1 || fld e 7 1 != 0 then
      (d, stValue)
    else
      let from_ := x.length + x.tdone.getD layer 0
      if 16384 < from_ + t then (endLimit c d cid 16384, stOk)
      else
        let need := layerNeed d (layerPages x layer) t
        let len := (layerPages x layer).length
        if freeFrames d p < need.1 + b2n need.2 || freeLines d p < cdiv (len + need.1) 16 - cdiv len 16 then
          (kvRefuse d p 0 x.job, stExhausted)
        else
          let d := takeLayer c d cid layer t
          let h := headsOf shape
          let n := hdimOf shape
          let pitch := h * rowPitch fmt n
          let d := (List.range t).foldl (fun d i =>
            let (d, bk) := lsNote c d (whoCtx d x) bob (fld e 8 4 + i * pitch) pitch
            let (d, bv) := lsNote c d (whoCtx d x) bob (fld e 12 4 + i * pitch) pitch
            putPos c d cid layer (from_ + i) (srcRows d bob fmt (fld e 8 4 + i * pitch) h n)
              (srcRows d bob fmt (fld e 12 4 + i * pitch) h n) (bk || bv)) d
          let ready := commit && bitOf (fld e 6 1) 0
          (setCtx d cid (fun x =>
            let x := { x with tdone := x.tdone.set layer (x.tdone.getD layer 0 + t) }
            let x := if commit then { x with length := x.length + t, tdone := x.tdone.map (fun _ => 0) } else x
            if ready && x.state == 1 then
              { x with state := 2, readyAt := match x.readyAt with | none => some (d.clk.count + 1) | r => r }
            else x), stOk)

/-- One KV_FREE entry (R293). -/
def freeEntry (c : Units) (d : Dev) (p : Nat) (e : List Byte) : Dev × Nat :=
  match ctxOf d (fld e 0 4) with
  | none => (d, stConflict)
  | some x => if x.part != p then (d, stConflict) else (endSeq c d (fld e 0 4) 9 false, stOk)

/-- A write of the KV manager in the present cycle, at the move port (R196). -/
def kvPut (d : Dev) (f : Flight) (w : Nat × List Byte) : Dev := putAt d (d.clk.offset + 1) prioMove f.id [w]

/-- Entry k of a list word, with its result (R291, R292). -/
def actKvEntry (c : Units) (d : Dev) (f : Flight) (k : Nat) : Dev :=
  let op := wOp f.word.toNat
  let desc := f.desc
  let p := f.part
  let bob := phys d (imgOf d p) p (fld desc 0 1)
  let w : Who := { unit := 0x1B, part := p }
  let d := if k != 0 || fld desc 8 4 == 0xFFFFFFFF then d else (lsNote c d w bob (fld desc 8 4) 4).1
  let n := if k == 0 then listCount d bob desc else fld f.aux 0 4
  let d := if k == 0 then setFlight d f.id (fun x => { x with aux := leBytes 4 n }) else d
  let ra := fld desc 12 4 + 8 * k
  let (d, ctx, st) :=
    if n ≤ k then ({ d with free := d.free + 1 }, (Config.openValue 5 d.free).toNat, 0xFFFF)
    else
      let a := fld desc 4 4 + 16 * k
      let d := (lsNote c d w bob a 16).1
      let e := lsGet d bob a 16
      if op == 0 then
        let (d, id, st) := createEntry c d p desc e
        match id with
        | some i => (d, i, st)
        | none => ({ d with free := d.free + 1 }, (Config.openValue 5 d.free).toNat, st)
      else if op == 1 then let (d, st) := appendEntry c d p bob desc e; (d, fld e 0 4, st)
      else let (d, st) := freeEntry c d p e; (d, fld e 0 4, st)
  kvPut d f (lsPut bob ra (leBytes 4 ctx ++ leBytes 2 st ++ [0, 0]))

/-! ### Slab writes (R294) -/

/-- SLAB_ID, SLOTS and MAX_TOKENS of the slab with an identity. -/
def slabById (img : List Byte) (id : Nat) : Option (Nat × Nat × Nat × Nat × Nat) := (slabsOf img).find? (fun s => s.1 == id)

/-- A slot whose sequence runs in this step: placed, not stalled, not ended. -/
def Slot.live (s : Slot) : Bool := !s.ended && !s.stalled

/-- KV_WRITE: the new position of slot i of the descriptor (R294, R288). -/
def actKvWrite (c : Units) (d : Dev) (f : Flight) (i : Nat) : Dev :=
  let desc := f.desc
  let p := f.part
  let img := imgOf d p
  let bob := phys d img p (fld desc 1 1)
  let slab := fld desc 0 1
  let fmt := fld desc 20 1
  let shape := fld desc 22 1 + 16 * fld desc 23 1
  let h := headsOf shape
  let n := hdimOf shape
  let pitch := h * rowPitch fmt n
  let limit := ((slabById img slab).map (fun s => s.2.2.2.2)).getD 16384
  match slotAt d p slab (fld desc 8 2 + i) with
  | none => d
  | some s =>
    match ctxOf d s.ctx with
    | none => d
    | some x =>
      if !s.live || x.state == 4 then d
      else
        let ka := fld desc 12 4 + i * pitch
        let va := fld desc 16 4 + i * pitch
        let (d, bk) := lsNote c d (whoCtx d x) bob ka pitch
        let (d, bv) := lsNote c d (whoCtx d x) bob va pitch
        let d := putPos c d s.ctx (fld desc 2 2) x.length (srcRows d bob fmt ka h n) (srcRows d bob fmt va h n) (bk || bv)
        if bitOf (fld desc 21 1) 0 then
          let d := setCtx d s.ctx (fun x => { x with length := x.length + 1 })
          if limit ≤ x.length + 1 then setSlot d s.ctx (fun s => { s with endDue := if s.endDue == 0 then 5 else s.endDue }) else d
        else d

/-! ### KV_SERVICE (R285, R286, R294) -/

/-- Pages of a context in slot order within it, lowest slot and layer first: slot, layer, identifier. -/
def pageOrder (x : Ctx) : List (Nat × Nat × Nat) :=
  let m := x.pages.foldl (fun m l => Nat.max m l.length) 0
  (List.range m).flatMap (fun s => (List.range x.pages.length).filterMap (fun y =>
    ((layerPages x y)[s]?).map (fun i => (s, y, i))))

/-- Replace one page identifier of a context. -/
def setPage (d : Dev) (cid layer slot id : Nat) : Dev :=
  setCtx d cid (fun x => { x with pages := x.pages.set layer ((layerPages x layer).set slot id) })

/-- Copy a page of a context, data and header, between a frame and a spill slot; the copy and the context carry ECC (R285, R290). -/
def copyPage (c : Units) (d : Dev) (p cid from_ dest : Nat) : Dev :=
  let w := ((ctxOf d cid).map (whoCtx d)).getD (whoKv p)
  let get := fun (d : Dev) (a n : Nat) =>
    if from_ < 0x2000 then
      let (d, bad) := eccRead c d w a n
      (d, peek d a n, bad)
    else
      let (d, bs, bad) := ddrRead c d w regsKv (a - key 7 0) n
      (d, bs, bad)
  let (d, data, bad) := get d (pageKey d from_) 8192
  let (d, head, _) := get d (headKey d from_) 64
  let head := if bad then head.take 24 ++ [1] ++ head.drop 25 else head
  let d := if bitOf (fld head 24 1) 0 then setCtx d cid (fun x => { x with ecc := true }) else d
  let put := fun (d : Dev) (a : Nat) (bs : List Byte) =>
    if dest < 0x2000 then store c d w a bs else ddrWrite c d w regsKv (a - key 7 0) bs
  put (put d (pageKey d dest) data) (headKey d dest) head

/-- Map lines of a context, in order: layer and line in the layer (R275). -/
def mapLines (x : Ctx) : List (Nat × Nat) :=
  (List.range x.pages.length).flatMap (fun y => (List.range (cdiv (layerPages x y).length 16)).map (fun i => (y, i)))

/-- DDR5 address and bytes of line k of a context: record, ring, then its map lines (R275, R276). -/
def lineAt (d : Dev) (cid : Nat) (x : Ctx) (k : Nat) : Nat × List Byte :=
  let base := (region d 2).1
  if k == 0 then (base + cid * 128, x.record)
  else if k == 1 then (base + cid * 128 + 64, x.ringBytes)
  else
    match (mapLines x)[k - 2]? with
    | none => (base + cid * 128, [])
    | some (y, i) =>
      let l := layerPages x y
      (base + 2 ^ 23 + (cid * (cf d .kCtrl 0 0 12 8 + 1) + y) * 4096 + 64 * i,
       (List.range 16).flatMap (fun j => leBytes 4 (l.getD (16 * i + j) pageNone)))

/-- First page that a context still has to move: into a spill slot, or back. -/
def nextMove (d : Dev) (x : Ctx) : Option (Nat × Nat × Nat) :=
  (pageOrder x).find? (fun e => if x.state == 5 then e.2.2 < 0x2000 && pageRefs d e.2.2 == 1 else 0x2000 ≤ e.2.2)

/-- The rest of a layer's page table, behind its last map line: NONE in every slot (R275). -/
def tableRest (d : Dev) (cid : Nat) (x : Ctx) (y : Nat) : Nat × List Byte :=
  let n := 64 * cdiv (layerPages x y).length 16
  ((region d 2).1 + 2 ^ 23 + (cid * (cf d .kCtrl 0 0 12 8 + 1) + y) * 4096 + n,
   (List.range ((4096 - n) / 4)).flatMap (fun _ => leBytes 4 pageNone))

/-- A context as its record line gives it; STATE, PART, NL and the formats of its pages stay with the KV manager, which keeps
them for the copies that come before the lines (R294; DEDUCED, log entry 96). -/
def Ctx.readRecord (x : Ctx) (bs : List Byte) : Ctx :=
  { x with
    cls := fld bs 1 1, job := BitVec.ofNat 32 (fld bs 4 4), length := fld bs 8 2, startLen := fld bs 10 2
    ecc := bitOf (fld bs 15 1) 0, hold := bitOf (fld bs 15 1) 1, ks := BitVec.ofNat 32 (fld bs 16 4)
    vs := BitVec.ofNat 32 (fld bs 20 4), parent := BitVec.ofNat 32 (fld bs 24 4), readyAt := some (BitVec.ofNat 64 (fld bs 28 8))
    place := fld bs 36 2, ringHead := fld bs 38 1 % 16, ringCnt := fld bs 39 1, gen := fld bs 40 2 }

/-- A context after a map line was read back: each slot names the page as read, a spilled one the frame it was copied to (R275,
R286; DEDUCED, log entry 96). -/
def Ctx.readMap (x : Ctx) (k : Nat) (bs : List Byte) : Ctx :=
  match (mapLines x)[k]? with
  | none => x
  | some (y, i) =>
    let at_ := fun (s id : Nat) =>
      if s / 16 == i then let r := fld bs (4 * (s % 16)) 4 % 2 ^ 20; (assoc x.copied r).getD r else id
    { x with pages := x.pages.set y ((layerPages x y).mapIdx at_) }

/-- A context after one of its lines was read back (R286); a line read in error marks it (R290). -/
def Ctx.readLine (x : Ctx) (k : Nat) (bs : List Byte) (bad : Bool) : Ctx :=
  let x := if k == 0 then x.readRecord bs
    else if k == 1 then { x with ring := (List.range 16).map (fun i => BitVec.ofNat 32 (fld bs (4 * i) 4)) }
    else x.readMap (k - 2) bs
  { x with ecc := x.ecc || bad }

/-- One unit of service within a byte budget: what it cost, or none when no work is left or the next does not fit. -/
def serviceOne (c : Units) (d : Dev) (p left : Nat) : Option (Dev × Nat) :=
  let mine := fun (st : Nat) => d.kvm.ctx.filter (fun e => e.2.part == p && e.2.state == st)
  let copy := fun (st : Nat) => (mine st).findSome? (fun e => (nextMove d e.2).map (fun m => (e.1, m)))
  match (if freeSpill d p == 0 then none else copy 5) with
  | some (cid, s, y, id) =>
    if left < 8256 then none
    else
      let (d, q) := takeSpill d p
      let d := freePage c (copyPage c d p cid id q) p id
      some (setPage d cid y s q, 8256)
  | none =>
    match copy 7 with
    | some (cid, s, y, id) =>
      if left < 8256 then none
      else
        match (ctxOf d cid).bind (fun x => x.reserve.head?) with
        | none => none
        | some fr =>
          let d := freePage c (copyPage c d p cid id fr) p id
          some (setCtx (setPage d cid y s fr) cid (fun x => { x with reserve := x.reserve.drop 1, copied := x.copied ++ [(id, fr)] }), 8256)
    | none =>
      match (mine 5 ++ mine 7).find? (fun e => (nextMove d e.2).isNone) with
      | none => none
      | some (cid, x) =>
        if left < 64 then none
        else
          let out := x.state == 5
          let rec_ := if out && x.moved == 0 then { x with state := 6 } else x
          let (a, bs) := lineAt d cid rec_ x.moved
          let last := x.moved + 1 == pageLines x.pages
          let d :=
            if out then
              let d := ddrWrite c d (whoCtx d x) regsKv a bs
              if last then (List.range x.pages.length).foldl (fun d y =>
                let r := tableRest d cid x y
                ddrWrite c d (whoCtx d x) regsKv r.1 r.2) d
              else d
            else
              let (d, bs, bad) := ddrRead c d (whoCtx d x) regsKv a 64
              setCtx d cid (fun x => x.readLine x.moved bs bad)
          let d := setCtx d cid (fun x =>
            if !last then { x with moved := x.moved + 1 }
            else if out then { x with moved := 0, state := 6 } else { x with moved := 0, state := 2, copied := [] })
          some (if last && !out then { d with kvm := { d.kvm with resume := d.kvm.resume + 1 } } else d, 64)

/-- Service until the budget or the work runs out. -/
def serviceAll (c : Units) (p : Nat) : Nat → Dev → Nat → Dev
  | 0, d, _ => d
  | n + 1, d, left =>
    match serviceOne c d p left with
    | none => d
    | some (d, cost) => serviceAll c p n d (left - cost)

/-- KV_SERVICE: queued work within BYTES, or within the owned DDR5 cycles of a word that cannot complete. -/
def actKvService (c : Units) (d : Dev) (f : Flight) : Dev :=
  let bytes := fld f.aux 0 8
  serviceAll c f.part (bytes / 64 + 1) d bytes

/-! ### Completion cycles (R295) -/

/-- Entries or slots of a KV word, and the cycles of each. -/
def kvEach (w : Nat) (desc : List Byte) : Nat × Nat :=
  let n := fld desc 2 2
  let rows := fun (fmt : Nat) => headsOf (fld desc 22 1) * rowPitch fmt (hdimOf (16 * fld desc 23 1))
  match wOp w with
  | 0 => (n, 32 + 2 * fld desc 16 1 * cdiv (fld desc 28 2) 256)
  | 1 => (n, 24 + 2 * cdiv (fld desc 20 2 * rows (fld desc 18 1)) 1024 + 24 * (cdiv (fld desc 20 2) 16 + 1))
  | 2 => (fld desc 10 2, 40 + 2 * cdiv (rows (fld desc 20 1)) 1024)
  | _ => (n, 8)

/-- DURATION of a KV word. -/
def kvDur (w : Nat) (desc : List Byte) : Nat :=
  if wOp w == 4 then wDur w else let x := kvEach w desc; 48 + x.1 * x.2

/-- Cycle of service in which entry k of a KV word takes effect: the last of its own (DEDUCED, log entry 31). -/
def kvStep (w : Nat) (desc : List Byte) (k : Nat) : Nat := 48 + (k + 1) * (kvEach w desc).2 - 1

/-- Entry k of a KV word takes effect; the next one follows. -/
def actKv (c : Units) (d : Dev) (f : Flight) (k : Nat) : Dev :=
  let w := f.word.toNat
  let d := if wOp w == 2 then actKvWrite c d f k else actKvEntry c d f k
  if k + 1 < (kvEach w f.desc).1 then addServed d 3 f (kvStep w f.desc (k + 1)) prioRead (.entry (k + 1)) else d

/-- Steps that a KV word schedules. -/
def startKv (d : Dev) (f : Flight) : Dev :=
  let w := f.word.toNat
  if wOp w != 4 then
    let d := completeServed d 3 f (kvDur w f.desc)
    if (kvEach w f.desc).1 == 0 then d else addServed d 3 f (kvStep w f.desc 0) prioRead (.entry 0)
  else
    let per := periodOf d
    match servedAt d 3 f.part f.issue 0 with
    | none => d
    | some s =>
      let bytes := fld f.desc 0 4
      let before := (partOf d f.part).ddrLast
      let (d, last) := takeDdr d f.part f.issue bytes
      match last, servedAt d 3 f.part f.issue (wDur w - 1) with
      | some l, some t =>
        let fin := Nat.max (t + 1) (l + 160)
        let d := setFlight d f.id (fun x => { x with aux := leBytes 8 bytes })
        if fin < per then addEv (completeAt d f fin) (fin - 1) prioRead f.id .whole
        else addEv d (per - 1) prioRead f.id .whole
      | some _, none => addEv (setFlight d f.id (fun x => { x with aux := leBytes 8 bytes })) (per - 1) prioRead f.id .whole
      | none, _ =>
        let start := match before with | some l => Nat.max (s + 6) (l + 1) | none => s + 6
        let part := ownedBefore (slotOwner d 0) per f.part start per * ddrG d
        addEv (setFlight d f.id (fun x => { x with aux := leBytes 8 (Nat.min bytes part) })) (per - 1) prioRead f.id .whole

/-! ### Checks (R296) -/

/-- Operand checks of a KV word or slab descriptor. -/
def kvOk (img : List Byte) (w : Nat) (desc : List Byte) : Bool :=
  let bobs := fld img 20 1
  let n := fld desc 2 2
  let list := fld desc 0 1 < bobs && fld desc 1 1 == 0 && 1 ≤ n && n ≤ 256 && fld desc 4 4 % 16 == 0
    && fld desc 4 4 + 16 * n ≤ 20971520
    && (fld desc 8 4 == 0xFFFFFFFF || (fld desc 8 4 % 4 == 0 && fld desc 8 4 + 4 ≤ 20971520))
    && fld desc 12 4 % 8 == 0 && fld desc 12 4 + 8 * n ≤ 20971520
  let src := fun f => 1 ≤ f && f ≤ 4
  bitsOf w 39 0 == 0 && match wOp w with
  | 0 => list && 1 ≤ fld desc 16 1 && fld desc 16 1 ≤ 32 && kvFmtOk (kFmtOf (fld desc 18 1)) && kvFmtOk (vFmtOf (fld desc 18 1))
      && fld desc 19 1 == 0 && posFinite (BitVec.ofNat 32 (fld desc 20 4)) && posFinite (BitVec.ofNat 32 (fld desc 24 4))
      && 1 ≤ fld desc 28 2 && fld desc 28 2 ≤ 16384 && zeroAt desc 30 34 && layoutBytes (fld desc 17 1) (fld desc 18 1) ≤ 8192
  | 1 => list && fld desc 16 2 < 32 && src (fld desc 18 1) && fld desc 19 1 < 2 && 1 ≤ fld desc 20 2 && fld desc 20 2 ≤ 512
      && fld desc 22 1 < 16 && fld desc 23 1 < 16 && zeroAt desc 24 40
  | 2 => fld desc 1 1 < bobs && fld desc 2 2 < 32 && src (fld desc 20 1) && fld desc 21 1 < 2 && fld desc 22 1 < 16
      && fld desc 23 1 < 16 && zeroAt desc 24 40 && 1 ≤ fld desc 10 2
      && (match slabById img (fld desc 0 1) with
          | some s => fld desc 8 2 + fld desc 10 2 ≤ s.2.1 && fld desc 4 4 + kvDur w desc ≤ s.2.2.1
          | none => false)
      && (let r := headsOf (fld desc 22 1) * rowPitch (fld desc 20 1) (hdimOf (16 * fld desc 23 1))
          fld desc 12 4 + fld desc 10 2 * r ≤ 20971520 && fld desc 16 4 + fld desc 10 2 * r ≤ 20971520)
  | 3 => list && zeroAt desc 16 48
  | 4 => zeroAt desc 4 60
  | _ => false

/-! ### Boundary work (R281) -/

/-- Issues of a slab's word in an image: I of R280. -/
def slabIssues (img : List Byte) (slab : Nat) : Nat := ((opsOf img).filter (fun w => wClass w == 9 && bitsOf w 5 0 == slab)).length

/-- Free an ended context: its pages, lines and slot (R289). -/
def freeCtx (c : Units) (d : Dev) (cid : Nat) : Dev :=
  match ctxOf d cid with
  | none => d
  | some x =>
    let d := x.pages.flatten.foldl (fun d i => leavePage c d x.part i) d
    let d := x.reserve.foldl (fun d i => freePage c d x.part i) d
    { d with kvm := { d.kvm with ctx := assocDel d.kvm.ctx cid }
             txt := { d.txt with slots := d.txt.slots.filter (fun s => s.ctx != cid) } }

/-- Contexts of a partition. -/
def ctxsOf (d : Dev) (p : Nat) : List (Nat × Ctx) := d.kvm.ctx.filter (fun e => e.2.part == p)

/-- Insert in an order given by a test. -/
def insertBy {α : Type} (lt : α → α → Bool) (x : α) : List α → List α
  | [] => [x]
  | y :: t => if lt x y then x :: y :: t else y :: insertBy lt x t

/-- Stable sort by a test. -/
def sortBy {α : Type} (lt : α → α → Bool) (l : List α) : List α := l.foldl (fun a x => insertBy lt x a) []

/-- Lexicographic order of keys. -/
def lexLt : List Int → List Int → Bool
  | [], _ => false
  | _, [] => false
  | a :: s, b :: t => a < b || (a == b && lexLt s t)

/-- Key of the order of R72: priority high first, then READY_AT, then context number. -/
def readyKey (d : Dev) (e : Nat × Ctx) : List Int :=
  [-(prioOf d e.2.cls : Int), ((e.2.readyAt.map BitVec.toNat).getD 0 : Nat), e.1]

/-- The slab a ready context may enter, with its index and lowest free slot, if one is free. Of two slabs of one class it is the first in the
order of the section that has a free slot (R72; DESIGN CHOICE, log entry 103). -/
def slabFor (d : Dev) (img : List Byte) (p : Nat) (x : Ctx) : Option (Nat × Nat × Option Nat) :=
  let fits := (slabsOf img).filter (fun s => s.2.2.2.1 == x.cls)
  let room := fun (s : Nat × Nat × Nat × Nat × Nat) =>
    (List.range s.2.1).find? (fun i => !d.txt.slots.any (fun t => t.part == p && t.slab == s.1 && t.idx == i))
  match fits.find? (fun s => (room s).isSome) with
  | some s => some (s.1, s.2.2.2.2, room s)
  | none => (fits.head?).map (fun s => (s.1, s.2.2.2.2, none))

/-- Reserve for the slotted sequences (R280, R281); the frames and lines that stalled ones lack. -/
def reserveSlotted (c : Units) (d : Dev) (p : Nat) : Dev × List (Nat × Nat) :=
  let img := imgOf d p
  let lt := fun (a b : Slot) =>
    let k := fun (s : Slot) => [-(((ctxOf d s.ctx).map (fun x => (prioOf d x.cls : Int))).getD 0), (s.slab : Int), (s.idx : Int)]
    lexLt (k a) (k b)
  (sortBy lt (d.txt.slots.filter (fun s => s.part == p))).foldl (fun (a : Dev × List (Nat × Nat)) s =>
    let d := a.1
    match ctxOf d s.ctx with
    | none => a
    | some x =>
      let i := slabIssues img s.slab
      let (f, m) := seqNeed d x i
      if freeFrames d p < f || freeLines d p < m then
        let d := setCtx d s.ctx (fun x => { x with stalled := true })
        let d := setSlot d s.ctx (fun s => { s with stalled := true })
        ({ d with kvm := { d.kvm with stall := d.kvm.stall + 1 } }, a.2 ++ [(f, m)])
      else (takeSeq c d s.ctx i, a.2)) (d, [])

/-- Place ready sequences (R72, R281, R288), stopping at the first that lacks frames or lines. -/
def placeReady (c : Units) (p : Nat) : List Nat → Dev → Dev
  | [], d => d
  | cid :: rest, d =>
    match ctxOf d cid with
    | none => placeReady c p rest d
    | some x =>
      let img := imgOf d p
      match slabFor d img p x with
      | none => placeReady c p rest d
      | some (slab, limit, room) =>
        if limit < x.length + 1 then placeReady c p rest (endLimit c d cid limit)
        else match room with
          | none => placeReady c p rest d
          | some idx =>
            let i := slabIssues img slab
            let (f, m) := seqNeed d x i
            if freeFrames d p < f + cf d .kPool 0 0 28 16 || freeLines d p < m then d
            else
              let d := setCtx d cid (fun x => { x with state := 3, place := slab * 1024 + idx })
              let s : Slot := { part := p, slab, idx, ctx := cid, buf := b2n d.txt.active }
              let d := { d with txt := { d.txt with slots := d.txt.slots ++ [s] } }
              placeReady c p rest (takeSeq c d cid i)

/-- Pages with REFS = 1 of a context. -/
def ownPages (d : Dev) (x : Ctx) : Nat := (x.pages.flatten.filter (fun i => i < 0x2000 && pageRefs d i == 1)).length

/-- Choose victims (R284): until the frames that they give up bring the free ones to LOW and, with their lines, cover every
stall; the spill slots that SPILLING contexts still need are not free (DEDUCED, log entry 96). -/
def markVictims (c : Units) (d : Dev) (p : Nat) (stalls : List (Nat × Nat)) : Dev :=
  let low := cf d .kPool 0 0 12 0
  let free := freeFrames d p
  let lines := freeLines d p
  let want := Nat.max low (stalls.foldl (fun n s => n + s.1) 0)
  let wantLines := stalls.foldl (fun n s => n + s.2) 0
  let owed := ((ctxsOf d p).filter (fun e => e.2.state == 5)).foldl (fun n e => n + ownPages d e.2) 0
  if !(free < low || !stalls.isEmpty) then d
  else
    let cands := (ctxsOf d p).filter (fun e => e.2.state == 2 && !e.2.hold)
    let k := fun (e : Nat × Ctx) => [(prioOf d e.2.cls : Int), -((e.2.readyAt.map BitVec.toNat).getD 0 : Nat), -(e.1 : Int)]
    let r := (sortBy (fun a b => lexLt (k a) (k b)) cands).foldl (fun (a : Dev × Nat × Nat × Nat) e =>
      let own := ownPages d e.2
      if (want ≤ free + a.2.1 && wantLines ≤ lines + a.2.2.2) || a.2.2.1 < own then a
      else
        let d := setCtx a.1 e.1 (fun x => { x with state := 5, moved := 0 })
        let d := { d with kvm := { d.kvm with preempt := d.kvm.preempt + 1 } }
        let d := raise c d (seqTie d p e.2.job)
          { code := 0x0018, unit := 0x1B, ctx := BitVec.ofNat 32 e.1, detail := [own, prioOf d e.2.cls] }
        (d, a.2.1 + own, a.2.2.1 - own, a.2.2.2 + pageLines e.2.pages)) (d, 0, freeSpill d p - owed, 0)
    r.1

/-- Start a resumption (R286): one context of a partition at a time (DESIGN CHOICE, log entry 32). -/
def startResume (d : Dev) (p : Nat) (stalled : Bool) : Dev :=
  let mine := ctxsOf d p
  if stalled || mine.any (fun e => e.2.state == 7) then d
  else
    match (sortBy (fun a b => lexLt (readyKey d a) (readyKey d b)) (mine.filter (fun e => e.2.state == 6))).head? with
    | none => d
    | some (cid, x) =>
      let n := (x.pages.flatten.filter (fun i => 0x2000 ≤ i)).length
      if freeFrames d p < n + cf d .kPool 0 0 12 0 || freeLines d p < pageLines x.pages then d
      else
        let (d, fs) := (List.range n).foldl (fun (a : Dev × List Nat) _ =>
          let (d, i) := takeFrame a.1 p
          (d, a.2 ++ [i])) (d, [])
        setCtx d cid (fun x => { x with state := 7, moved := 0, reserve := fs, copied := [] })

/-- The KV manager's work for a partition committed RUN, at offsets 64 to 191 (R281). -/
def kvBoundary (c : Units) (d : Dev) (p : Nat) : Dev :=
  let d := ((ctxsOf d p).filter (fun e => e.2.state == 4)).foldl (fun d e => freeCtx c d e.1) d
  let (d, stalls) := reserveSlotted c d p
  let ready := sortBy (fun a b => lexLt (readyKey d a) (readyKey d b)) ((ctxsOf d p).filter (fun e => e.2.state == 2))
  let d := placeReady c p (ready.map (·.1)) d
  startResume (markVictims c d p stalls) p !stalls.isEmpty

/-- Use of every partition as of the boundary (R300). -/
def kvUse (d : Dev) : Dev :=
  let n := fun (l : List (Nat × Nat)) (p : Nat) => (l.filter (fun e => e.2 == p)).length
  { d with kvm := { d.kvm with
      use := Vector.ofFn (fun p : Fin 8 => (usedLines d p, n d.kvm.frames p, n d.kvm.spill p))
      free := 65536 - d.kvm.ctx.length } }

end Sys2Proof.Machine
end

