-- ==== Sys2Proof/Machine/Attn.lean ====
section
/-!
DEFINITION. Attention (R233 to R263): scores, masks, the online softmax, pages of a slot, the ring, the backward pass,
and the timing and checks of ATTN words.
-/
namespace Sys2Proof.Machine

/-- Fields of an ATTN descriptor (R259). -/
structure AttnD where
  q : Nat
  k : Nat
  v : Nat
  o : Nat
  stat : Nat
  qr : Nat
  nb : Nat
  hdim : Nat
  qFmt : Nat
  kvFmt : Nat
  pFmt : Nat
  causal : Bool
  ring : Bool
  report : Bool
  head : Nat
  layer : Nat
  sm : Word
  qPos : Nat
  kPos : Nat
  keyLen : Nat
  ccw : Ccw
  deriving DecidableEq, Repr

/-- Read an ATTN descriptor. -/
def attnD (b : List Byte) : AttnD :=
  { q := fld b 0 4, k := fld b 4 4, v := fld b 8 4, o := fld b 12 4, stat := fld b 16 4, qr := fld b 20 2, nb := fld b 22 2
    hdim := 16 * (fld b 24 1 + 1), qFmt := fld b 25 1, kvFmt := fld b 26 1, pFmt := fld b 27 1, causal := bitOf (fld b 28 1) 0
    ring := bitOf (fld b 28 1) 1, report := bitOf (fld b 28 1) 2, head := fld b 29 1, layer := fld b 30 2
    sm := BitVec.ofNat 32 (fld b 32 4), qPos := fld b 36 4, kPos := fld b 40 4, keyLen := fld b 44 4, ccw := ccwOf (fld b 48 8) }

/-- E of R183 for a pair of 8- or 16-bit operands (R234). -/
def pairE (a b : Nat) : Nat := match pairOf a b with | some x => x.1 | none => 128

/-- Cut a list into runs of n. -/
def runsOf {α : Type} (n : Nat) (l : List α) : List (List α) := (List.range (cdiv l.length n)).map (fun i => (l.drop (n * i)).take n)

/-- FP32 array sum of products in beats of e elements, one rounding per beat (R170). -/
def dotBeats (e : Nat) (xs ys : List Xv) : Word :=
  ((runsOf e xs).zip (runsOf e ys)).foldl (fun (a : Word × Bool) b =>
    ((accUpdate false a.1 a.2 b.1 b.2).1, false)) ((0 : Word), true) |>.1

/-- −inf in FP32. -/
def negInf : Word := 0xFF800000

/-- One key with its value row: scores' factor c and value scale (R235, R237). -/
structure KeyV where
  k  : List Xv
  v  : List Xv
  c  : Word
  vs : Xv
  deriving DecidableEq, Repr

/-- Running state of a query row (R237). -/
structure RowAcc where
  m : Word := 0xFF800000
  l : Word := 0
  o : List Word
  deriving DecidableEq, Repr

/-- A row as its flight keeps it, and back. -/
def RowAcc.pack (r : RowAcc) : List Word := r.m :: r.l :: r.o
def RowAcc.unpack (l : List Word) : RowAcc := { m := l.getD 0 negInf, l := l.getD 1 0, o := l.drop 2 }

/-- Score of a row and a key (R235). -/
def score (a : AttnD) (q : List Xv) (x : KeyV) : Word :=
  rne32 ((f32 (dotBeats (pairE a.qFmt a.kvFmt) q x.k)).mul (f32 x.c))

/-- Round a value to a format and read it back. -/
def roundTo (fmt : Nat) (x : Xv) : Xv := codeVal fmt (convert1 fmt false false 1 0 x).code 0

/-- One block for one row (R237, R239): scores, masked ones −inf, with the keys of the block. -/
def blockStep (a : AttnD) (r : RowAcc) (ss : List Word) (ks : List KeyV) : RowAcc :=
  let m2 := rne32 ((f32 r.m).max2 (scoreMax (ss.map f32)))
  let alpha : Word := if m2 == negInf then 0x3F800000 else exp32 (f32 (rne32 ((f32 r.m).sub (f32 m2))))
  let ph := ss.map (fun s => if s == negInf then Xv.zero
    else roundTo a.pFmt (f32 (exp32 (f32 (rne32 ((f32 s).sub (f32 m2)))))))
  let as := List.zipWith (fun p k => roundTo a.pFmt (p.mul k.vs)) ph ks
  let t := Xv.sum Xv.zero ph
  let ev := pairE a.pFmt a.kvFmt
  { m := m2
    l := rne32 (((f32 alpha).mul (f32 r.l)).add t)
    o := r.o.mapIdx (fun i o =>
      rne32 (((f32 alpha).mul (f32 o)).add (f32 (dotBeats ev as (ks.map (fun k => k.v.getD i Xv.zero)))))) }

/-- Mask of R236: key index k, row r. -/
def masked (a : AttnD) (r k : Nat) : Bool := a.keyLen ≤ k || (a.causal && a.qPos + r < a.kPos + k)

/-- A block that the masks remove for the whole row set (R241). -/
def skipBlock (a : AttnD) (k0 : Nat) : Bool := (List.range a.qr).all (fun r => masked a r k0 && masked a r (k0 + 127)) &&
  (List.range a.qr).all (fun r => (List.range 128).all (fun i => masked a r (k0 + i)))

/-- Fold the rows of a set through one block whose first key has index k0. -/
def foldBlock (a : AttnD) (qs : List (List Xv)) (rows : List RowAcc) (k0 : Nat) (ks : List KeyV) : List RowAcc :=
  List.zipWith (fun (x : Nat × List Xv) r =>
    blockStep a r (ks.mapIdx (fun i k => if masked a x.1 (k0 + i) then negInf else score a x.2 k)) ks)
    (qs.mapIdx (fun i q => (i, q))) rows

/-- A row before its first block. -/
def emptyRow (a : AttnD) : RowAcc := { o := List.replicate a.hdim 0 }

/-- Rows pitched by 64 bytes in a local store. -/
def lsRow (d : Dev) (n fmt base row hdim : Nat) : List Xv := lsVals d n fmt (base + row * rowPitch fmt hdim) 0 hdim

/-- Keys and values of a block in a local store (R235: scales 1). -/
def lsBlock (d : Dev) (n : Nat) (a : AttnD) (k v b : Nat) : List KeyV :=
  (List.range 128).map (fun i =>
    { k := lsRow d n a.kvFmt k (128 * b + i) a.hdim, v := lsRow d n a.kvFmt v (128 * b + i) a.hdim, c := rne32 (f32 a.sm)
      vs := .fin false 1 0 })

/-- One output row converted through the CCW (R238): codes, tally, statistics entry, whether it is empty. -/
def rowOutAttn (a : AttnD) (free : Nat) (r : RowAcc) : List Byte × Tally × List Byte × Bool :=
  let k := a.ccw
  let empty := (f32 r.l).isZero
  let sc := if k.src == 0 then Scale.one else (scaleOf k.scale).1
  let cs : List Cv := r.o.map (fun o =>
    let conv := convert1 k.fmt k.rtz k.nonsat
    if empty then conv 1 0 Xv.zero
    else match sc with
      | .zero => { code := 0, nan := (f32 o).isNan || (f32 r.l).isNan }
      | sc =>
        let (sn, se) := match sc with | .val m e => (m, e) | _ => (1, (0 : Int))
        match f32 r.l, f32 o with
        | .nan s, _ => conv 1 0 (.nan s)
        | .inf _, .inf _ => conv 1 0 (.nan (Config.nanSign 3))
        | .inf _, .nan s => conv 1 0 (.nan s)
        | .inf _, .fin s _ _ => conv 1 0 (.fin s 0 0)
        | .fin _ ml el, x => conv (sn * ml) (se + el) x)
  let lse : Word := if empty then negInf else rne32 ((f32 r.m).add (f32 (ln32 (f32 r.l))))
  let m := if empty then negInf else r.m
  (packCodes k.fmt free (cs.map (·.code)), cs.foldl Tally.add {},
   leBytes 4 m.toNat ++ leBytes 4 (if empty then 0 else r.l.toNat) ++ leBytes 4 lse.toNat ++ leBytes 4 (b2n empty), empty)

/-- Beats of a block (R261) and its cycles T_b or T_w. -/
def dS (a : AttnD) : Nat := cdiv a.hdim (pairE a.qFmt a.kvFmt)
def dV (f kv : Nat) : Nat := cdiv 128 (pairE f kv)
def fillCycles (a : AttnD) : Nat :=
  let s := fmtBytes a.kvFmt
  16 * (cdiv (a.hdim * s) 128 + s)
def tB (a : AttnD) : Nat := Nat.max (fillCycles a) (a.qr * (dS a + dV a.pFmt a.kvFmt)) + 4
def tW (a : AttnD) (g : Nat) : Nat := Nat.max (fillCycles a) (a.qr * (2 * dS a + 2 * dV g a.kvFmt)) + 8
def wO (a : AttnD) : Nat := cdiv (a.qr * a.hdim) 256 + 24

/-- DURATION of an ATTN operation (R261); n is BOBBINS. -/
def attnDur (n : Nat) (op : Nat) (desc aux : List Byte) : Nat :=
  let a := attnD desc
  if op == 0 then (if a.ring then 96 + n * fld aux 0 4 + wO a else 96 + a.nb * tB a + wO a)
  else if op == 1 then 96 + fld desc 38 2 * (a.nb * tB a + wO a)
  else 96 + cdiv (a.qr * a.hdim) 256 + a.nb * tW a (fld aux 17 1) + 32

/-- Block positions of an operation, skipped ones with them (R233, R261). -/
def blockCount (n op : Nat) (desc : List Byte) : Nat :=
  let a := attnD desc
  if op == 0 then (if a.ring then n * a.nb else a.nb) else if op == 1 then fld desc 38 2 * a.nb else a.nb

/-- Cycle, counted from ISSUE, in which block position k begins (R250, R261; DEDUCED, log entry 33). -/
def blockAt (op : Nat) (desc aux : List Byte) (k : Nat) : Nat :=
  let a := attnD desc
  if op == 0 then (if a.ring then 96 + k / a.nb * fld aux 0 4 + k % a.nb * tB a else 96 + k * tB a)
  else if op == 1 then 96 + k / a.nb * (a.nb * tB a + wO a) + k % a.nb * tB a
  else 96 + cdiv (a.qr * a.hdim) 256 + k * tW a (fld aux 17 1)

/-- Beats of a block position, in its first cycles (R261; DEDUCED, log entry 33). -/
def blockBeats (op : Nat) (desc aux : List Byte) : Nat :=
  let a := attnD desc
  if op == 2 then a.qr * (2 * dS a + 2 * dV (fld aux 17 1) a.kvFmt) else a.qr * (dS a + dV a.pFmt a.kvFmt)

/-- Schedule a step of an operation k cycles after its issue; a DECODE counts its cycles of KVM service (R67, R243). -/
def attnStep (d : Dev) (f : Flight) (k prio : Nat) (act : Act) : Dev :=
  if wOp f.word.toNat == 1 then addServed d 3 f k prio act else addEv d (f.issue + k) prio f.id act

/-- Keep the rows of an operation in progress. -/
def setRows (d : Dev) (f : Flight) (rows : List (List Word)) : Dev := setFlight d f.id (fun x => { x with rows })

/-- Results of an operation, readable in the cycle that follows. -/
def putNext (d : Dev) (f : Flight) (ws : List (Nat × List Byte)) : Dev := putAt d (d.clk.offset + 1) prioVec f.id ws

/-- Write the rows of an operation from row 0 on (R238, R255, R257): a row that is not kept belongs to a slot that writes
nothing (R246), one without O to a slot whose rows are +0 (R245). -/
def attnOut (d : Dev) (f : Flight) (a : AttnD) (rows : List (List Word)) : Dev :=
  let n := f.bob.getD 0
  let pitch := rowPitch a.ccw.fmt a.hdim
  let full := fun (l : List Word) => decide (2 < l.length)
  let first := rows.findIdx full
  (rows.mapIdx (fun i r => (i, r))).foldl (fun d x =>
    if x.2.isEmpty then d
    else
      let (bs, t, st, empty) := rowOutAttn a d.free (RowAcc.unpack x.2)
      let bs := if full x.2 then bs else List.replicate (packedBytes a.ccw.fmt a.hdim) 0
      let t := if x.1 == first && a.ccw.zeroTensor then { t with met := t.met + 1 } else t
      let d := if full x.2 then book { d with free := d.free + 1 } f a.ccw t else d
      let d := if empty && a.report then setPart d f.part (fun p => { p with empty := p.empty + 1 }) else d
      putNext d f ([lsPut n (a.o + x.1 * pitch) bs] ++ (if a.stat == 0xFFFFFFFF then [] else [lsPut n (a.stat + 16 * x.1) st]))) d

/-- Query rows of a row set. -/
def queries (d : Dev) (n : Nat) (a : AttnD) (row0 : Nat) : List (List Xv) :=
  (List.range a.qr).map (fun r => lsRow d n a.qFmt a.q (row0 + r) a.hdim)

/-- ECC reports of the query rows. -/
def noteRows (c : Units) (d : Dev) (f : Flight) (n fmt base row0 cnt hdim : Nat) : Dev :=
  if d.ecc.isEmpty then d else (lsNote c d (whoBob f none) n (base + row0 * rowPitch fmt hdim) (cnt * rowPitch fmt hdim)).1

/-! ### FWD (R233, R247 to R252) -/

/-- The words of a ring group by logical Bobbin (R249). -/
def ringWords (img : List Byte) (w : Nat) : List Nat :=
  (List.range (fld img 20 1)).filterMap (fun j => (opsOf img).find? (fun x =>
    wClass x == 5 && wOp x == 0 && wIssue x == wIssue w && wTarget x == j && bitOf (fld (descAt img (wDesc x)) 28 1) 1))

/-- Some Bobbin of the group accepts no word (R252). -/
def ringBroken (d : Dev) (f : Flight) : Bool := (mapped d f.part).any (fun n => !(bobOf d n).accepting)

/-- Rows of keys or values as they travel: HDIM elements each, without padding (R248). -/
def shardBytes (d : Dev) (n : Nat) (a : AttnD) (k v : Nat) : List Byte :=
  let len := a.hdim * fmtBytes a.kvFmt
  let rows := fun (base : Nat) => (List.range (128 * a.nb)).flatMap (fun i => lsGet d n (base + i * rowPitch a.kvFmt a.hdim) len)
  rows k ++ rows v

/-- The query rows of a set as its first block finds them: read there and kept (DEDUCED, log entry 33). -/
def takeQueries (c : Units) (d : Dev) (f : Flight) (a : AttnD) (first : Bool) (row0 : Nat) : Dev × List (List Xv) :=
  let n := f.bob.getD 0
  if first then
    let qs := queries d n a row0
    (setFlight (noteRows c d f n a.qFmt a.q row0 a.qr a.hdim) f.id (fun x => { x with vals := qs.flatten.map Xv.pack }), qs)
  else (d, runsOf a.hdim (f.vals.map Xv.unpack))

/-- Bytes of a shard (R248), and where buffer r mod 2 begins (R250). -/
def shardSize (a : AttnD) : Nat := 2 * a.nb * 128 * a.hdim * fmtBytes a.kvFmt
def ringBuf (f : Flight) (a : AttnD) (r : Nat) : Nat := fld f.aux 4 4 + r % 2 * shardSize a

/-- Keys and values of a block in a received shard, rows without padding, keys first (R250). -/
def bufBlock (d : Dev) (n : Nat) (a : AttnD) (base b : Nat) : List KeyV :=
  let len := a.hdim * fmtBytes a.kvFmt
  (List.range 128).map (fun i =>
    { k := lsVals d n a.kvFmt (base + (128 * b + i) * len) 0 a.hdim
      v := lsVals d n a.kvFmt (base + shardSize a / 2 + (128 * b + i) * len) 0 a.hdim, c := rne32 (f32 a.sm), vs := .fin false 1 0 })

/-- At the start of round r the Bobbin before sends the shard that it works on, which lies in the other buffer by the next
round; a stopped Bobbin sends nothing, and once one has stopped what the others send has no stated value (R250, R252). -/
def ringTake (c : Units) (d : Dev) (f : Flight) (a : AttnD) (r : Nat) : Dev :=
  let n := f.bob.getD 0
  let img := imgOf d f.part
  let w := f.word.toNat
  let count := fld img 20 1
  let s := (wTarget w + count - 1) % count
  let src := phys d img f.part s
  let ds := descAt img (wDesc ((ringWords img w).getD s w))
  if !(bobOf d src).accepting then d
  else
    let d :=
      if d.ecc.isEmpty then d
      else if r == 0 then
        let n := 128 * a.nb
        noteRows c (noteRows c d f src a.kvFmt (fld ds 4 4) 0 n a.hdim) f src a.kvFmt (fld ds 8 4) 0 n a.hdim
      else (lsNote c d (whoBob f none) src (ringBuf f a r) (shardSize a)).1
    let bs := if ringBroken d f then (List.range (shardSize a)).map (fun i => (Config.openValue 6 (d.free + i)).truncate 8)
      else if r == 0 then shardBytes d src a (fld ds 4 4) (fld ds 8 4) else lsGet d src (ringBuf f a r) (shardSize a)
    putAt { d with free := d.free + shardSize a } (f.issue + 96 + (r + 1) * fld f.aux 0 4) prioRing f.id [lsPut n (ringBuf f a (r + 1)) bs]

/-- Block position k of a FWD, on one Bobbin or round the ring, and whether its beats are real (R241). -/
def fwdBlock (c : Units) (d : Dev) (f : Flight) (k : Nat) : Dev × Bool :=
  let a := attnD f.desc
  let n := f.bob.getD 0
  let r := k / a.nb
  let b := k % a.nb
  let count := fld (imgOf d f.part) 20 1
  let j := if a.ring then (wTarget f.word.toNat + count - r) % count else 0
  let k0 := (j * a.nb + b) * 128
  let d := if skipBlock a k0 then d else noteBeat d n
  let (d, qs) := takeQueries c d f a (k == 0) 0
  let rows := if k == 0 then qs.map (fun _ => emptyRow a) else f.rows.map RowAcc.unpack
  let d := if a.ring && b == 0 && r + 1 < count then ringTake c d f a r else d
  if skipBlock a k0 then (setRows d f (rows.map RowAcc.pack), false)
  else
    let own := !a.ring || r == 0
    let len := a.hdim * fmtBytes a.kvFmt
    let d :=
      if d.ecc.isEmpty then d
      else if own then noteRows c (noteRows c d f n a.kvFmt a.k (128 * b) 128 a.hdim) f n a.kvFmt a.v (128 * b) 128 a.hdim
      else
        let at_ := ringBuf f a r + 128 * b * len
        (lsNote c (lsNote c d (whoBob f none) n at_ (128 * len)).1 (whoBob f none) n (at_ + shardSize a / 2) (128 * len)).1
    let ks := if own then lsBlock d n a a.k a.v b else bufBlock d n a (ringBuf f a r) b
    (setRows d f ((foldBlock a qs rows k0 ks).map RowAcc.pack), true)

/-- The end of a ring word of a broken group: outputs, statistics entries and counts have no stated value (R252). -/
def openEnd (d : Dev) (f : Flight) (a : AttnD) : Dev :=
  let n := f.bob.getD 0
  let all := a.qr * a.hdim
  let open_ := fun (k len : Nat) => (List.range len).map (fun i => (Config.openValue 6 (d.free + k + i)).truncate 8)
  let upto := fun (k m : Nat) => (Config.openValue 7 (d.free + k)).toNat % (m + 1)
  let len := packedBytes a.ccw.fmt a.hdim
  let t : Tally := { sat := upto 0 all, uflow := upto 1 all, nan := upto 2 all, zr := 0, met := b2n a.ccw.zeroTensor }
  let d' := book d f a.ccw t
  let d' := if a.report then setPart d' f.part (fun p => { p with empty := p.empty + upto 3 a.qr }) else d'
  let flags := fun (r : Nat) => open_ (r * (len + 16) + len) 12 ++ [BitVec.ofNat 8 (upto (r * (len + 16) + len + 12) 1), 0, 0, 0]
  let d' := putNext d' f ((List.range a.qr).flatMap (fun r =>
    [lsPut n (a.o + r * rowPitch a.ccw.fmt a.hdim) (open_ (r * (len + 16)) len)]
      ++ (if a.stat == 0xFFFFFFFF then [] else [lsPut n (a.stat + 16 * r) (flags r)])))
  { d' with free := d.free + a.qr * (len + 16) }

/-! ### DECODE (R242 to R246) -/

/-- A stored format equals the operation's, or widens to it (R244). -/
def widens (stored op : Nat) : Bool :=
  stored == op || stored == 7 || stored == 5 || (op == 1 && (stored == 2 || stored == 3 || stored == 4 || stored == 6))

/-- Value of entry t, dimension i, head h of a page (R273). -/
def pageVal (d : Dev) (base shape vFmt voff h t n : Nat) : List Xv :=
  if vFmt == 7 then
    (List.range n).map (fun i =>
      let tile := peek d (base + voff + (h * (hdimOf shape / 16) + i / 16) * 144) 144
      valAt 7 tile (16 * (i % 16) + t))
  else
    let bs := peek d (base + voff + (h * 16 + t) * rowPitch vFmt (hdimOf shape)) (packedBytes vFmt n)
    (List.range n).map (valAt vFmt bs)

/-- Entries of a page as keys of one head (R235, R243, R244, R278), with the ECC of the page (R290). -/
def pageKeys (c : Units) (d : Dev) (f : Flight) (a : AttnD) (cid id : Nat) : Dev × List KeyV :=
  let shape := headFld d id 3 1
  let kf := kFmtOf (headFld d id 1 1)
  let vf := vFmtOf (headFld d id 1 1)
  let ks := scaleOf (BitVec.ofNat 32 (headFld d id 4 4))
  let vs := scaleOf (BitVec.ofNat 32 (headFld d id 8 4))
  let voff := vOff (headsOf shape) (hdimOf shape) kf
  let base := pageKey d (dataPage d 8128 id)
  let rk := rowPitch kf (hdimOf shape)
  let zero := fun (s : Scale) => match s with | .zero => true | _ => false
  let scale := fun (s : Scale) => scaled (.fin false 1 0) s
  let n := pageCount d id
  let keys := (List.range n).map (fun t =>
    let kb := peek d (base + (a.head * 16 + t) * rk) (packedBytes kf a.hdim)
    let k := (List.range a.hdim).map (valAt kf kb)
    let v := pageVal d base shape vf voff a.head t a.hdim
    { k := if zero ks.1 then k.map (fun _ => Xv.zero) else k, v := if zero vs.1 then v.map (fun _ => Xv.zero) else v
      c := rne32 ((f32 a.sm).mul (scale ks.1)), vs := scale vs.1 : KeyV })
  let held := headFld d id 24 1 % 2 == 1 || headFld d (dataPage d 8128 id) 24 1 % 2 == 1
  if d.ecc.isEmpty then (if held then setCtx d cid (fun x => { x with ecc := true }) else d, keys)
  else
    let w := whoBob f ((ctxOf d cid).bind (fun x => (seqJob d f.part x.job).map (·.id)))
    let vspan := if vf == 7 then (base + voff + a.head * (hdimOf shape / 16) * 144, hdimOf shape / 16 * 144)
      else (base + voff + a.head * 16 * rowPitch vf (hdimOf shape), n * rowPitch vf (hdimOf shape))
    let (d, b0) := eccRead c d w (headKey d id) 64
    let (d, b1) := eccRead c d w (base + a.head * 16 * rk) (n * rk)
    let (d, b2) := eccRead c d w vspan.1 vspan.2
    let bad := b1 || b2 || held
    (if bad then markEcc c d f.part cid id else if b0 then setCtx d cid (fun x => { x with ecc := true }) else d, keys)

/-- The pages of a layer that count: the full ones, and behind them the couching buffer (R242). -/
def usedPages (d : Dev) (x : Ctx) (layer : Nat) : List Nat :=
  let pages := layerPages x layer
  let full := pages.takeWhile (fun i => pageCount d i == 16)
  full ++ (pages.drop full.length).take 1

/-- A stored format of a page that neither equals nor widens to the operation's (R244). -/
def tooWide (d : Dev) (kvFmt id : Nat) : Option Nat :=
  let fm := headFld d id 1 1
  if !widens (kFmtOf fm) kvFmt then some (kFmtOf fm) else if !widens (vFmtOf fm) kvFmt then some (vFmtOf fm) else none

/-- A page that is too wide ends the slot's part in the step (R245). -/
def endWide (c : Units) (d : Dev) (f : Flight) (a : AttnD) (cid : Nat) (x : Ctx) (fm : Nat) : Dev :=
  raise c (setSlot d cid (fun t => { t with endDue := 6 })) (seqTie d f.part x.job)
    { code := 0x0006, unit := 8 + f.bob.getD 0, ctx := BitVec.ofNat 32 cid, detail := [a.layer, a.head, fm, a.kvFmt] }

/-- Rows of a slot as its first block finds them: none for an empty slot or an ended sequence (R246), +0 where a page was too
wide earlier in the step (R245). -/
def slotStart (d : Dev) (p : Nat) (a : AttnD) (t : Option Slot) : List (List Word) :=
  match t.bind (fun t => (ctxOf d t.ctx).map (fun x => (t, x))) with
  | none => List.replicate a.qr []
  | some (t, x) =>
    if !t.live || x.state == 4 || x.part != p then List.replicate a.qr []
    else
      let r := (emptyRow a).pack
      List.replicate a.qr (if t.endDue == 6 then r.take 2 else r)

/-- Pages of block b of a slot of a DECODE. -/
def slotPages (d : Dev) (a : AttnD) (t : Option Slot) (b : Nat) : List Nat :=
  match t.bind (fun t => ctxOf d t.ctx) with
  | some x => ((usedPages d x a.layer).drop (8 * b)).take 8
  | none => []

/-- A block of a slot has positions, and no page of it is too wide: its beats are real (R241, R245). -/
def slotBlock (d : Dev) (a : AttnD) (t : Option Slot) (b : Nat) : Bool :=
  let ids := slotPages d a t b
  ids.any (fun i => pageCount d i != 0) && (ids.findSome? (tooWide d a.kvFmt)).isNone

/-- Block position k of a DECODE: block b of slot i, pages eight at a time (R242 to R246), and whether its beats are real. -/
def decodeBlock (c : Units) (d : Dev) (f : Flight) (k : Nat) : Dev × Bool :=
  let a := { attnD f.desc with causal := false }
  let i := k / a.nb
  let b := k % a.nb
  let t := slotAt d f.part (fld f.desc 45 1) (fld f.desc 36 2 + i)
  let before := f.rows.take (i * a.qr)
  let mine := if b == 0 then slotStart d f.part a t else f.rows.drop (i * a.qr)
  if (mine.headD []).length ≤ 2 then (setRows d f (before ++ mine), false)
  else
    let d := if slotBlock d a t b then noteBeat d (f.bob.getD 0) else d
    let (d, qs) := takeQueries c d f a (b == 0) (i * a.qr)
    match t.bind (fun t => (ctxOf d t.ctx).map (fun x => (t.ctx, x))) with
    | none => (setRows d f (before ++ mine), false)
    | some (cid, x) =>
      let ids := slotPages d a t b
      let len := ids.foldl (fun n i => n + pageCount d i) 0
      if len == 0 then (setRows d f (before ++ mine), false)
      else match ids.findSome? (tooWide d a.kvFmt) with
        | some fm => (setRows (endWide c d f a cid x fm) f (before ++ mine.map (fun r => r.take 2)), false)
        | none =>
          let (d, keys) := ids.foldl (fun (x : Dev × List KeyV) i =>
            let (d, k) := pageKeys c x.1 f a cid i
            (d, x.2 ++ k)) (d, [])
          let pad : KeyV := { k := List.replicate a.hdim Xv.zero, v := List.replicate a.hdim Xv.zero, c := 0, vs := .fin false 1 0 }
          let ks := keys ++ List.replicate (128 - keys.length) pad
          let rows := foldBlock { a with keyLen := 128 * b + keys.length } qs (mine.map RowAcc.unpack) (128 * b) ks
          (setRows d f (before ++ rows.map RowAcc.pack), true)

/-! ### BWD (R253, R254) -/

/-- Sum of products by beats, over factors and one dimension of their rows; what contributes nothing is left out of its beat
(R253, R254). -/
def gain (e : Nat) (gs : List (Option Xv)) (rows : List (List Xv)) (i : Nat) : Xv :=
  f32 ((runsOf e (gs.zip rows)).foldl (fun (a : Word × Bool) beat =>
    let live := beat.filterMap (fun x => x.1.map (fun g => (g, x.2.getD i Xv.zero)))
    ((accUpdate false a.1 a.2 (live.map (·.1)) (live.map (·.2))).1, false)) ((0 : Word), true)).1

/-- What a BWD keeps of a query row: q, dO, m, l, D and rl (R253 step 1). -/
structure BwdRow where
  q  : List Xv
  dO : List Xv
  m  : Word
  l  : Word
  dr : Word
  rl : Word
  deriving DecidableEq, Repr

/-- Steps 2 to 6 for a row and a key (R253): g and p~; none where nothing is contributed (R254). -/
def bwdPair (a : AttnD) (doFmt g : Nat) (x : BwdRow) (r i : Nat) (k : KeyV) : Option (Xv × Xv) :=
  if masked a r i || (f32 x.l).isZero then none
  else
    let s := score a x.q k
    let p : Word := if s == negInf then 0 else rne32 ((f32 (exp32 (f32 (rne32 ((f32 s).sub (f32 x.m)))))).mul (f32 x.rl))
    let dp := f32 (dotBeats (pairE doFmt a.kvFmt) x.dO k.v)
    let ds := rne32 ((f32 p).mul (dp.sub (f32 x.dr)))
    some (roundTo g (f32 ds), roundTo g (f32 p))

/-- Gradients of one block: dQ rows, dK and dV rows of its 128 keys (R253 step 7). -/
def bwdGrads (a : AttnD) (doFmt g : Nat) (xs : List BwdRow) (k0 : Nat) (ks : List KeyV) (dq dk dv : List (List Word)) :
    List (List Word) × List (List Word) × List (List Word) :=
  let cf := f32 (rne32 (f32 a.sm))
  let gp := xs.mapIdx (fun r x => ks.mapIdx (fun i k => bwdPair a doFmt g x r (k0 + i) k))
  let row := fun (r : Nat) => (gp.getD r []).map (fun o => o.map (·.1))
  let col := fun (i : Nat) (sel : Xv × Xv → Xv) => gp.map (fun l => (l.getD i none).map sel)
  (dq.mapIdx (fun r l => l.mapIdx (fun i x =>
      rne32 ((f32 x).add (cf.mul (gain (pairE g a.kvFmt) (row r) (ks.map (·.k)) i))))),
   dk.mapIdx (fun k l => l.mapIdx (fun i x =>
      rne32 ((f32 x).add (cf.mul (gain (pairE g a.qFmt) (col k (·.1)) (xs.map (·.q)) i))))),
   dv.mapIdx (fun k l => l.mapIdx (fun i x =>
      rne32 ((f32 x).add (gain (pairE g doFmt) (col k (·.2)) (xs.map (·.dO)) i)))))

/-- The operands of step 1 (R253), with their ECC reports. -/
def bwdRead (c : Units) (d : Dev) (f : Flight) (a : AttnD) : Dev × List BwdRow :=
  let n := f.bob.getD 0
  let doFmt := fld f.aux 16 1
  let d := noteRows c d f n a.qFmt a.q 0 a.qr a.hdim
  let d := noteRows c d f n doFmt (fld f.aux 0 4) 0 a.qr a.hdim
  let d := noteRows c d f n a.ccw.fmt a.o 0 a.qr a.hdim
  let d := (lsNote c d (whoBob f none) n a.stat (16 * a.qr)).1
  let osc := if a.ccw.src == 0 then Scale.one else (scaleOf a.ccw.scale).1
  (d, (List.range a.qr).map (fun r =>
    let dO := lsRow d n doFmt (fld f.aux 0 4) r a.hdim
    let o := (lsRow d n a.ccw.fmt a.o r a.hdim).map (fun x => scaled x osc)
    let l := lsWord d n (a.stat + 16 * r + 4)
    { q := lsRow d n a.qFmt a.q r a.hdim, dO, m := lsWord d n (a.stat + 16 * r), l
      dr := rne32 (Xv.sum Xv.zero (List.zipWith Xv.mul dO o))
      rl := if (f32 l).isZero then (0 : Word) else div32 (.fin false 1 0) (f32 l) }))

/-- Rows of step 1 as their flight keeps them, and back. -/
def keepBwd (d : Dev) (f : Flight) (xs : List BwdRow) : Dev :=
  setFlight d f.id (fun y => { y with
    vals := (xs.flatMap (fun x => x.q ++ x.dO)).map Xv.pack, rows := xs.map (fun x => [x.m, x.l, x.dr, x.rl]) })
def keptBwd (f : Flight) (a : AttnD) : List BwdRow :=
  let vs := runsOf (2 * a.hdim) (f.vals.map Xv.unpack)
  (f.rows.take a.qr).mapIdx (fun r w =>
    let v := vs.getD r []
    { q := v.take a.hdim, dO := v.drop a.hdim, m := w.getD 0 0, l := w.getD 1 0, dr := w.getD 2 0, rl := w.getD 3 0 })

/-- Block position k of a BWD, and whether its beats are real: behind the rows of step 1 the flight keeps the dQ rows, then dK and
dV of the blocks done (R253, R254). -/
def bwdBlock (c : Units) (d : Dev) (f : Flight) (k : Nat) : Dev × Bool :=
  let a := attnD f.desc
  let n := f.bob.getD 0
  let zeros : List Word := List.replicate a.hdim 0
  let accum := bitOf (fld f.aux 18 1) 0
  let d := if skipBlock a (128 * k) then d else noteBeat d n
  let (d, xs) := if k == 0 then bwdRead c d f a else (d, keptBwd f a)
  let d := if k == 0 then keepBwd d f xs else d
  let kept := if k == 0 then xs.map (fun x => [x.m, x.l, x.dr, x.rl]) else f.rows.take a.qr
  let dq := if k == 0 then List.replicate a.qr zeros else (f.rows.drop a.qr).take a.qr
  let gone := f.rows.drop (2 * a.qr)
  let k0 := 128 * k
  if skipBlock a k0 then (setRows d f (kept ++ dq ++ gone), false)
  else
    let d := noteRows c (noteRows c d f n a.kvFmt a.k k0 128 a.hdim) f n a.kvFmt a.v k0 128 a.hdim
    let d := if accum then noteRows c (noteRows c d f n 0 (fld f.aux 8 4) k0 128 a.hdim) f n 0 (fld f.aux 12 4) k0 128 a.hdim else d
    let row32 := fun (base r : Nat) => (List.range a.hdim).map (fun i => lsWord d n (base + r * rowPitch 0 a.hdim + 4 * i))
    let old := fun (base : Nat) => (List.range 128).map (fun i => if accum then row32 base (k0 + i) else zeros)
    let (dq, dk, dv) := bwdGrads a (fld f.aux 16 1) (fld f.aux 17 1) xs k0 (lsBlock d n a a.k a.v k) dq
      (old (fld f.aux 8 4)) (old (fld f.aux 12 4))
    (setRows d f (kept ++ dq ++ gone ++ dk ++ dv), true)

/-- The results of a BWD: a block skipped for the whole row set leaves its rows at +0, or as they are under ACCUM_KV (R254). -/
def bwdEnd (d : Dev) (f : Flight) : Dev :=
  let a := attnD f.desc
  let n := f.bob.getD 0
  let zeros : List Word := List.replicate a.hdim 0
  let accum := bitOf (fld f.aux 18 1) 0
  let dst := fun (base r : Nat) (ws : List Word) => lsPut n (base + r * rowPitch 0 a.hdim) (ws.flatMap (fun w => leBytes 4 w.toNat))
  let rows := fun (base k0 : Nat) (l : List (List Word)) => l.mapIdx (fun i r => dst base (k0 + i) r)
  let dk := fld f.aux 8 4
  let dv := fld f.aux 12 4
  let (ws, _) := (List.range a.nb).foldl (fun (s : List (Nat × List Byte) × List (List Word)) b =>
    let k0 := 128 * b
    if skipBlock a k0 then
      (s.1 ++ (if accum then [] else rows dk k0 (List.replicate 128 zeros) ++ rows dv k0 (List.replicate 128 zeros)), s.2)
    else (s.1 ++ rows dk k0 (s.2.take 128) ++ rows dv k0 ((s.2.drop 128).take 128), s.2.drop 256)) ([], f.rows.drop (2 * a.qr))
  putNext d f (rows (fld f.aux 4 4) 0 ((f.rows.drop a.qr).take a.qr) ++ ws)

/-! ### Steps of an ATTN word -/

/-- Behind beat j of block position k its next one (R209). -/
def nextBeat (d : Dev) (f : Flight) (k j : Nat) : Dev :=
  let op := wOp f.word.toNat
  if j + 1 < blockBeats op f.desc f.aux then attnStep d f (blockAt op f.desc f.aux k + j + 1) prioRead (.beat k (j + 1)) else d

/-- Beat j of block position k, behind the first (R209). -/
def actAttnBeat (d : Dev) (f : Flight) (k j : Nat) : Dev := nextBeat (noteBeat d (f.bob.getD 0)) f k j

/-- Block position k of an ATTN operation with its first beat, delivered as its operands are read: the cycles of a skipped one stay,
with no real beat (R209, R241). -/
def actBlock (c : Units) (d : Dev) (f : Flight) (k : Nat) : Dev :=
  let op := wOp f.word.toNat
  let d := if k + 1 < blockCount (fld (imgOf d f.part) 20 1) op f.desc then
      attnStep d f (blockAt op f.desc f.aux (k + 1)) prioRead (.group (k + 1))
    else d
  let (d, real) := if op == 0 then fwdBlock c d f k else if op == 1 then decodeBlock c d f k else bwdBlock c d f k
  if real then nextBeat d f k 0 else d

/-- The last cycle of an ATTN operation: its results become readable behind it (R261). -/
def actAttnEnd (d : Dev) (f : Flight) : Dev :=
  let a := attnD f.desc
  if wOp f.word.toNat == 2 then bwdEnd d f
  else if a.ring && ringBroken d f then openEnd d f a
  else attnOut d f a f.rows

/-- Steps that an accepted ATTN word schedules (R261, R262). -/
def startAttn (d : Dev) (f : Flight) : Dev :=
  let op := wOp f.word.toNat
  let dur := attnDur (fld (imgOf d f.part) 20 1) op f.desc f.aux
  let fin := f.issue + dur
  let d := if op == 1 then completeServed d 3 f dur else if fin < periodOf d then completeAt d f fin else d
  let d := setBob d (f.bob.getD 0) (fun b => { b with
    bankA := { b.bankA with claim := some (f.issue, fin - 1) }, bankB := { b.bankB with claim := some (f.issue, fin - 1) } })
  attnStep (attnStep d f (blockAt op f.desc f.aux 0) prioRead (.group 0)) f (dur - 1) 5 (.entry 0)

/-! ### Checks (R249, R263) -/

/-- Operand checks of an ATTN word or DECODE descriptor, other than the ring group. -/
def attnOk (img : List Byte) (w : Nat) (desc aux : List Byte) : Bool :=
  let a := attnD desc
  let op := wOp w
  let n := fld img 20 1
  let room := fun (base fmt rows : Nat) => decide (base + (rows - 1) * rowPitch fmt a.hdim + packedBytes fmt a.hdim ≤ 20971520)
  let fits := fun (base fmt rows : Nat) => base % 64 == 0 && room base fmt rows
  let f8 := fun f => f == 1 || f == 2 || f == 3
  let slots := if op == 1 then fld desc 38 2 else 1
  let noAux := bitsOf w 39 24 == 0xFFFF
  op ≤ 2 && bitsOf w 23 0 == 0 && 1 ≤ a.qr && a.qr ≤ (if op == 1 then 32 else 512) && 1 ≤ a.nb && a.nb ≤ 128
    && fld desc 24 1 ≤ 15 && f8 a.qFmt && f8 a.kvFmt && (a.pFmt == 1 || a.pFmt == 2) && fld desc 28 1 < 8 && zeroAt desc 56 8
    && posFinite a.sm && a.ccw.ok && a.ccw.fmt != 7 && a.ccw.src != 2 && !(a.ccw.src == 1 && a.ccw.gran == 1)
    && fits a.q a.qFmt (slots * a.qr) && fits a.o a.ccw.fmt (slots * a.qr)
    && (if a.stat == 0xFFFFFFFF then op != 2 else a.stat % 16 == 0 && a.stat + 16 * slots * a.qr ≤ 20971520)
    && (if op == 1 then
          noAux && a.k == 0xFFFFFFFF && a.v == 0xFFFFFFFF && !a.ring && !a.causal && a.head ≤ 15 && 1 ≤ slots
            && fld desc 46 2 == 0 && fld desc 44 1 < n
            && (match slabById img (fld desc 45 1) with
                | some s => fld desc 36 2 + slots ≤ s.2.1 && a.nb == cdiv s.2.2.2.2 128
                    && a.kPos + attnDur n 1 desc aux ≤ s.2.2.1
                | none => false)
        else
          a.head == 0 && a.layer == 0 && fits a.k a.kvFmt (128 * a.nb) && fits a.v a.kvFmt (128 * a.nb)
            && 1 ≤ a.keyLen && a.keyLen ≤ (if a.ring then n else 1) * a.nb * 128
            && (if op == 0 then
                  (if a.ring then
                    !noAux && zeroAt aux 8 56 && fld aux 4 4 % 64 == 0
                      && fld aux 4 4 + 4 * a.nb * 128 * a.hdim * fmtBytes a.kvFmt ≤ 20971520
                  else noAux)
                else
                  !noAux && !a.ring && f8 (fld aux 16 1) && (fld aux 17 1 == 1 || fld aux 17 1 == 3) && fld aux 18 1 < 2
                    && zeroAt aux 19 45 && room (fld aux 0 4) (fld aux 16 1) a.qr && room (fld aux 4 4) 0 a.qr
                    && room (fld aux 8 4) 0 (128 * a.nb) && room (fld aux 12 4) 0 (128 * a.nb)))

/-- Hop times of a group on its physical Bobbins (R248). -/
def hopTimes (img : List Byte) (a : AttnD) : List Nat :=
  let n := fld img 20 1
  let size := 2 * a.nb * 128 * a.hdim * fmtBytes a.kvFmt
  let at_ := physIn img 0
  let t := fun (p : Nat) => cdiv size 256 + 12 + 4 * p
  (List.range (n - 1)).map (fun i => t (at_ (i + 1) - at_ i - 1)) ++ (if n ≤ 1 then [] else [t (at_ (n - 1) - at_ 0 - 1)])

/-- A ring word's group is whole and uniform (R249). -/
def ringOk (img : List Byte) (w : Nat) : Bool :=
  let n := fld img 20 1
  let a := attnD (descAt img (wDesc w))
  let auxOf := fun x => descAt img (bitsOf x 39 24)
  let group := (opsOf img).filter (fun x =>
    wClass x == 5 && wOp x == 0 && wIssue x == wIssue w && (attnD (descAt img (wDesc x))).ring)
  let key := fun x =>
    let b := attnD (descAt img (wDesc x))
    (b.nb, b.hdim, b.qFmt, b.kvFmt, b.pFmt, b.causal, b.kPos, b.keyLen, fld (auxOf x) 0 4, fld (auxOf x) 4 4)
  group.length == n && (List.range n).all (fun j => group.any (fun x => wTarget x == j))
    && group.all (fun x => !wSlack x && !wReplay x && key x == key w && a.nb * tB (attnD (descAt img (wDesc x))) ≤ fld (auxOf w) 0 4)
    && (hopTimes img a).all (fun t => t ≤ fld (auxOf w) 0 4)

end Sys2Proof.Machine
end

