-- ==== Sys2Proof/Machine/Tables.lean ====
section
/-!
DEFINITION. Table sets: the load checks (R306 to R313), the tokenizer (R309, R317 to R319), the input queue (R320), and the
commands that load nothing but move strings along.
-/
namespace Sys2Proof.Machine

/-! ### Table-set checks (R313) -/

/-- Section entry i of a set image: offset, size, count, parameter. -/
def setSect (bs : List Byte) (i : Nat) : Nat × Nat × Nat × Nat :=
  (fld bs (32 + 16 * i) 4, fld bs (36 + 16 * i) 4, fld bs (40 + 16 * i) 4, fld bs (44 + 16 * i) 4)

/-- Entry bytes of section i (R307). -/
def setEntryBytes (bs : List Byte) (i : Nat) : Nat :=
  let classes := (setSect bs 4).2.2.2
  [4, 4, 1, 4, 2, 8, 64 * cdiv classes 512, 4, 12, 4, 72, 72].getD i 1

/-- Entry k of section i of a set image. -/
def setEntry (bs : List Byte) (i k : Nat) : List Byte :=
  let z := setEntryBytes bs i
  (bs.drop ((setSect bs i).1 + z * k)).take z

/-- All entries of a section. -/
def setEntries (bs : List Byte) (i : Nat) : List (List Byte) :=
  let s := setSect bs i
  cutEntries (setEntryBytes bs i) s.2.2.1 (bs.drop s.1)

/-- Fields of an IDS entry: offset, length, kind (R308). -/
def idFields (w : Nat) : Nat × Nat × Nat := (bitsOf w 22 0, bitsOf w 29 23, bitsOf w 31 30)

/-- Token texts of a set image: id, kind, bytes. -/
def setTokens (bs : List Byte) : List (Nat × Nat × List Byte) :=
  let pool := bs.drop (setSect bs 2).1
  (setEntries bs 1).mapIdx (fun v e => let f := idFields (leNat e); (v, f.2.2, (pool.drop f.1).take f.2.1))

/-- Byte ranges do not overlap. -/
def apart (rs : List (Nat × Nat)) : Bool :=
  (rs.mapIdx (fun i r => (i, r))).all (fun a => (rs.mapIdx (fun i r => (i, r))).all (fun b =>
    a.1 == b.1 || a.2.2 == 0 || b.2.2 == 0 || a.2.1 + a.2.2 ≤ b.2.1 || b.2.1 + b.2.2 ≤ a.2.1))

/-- A power of two. -/
def isPow2 (n : Nat) : Bool := n != 0 && 2 ^ Nat.log2 n == n

/-- Check 0x05: header fields (R306). -/
def setHeaderOk (bs : List Byte) : Bool :=
  let v := fld bs 20 4
  fld bs 16 4 != 0 && 256 ≤ v && v ≤ 262144 && fld bs 24 4 < v && fld bs 28 1 < 2 && 1 ≤ fld bs 29 1 && fld bs 29 1 ≤ 64
    && zeroAt bs 30 2 && zeroAt bs 224 32

/-- Check 0x06: section entries (R307). -/
def setSectionsOk (bs : List Byte) : Bool :=
  let v := fld bs 20 4
  let size := fld bs 8 4
  let cnt := fun i => (setSect bs i).2.2.1
  let par := fun i => (setSect bs i).2.2.2
  let idx := List.range 12
  let lay := idx.all (fun i =>
    let s := setSect bs i
    if s.2.2.1 == 0 then s.1 == 0 && s.2.1 == 0 && s.2.2.2 == 0
    else s.1 % 64 == 0 && 256 ≤ s.1 && s.2.1 == s.2.2.1 * setEntryBytes bs i && s.1 + s.2.1 ≤ size)
  let together := fun (a : List Nat) => a.all (fun i => cnt i == 0) || a.all (fun i => cnt i != 0)
  let rng := fun i lo hi => cnt i == 0 || (lo ≤ cnt i && cnt i ≤ hi)
  let zeroPar := [1, 2, 3, 5, 6, 7, 8, 9, 10, 11].all (fun i => par i == 0)
  lay && apart (idx.map (fun i => ((setSect bs i).1, (setSect bs i).2.1)))
    && isPow2 (cnt 0) && cnt 0 ≤ 2 ^ 20 && 2 * ((setTokens bs).filter (fun t => t.2.1 == 0)).length ≤ cnt 0
    && 1 ≤ par 0 && par 0 ≤ 64 && zeroPar && cnt 1 == v && cnt 2 != 0 && cnt 3 == v
    && together [4, 5, 6, 7] && (cnt 4 == 0 || (cnt 4 == v && 1 ≤ par 4 && par 4 ≤ 4096))
    && rng 5 1 65536 && rng 6 1 65536 && rng 7 1 (2 ^ 24) && together [8, 9] && rng 8 1 1048576 && rng 9 1 (2 ^ 24)
    && cnt 10 ≤ 4096 && cnt 11 ≤ 64

/-- Probe buckets for a token text (R309): its id, if found. -/
def probe (bucket : Nat → Nat) (text : Nat → List Byte) (nb s : Nat) (h : Nat) (key : List Byte) : Nat → Nat → Option Nat
  | 0, _ => none
  | n + 1, i =>
    let b := bucket ((h + i) % nb)
    if b == 0xFFFFFFFF then none
    else if bitsOf b 31 18 == bitsOf h 31 18 && text (bitsOf b 17 0) == key then some (bitsOf b 17 0)
    else probe bucket text nb s h key n (i + 1)

/-- The bucket of a token is met within a number of probes, before an empty one (R309). -/
def inHash (bucket : Nat → Nat) (nb h v : Nat) : Nat → Nat → Bool
  | 0, _ => false
  | n + 1, i =>
    let b := bucket ((h + i) % nb)
    if b == 0xFFFFFFFF then false
    else b == bitsOf h 31 18 * 2 ^ 18 + v || inHash bucket nb h v n (i + 1)

/-- Check 0x07: the hash holds every KIND 0 token and nothing else (R309). -/
def setHashOk (bs : List Byte) : Bool :=
  let toks := setTokens bs
  let bk := (setEntries bs 0).map leNat
  let nb := (setSect bs 0).2.2.1
  let kept := bk.filter (· != 0xFFFFFFFF)
  let zero := toks.filter (fun t => t.2.1 == 0)
  kept.length == zero.length && kept.all (fun b => zero.any (fun t => t.1 == bitsOf b 17 0))
    && zero.all (fun t => inHash (fun i => bk.getD i 0xFFFFFFFF) nb (crc32c t.2.2).toNat t.1 (setSect bs 0).2.2.2 0)

/-- Whether texts are distinct. -/
def distinct (l : List (List Byte)) : Bool :=
  match l with
  | [] => true
  | x :: t => !t.contains x && distinct t

/-- Check 0x08: IDS and POOL (R308); that MAX_LEN is the length of the longest KIND 0 token (R306) is judged here, where the
entries are known to lie in their section (DEDUCED, log entry 63). -/
def setIdsOk (bs : List Byte) : Bool :=
  let ids := (setEntries bs 1).map (fun e => idFields (leNat e))
  let toks := setTokens bs
  let pool := (setSect bs 2).2.2.1
  let bytes := toks.filter (fun t => t.2.1 == 1)
  let plain := ids.filter (fun f => f.2.2 == 0)
  (plain.isEmpty || plain.any (fun f => f.2.1 == fld bs 29 1))
  && ids.all (fun f => f.2.2 != 3 && f.2.1 ≤ 64 && f.1 + f.2.1 ≤ pool
      && (f.2.2 != 0 || (1 ≤ f.2.1 && f.2.1 ≤ fld bs 29 1)) && (f.2.2 != 1 || f.2.1 == 1))
    && bytes.length == 256 && (List.range 256).all (fun b => bytes.any (fun t => t.2.2 == [BitVec.ofNat 8 b]))
    && distinct ((toks.filter (fun t => t.2.1 == 0)).map (fun t => t.2.2))
    && (match ids[fld bs 24 4]? with | some f => f.2.2 == 2 && f.2.1 == 0 | none => false)

/-- Check 0x09: LATTICE (R308). -/
def setLatticeOk (bs : List Byte) : Bool :=
  ((setEntries bs 3).zip (setEntries bs 1)).all (fun e =>
    match f32 (BitVec.ofNat 32 (leNat e.1)) with
    | .nan _ => false
    | .inf s => s && (idFields (leNat e.2)).2.2 != 1
    | .fin _ _ _ => true)

/-- Check 0x0A: the constraint automaton (R310). -/
def setAutomatonOk (bs : List Byte) : Bool :=
  let classes := (setSect bs 4).2.2.2
  let masks := (setSect bs 6).2.2.1
  let edges := (setEntries bs 7).map leNat
  let states := (setSect bs 5).2.2.1
  (setSect bs 4).2.2.1 == 0 ||
    ((setEntries bs 4).all (fun e => leNat e < classes)
      && edges.all (fun e => bitsOf e 15 12 == 0 && bitsOf e 31 16 < states)
      && (setEntries bs 5).all (fun e =>
        let m := fld e 0 2
        let n := bitsOf (fld e 2 2) 12 0
        let first := fld e 4 4
        let mask := setEntry bs 6 m
        let allowed := (List.range classes).filter (fun c => bitOf (fld mask (c / 8) 1) (c % 8))
        m < masks && bitsOf (fld e 2 2) 14 13 == 0 && n ≤ classes && first + n ≤ edges.length
          && ((edges.drop first).take n).map (fun x => bitsOf x 11 0) == allowed))

/-- Nodes reached level by level from a frontier, each with its count of visits. -/
def trieReach (children : Nat → List Nat) : Nat → List Nat → Nat
  | 0, _ => 0
  | n + 1, front => if front.isEmpty then 0 else front.length + trieReach children n (front.flatMap children)

/-- Check 0x0B: the label trie (R311). -/
def setTrieOk (bs : List Byte) : Bool :=
  let nodes := setEntries bs 8
  let edges := (setEntries bs 9).map leNat
  let own := fun (e : List Byte) => (edges.drop (fld e 0 4)).take (fld e 4 2)
  let kids := nodes.flatMap (fun e => (own e).map (fun x => x / 256))
  let rising := fun (l : List Nat) => (l.zip (l.drop 1)).all (fun p => decide (p.1 < p.2))
  nodes.isEmpty ||
    (nodes.all (fun e => fld e 4 2 ≤ 256 && fld e 0 4 + fld e 4 2 ≤ edges.length && fld e 6 2 ≤ 65534 && fld e 8 1 ≤ 2
        && zeroAt e 9 3 && rising ((own e).map (fun x => x % 256)))
      && fld (nodes.headD []) 8 1 == 0 && (nodes.filter (fun e => fld e 8 1 != 0)).length ≤ 65536
      && kids.all (fun k => 0 < k && k < nodes.length) && kids.length + 1 == nodes.length
      && (List.range nodes.length).all (fun k => k == 0 || (kids.filter (· == k)).length == 1)
      && trieReach (fun k => (own (nodes.getD k [])).map (fun x => x / 256)) nodes.length [0] == nodes.length)

/-- Check 0x0C: sequence and stop lists (R312). -/
def setListsOk (bs : List Byte) : Bool :=
  let v := fld bs 20 4
  (setEntries bs 10).all (fun e =>
      let n := fld e 1 1
      (fld e 0 1 == 1 || fld e 0 1 == 2) && (if fld e 0 1 == 1 then 1 else 2) ≤ n && n ≤ 16 && fld e 2 1 < 32 && zeroAt e 3 5
        && (List.range n).all (fun i => fld e (8 + 4 * i) 4 < v) && zeroAt e (8 + 4 * n) (64 - 4 * n))
    && (setEntries bs 11).all (fun e =>
      let n := fld e 0 1
      1 ≤ n && n ≤ 64 && zeroAt e 1 7 && zeroAt e (8 + n) (64 - n))

/-- The first check of R313 that a transfer of `len` bytes fails; 0 none. -/
def setCheck (bs : List Byte) : Nat :=
  let size := fld bs 8 4
  if !(bs.length == size && size % 16 == 0 && size ≤ 7340032) then 0x01
  else if (crcImage bs).toNat != fld bs 12 4 then 0x02
  else if fld bs 0 4 != 0x54585453 then 0x03
  else if !(fld bs 4 2 == 0 && fld bs 6 2 == 1) then 0x04
  else if !setHeaderOk bs then 0x05
  else if !setSectionsOk bs then 0x06
  else if !setHashOk bs then 0x07
  else if !setIdsOk bs then 0x08
  else if !setLatticeOk bs then 0x09
  else if !setAutomatonOk bs then 0x0A
  else if !setTrieOk bs then 0x0B
  else if !setListsOk bs then 0x0C
  else 0

/-! ### Buffers (R314, R343) -/

/-- Sequences pinned to a buffer: those of its slots that have not ended (R315). -/
def pinned (t : Txt) (b : Bool) : Nat := (t.slots.filter (fun s => s.buf == b2n b && !s.ended)).length

/-- State and SET_ID of a buffer; a DRAINING one is VALID once no sequence is pinned to it (R314). -/
def bufSt (t : Txt) (b : Bool) : BufSt :=
  let st := if b then t.buf1 else t.buf0
  if st == .draining && pinned t b == 0 then .valid else st
def bufSet (t : Txt) (b : Bool) : Word := if b then t.set1 else t.set0

/-- Set the state and identity of a buffer. -/
def putBuf (t : Txt) (b : Bool) (st : BufSt) (id : Word) : Txt :=
  if b then { t with buf1 := st, set1 := id } else { t with buf0 := st, set0 := id }

/-- The active buffer holds a VALID set. -/
def activeValid (t : Txt) : Bool := bufSt t t.active == .valid

/-! ### UTF-8 (R317, R318) -/

/-- Length of the well-formed character at the head of a list (RFC 3629). -/
def charLen (bs : List Byte) : Option Nat :=
  let cont := fun (b : Byte) => b.toNat / 64 == 2
  match bs.map BitVec.toNat, bs with
  | a :: _, _ :: tl =>
    if a < 0x80 then some 1
    else if 0xC2 ≤ a && a ≤ 0xDF then (match tl with | x :: _ => if cont x then some 2 else none | _ => none)
    else if 0xE0 ≤ a && a ≤ 0xEF then
      (match tl with
        | x :: y :: _ =>
          let v := x.toNat
          if cont x && cont y && (a != 0xE0 || 0xA0 ≤ v) && (a != 0xED || v ≤ 0x9F) then some 3 else none
        | _ => none)
    else if 0xF0 ≤ a && a ≤ 0xF4 then
      (match tl with
        | x :: y :: z :: _ =>
          let v := x.toNat
          if cont x && cont y && cont z && (a != 0xF0 || 0x90 ≤ v) && (a != 0xF4 || v ≤ 0x8F) then some 4 else none
        | _ => none)
    else none
  | _, _ => none

/-- For each byte: whether it begins at a boundary, and whether it is invalid (R318). -/
def utfMarks : Nat → List Byte → List (Bool × Bool)
  | 0, _ => []
  | _, [] => []
  | n + 1, bs =>
    match charLen bs with
    | some k => (true, false) :: List.replicate (k - 1) (false, false) ++ utfMarks n (bs.drop k)
    | none => (true, true) :: utfMarks n (bs.drop 1)

/-- The cut of R317: how many bytes of a string of more than 8,192 stay; the last lead byte whose character is incomplete counts,
and bytes that lead no character of RFC 3629 do not. -/
def cutLen (bs : List Byte) : Nat :=
  let n := bs.length
  let need := fun (b : Byte) => if b.toNat < 0xC2 then 0 else if b.toNat < 0xE0 then 2 else if b.toNat < 0xF0 then 3
    else if b.toNat < 0xF5 then 4 else 0
  match (List.range 4).find? (fun i => match bs[n - 1 - i]? with | some b => i < n && i + 1 < need b | none => false) with
  | some i => n - 1 - i
  | none => n

/-! ### The tokenizer (R318, R319) -/

/-- SPACE_MARK replacement of a string. -/
def markSpaces (on : Bool) (bs : List Byte) : List Byte :=
  if on then bs.flatMap (fun b => if b == 0x20 then [0xE2, 0x96, 0x81] else [b]) else bs

/-- A cell of the search: best score, the position it came from, and its token. -/
structure Cell where
  best : Word
  prev : Nat
  tok  : Nat
  deriving DecidableEq, Repr

/-- Look a byte string up in the hash of a buffer (R309). -/
def hashLookup (d : Dev) (b : Nat) (s : List Byte) : Option Nat :=
  let hs := tabSect d b 0
  let ids := tabSect d b 1
  let pool := tabSect d b 2
  let text := fun v =>
    let f := idFields (tabNat d b (ids.1 + 4 * v) 4)
    tabGet d b (pool.1 + f.1) f.2.1
  probe (fun i => tabNat d b (hs.1 + 4 * i) 4) text hs.2.2.1 0 (crc32c s).toNat s hs.2.2.2 0

/-- The KIND 1 token of a byte. -/
def fallbackTok (d : Dev) (b : Nat) (x : Byte) : Nat :=
  let v := tabNat d b 20 4
  let ids := tabSect d b 1
  let pool := tabSect d b 2
  ((List.range v).find? (fun i =>
    let f := idFields (tabNat d b (ids.1 + 4 * i) 4)
    f.2.2 == 1 && tabGet d b (pool.1 + f.1) 1 == [x])).getD 0

/-- The score of a token. -/
def tokScore (d : Dev) (b v : Nat) : Word := BitVec.ofNat 32 (tabNat d b ((tabSect d b 3).1 + 4 * v) 4)

/-- One position of the search: cells so far, positions 0 to i − 1, give cell i. -/
def searchCell (d : Dev) (b maxLen : Nat) (text : List Byte) (marks : List (Bool × Bool)) (cells : List Cell) (i : Nat) : Cell :=
  let bound := fun (p : Nat) => p == text.length || ((marks[p]?).map (·.1)).getD true
  let bad := fun (j i : Nat) => ((marks.drop j).take (i - j)).any (·.2)
  let start : Cell := { best := 0xFF800000, prev := 0, tok := 0 }
  let try_ := fun (c : Cell) (j t : Nat) =>
    let s := rne32 ((f32 (((cells[j]?).map (·.best)).getD 0)).add (f32 (tokScore d b t)))
    if (f32 c.best).lt (f32 s) then { best := s, prev := j, tok := t } else c
  let c := if !bound i then start
    else (List.range (Nat.min i maxLen)).foldl (fun c k =>
      let len := Nat.min i maxLen - k
      let j := i - len
      if !bound j || bad j i || ((cells[j]?).map (·.best)).getD 0xFF800000 == 0xFF800000 then c
      else
        match hashLookup d b ((text.drop j).take len) with
        | none => c
        | some t => if tokScore d b t == 0xFF800000 then c else try_ c j t) start
  match text[i - 1]? with
  | some x => try_ c (i - 1) (fallbackTok d b x)
  | none => c

/-- Walk the cells back from the end. -/
def walkBack (cells : List Cell) : Nat → Nat → List Nat
  | 0, _ => []
  | n + 1, i =>
    if i == 0 then []
    else
      match cells[i]? with
      | some c => c.tok :: walkBack cells n c.prev
      | none => []

/-- Tokens of a string under the set of a buffer (R318). -/
def tokenize (d : Dev) (b : Nat) (bs : List Byte) : List Nat :=
  let text := markSpaces (bitOf (tabNat d b 28 1) 0) bs
  let marks := utfMarks text.length text
  let maxLen := tabNat d b 29 1
  let cells := (List.range text.length).foldl (fun (cs : List Cell) i => cs ++ [searchCell d b maxLen text marks cs (i + 1)])
    [{ best := 0, prev := 0, tok := 0 }]
  (walkBack cells text.length text.length).reverse

/-! ### Strings and the input queue (R317, R320) -/

/-- Bytes of the input queue in use: entries, and the room that a waiting string may need (DESIGN CHOICE, log entry 34). -/
def queueUsed (t : Txt) : Nat := t.queue.foldl (fun n e => n + 64 + 4 * e.tokens.length) (8256 * t.strs.length)

/-- Drop a string or an entry. -/
def countDropped (d : Dev) : Dev := { d with txt := { d.txt with dropped := d.txt.dropped + 1 } }

/-- Tokenization of the string in front starts, with the set that is active now (R315). -/
def startStr (d : Dev) : Dev :=
  match d.txt.strs with
  | { toks := none, port, vc, job, kind, text, trunc } :: rest =>
    let b := d.txt.active
    { d with txt := { d.txt with
      strs := { port, vc, job, kind, text, trunc, toks := some (tokenize d (b2n b) text, bufSet d.txt b) } :: rest } }
  | _ => d

/-- A string is handed over by a receive port (R141, R317). -/
def handString (c : Units) (d : Dev) (port vc kind : Nat) (job : Word) (text : List Byte) (excess : Bool) : Dev :=
  let drop := fun (why : Nat) => logAt (countDropped d) 0x0108 0x1A 255 job noWord [port, vc, why] 0
  if !(running c 0x1A && activeValid d.txt) then drop 1
  else if 1048576 < queueUsed d.txt + 8256 then drop 2
  else
    let text := if excess then text.take (cutLen text) else text
    let s : Str := { port, vc, job, kind, text, trunc := excess }
    startStr { d with txt := { d.txt with strs := d.txt.strs ++ [s] } }

/-- The tokenizer ends its string: an input-queue entry, and the next string starts with the active set (R315, R319). -/
def tokenizeFront (d : Dev) : Dev :=
  match d.txt.strs with
  | [] => d
  | s :: rest =>
    let x := s.toks.getD ([], 0)
    let cut := decide (2048 < x.1.length)
    let tr := s.trunc || cut
    let e : InEntry :=
      { port := s.port, vc := s.vc, job := s.job, kind := s.kind, setId := x.2, trunc := tr
        kept := s.text.length, cut := b2n s.trunc + 2 * b2n cut, tokens := x.1.take 2048, part := none, doneAt := d.clk.mono }
    startStr { d with txt := { d.txt with
      strs := rest, queue := d.txt.queue ++ [e], trunc := if tr then d.txt.trunc + 1 else d.txt.trunc } }

/-- TOKENIZE_DONE (R319). -/
def execTokenizeDone (s : State) : Host.Outcome State Fault Refusal :=
  onDev (fun c d => if clocked d && running c 0x1A then tokenizeFront d else d) s

/-- Publication of the entries whose tokenization ended before a cycle, that of the boundary (R320). -/
def publishText (c : Units) (cycle : Nat) (d : Dev) : Dev :=
  let ready := fun (e : InEntry) => e.part == none && decide (e.doneAt < cycle)
  let waiting := d.txt.queue.filter ready
  let d := { d with txt := { d.txt with queue := d.txt.queue.filter (fun e => !ready e) } }
  waiting.foldl (fun d e =>
    match binder d e.port e.vc with
    | none => countDropped d
    | some p =>
      if !running c p then countDropped d
      else
        let d := { d with txt := { d.txt with queue := d.txt.queue ++ [{ e with part := some p }] } }
        if e.trunc && cf d .xEventEn 0 0 3 3 == 1 then
          let det := [e.kept, e.tokens.length, e.cut, e.kind]
          if e.job == noWord then raise c d .nothing { code := 0x0005, unit := 0x1A, detail := det }
          else
            match heldJob d p e.job with
            | some j => raise c d (.job j.id) { code := 0x0005, unit := 0x1A, detail := det }
            | none => logAt d 0x0005 0x1A p e.job noWord det 0
        else d) d

/-! ### TXT_FETCH (R338) -/

/-- The oldest published entry of a kind on a binding goes to the local store. -/
def actFetch (d : Dev) (f : Flight) : Dev :=
  let img := imgOf d f.part
  let bob := phys d img f.part (fld f.desc 0 1)
  let dst := fld f.desc 4 4
  let bind := (inputsOf img)[fld f.desc 2 1]?
  let mine := fun (e : InEntry) => e.part == some f.part && e.kind == fld f.desc 1 1 && some (e.port, e.vc) == bind
  let put := fun (d : Dev) (bs : List Byte) => putAt d (d.clk.offset + 1) prioMove f.id [lsPut bob dst bs]
  match d.txt.queue.find? mine with
  | none => put d (leBytes 4 0xFFFFFFFF ++ List.replicate 12 0)
  | some e =>
    let bs := leBytes 4 e.tokens.length ++ leBytes 4 e.job.toNat ++ leBytes 1 (b2n e.trunc) ++ [0, 0, 0] ++ leBytes 4 e.setId.toNat
      ++ e.tokens.flatMap (leBytes 4)
    let i := d.txt.queue.findIdx mine
    put { d with txt := { d.txt with queue := d.txt.queue.eraseIdx i } } bs

/-- Check of a TXT_FETCH word (R338, R341). -/
def fetchOk (img : List Byte) (w : Nat) (desc : List Byte) : Bool :=
  bitsOf w 39 0 == 0 && fld desc 0 1 < fld img 20 1 && 1 ≤ fld desc 1 1 && fld desc 1 1 ≤ 3
    && fld desc 2 1 < (inputsOf img).length && fld desc 3 1 == 0 && fld desc 4 4 % 64 == 0 && fld desc 4 4 + 8208 ≤ 20971520
    && zeroAt desc 8 56

end Sys2Proof.Machine
end

