-- ==== Sys2Proof/Machine/Decide.lean ====
section
/-!
DEFINITION. DECIDE (R321 to R330, R339 to R341): the candidate set, forcing, greedy and top-k choice, the token's effects, its
bytes, stop strings and the release of text.
-/
namespace Sys2Proof.Machine

/-- Values of R339 that the reads use: V, VB, element size. -/
def decV (desc : List Byte) : Nat := fld desc 12 4
def decSplit (desc : List Byte) : Nat := fld desc 22 1
def decVB (desc : List Byte) : Nat := 64 * cdiv (decV desc) (64 * decSplit desc)
def decBf16 (desc : List Byte) : Bool := bitOf (fld desc 1 1) 6
def decSize (desc : List Byte) : Nat := if decBf16 desc then 2 else 4
/-- R of R340. -/
def decR (desc : List Byte) : Nat := cdiv (decV desc) 512

/-- Bytes that one read cycle takes from each logit Bobbin (R340). -/
def decLane (desc : List Byte) : Nat := 512 / decSplit desc * decSize desc

/-- Address and length of what read cycle j takes from a logit Bobbin: cycle j mod R of slot j / R (R339, R340). -/
def logitSpan (desc : List Byte) (j : Nat) : Nat × Nat :=
  let at_ := j % decR desc * decLane desc
  (fld desc 24 4 + j / decR desc * fld desc 28 4 + at_, Nat.min (decLane desc) (decVB desc * decSize desc - at_))

/-- What a read cycle takes from logit Bobbin k, in a lane of fixed width. -/
def logitLane (d : Dev) (img : List Byte) (p : Nat) (desc : List Byte) (j k : Nat) : List Byte :=
  let s := logitSpan desc j
  lsGet d (phys d img p (fld desc 23 1 + k)) s.1 s.2 ++ List.replicate (decLane desc - s.2) 0

/-- Logits of a slot by token, from the bytes of its R read cycles (R339). -/
def logitsOf (desc : List Byte) (got : List Byte) : List Xv :=
  let lane := decLane desc
  let fmt := if decBf16 desc then 1 else 0
  ((List.range (decSplit desc)).flatMap (fun k =>
    let bs := (List.range (decR desc)).flatMap (fun r => (got.drop ((r * decSplit desc + k) * lane)).take lane)
    (List.range (decVB desc)).map (valAt fmt bs))).take (decV desc)

/-- The last n tokens of the ring, oldest first; none when fewer were decided (R268, R321). -/
def lastTokens (x : Ctx) (n : Nat) : Option (List Nat) :=
  if x.ringCnt < n then none
  else some ((List.range n).map (fun i => (x.ring.getD ((x.ringHead + 16 - n + i) % 16) 0).toNat))

/-- SEQLIST entries of a type in the selected groups: tokens, in list order. -/
def seqEntries (d : Dev) (b ty groups : Nat) : List (List Nat) :=
  (List.range (tabSect d b 10).2.2.1).filterMap (fun k =>
    let e := tabEntry d b 10 72 k
    if fld e 0 1 == ty && bitOf groups (fld e 2 1) then some ((List.range (fld e 1 1)).map (fun i => fld e (8 + 4 * i) 4)) else none)

/-- An entry of length n matches the ring with its first n − 1 tokens. -/
def seqMatch (x : Ctx) (e : List Nat) : Bool := lastTokens x (e.length - 1) == some (e.take (e.length - 1))

/-- The class of a token and the mask bit of a class in a state (R310). -/
def classOf (d : Dev) (b v : Nat) : Nat := leNat (tabEntry d b 4 2 v) % 4096
def stateEntry (d : Dev) (b st : Nat) : List Byte := tabEntry d b 5 8 st
def maskRow (d : Dev) (b st : Nat) : List Byte :=
  let z := 64 * cdiv (tabSect d b 4).2.2.2 512
  tabEntry d b 6 z (fld (stateEntry d b st) 0 2)

/-- NEXT of a state's edge for a class. -/
def nextState (d : Dev) (b st cls : Nat) : Nat :=
  let e := stateEntry d b st
  let first := fld e 4 4
  let edges := (List.range (bitsOf (fld e 2 2) 12 0)).map (fun i => leNat (tabEntry d b 7 4 (first + i)))
  ((edges.find? (fun x => bitsOf x 11 0 == cls)).map (fun x => bitsOf x 31 16)).getD st

/-- The generator of R325: next state and the value drawn. -/
def drawNext (x : BitVec 64) : BitVec 64 × BitVec 64 :=
  let s := x + 0x9E3779B97F4A7C15
  let z := (s ^^^ (s >>> 30)) * 0xBF58476D1CE4E5B9
  let z := (z ^^^ (z >>> 27)) * 0x94D049BB133111EB
  (s, z ^^^ (z >>> 31))

/-- Rank a candidate into a list of at most k, by descending logit and lower id first. -/
def rankIn (k : Nat) (l : List (Nat × Xv)) (c : Nat × Xv) : List (Nat × Xv) := (insertBy (fun a b => b.2.lt a.2) c l).take k

/-- Top-k choice (R325) with the value drawn. -/
def topK (k : Nat) (invTemp : Word) (cands : List (Nat × Xv)) (draw : BitVec 64) : Nat :=
  let zs := cands.foldl (rankIn k) []
  match zs with
  | [] => 0
  | (v1, z1) :: _ =>
    if z1 == .inf false then v1
    else
      let ws := zs.map (fun z => exp32 (f32 (rne32 ((f32 (rne32 (z.2.sub z1))).mul (f32 invTemp)))))
      let sums := (ws.foldl (fun (a : Word × List Word) w => let s := rne32 ((f32 a.1).add (f32 w)); (s, a.2 ++ [s])) ((0 : Word), [])).2
      let u : Xv := .fin false (draw >>> 40).toNat (-24)
      let theta := rne32 (u.mul (f32 (sums.getLastD 0)))
      let i := (sums.findIdx? (fun s => (f32 theta).lt (f32 s))).getD (zs.length - 1)
      ((zs[i]?).map (·.1)).getD v1

/-- What a step decides for a slot. -/
inductive Pick where
  | token (v : Nat) (forced : Bool)
  | forcedEnd
  | dead
  deriving DecidableEq, Repr

/-- Counts of a decision: NaN logits, a forcing dropped. -/
structure PickCount where
  nan     : Nat := 0
  blocked : Bool := false
  deriving DecidableEq, Repr

/-- Constrain and pick (R321 to R325). -/
def pickToken (d : Dev) (s : Slot) (x : Ctx) (zs : List Xv) (draw : BitVec 64) : Pick × PickCount :=
  let b := s.buf
  let con := s.flag 0
  let groups := fld s.desc 48 4
  let row := if con then maskRow d b s.state else []
  let banned := (seqEntries d b 1 groups).filterMap (fun e => if seqMatch x e then e.getLast? else none)
  let classBit := fun (v : Nat) => let k := classOf d b v; bitOf (fld row (k / 8) 1) (k % 8)
  let left := fun (v : Nat) => (!con || classBit v) && !banned.contains v
  let forces := (seqEntries d b 2 groups).filter (fun e => seqMatch x e)
  let force := forces.foldl (fun (m : Option (List Nat)) e =>
    match m with | some a => if a.length < e.length then some e else m | none => some e) none
  let forced := force.bind List.getLast?
  match forced with
  | some v =>
    if v < zs.length && left v then (.token v true, {})
    else choose true
  | none => choose false
where
  /-- Step 3 and the choice. -/
  choose (blocked : Bool) : Pick × PickCount :=
    let b := s.buf
    let con := s.flag 0
    let groups := fld s.desc 48 4
    let row := if con then maskRow d b s.state else []
    let banned := (seqEntries d b 1 groups).filterMap (fun e => if seqMatch x e then e.getLast? else none)
    let classBit := fun (v : Nat) => let k := classOf d b v; bitOf (fld row (k / 8) 1) (k % 8)
    let left := (zs.mapIdx (fun v z => (v, z))).filter (fun c => (!con || classBit c.1) && !banned.contains c.1)
    let nan := (left.filter (fun c => c.2.isNan)).length
    let cands := left.filter (fun c => !c.2.isNan && c.2 != .inf true)
    let n : PickCount := { nan, blocked }
    if cands.isEmpty then
      (if !con || bitOf (fld (stateEntry d b s.state) 2 2) 15 then (.forcedEnd, n) else (.dead, n))
    else if s.flag 1 then (.token (topK (fld s.desc 2 1) (BitVec.ofNat 32 (fld s.desc 16 4)) cands draw) false, n)
    else
      let best := cands.foldl (fun (m : Option (Nat × Xv)) c =>
        match m with | some a => if a.2.lt c.2 then some c else m | none => some c) none
      (.token ((best.map (·.1)).getD 0) false, n)

/-- Bytes of a token after SPACE_MARK replacement (R309, R327). -/
def tokenBytes (d : Dev) (b v : Nat) : List Byte :=
  let f := idFields (tabNat d b ((tabSect d b 1).1 + 4 * v) 4)
  let bs := tabGet d b ((tabSect d b 2).1 + f.1) f.2.1
  if v == tabNat d b 24 4 then []
  else if bitOf (tabNat d b 28 1) 0 then unmark bs.length bs else bs
where
  /-- Every run 0xE2 0x96 0x81 becomes 0x20. -/
  unmark : Nat → List Byte → List Byte
    | 0, l => l
    | _, [] => []
    | n + 1, x :: t =>
      match x, t with
      | 0xE2, 0x96 :: 0x81 :: r => 0x20 :: unmark n r
      | x, t => x :: unmark n t

/-- Stop strings that a slot selects: index and bytes (R312, R328). -/
def stopsOf (d : Dev) (s : Slot) : List (Nat × List Byte) :=
  (List.range (tabSect d s.buf 11).2.2.1).filterMap (fun k =>
    let e := tabEntry d s.buf 11 72 k
    if bitOf (fld s.desc 40 8) k then some (k, (e.drop 8).take (fld e 0 1)) else none)

/-- The match that ends first within the new bytes, the longest among equals: index, start, end (R329). -/
def stopMatch (stops : List (Nat × List Byte)) (held new : List Byte) : Option (Nat × Nat × Nat) :=
  let buf := held ++ new
  (List.range new.length).findSome? (fun i =>
    let e := held.length + i + 1
    stops.foldl (fun (m : Option (Nat × Nat × Nat)) s =>
      let n := s.2.length
      if n ≤ e && (buf.drop (e - n)).take n == s.2 then
        (match m with | some (_, a, _) => if e - n < a then some (s.1, e - n, e) else m | none => some (s.1, e - n, e))
      else m) none)

/-- Raise a text event when TXT_EVENT_EN allows it (R336). -/
def textEvent (c : Units) (d : Dev) (x : Ctx) (cid bit code : Nat) (detail : List Nat) : Dev :=
  if cf d .xEventEn 0 0 bit bit == 1 then
    raise c d (seqTie d x.part x.job) { code, unit := 0x1A, ctx := BitVec.ofNat 32 cid, detail }
  else d

/-- Bytes of text a slot has released. -/
def slotText (d : Dev) (cid : Nat) : Nat := ((slotOf d cid).map (fun s => s.text)).getD 0

/-- The bytes of a decided token: hold-back, stop match, release (R327 to R331). -/
def emitToken (c : Units) (d : Dev) (cid v : Nat) : Dev :=
  match slotOf d cid, ctxOf d cid with
  | some s, some x =>
    let bs := tokenBytes d s.buf v
    let stops := stopsOf d s
    let ids := tabSect d s.buf 1
    let f := idFields (tabNat d s.buf (ids.1 + 4 * v) 4)
    let d := noteTab c d s.part cid s.buf
      [(ids.1 + 4 * v, 4), ((tabSect d s.buf 2).1 + f.1, f.2.1), ((tabSect d s.buf 11).1, (tabSect d s.buf 11).2.1)]
    match (if endable x 2 then stopMatch stops s.held bs else none) with
    | some (i, a, e) =>
      let cut := if s.flag 2 then e else a
      let total := s.held.length + bs.length
      let stopIn := decide (e < total)
      let d := setSlot d cid (fun s => { s with held := (s.held ++ bs).take cut })
      let d := endSeq c d cid 2 stopIn
      let d := { d with txt := { d.txt with stop := d.txt.stop + 1 } }
      if stopIn then textEvent c d x cid 2 0x0009 [i, total - Nat.max s.held.length cut] else d
    | none =>
      let keep := stops.foldl (fun m t => Nat.max m t.2.length) 0 - 1
      let buf := s.held ++ bs
      let out := buf.take (buf.length - keep)
      let (s1, hs, rd, done) := releaseBytes d false s out
      let d := noteTab c d s.part cid s.buf rd
      let (s2, hs2) := if done && !s1.piece.isEmpty then cutPiece s1 s1.piece.length else (s1, [])
      let d := match ctxOf d cid with
        | some x => handAll d cid x 0 0 false (hs ++ hs2)
        | none => d
      setSlot d cid (fun _ => { s2 with held := buf.drop (buf.length - keep) })
  | _, _ => d

/-- A token is decided (R326): ring, GENERATED, token output, automaton state, then its bytes. -/
def decideToken (c : Units) (d : Dev) (cid v : Nat) (forced : Bool) : Dev :=
  match slotOf d cid with
  | none => d
  | some s =>
    let eos := v == tabNat d s.buf 24 4
    let d := setCtx d cid (fun x => { x with
      ring := x.ring.set x.ringHead (BitVec.ofNat 32 v), ringHead := (x.ringHead + 1) % 16, ringCnt := Nat.min 16 (x.ringCnt + 1)
      gen := x.gen + 1 })
    let d := { d with txt := { d.txt with
      tokens := d.txt.tokens + 1, forced := if forced then d.txt.forced + 1 else d.txt.forced } }
    let st := if s.flag 0 && !eos then nextState d s.buf s.state (classOf d s.buf v) else s.state
    let d := setSlot d cid (fun s => { s with state := st, forced := s.forced || forced })
    if eos then d else emitToken c d cid v

/-- The text-store words that a decision reads besides those of its token (R496). -/
def noteDecide (c : Units) (d : Dev) (s : Slot) : Dev :=
  if d.ecc.isEmpty then d
  else
    let sect := fun i => ((tabSect d s.buf i).1, (tabSect d s.buf i).2.1)
    let st := tabSect d s.buf 5
    let z := 64 * cdiv (tabSect d s.buf 4).2.2.2 512
    noteTab c d s.part s.ctx s.buf ([sect 10] ++
      (if s.flag 0 then [sect 4, (st.1 + 8 * s.state, 8), ((tabSect d s.buf 6).1 + z * fld (stateEntry d s.buf s.state) 0 2, z)] else []))

/-- Read cycle j of a DECIDE takes its logits through the MOVE ports of the logit Bobbins (R340). -/
def actLogits (c : Units) (d : Dev) (f : Flight) (j : Nat) : Dev :=
  let desc := f.desc
  let p := f.part
  let img := imgOf d p
  let d := if j + 1 < fld desc 10 2 * decR desc then addServed d 1 f (j + 1) prioRead (.chunk (j + 1)) else d
  let got := (List.range (decSplit desc)).flatMap (logitLane d img p desc j)
  let d := setFlight d f.id (fun x => { x with aux := x.aux ++ got })
  if d.ecc.isEmpty then d
  else
    let x := (slotAt d p (fld desc 0 1) (fld desc 8 2 + j / decR desc)).bind (fun s => ctxOf d s.ctx)
    let w : Who := { unit := 0x1A, part := p, job := x.bind (fun x => (seqJob d p x.job).map (·.id)) }
    let s := logitSpan desc j
    (List.range (decSplit desc)).foldl (fun d k =>
      let (d, bad) := lsNote c d w (phys d img p (fld desc 23 1 + k)) s.1 s.2
      match slotAt d p (fld desc 0 1) (fld desc 8 2 + j / decR desc) with
      | some t => if bad then setCtx d t.ctx (fun x => { x with ecc := true }) else d
      | none => d) d

/-- Slot i of a DECIDE (R326, R340). -/
def actSlot (c : Units) (d : Dev) (f : Flight) (i : Nat) : Dev :=
  let desc := f.desc
  let p := f.part
  let img := imgOf d p
  let tok := phys d img p (fld desc 52 1)
  let put := fun (d : Dev) (v : Nat) =>
    putAt d (d.clk.offset + 1) prioMove f.id [lsPut tok (fld desc 56 4 + 4 * i) (leBytes 4 v)]
  let got := f.aux
  let d := setFlight d f.id (fun x => { x with aux := x.aux.drop (decR desc * decSplit desc * decLane desc) })
  let d := if i + 1 < fld desc 10 2 then addServed d 1 f ((i + 2) * decR desc + 24) prioRead (.group (i + 1)) else d
  match slotAt d p (fld desc 0 1) (fld desc 8 2 + i) with
  | none => put d 0xFFFFFFFF
  | some s =>
    match ctxOf d s.ctx with
    | none => put d 0xFFFFFFFF
    | some x =>
      if !s.live || x.state != 3 || s.endDue == 6 then put d 0xFFFFFFFF
      else
        -- the state that placement gives the slot (R339), taken at its first decision
        let s := if s.desc.isEmpty then
            { s with desc, state := fld desc 20 2
                     gen := BitVec.ofNat 64 (fld desc 32 8) ^^^ BitVec.ofNat 64 (x.job.toNat * 2 ^ 32 + s.ctx) }
          else s
        let d := setSlot d s.ctx (fun _ => s)
        let d := noteDecide c d s
        let (gen, z) := drawNext s.gen
        let (pick, n) := pickToken d s x (logitsOf desc got) z
        let d := { d with txt := { d.txt with
          nan := d.txt.nan + n.nan, blocked := d.txt.blocked + (b2n n.blocked) } }
        let drawn := fun (d : Dev) => if s.flag 1 then setSlot d s.ctx (fun s => { s with gen }) else d
        match pick with
        | .token v forced =>
          let d := put (drawn d) v
          let d := decideToken c d s.ctx v forced
          if v == tabNat d s.buf 24 4 then endSeq c d s.ctx 1 false else d
        | .forcedEnd =>
          let v := tabNat d s.buf 24 4
          let d := put (drawn d) v
          let d := decideToken c d s.ctx v false
          let d := endSeq c d s.ctx 3 false
          if !endable x 3 then d
          else
          let d := { d with txt := { d.txt with fend := d.txt.fend + 1 } }
          textEvent c d x s.ctx 0 0x0008 [s.state, x.gen + 1, slotText d s.ctx]
        | .dead =>
          let d := put d 0xFFFFFFFF
          let d := endSeq c d s.ctx 4 false
          if !endable x 4 then d
          else
          let d := { d with txt := { d.txt with dead := d.txt.dead + 1 } }
          textEvent c d x s.ctx 1 0x0007 [s.state, x.gen, slotText d s.ctx]

/-- DURATION of a TEXT word (R338, R340). -/
def textDur (op : Nat) (desc : List Byte) : Nat := if op == 0 then 40 else fld desc 10 2 * decR desc + 24

/-- Steps that a TEXT word schedules, at its cycles of service (R67). -/
def startText (d : Dev) (f : Flight) : Dev :=
  let d := completeServed d 1 f (textDur (wOp f.word.toNat) f.desc)
  if wOp f.word.toNat == 0 then addServed d 1 f 6 prioRead .whole
  else addServed (addServed d 1 f 0 prioRead (.chunk 0)) 1 f (decR f.desc + 24) prioRead (.group 0)

/-- Check of a DECIDE descriptor (R339, R341), and the OUTPUTS entry that R367 asks for. -/
def decideOk (img : List Byte) (desc : List Byte) : Bool :=
  let fl := fld desc 1 1
  let n := fld img 20 1
  let split := decSplit desc
  fl < 128 && (if bitOf fl 1 then 1 ≤ fld desc 2 1 && fld desc 2 1 ≤ 64 else fld desc 2 1 == 1)
    && (bitOf fl 5 || fld desc 3 1 == 0) && 1 ≤ fld desc 10 2
    && (match slabById img (fld desc 0 1) with
        | some s => fld desc 8 2 + fld desc 10 2 ≤ s.2.1 && fld desc 4 4 + textDur 1 desc ≤ s.2.2.1
        | none => false)
    && posFinite (BitVec.ofNat 32 (fld desc 16 4)) && (bitOf fl 1 || fld desc 16 4 == 0x3F800000)
    && (bitOf fl 0 || fld desc 20 2 == 0) && (split == 2 || split == 4 || split == 8) && (decBf16 desc || 4 ≤ split)
    && fld desc 23 1 + split ≤ n && fld desc 24 4 % 64 == 0 && fld desc 28 4 % 64 == 0 && decVB desc * decSize desc ≤ fld desc 28 4
    && fld desc 24 4 + (fld desc 10 2 - 1) * fld desc 28 4 + decVB desc * decSize desc ≤ 20971520
    && fld desc 52 1 < n && fld desc 53 1 == 0 && 64 ≤ fld desc 54 2 && fld desc 54 2 ≤ 4096 && fld desc 56 4 % 4 == 0
    && fld desc 56 4 + 4 * fld desc 10 2 ≤ 20971520 && zeroAt desc 60 4
    && !(outputsOf img).isEmpty

/-- What R316 asks of the set in a buffer for a DECIDE descriptor: its V, START_STATE and TRIE sections. -/
def decideSetOk (d : Dev) (buf : Bool) (desc : List Byte) : Bool :=
  let b := b2n buf
  let fl := fld desc 1 1
  decV desc == tabNat d b 20 4 && (!bitOf fl 0 || fld desc 20 2 < (tabSect d b 5).2.2.1)
    && (!bitOf fl 3 || (tabSect d b 8).2.2.1 != 0)

end Sys2Proof.Machine
end

