-- ==== Sys2Proof/Machine/OutWords.lean ====
section
/-!
DEFINITION. OUT words (R379 to R381) and the commands of the output unit and the transmit ports: release, PAGE_END, sending,
HS exit and hold (R349 to R355, R368 to R372, R376, R377).
-/
namespace Sys2Proof.Machine

/-! ### EMIT and JOB_DONE -/

/-- E of R381: cycles of an entry. -/
def outCycles (op : Nat) (desc : List Byte) : Nat := if op == 0 then 8 + cdiv (fld desc 12 4) 512 else 2

/-- DURATION of an OUT word. -/
def outDur (op : Nat) (desc : List Byte) : Nat := 16 + fld desc 2 2 * outCycles op desc

/-- Length that a record type has (R354); none for a type that EMIT does not take. -/
def emitLength (ty : Nat) : Option Nat := if ty == 3 || ty == 4 then some 48 else if ty == 7 then some 56 else if ty == 8 then some 64 else none

/-- Reserved bytes of an EMIT entry are zero (R352, R357, R360, R361). -/
def emitReservedOk (e : List Byte) : Bool :=
  let ty := fld e 0 1
  fld e 2 2 < 4
    && (ty != 4 || zeroAt e 42 2)
    && (ty != 7 ||
        (let n := fld e 20 1
         1 ≤ n && n ≤ 4 && zeroAt e 21 3 && (List.range n).all (fun i => zeroAt e (26 + 8 * i) 2) && zeroAt e (24 + 8 * n) (32 - 8 * n)))
    && (ty != 8 || (zeroAt e 31 1 && zeroAt e 50 2))

/-- The lowest reason for which an entry is bad (R380, R495); 0 none. -/
def emitReason (d : Dev) (p cropMax : Nat) (e : List Byte) : Nat :=
  match emitLength (fld e 0 1) with
  | none => 1
  | some n =>
    let ow := fld e 24 2
    let oh := fld e 26 2
    let ch := fld e 28 2
    if fld e 4 4 != n then 2
    else if !emitReservedOk e then 3
    else if !(fld e 12 4 < 65536 || fld e 12 4 == 0xFFFFFFFF) then 4
    else if (heldJob d p (BitVec.ofNat 32 (fld e 8 4))).isNone then 5
    else if fld e 0 1 == 8 && bitOf (fld e 30 1) 0 && (ow * oh * ch == 0 || 16384 < ow * ch || cropMax < ow * oh * ch) then 6
    else 0

/-- A bad entry is counted and logged (R380). -/
def outBad (d : Dev) (p op k reason : Nat) : Dev :=
  logAt { d with out := { d.out with bad := d.out.bad + 1 } } 0x0107 0x1C p noWord noWord [op, k, reason] 0

/-- The named job is held and its verdict is unread. -/
def jobUnread (d : Dev) (p : Nat) (seq : Word) : Bool :=
  match heldJob d p seq with | some j => j.verdict == some false | none => false

/-- Hand over entry k of an EMIT word. -/
def emitEntry (c : Units) (d : Dev) (f : Flight) (bob k : Nat) : Dev :=
  let a := fld f.desc 4 4 + 64 * k
  let p := f.part
  let e0 := lsGet d bob a 64
  let seq := BitVec.ofNat 32 (fld e0 8 4)
  let held := heldJob d p seq
  let w : Who := { unit := 0x1C, part := p, job := held.map (·.id) }
  let (d, bad) := lsNote c d w bob a 64
  if fld e0 0 1 == 0 || jobUnread d p seq then d
  else
    let why := emitReason d p (fld f.desc 12 4) e0
    if why != 0 then outBad d p f.op k why
    else match held with
      | none => d
      | some j =>
        let crop := fld e0 0 1 == 8
        let len := fld e0 24 2 * fld e0 28 2
        let rows := if crop && bitOf (fld e0 30 1) 0 then fld e0 26 2 else 0
        let row := fun (r : Nat) => fld e0 56 4 + r * fld e0 60 4
        let (d, bad) := (List.range rows).foldl (fun (x : Dev × Bool) r =>
          let (d, b) := lsNote c x.1 w bob (row r) len
          (d, x.2 || b)) (d, bad)
        let lines := (List.range rows).map (fun r => lsGet d bob (row r) len)
        let ecc := bad || bitOf (fld e0 2 2) 0 || (crop && bitOf (fld e0 30 1) 4)
        let rr := ((outsOf d j.id).find? (fun x => x.out == fld f.desc 1 1)).map (fun x => x.reread)
        let body := if crop then (e0.drop 4).take 52 ++ List.replicate 8 0 else (e0.drop 4).take (fld e0 4 4 - 4)
        let bytes := e0.take 1 ++ [0x10] ++ leBytes 2 (b2n ecc + 2 * b2n (rr.getD false)) ++ body
        handRec d j.id (fld f.desc 1 1) { bytes, lines }

/-- Entry k of a JOB_DONE word. -/
def doneEntry (c : Units) (d : Dev) (f : Flight) (bob k : Nat) : Dev :=
  let a := fld f.desc 4 4 + 4 * k
  let d := (lsNote c d { unit := 0x1C, part := f.part } bob a 4).1
  match heldJob d f.part (BitVec.ofNat 32 (lsNat d bob a 4)) with
  | some j => setJob d j.id (fun j => { j with doneNamed := true })
  | none => outBad d f.part f.op k 5

/-- The count of an OUT word is read in cycle ISSUE + 6 (R381). -/
def actOutCount (c : Units) (d : Dev) (f : Flight) : Dev :=
  let bob := phys d (imgOf d f.part) f.part (fld f.desc 0 1)
  let d := if fld f.desc 8 4 == 0xFFFFFFFF then d
    else (lsNote c d { unit := 0x1C, part := f.part } bob (fld f.desc 8 4) 4).1
  setFlight d f.id (fun x => { x with aux := leBytes 8 (listCount d bob f.desc) })

/-- Entry k of an OUT word in its last cycle (R381). -/
def actOutEntry (c : Units) (d : Dev) (f : Flight) (k : Nat) : Dev :=
  let op := wOp f.word.toNat
  let n := Nat.min (fld f.aux 0 8) (fld f.desc 2 2)
  if n ≤ k then d
  else
    let bob := phys d (imgOf d f.part) f.part (fld f.desc 0 1)
    let d := if op == 0 then emitEntry c d f bob k else doneEntry c d f bob k
    addServed d 2 f (16 + outCycles op f.desc * (k + 2) - 1) prioOut (.entry (k + 1))

/-- Steps that an OUT word schedules, at its cycles of service (R67). -/
def startOut (d : Dev) (f : Flight) : Dev :=
  let op := wOp f.word.toNat
  let d := completeServed d 2 f (outDur op f.desc)
  addServed (addServed d 2 f 6 prioRead .whole) 2 f (16 + outCycles op f.desc - 1) prioOut (.entry 0)

/-- Operand checks of an OUT word (R379, R381). -/
def outOk (img : List Byte) (w : Nat) (desc : List Byte) : Bool :=
  let op := wOp w
  let n := fld desc 2 2
  let z := if op == 0 then 64 else 4
  op ≤ 1 && bitsOf w 39 0 == 0 && fld desc 0 1 < fld img 20 1 && 1 ≤ n && n ≤ 256 && fld desc 4 4 % 64 == 0
    && fld desc 4 4 + z * n ≤ 20971520 && (fld desc 8 4 == 0xFFFFFFFF || (fld desc 8 4 % 4 == 0 && fld desc 8 4 + 4 ≤ 20971520))
    && zeroAt desc 16 48
    && (if op == 0 then fld desc 1 1 < (outputsOf img).length && fld desc 12 4 ≤ 1048576
        else fld desc 1 1 == 0 && fld desc 12 4 == 0)

/-! ### Release and PAGE_END -/

/-- JOB_RELEASE on binding o of partition p (R368). -/
def execJobRelease (p : Fin 8) (o : Nat) (s : State) : Host.Outcome State Fault Refusal :=
  onDev (fun _ d => if clocked d && hasImage d p then release d p o else d) s

/-- PAGE_END of the oldest released job of a binding (R369). -/
def execPageEnd (p : Fin 8) (o : Nat) (s : State) : Host.Outcome State Fault Refusal :=
  onDev (fun _ d =>
    if !(clocked d && hasImage d p) then d
    else match firstOn d p o with
      | some _ => pageEnd d p o
      | none => retireBare d p) s

/-! ### Packets on the lanes (R350) -/

/-- Data type of a packet (R350). -/
def Packet.dataType : Packet → Nat
  | .frameStart _ _ => 0x00
  | .frameEnd _ _ => 0x01
  | .record _ _ => 0x34
  | .cropLine _ _ => 0x2A

/-- Virtual channel of a packet. -/
def Packet.vc : Packet → Nat
  | .frameStart v _ | .frameEnd v _ | .record v _ | .cropLine v _ => v

/-- Header ECC of CSI-2 over the data identifier, the word count and the two upper bits of the virtual channel: the sum of the
6-bit codes of the bits that are 1 (PRESUMED from CSI-2, log entry 97). -/
def csiEcc (bits : Nat) : Nat :=
  let codes := [0x07, 0x0B, 0x0D, 0x0E, 0x13, 0x15, 0x16, 0x19, 0x1A, 0x1C, 0x23, 0x25, 0x26, 0x29, 0x2A, 0x2C, 0x31, 0x32, 0x34,
    0x38, 0x1F, 0x2F, 0x37, 0x3B, 0x3D, 0x3E]
  (codes.mapIdx (fun i k => if bitOf bits i then k else 0)).foldl Nat.xor 0

/-- Payload CRC-16 of CSI-2: x^16 + x^12 + x^5 + 1 from all ones, least significant bit first (PRESUMED from CSI-2, log entry 97). -/
def csiCrc (bs : List Byte) : Nat :=
  bs.foldl (fun r b =>
    (List.range 8).foldl (fun (r : Nat) _ => if r % 2 = 1 then Nat.xor (r / 2) 0x8408 else r / 2) (Nat.xor r b.toNat)) 0xFFFF

/-- Header of a packet: data identifier, 16-bit field, upper bits of the virtual channel with the ECC (PRESUMED from CSI-2, log
entry 97). -/
def csiHeader (vc dt field : Nat) : List Byte :=
  let bits := vc % 4 * 64 + dt + field % 65536 * 256 + vc / 4 * 2 ^ 24
  leBytes 3 bits ++ leBytes 1 (vc / 4 * 64 + csiEcc bits)

/-- Bytes of a packet: a short packet carries the frame number, a long one its payload and the CRC (R350). -/
def Packet.bytes (k : Packet) : List Byte :=
  match k with
  | .frameStart v n | .frameEnd v n => csiHeader v k.dataType n
  | .record v bs | .cropLine v bs => csiHeader v k.dataType bs.length ++ bs ++ leBytes 2 (csiCrc bs)

/-! ### Byte clocks (R348, R351) -/

/-- CCLK cycles that some byte clocks of a transmit port take: its byte clock is the lane rate divided by 8 (R348). A part of a cycle
counts whole, and the phase of the byte clock is not modelled (DESIGN CHOICE, log entry 100). -/
def byteCycles (d : Dev) (x n : Nat) : Nat := cdiv (8800 * n) (cf d .oCfg x 0 31 16)

/-- Byte clocks of a packet: a short one 1, a long one of W bytes ceil((W + 6) / 4). -/
def Packet.clocks : Packet → Nat
  | .frameStart _ _ | .frameEnd _ _ => 1
  | .record _ bs | .cropLine _ bs => cdiv (bs.length + 6) 4

/-- LP-to-HS entry: LP-01 and LP-00 of 50 ns each, HS-ZERO, the sync sequence, and the preamble of a non-continuous clock. -/
def hsEntry (d : Dev) (x : Nat) : Nat :=
  110 + byteCycles d x (cf d .oTiming x 0 7 0 + 1 + (if cf d .oCfg x 0 4 4 == 1 then 0 else 64))

/-- HS exit: 32 byte clocks. -/
def hsExit (d : Dev) (x : Nat) : Nat := byteCycles d x 32

/-- Time in HS with nothing to send: 16 × LINGER byte clocks. -/
def lingerCycles (d : Dev) (x : Nat) : Nat := byteCycles d x (16 * cf d .oTiming x 0 15 8)

/-- First cycle, from n on, in which a packet may start: behind the packet in progress, and out of HS behind the entry (R16). -/
def startAt (d : Dev) (x n : Nat) : Nat := Nat.max n (txOf d x).laneAt + (if (txOf d x).hs then 0 else hsEntry d x)

/-! ### Sending (R350, R355, R372, R373) -/

/-- CCLK cycle from which the next packet of a virtual channel may be on the lanes: 70 cycles after its record was handed to the
output unit (R15, R16); frame packets may leave at once (DESIGN CHOICE, log entry 91); none where nothing waits. -/
def TxVc.due (t : TxVc) : Option Nat :=
  let after := fun (r : Rec) => some (r.at_ + 70)
  if t.nextIsRec then
    match t.stream, t.free, t.q with
    | some h, _, _ => after h
    | none, r :: _, _ => after r
    | none, [], .item r :: _ => after r
    | _, _, _ => none
  else if t.q.isEmpty then none else some 0

/-- The virtual channel served next in a cycle: the lowest above the last one served, wrapping, whose packet is ready (R372). -/
def nextVc (t : TxPort) (now : Nat) : Option Nat :=
  ((List.range 16).map (fun i => (t.last + 1 + i) % 16)).find? (fun v =>
    match (t.vcs[v]?).bind TxVc.due with | some n => decide (n ≤ now) | none => false)

/-- First cycle in which a port has a packet ready; the lines that a hold has cut off are ready at once (R376). -/
def portDue (t : TxPort) : Option Nat :=
  if t.rest.isSome then some 0
  else (t.vcs.toList.filterMap TxVc.due).foldl (fun m n => some (Nat.min n (m.getD n))) none

/-- Frames of the jobs as their packets leave (R371). -/
def noteFrame (d : Dev) (x v : Nat) (f : Word → Bool) (g : OutJob → OutJob) : Dev :=
  { d with out := { d.out with jobs := d.out.jobs.map (fun o =>
      if o.port == x && o.vc == v && ((jobOf d o.job).map (fun j => f j.seq)).getD false then g o else o) } }

/-- Packets that leave without gap from the present cycle: the cycle by which each has left, with the quota that returns then. -/
def leaveAt (d : Dev) (x : Nat) (ps : List (Packet × Nat)) : List (Nat × Nat) :=
  ps.mapIdx (fun i p => (d.clk.mono + byteCycles d x ((ps.take (i + 1)).foldl (fun n q => n + q.1.clocks) 0), p.2))

/-- A port sends packets, each with the quota it returns (R351, R373). -/
def sendPackets (d : Dev) (x : Nat) (ps : List (Packet × Nat)) : Dev :=
  let l := leaveAt d x ps
  setTx d x (fun t => { t with
    used := t.used - ps.foldl (fun n p => n + p.2) 0
    wire := ps.map (·.1), leaving := l, laneAt := l.foldl (fun _ p => p.1) t.laneAt })

/-- Crop lines as packets with their quota (R350, R373). -/
def linePackets (v : Nat) (ls : List (List Byte)) : List (Packet × Nat) :=
  ls.map (fun l => (Packet.cropLine v l, (l.length + 3) / 4 * 4))

/-- Bytes of the output buffer as its ECC delivers them from an address on (R496). -/
def bufBytes (d : Dev) (a : Nat) (bs : List Byte) : List Byte :=
  if d.ecc.isEmpty then bs
  else bs.mapIdx (fun i b =>
    b ^^^ BitVec.ofNat 8 ((eccJudge (flipsAt d (key 4 (a + i)))).1.toNat / 2 ^ (8 * ((a + i) % 8))))

/-- A record as it is read from the output buffer for sending, its crop lines behind it. -/
def readRec (d : Dev) (r : Rec) : Rec :=
  { r with
    bytes := bufBytes d r.addr r.bytes
    lines := (r.lines.foldl (fun (x : Nat × List (List Byte)) l =>
      (x.1 + (l.length + 3) / 4 * 4, x.2 ++ [bufBytes d x.1 l])) (r.addr + r.bytes.length, [])).2 }

/-- A record leaves: it is read from the buffer under ECC, its quota returns with the last byte, and it counts as sent (R373, R387,
R496). -/
def sendRec (c : Units) (d : Dev) (x v : Nat) (r : Rec) : Dev :=
  let q := readRec d r
  let d := (eccRead c d { unit := 0x1C, part := (outBinder d x v).getD 255 } (key 4 r.addr) r.size).1
  let d := sendPackets d x ((.record v q.bytes, q.bytes.length) :: linePackets v q.lines)
  let d := setTx d x (fun t => { t with sent := t.sent + 1 })
  if fld r.bytes 0 1 == 2 then noteFrame d x v (fun s => s.toNat == fld r.bytes 8 4) (fun o => { o with frame := true }) else d

/-- Send the next packet of a virtual channel, a STREAM_HEADER before its first record (R355). -/
def sendVc (c : Units) (d : Dev) (x v : Nat) : Dev :=
  let t := ((txOf d x).vcs[v]?).getD {}
  let d := setTx d x (fun p => { p with hs := true, last := v })
  match t.nextIsRec, t.stream with
  | true, some h => sendRec c (setTxVc d x v (fun t => { t with stream := none })) x v h
  | _, _ =>
    match t.free with
    | r :: rest => sendRec c (setTxVc d x v (fun t => { t with free := rest })) x v r
    | [] =>
      let d := setTxVc d x v (fun t => { t with q := t.q.drop 1 })
      match t.q.head? with
      | some (.item r) => sendRec c d x v r
      | some (.frameStart n) =>
        noteFrame (sendPackets d x [(.frameStart v n, 0)]) x v (fun s => frameNo s == n)
          (fun o => { o with started := true })
      | some (.frameEnd n) =>
        noteFrame (sendPackets d x [(.frameEnd v n, 0)]) x v (fun s => frameNo s == n)
          (fun o => { o with started := false, frame := false })
      | none => d

/-- The port may send in this cycle, and what it sends: nothing while it is not RUN, is held, or has no packet ready; first the lines of
a crop unit that a hold cut off (R372, R376). -/
def sendNow (c : Units) (d : Dev) (x : Nat) : Dev :=
  let t := txOf d x
  if !(running c (0x18 + x) && !t.held) then d
  else match t.rest with
    | some (v, ls) => setTx (sendPackets d x (linePackets v ls)) x (fun p => { p with hs := true, last := v, rest := none })
    | none =>
      match nextVc t d.clk.mono with
      | some v => sendVc c d x v
      | none => d

/-- A hold at the present cycle: the packets of the unit in progress that have not begun are cut off, and their quota is held on
(R376). -/
def cutUnit (d : Dev) (t : TxPort) : TxPort :=
  let k := (t.leaving.takeWhile (fun p => p.1 ≤ d.clk.mono)).length + 1
  let back := (t.leaving.drop k).foldl (fun n p => n + p.2) 0
  let cut := (t.wire.drop k).filterMap (fun p => match p with | .cropLine v l => some (v, l) | _ => none)
  { t with
    used := t.used + back, wire := t.wire.take k, leaving := t.leaving.take k
    laneAt := (t.leaving.take k).foldl (fun _ p => p.1) t.laneAt
    rest := match cut with | [] => t.rest | (v, _) :: _ => some (v, cut.map (·.2)) }

/-- The port leaves HS once its packet ends, and stands in LP-11 behind the exit (R351, R376). -/
def leaveHs (d : Dev) (x : Nat) (t : TxPort) : TxPort :=
  if t.hs then
    let e := Nat.max d.clk.mono t.laneAt
    { t with hs := false, hsEnd := e, laneAt := e + hsExit d x }
  else t

/-- OUT_HOLD counts: the port ends its packet, or the current line of a crop unit, leaves HS and holds LP-11 (R376). -/
def execOutHold (x : Fin 2) (s : State) : Host.Outcome State Fault Refusal :=
  onDev (fun c d =>
    if clocked d && running c (0x18 + x) && !(txOf d x).held then
      setTx d x (fun t => { leaveHs d x (cutUnit d t) with
        held := true, heldAt := d.clk.mono, tmoDone := false, holds := t.holds + 1 })
    else d) s

/-- Release of the hold counts: the port enters HS (R376). -/
def execOutHoldRelease (x : Fin 2) (s : State) : Host.Outcome State Fault Refusal :=
  onDev (fun c d =>
    if clocked d && running c (0x18 + x) && (txOf d x).held then
      setTx d x (fun t => { t with held := false, hs := true, laneAt := Nat.max d.clk.mono t.laneAt + hsEntry d x })
    else d) s

end Sys2Proof.Machine
end

