-- ==== Sys2Proof/Machine/Coded.lean ====
section
/-!
DEFINITION. Decoding of ITU-T T.4 and T.6 pages (R138, R139). The code tables are those of the recommendations, which the
spec names and does not reprint (PRESUMED, log entry 36).
-/
namespace Sys2Proof.Machine

/-- White run codes: length, code, run. -/
def whiteCodes : List (Nat × Nat × Nat) :=
  [(8, 53, 0), (6, 7, 1), (4, 7, 2), (4, 8, 3), (4, 11, 4), (4, 12, 5), (4, 14, 6), (4, 15, 7), (5, 19, 8), (5, 20, 9)]
    ++ [(5, 7, 10), (5, 8, 11), (6, 8, 12), (6, 3, 13), (6, 52, 14), (6, 53, 15), (6, 42, 16), (6, 43, 17), (7, 39, 18), (7, 12, 19)]
    ++ [(7, 8, 20), (7, 23, 21), (7, 3, 22), (7, 4, 23), (7, 40, 24), (7, 43, 25), (7, 19, 26), (7, 36, 27), (7, 24, 28), (8, 2, 29)]
    ++ [(8, 3, 30), (8, 26, 31), (8, 27, 32), (8, 18, 33), (8, 19, 34), (8, 20, 35), (8, 21, 36), (8, 22, 37), (8, 23, 38), (8, 40, 39)]
    ++ [(8, 41, 40), (8, 42, 41), (8, 43, 42), (8, 44, 43), (8, 45, 44), (8, 4, 45), (8, 5, 46), (8, 10, 47), (8, 11, 48), (8, 82, 49)]
    ++ [(8, 83, 50), (8, 84, 51), (8, 85, 52), (8, 36, 53), (8, 37, 54), (8, 88, 55), (8, 89, 56), (8, 90, 57), (8, 91, 58), (8, 74, 59)]
    ++ [(8, 75, 60), (8, 50, 61), (8, 51, 62), (8, 52, 63), (5, 27, 64), (5, 18, 128), (6, 23, 192), (7, 55, 256), (8, 54, 320), (8, 55, 384)]
    ++ [(8, 100, 448), (8, 101, 512), (8, 104, 576), (8, 103, 640), (9, 204, 704), (9, 205, 768), (9, 210, 832), (9, 211, 896), (9, 212, 960), (9, 213, 1024)]
    ++ [(9, 214, 1088), (9, 215, 1152), (9, 216, 1216), (9, 217, 1280), (9, 218, 1344), (9, 219, 1408), (9, 152, 1472), (9, 153, 1536), (9, 154, 1600), (6, 24, 1664)]
    ++ [(9, 155, 1728)]

/-- Black run codes. -/
def blackCodes : List (Nat × Nat × Nat) :=
  [(10, 55, 0), (3, 2, 1), (2, 3, 2), (2, 2, 3), (3, 3, 4), (4, 3, 5), (4, 2, 6), (5, 3, 7), (6, 5, 8), (6, 4, 9)]
    ++ [(7, 4, 10), (7, 5, 11), (7, 7, 12), (8, 4, 13), (8, 7, 14), (9, 24, 15), (10, 23, 16), (10, 24, 17), (10, 8, 18), (11, 103, 19)]
    ++ [(11, 104, 20), (11, 108, 21), (11, 55, 22), (11, 40, 23), (11, 23, 24), (11, 24, 25), (12, 202, 26), (12, 203, 27), (12, 204, 28), (12, 205, 29)]
    ++ [(12, 104, 30), (12, 105, 31), (12, 106, 32), (12, 107, 33), (12, 210, 34), (12, 211, 35), (12, 212, 36), (12, 213, 37), (12, 214, 38), (12, 215, 39)]
    ++ [(12, 108, 40), (12, 109, 41), (12, 218, 42), (12, 219, 43), (12, 84, 44), (12, 85, 45), (12, 86, 46), (12, 87, 47), (12, 100, 48), (12, 101, 49)]
    ++ [(12, 82, 50), (12, 83, 51), (12, 36, 52), (12, 55, 53), (12, 56, 54), (12, 39, 55), (12, 40, 56), (12, 88, 57), (12, 89, 58), (12, 43, 59)]
    ++ [(12, 44, 60), (12, 90, 61), (12, 102, 62), (12, 103, 63), (10, 15, 64), (12, 200, 128), (12, 201, 192), (12, 91, 256), (12, 51, 320), (12, 52, 384)]
    ++ [(12, 53, 448), (13, 108, 512), (13, 109, 576), (13, 74, 640), (13, 75, 704), (13, 76, 768), (13, 77, 832), (13, 114, 896), (13, 115, 960), (13, 116, 1024)]
    ++ [(13, 117, 1088), (13, 118, 1152), (13, 119, 1216), (13, 82, 1280), (13, 83, 1344), (13, 84, 1408), (13, 85, 1472), (13, 90, 1536), (13, 91, 1600), (13, 100, 1664)]
    ++ [(13, 101, 1728)]

/-- Make-up codes of both colours. -/
def longCodes : List (Nat × Nat × Nat) :=
  [(11, 8, 1792), (11, 12, 1856), (11, 13, 1920), (12, 18, 1984), (12, 19, 2048), (12, 20, 2112), (12, 21, 2176), (12, 22, 2240), (12, 23, 2304), (12, 28, 2368)]
    ++ [(12, 29, 2432), (12, 30, 2496), (12, 31, 2560)]

/-- Bits of bytes, most significant first (R138). -/
def bitsMsb (bs : List Byte) : List Bool := bs.flatMap (fun b => (List.range 8).map (fun i => b.getLsbD (7 - i)))

/-- What an attempt to read an element gives. -/
inductive Take (α : Type) where
  | more
  | bad (rest : List Bool)
  | ok (x : α) (rest : List Bool)

/-- Read one code word of a table, at most 13 bits. -/
def takeCode (table : List (Nat × Nat × Nat)) (len val : Nat) : Nat → List Bool → Take Nat
  | 0, bits => .bad bits
  | _, [] => .more
  | n + 1, b :: t =>
    let v := 2 * val + b2n b
    match table.find? (fun e => e.1 == len + 1 && e.2.1 == v) with
    | some e => .ok e.2.2 t
    | none => takeCode table (len + 1) v n t

/-- One run: make-up codes and a terminating code. -/
def takeRun (black : Bool) (sum : Nat) : Nat → List Bool → Take Nat
  | 0, bits => .bad bits
  | n + 1, bits =>
    match takeCode ((if black then blackCodes else whiteCodes) ++ longCodes) 0 0 13 bits with
    | .more => .more
    | .bad r => .bad r
    | .ok k r => if 64 ≤ k then takeRun black (sum + k) n r else .ok (sum + k) r

/-- Change positions as elements of a row: equal neighbours cancel, positions at the width drop. -/
def cleanChanges (w : Nat) (l : List Nat) : List Nat :=
  ((l.foldl (fun (s : List Nat) x => match s with | y :: t => if x == y then t else x :: s | [] => [x]) []).reverse).filter (· < w)

/-- A one-dimensionally coded row of width w: its colour changes. -/
def take1d (w : Nat) : Nat → Nat → Bool → List Nat → List Bool → Take (List Nat)
  | 0, _, _, _, bits => .bad bits
  | n + 1, a, black, acc, bits =>
    match takeRun black 0 1024 bits with
    | .more => .more
    | .bad r => .bad r
    | .ok k r =>
      if w < a + k then .bad r
      else if a + k == w then .ok (cleanChanges w (acc ++ [w])) r
      else take1d w n (a + k) (!black) (acc ++ [a + k]) r

/-- Changes of a reference row beyond a0: b1 and b2 for the colour in progress; `start` at the row's imaginary element. -/
def refPair (w : Nat) (ref : List Nat) (a0 : Nat) (start black : Bool) : Nat × Nat :=
  let want := (ref.mapIdx (fun i x => (i, x))).filter (fun p => (start || a0 < p.2) && (p.1 % 2 == 1) == black)
  match want.head? with
  | some (i, x) => (x, ref.getD (i + 1) w)
  | none => (w, w)

/-- Modes of two-dimensional coding: 0 pass, 1 horizontal, 2 to 8 vertical by −3 to +3. -/
def modeCodes : List (Nat × Nat × Nat) := [(4, 1, 0), (3, 1, 1), (7, 2, 2), (6, 2, 3), (3, 2, 4), (1, 1, 5), (3, 3, 6), (6, 3, 7), (7, 3, 8)]

/-- A two-dimensionally coded row: its colour changes. -/
def take2d (w : Nat) (ref : List Nat) : Nat → Nat → Bool → Bool → List Nat → List Bool → Take (List Nat)
  | 0, _, _, _, _, bits => .bad bits
  | n + 1, a0, start, black, acc, bits =>
    if !start && a0 == w then .ok (cleanChanges w acc) bits
    else
      match takeCode modeCodes 0 0 7 bits with
      | .more => .more
      | .bad r => .bad r
      | .ok m r =>
        let b := refPair w ref a0 start black
        if m == 0 then take2d w ref n b.2 false black acc r
        else if m == 1 then
          match takeRun black 0 1024 r with
          | .more => .more
          | .bad r => .bad r
          | .ok k1 r =>
            match takeRun (!black) 0 1024 r with
            | .more => .more
            | .bad r => .bad r
            | .ok k2 r =>
              if w < a0 + k1 + k2 then .bad r
              else take2d w ref n (a0 + k1 + k2) false black (acc ++ [a0 + k1, a0 + k1 + k2]) r
        else
          let p := b.1 + m
          if p < 5 || w < p - 5 || (!start && p - 5 < a0) then .bad r
          else take2d w ref n (p - 5) false (!black) (acc ++ [p - 5]) r

/-- An EOL at the head: at least eleven zeros and a one; `tagged` when a tag bit follows. -/
def takeEol (tagged : Bool) (bits : List Bool) : Take Bool :=
  let z := (bits.takeWhile (· == false)).length
  match bits.drop z with
  | [] => .more
  | _ :: r =>
    if z < 11 then .bad bits
    else if tagged then (match r with | [] => .more | t :: r => .ok t r)
    else .ok true r

/-- EOLs at the head of a row: their number up to six, the last tag, what follows. -/
def takeEols (tagged : Bool) : Nat → Nat → Bool → List Bool → Take (Nat × Bool)
  | 0, n, tag, bits => .ok (n, tag) bits
  | k + 1, n, tag, bits =>
    match takeEol tagged bits with
    | .more => .more
    | .bad r => .ok (n, tag) r
    | .ok t r => takeEols tagged k (n + 1) t r

/-- Find the next EOL that is followed by a one-dimensional row: EOLs passed, and the bits from that EOL on. -/
def seekEol (tagged : Bool) : Nat → Nat → List Bool → Option (Nat × List Bool)
  | 0, _, _ => none
  | _, _, [] => none
  | k + 1, n, b :: t =>
    match takeEol tagged (b :: t) with
    | .ok true _ => some (n + 1, b :: t)
    | .ok false r => seekEol tagged k (n + 1) r
    | _ => seekEol tagged k n t

/-- Pixels of a row from its changes: black is 0x00, white 0xFF (R132). -/
def rowPixels (w : Nat) (changes : List Nat) : List Byte :=
  let rec go : Nat → Bool → List Nat → List Byte
    | a, black, [] => List.replicate (w - a) (if black then 0 else 0xFF)
    | a, black, x :: t => List.replicate (x - a) (if black then 0 else 0xFF) ++ go x (!black) t
  go 0 false changes

/-- The next row of a coded job. -/
inductive RowRes where
  /-- The data received so far holds no further whole row. -/
  | more
  | row (changes : List Nat) (rest : List Bool)
  | bad (rest : List Bool)
  /-- RTC or EOFB. -/
  | stop

/-- What stands behind a row of a job with EOL codes: only an EOL, its fill bits before it, ends a row, so runs that go on are a
decoding error (R138, R139). The last row needs none, since what follows it is ignored, and neither does one at which the data ends. -/
def eolBehind (last fin : Bool) : RowRes → RowRes
  | .row ch r =>
    let z := (r.takeWhile (· == false)).length
    if last || 11 ≤ z then .row ch r
    else if z == r.length then (if fin then .row ch r else .more)
    else .bad r
  | x => x

/-- Read the next row (R138): kind 1 one-dimensional, 2 two-dimensional, 3 T.6; k its parameter, idx its row index of h; `fin` when
the job closes. -/
def nextRow (kind k idx w h : Nat) (eol fin : Bool) (ref : Option (List Nat)) (bits : List Bool) : RowRes :=
  match takeEols (kind == 2) (if kind == 3 then 2 else 6) 0 true bits with
  | .more => .more
  | .bad r => .bad r
  | .ok (n, tag) r =>
    -- a decoding error leaves the row's own bits, so that the EOL that ends it is the next one (R139)
    let lift := lift r
    if kind == 3 then
      if 2 ≤ n then .stop
      else if n == 1 then .bad r
      else lift (match ref with | some f => take2d w f (2 * w + 4) 0 true false [] r | none => .bad r)
    else if n == 6 then .stop
    else if n != 0 && !eol then .bad r
    else
      let oneD := kind == 1 || (if n != 0 then tag else idx == 0 || (k != 0 && idx % k == 0))
      let x := if oneD then take1d w (2 * w + 4) 0 false [] r
        else match ref with | some f => take2d w f (2 * w + 4) 0 true false [] r | none => .bad r
      match (if eol then eolBehind (idx + 1 == h) fin (lift x) else lift x) with
      | .bad _ => .bad r
      | y => y
where
  /-- A row's outcome. -/
  lift (start : List Bool) : Take (List Nat) → RowRes
    | .more => .more
    | .bad _ => .bad start
    | .ok c r => .row c r

end Sys2Proof.Machine
end

