-- ==== Sys2Proof/Machine/Tambour.lean ====
section
/-!
DEFINITION. The Tambour line-scan front end (R81 to R121): modes and outputs, line triggers, the encoder, the pattern
generator, time-stamps, pixel processing and calibration.
-/
namespace Sys2Proof.Machine

/-- CCLK cycles since the edge at or before lock at which CCLK and TCLK last rose together; tick 0 of TGCLK falls there (R21,
R81; the phase of the divider is a DESIGN CHOICE, log entry 91). -/
def tickBase (d : Dev) : Nat := d.clk.mono + (d.clk.phase + 10 * d.clk.mono) % 11

/-- The last TGCLK tick at or before the present cycle: TCLK divided by 5, with TCLK at ten elevenths of CCLK (R21, R81). -/
def tick200 (d : Dev) : Nat := 2 * tickBase d / 11

/-- The first TGCLK tick at or after the present cycle: at offset 0 the effect edge (R81). -/
def tickNext (d : Dev) : Nat := (2 * tickBase d + 10) / 11

/-- CCLK cycles from now until a tick has come. -/
def cyclesTo (d : Dev) (n : Nat) : Nat := (11 * n + 1) / 2 - tickBase d

/-- The CCLK cycle in which a tick that has come has come. -/
def cycleOf (d : Dev) (n : Nat) : Nat := d.clk.mono + (11 * n + 1) / 2 - tickBase d

/-- The device as Tambour t sees its registers: until the effect edge, the words that the last commit has replaced (R81). -/
def seen (d : Dev) (t : Nat) : Dev := { d with regs := (tambOf d t).held ++ d.regs }

/-- The time counter at a tick that has come: every tick is a TCLK edge (R23, R96). -/
def timeAtTick (d : Dev) (n : Nat) : BitVec 64 := d.clk.time - BitVec.ofNat 64 (10 * tickBase d / 11 - 5 * n)

/-- Transport ratio Y and averaging X (R100). -/
def ratioY (d : Dev) (t : Nat) : Nat := cf d .tRes t 0 3 2 + 1
def ratioX (d : Dev) (t : Nat) : Nat := cf d .tRes t 0 1 0 + 1

/-- D of R87. -/
def encD (d : Dev) (t : Nat) : Nat := cf d .tTrig t 0 31 16 * ratioY d t

/-- Committed settings of the eight outputs: CFG, SET, CLR. -/
def tgRegs (d : Dev) (t : Nat) : List (Nat × Nat × Nat) :=
  (List.range 8).map (fun k => (com d .tTgCfg t k, com d .tTgSet t k, com d .tTgClr t k))

/-- Function of an output. -/
def tgFunc (cfg : Nat) : Nat := bitsOf cfg 3 0

/-- Feed period F (R93). -/
def feedPeriod (d : Dev) (t : Nat) : Nat := cf d .tFeed t 0 23 0 / ratioY d t

/-! ### Output levels (R83, R90 to R94) -/

/-- Settings in force: in LINE mode those of the last trigger, before the first one those that stood when the mode took effect (R92). In
the other modes, which have no triggers, the committed ones are in force from the effect edge on (DESIGN CHOICE, log entry 72). -/
def tgInForce (d : Dev) (t : Nat) : List (Nat × Nat × Nat) :=
  if (tambOf d t).active == 1 then (tambOf d t).outs else tgRegs (seen d t) t

/-- Step word of the pattern RAM (R94, R117). -/
def patStep (d : Dev) (t j : Nat) : Nat := peekNat d (key (40 + t) (2 * j)) 2

/-- Length in ticks of pattern step j (R94, R116). -/
def patTicks (d : Dev) (t j : Nat) : Nat := (patStep d t j / 256 + 1) * (cf d .tPgCtrl t 0 15 8 + 1)

/-- An output's function is active at the present tick. The whole line period of a dark trigger is TICKS as latched with it, in
encoder mode too (R104; DESIGN CHOICE, log entry 92). -/
def tgActive (d : Dev) (t k : Nat) (o : Nat × Nat × Nat) : Bool :=
  let m := tambOf d t
  let now := tick200 d
  match tgFunc o.1 with
  | 3 =>
    let f := (m.feedF[k]?).getD 0
    2 ≤ f && (now - (m.feedAt[k]?).getD 0) % f < f / 2
  | 4 => match m.line with | some l => !(l.dark && now < l.t0 + l.period) | none => true
  | 1 => match m.line with | some l => m.active == 1 && l.t0 + o.2.1 ≤ now && now < l.t0 + o.2.2 | none => false
  | 2 => match m.line with | some l => m.active == 1 && l.t0 + l.start ≤ now && now < l.t0 + l.stop | none => false
  | _ => false

/-- Level of output k of Tambour t (R83): high impedance with a weak pull-down out of RUN (R462). -/
def tgLevel (d : Dev) (t k : Nat) : Level :=
  let m := tambOf d t
  let o := (tgInForce d t).getD k (0, 0, 0)
  let lv := fun (b : Bool) => if b then Level.high else .low
  let run := d.pwr.powered && !d.pwr.resetLow && !d.pwr.booting && d.pwr.state == .run
  if !run || !m.driving || !bitOf o.1 5 then .hiz
  else if m.active == 2 then lv (bitOf (patStep d t m.pgStep) k)
  else lv (tgActive d t k o != bitOf o.1 4)

/-- Whether a line is between its trigger and its quiet point (R84, R109). -/
def lineBusy (d : Dev) (t : Nat) : Bool :=
  match (tambOf d t).line with | some l => l.t0 ≤ tick200 d && tick200 d < l.t0 + l.quiet | none => false

/-- At an effect edge: the feed period in progress is the one that holds this tick; an output with none takes the committed
period at once (R93). -/
def feedStart (d : Dev) (t now : Nat) : Dev :=
  let p := feedPeriod d t
  (List.range 8).foldl (fun d k =>
    let f := ((tambOf d t).feedF[k]?).getD 0
    if 2 ≤ f then setTamb d t (fun m => { m with feedAt := vmod m.feedAt k (fun a => a + (now - a) / f * f) })
    else setTamb d t (fun m => { m with feedF := vmod m.feedF k (fun _ => p), feedAt := vmod m.feedAt k (fun _ => now) })) d

/-! ### Calibration (R103 to R106) -/

/-- Channels and entries of a line format. -/
def calChans (d : Dev) (t : Nat) : Nat := if cf d .tLineCfg t 0 27 24 == 5 then 3 else 1
def calEntries (d : Dev) (t : Nat) : Nat := calChans d t * cf d .tLineCfg t 0 14 0

/-- Calibration windows: black start and length, white start and length. -/
def calWin (d : Dev) (t : Nat) : Nat × Nat × Nat × Nat :=
  (cf d .tCalWindow t 0 15 0, cf d .tCalCfg t 0 8 0, cf d .tCalWindow t 0 31 16, cf d .tCalCfg t 0 24 16)

/-- Lines that a calibration consumes: up to the end of the later window (R104). -/
def calEnd (d : Dev) (t : Nat) : Nat := let w := calWin d t; Nat.max (w.1 + w.2.1) (w.2.2.1 + w.2.2.2)

/-- The other coefficient bank becomes active (R99, R102, R106). -/
def flipBank (d : Dev) (t : Nat) : Dev :=
  setTamb d t (fun m => { m with bank := !m.bank, flips := m.flips ++ [d.clk.mono] })

/-- The bank that was active some cycles ago (R99). -/
def bankAgo (d : Dev) (t ago : Nat) : Bool :=
  (tambOf d t).bank != (((tambOf d t).flips.filter (fun c => d.clk.mono < c + ago)).length % 2 == 1)

/-- A calibration begins at its start boundary (R103, R104). BAD_COUNT, FIRST and LAST read 0 from then on until it has ended
PASS or with BAD_PIXELS, so also after TIMEOUT and ABORTED (R119; DESIGN CHOICE, log entry 92). -/
def calStart (d : Dev) (t : Nat) : Dev :=
  setTamb d t (fun m =>
    let n := calEntries d t
    { m with cal := { state := .running, black := List.replicate n 0, white := List.replicate n 0
                      skip := if m.active == 1 then m.stamps.length + b2n m.stampDue else 0, swapDue := m.cal.swapDue
                      startAt := d.clk.mono, from_ := tickNext d } })

/-- A calibration fails for a cause (R106, R119). -/
def calFail (d : Dev) (t cause bad first last : Nat) : Dev :=
  setTamb d t (fun m => { m with cal := { state := .fail, cause := BitVec.ofNat 2 cause, bad, first, last, swapDue := m.cal.swapDue } })

/-- The partition whose image binds a port on any of its channels: the lowest-numbered one (R106, R493; where two images bind the
port, DESIGN CHOICE, log entry 92). -/
def portBinder (d : Dev) (x : Nat) : Option Nat :=
  (List.range 8).find? (fun p => hasImage d p && (inputsOf (imgOf d p)).any (fun b => b.1 == x))

/-- Report CAL_FAIL (R106). -/
def reportCal (c : Units) (d : Dev) (t cause bad first last : Nat) : Dev :=
  let det := [t, cause, bad, first, last]
  match portBinder d t with
  | some p => raise c d (.part p) { code := 0x0013, unit := 0x10 + t, detail := det, log := true }
  | none => logAt d 0x0013 (0x10 + t) 255 noWord noWord det 0

/-- First byte of a coefficient entry in the remainder store (R102). -/
def coefKey (t bank e : Nat) : Nat := key 6 (((t * 2 + bank) * 24576 + e) * 4)

/-- An entry of a calibration (R105): O and G when it passes. -/
def calEntry (target blackMax spanMin gainMax : Nat) (b w : Int) : Option (Nat × Nat) :=
  let s := w - b
  if b > blackMax || s < spanMin || s ≤ 0 then none
  else
    let g := rneDiv (target * 8192 : Nat) s.toNat
    if g > gainMax then none else some (b.toNat, g.toNat)

/-- Entry of the nearest passing pixel of the same channel, the lower at equal distance (R105). -/
def calNear (es : List (Option (Nat × Nat))) (ch i : Nat) : Option (Nat × Nat) :=
  let at_ := fun (j : Nat) => (es[j]?).bind id
  (List.range (es.length / ch + 1)).findSome? (fun k =>
    match (if k * ch ≤ i then at_ (i - k * ch) else none) with
    | some x => some x
    | none => at_ (i + k * ch))

/-- The new coefficients are computed into the inactive bank; the calibration passes or fails (R105, R106). -/
def calFinish (c : Units) (d : Dev) (t : Nat) : Dev :=
  let m := tambOf d t
  let s := seen d t
  let w := calWin s t
  let es := List.zipWith (fun (b x : Nat) =>
      calEntry (cf s .tCalTarget t 0 15 0) (cf s .tCalBounds t 0 15 0) (cf s .tCalLimits t 0 15 0) (cf s .tCalLimits t 0 31 16)
        (rneDiv b w.2.1) (rneDiv x w.2.2.2))
    m.cal.black m.cal.white
  let badIdx := (List.range es.length).filter (fun i => ((es[i]?).bind id).isNone)
  let vals := (List.range es.length).map (fun i =>
    match calNear es (calChans d t) i with
    | some x => leBytes 2 x.1 ++ leBytes 2 x.2
    -- no entry of the channel passes: R105 names no value
    | none => leBytes 4 (Config.openValue 7 (d.free + i)).toNat)
  let d := store c { d with free := d.free + es.length } { unit := 0x10 + t } (coefKey t (b2n !m.bank) 0) vals.flatten
  let bad := badIdx.length
  let first := badIdx.headD 0
  let last := badIdx.getLastD 0
  if bad ≤ cf s .tCalBounds t 0 31 16 then
    setTamb d t (fun m => { m with cal := { state := .pass, bad, first, last, swapDue := true } })
  else reportCal c (calFail d t 1 bad first last) t 1 bad first last

/-- Index lies in a window. -/
def inWin (i a n : Nat) : Bool := a ≤ i && i < a + n

/-! ### Line triggers (R85 to R92, R104) -/

/-- The stamp of the line in progress enters the queue at the end of its exposure window (R96, R97). -/
def pushStamp (d : Dev) (t : Nat) : Dev :=
  match (tambOf d t).line with
  | none => d
  | some l => setTamb d t (fun m =>
      let full := 16 ≤ m.stamps.length
      { m with
        stamps := (if full then m.stamps.drop 1 else m.stamps) ++ [(timeAtTick d (l.t0 + l.stop), l.xavg)], stampDue := false
        nLost := if full then m.nLost + 1 else m.nLost, stampFlt := m.stampFlt || full
        fltAt := if full then some (cycleOf d (l.t0 + l.stop)) else m.fltAt })

/-- A capture point that lies at or before a tick has been passed: its stamp is queued. -/
def settleStamp (d : Dev) (t upTo : Nat) : Dev :=
  match (tambOf d t).line with
  | some l => if (tambOf d t).stampDue && l.t0 + l.stop ≤ upTo then pushStamp d t else d
  | none => d

/-- A trigger is accepted at a tick: the line's timing is latched, its stamp falls due. The line of a trigger before the effect edge of a
calibration's start is none of the calibration's (R104). -/
def acceptTrigger (d : Dev) (t now : Nat) : Dev :=
  let d := settleStamp d t now
  let v := seen d t
  let outs := tgRegs v t
  let stop := cf v .tExposure t 0 31 16
  let quiet := outs.foldl (fun q o => if tgFunc o.1 == 1 then Nat.max q o.2.2 else q) stop
  let w := calWin v t
  setTamb d t (fun m =>
    let calib := m.cal.state == .running && m.cal.from_ ≤ now
    { m with
      line := some { t0 := now, period := cf v .tPeriod t 0 23 0, start := cf v .tExposure t 0 15 0, stop, quiet
                     xavg := ratioX v t, dark := calib && cf v .tCalCfg t 0 25 25 == 1 && inWin m.cal.trig w.1 w.2.1 }
      outs, lastTrig := some now, stampDue := true
      cal := if calib then { m.cal with trig := m.cal.trig + 1, armed := true }
             else if m.cal.state == .running then { m.cal with skip := m.cal.skip + 1 } else m.cal
      remain := if m.reload then encD v t else m.remain
      reload := false })

/-- The end of whatever the outputs are doing: the quiet point of the line, the last tick of the pattern step (R84). After DONE no step is
current, so there is no end to wait for, though the last levels are held (DESIGN CHOICE, log entry 103). -/
def busyEnd (d : Dev) (t : Nat) : Nat :=
  let m := tambOf d t
  if m.active == 1 then (match m.line with | some l => l.t0 + l.quiet | none => 0)
  else if m.active == 2 && !m.pgDone then m.pgAt + m.pgLen - 1
  else 0

/-- Tick at which a committed mode change or disable takes effect: the later of its effect edge and the end of what the outputs are
doing (R84). -/
def modeTick (d : Dev) (t : Nat) : Option Nat := (tambOf d t).effAt.map (fun e => Nat.max e (busyEnd d t))

/-- The mode in force has not been left by a tick (R84). -/
def stays (d : Dev) (t n : Nat) : Bool := (modeTick d t).all (fun e => decide (n < e))

/-- The Tambour is in LINE mode at a tick: also while a change of mode or a disable waits (R84). A disable stops the triggers when it has
reached the Tambour (R83). -/
def inLine (d : Dev) (t n : Nat) : Bool :=
  clocked d && (tambOf d t).on && (tambOf d t).driving && (tambOf d t).active == 1 && stays d t n

/-- Tick of the next timer trigger: the period latched with the line in progress keeps its length (R85, R92). -/
def nextTimer (d : Dev) (t : Nat) : Nat :=
  let m := tambOf d t
  match m.line with
  | some l => Nat.max m.trigFrom (l.t0 + l.period)
  | none => m.trigFrom

/-- The timer's trigger (R85). -/
def timerTick (d : Dev) (t : Nat) : Option Nat :=
  let n := nextTimer d t
  if inLine d t n && cf (seen d t) .tTrig t 0 9 9 == 0 then some n else none

/-- Timer triggers that fell before a tick, of which no command has told. -/
def timerRoll (t before : Nat) : Nat → Dev → Dev
  | 0, d => d
  | k + 1, d =>
    match timerTick d t with
    | some n => if n < before then timerRoll t before k (acceptTrigger d t n) else d
    | none => d

/-- An encoder trigger at a tick: not accepted within the TICKS latched with the line in progress (R87, R88, R92); C is loaded again in
either case. -/
def encTrigger (d : Dev) (t t0 : Nat) : Dev :=
  match (tambOf d t).line with
  | some l =>
    if t0 < l.t0 + l.period then
      setTamb d t (fun m => { m with
        nTrigMis := m.nTrigMis + 1, trigMiss := true, missAt := some d.clk.mono
        remain := if m.reload then encD (seen d t) t else m.remain, reload := false })
    else acceptTrigger d t t0
  | none => acceptTrigger d t t0

/-- The encoder trigger to come, if it falls by a tick. -/
def encFire (d : Dev) (t upTo : Nat) : Dev :=
  match (tambOf d t).trigAt with
  | some n =>
    if upTo < n then d
    else
      let d := setTamb d t (fun m => { m with trigAt := none })
      if inLine d t n then encTrigger d t n else d
  | none => d

/-- A count takes C to 0: a trigger falls at a tick to come, and C is loaded with D (R86, R87). -/
def encDue (d : Dev) (t n : Nat) : Dev :=
  addEv (setTamb d t (fun m => { m with trigAt := some n, remain := encD (seen d t) t })) (d.clk.offset + cyclesTo d n) prioRead 0 .tambours

/-- Position of a quadrature state in the forward sequence 00, 10, 11, 01 (R86). -/
def quadPos (a b : Bool) : Nat := match a, b with | false, false => 0 | true, false => 1 | true, true => 2 | false, true => 3

/-- A counted edge moves the position, which saturates (R86, R114). -/
def movePos (p : Int) (forward : Bool) : Int :=
  if forward then (if p < 2147483647 then p + 1 else p) else (if -2147483648 < p then p - 1 else p)

/-- Whether the filter of an input lets it take a level at a tick: the level is not the present one, and ENC_FILT consecutive
samples at it have followed the tick at which the input took its present level (R86). -/
def filterTakes (filt now : Nat) (level new : Bool) (took : Option Nat) : Bool :=
  new != level && (match took with | some k => decide (k + filt ≤ now) | none => true)

/-- ENC_EDGE: the present tick is that of the ENC_FILT-th consecutive sample of the levels named; the inputs take those that their
filters let pass (R86, R87). The first of the samples lay at tick e, so the trigger falls at e + ENC_FILT, the tick after the present
one. The levels that the first
edge after an enable is compared with are the last ones taken (DESIGN CHOICE, log entry 28). -/
def execEncEdge (t : Fin 4) (a b : Bool) (s : State) : Host.Outcome State Fault Refusal :=
  onDev (fun _ d =>
    let m := tambOf d t
    let now := tick200 d
    let v := seen d t
    let filt := cf v .tTrig t 0 7 0
    let newA := filterTakes filt now m.encA a m.tookA
    let newB := filterTakes filt now m.encB b m.tookB
    if !(clocked d && m.on) || !(newA || newB) then d
    else
      let a := if newA then a else m.encA
      let b := if newB then b else m.encB
      let d := setTamb d t (fun m => { m with
        encA := a, encB := b, tookA := if newA then some now else m.tookA, tookB := if newB then some now else m.tookB })
      if newA && newB then
        setTamb d t (fun m => { m with nEncErr := m.nEncErr + 1, encErr := true, errAt := some d.clk.mono })
      else
        let up := (quadPos m.encA m.encB + 1) % 4 == quadPos a b
        let forward := up != (cf v .tTrig t 0 8 8 == 1)
        let d := setTamb d t (fun m => { m with pos := movePos m.pos forward, edgeAt := now, gapDone := false })
        if !(inLine d t now && cf v .tTrig t 0 9 9 == 1) then d
        else if forward then
          let d := setTamb d t (fun m => { m with remain := m.remain - 1 })
          if (tambOf d t).remain == 0 then encDue d t (now + 1) else d
        else setTamb d t (fun m => { m with remain := Nat.min 16777215 (m.remain + 1) })) s

/-! ### Pattern generator (R94) -/

/-- The generator plays. -/
def patPlays (d : Dev) (t : Nat) : Bool :=
  clocked d && (tambOf d t).driving && (tambOf d t).active == 2 && !(tambOf d t).pgDone

/-- Tick at which the step in progress has run out, where the mode is still in force then (R84, R94). -/
def patTick (d : Dev) (t : Nat) : Option Nat :=
  let n := (tambOf d t).pgAt + (tambOf d t).pgLen
  if patPlays d t && stays d t n then some n else none

/-- The generator stands at the last step of its last pass. A committed change of PG_CTRL or PG_LOOP during playback is first used at
the end of the step in progress, whose length stands (DESIGN CHOICE, log entry 92). -/
def patLast (d : Dev) (t : Nat) : Bool :=
  let m := tambOf d t
  let v := seen d t
  let n := cf v .tPgCtrl t 0 31 16
  m.pgStep == cf v .tPgLoop t 0 27 16 && n != 0 && n ≤ m.pgPasses + 1

/-- DONE: the last pass is complete and its last step is held. -/
def patFinish (d : Dev) (t : Nat) : Dev :=
  setTamb d t (fun m => { m with pgDone := true, pgPasses := Nat.min 65535 (m.pgPasses + 1) })

/-- A step begins at a tick. -/
def patBegin (d : Dev) (t j now : Nat) : Dev := setTamb d t (fun m => { m with pgStep := j, pgAt := now, pgLen := patTicks (seen d t) t j })

/-- The step in progress has run out: the next step, the loop again, or DONE (R94); PASSES saturates (R7). -/
def patNext (d : Dev) (t : Nat) : Dev :=
  let m := tambOf d t
  let v := seen d t
  let now := m.pgAt + m.pgLen
  if patLast d t then patFinish d t
  else if m.pgStep == cf v .tPgLoop t 0 27 16 then
    patBegin (setTamb d t (fun m => { m with pgPasses := Nat.min 65535 (m.pgPasses + 1) })) t (cf v .tPgLoop t 0 11 0) now
  else patBegin d t ((m.pgStep + 1) % 4096) now

/-- Steps that have run out before a tick, of which no command has told. -/
def patRoll (t before : Nat) : Nat → Dev → Dev
  | 0, d => d
  | k + 1, d =>
    match patTick d t with
    | some n => if n < before then patRoll t before k (patNext d t) else d
    | none => d

/-! ### Mode changes (R84) -/

/-- A calibration in progress is aborted (R106). -/
def calAbort (m : Tamb) : Cal :=
  if m.cal.state == .running then { state := .fail, cause := 3, swapDue := m.cal.swapDue } else m.cal

/-- A mode comes into force at a tick: LINE loads C and, in timer mode, triggers at once; PATTERN starts its steps (R85, R87, R94). The
TICKS of R88 are not judged against a trigger before LINE was left (DESIGN CHOICE, log entry 103). FEED goes on from EXTERNAL to LINE and back (R93), and begins anew after PATTERN or a disable; the stamp queue stands through
every change (DESIGN CHOICE, log entry 92). -/
def enterMode (d : Dev) (t : Nat) (mode now : Nat) : Dev :=
  let d := settleStamp d t now
  let d := setTamb d t (fun m => { m with
    active := BitVec.ofNat 2 mode, line := none, stampDue := false, lastTrig := none, effAt := none, trigFrom := now, trigAt := none
    outs := tgRegs (seen d t) t, feedF := if m.active == 2 || mode == 2 then Vector.replicate 8 0 else m.feedF, cal := calAbort m })
  if mode == 2 then patBegin (setTamb d t (fun m => { m with pgPasses := 0, pgDone := false })) t 0 now
  else
    let d := feedStart d t now
    if mode == 1 then
      let d := setTamb d t (fun m => { m with remain := encD (seen d t) t, reload := false })
      if cf (seen d t) .tTrig t 0 9 9 == 0 then acceptTrigger d t now else d
    else d

/-- The committed mode, as the Tambour sees it. -/
def modeWanted (d : Dev) (t : Nat) : Nat := cf (seen d t) .tCtrl t 0 5 4

/-- A committed mode change, or a disable, takes effect at a tick (R84). While nothing is driven the committed mode is the one in
force. -/
def takeMode (d : Dev) (t now : Nat) : Dev :=
  if (tambOf d t).on then enterMode d t (modeWanted d t) now
  else
    setTamb (settleStamp d t now) t (fun m => { m with
      active := BitVec.ofNat 2 (modeWanted d t), driving := false, line := none, stampDue := false, lastTrig := none, effAt := none
      trigAt := none, feedF := Vector.replicate 8 0, cal := calAbort m })

/-- A committed mode or disable differs from what is in force. -/
def modePends (d : Dev) (t : Nat) : Bool :=
  (tambOf d t).driving && (!(tambOf d t).on || (tambOf d t).active.toNat != modeWanted d t)

/-- At the effect edge: an enable starts the outputs in the committed mode; a change or disable that has nothing to wait for takes
effect, any other waits (R81, R84). -/
def tambCommit (d : Dev) (t e : Nat) : Dev :=
  if (tambOf d t).driving then
    let pends := modePends d t
    let d := setTamb d t (fun m => { m with effAt := if pends then some (m.effAt.getD e) else none })
    let d := if (tambOf d t).active == 2 then d else feedStart d t e
    match modeTick d t with
    | some n => if n ≤ e then takeMode d t n else d
    | none => d
  else if (tambOf d t).on then
    enterMode (setTamb d t (fun m => { m with
      driving := true, feedF := Vector.replicate 8 0, edgeAt := e, gapFrom := e, gapDone := false })) t (modeWanted d t) e
  else setTamb d t (fun m => { m with active := BitVec.ofNat 2 (modeWanted d t) })

/-- Tick of the encoder timeout: MICROS µs, of 200 ticks each, after the last counted edge (R89). -/
def timeoutTick (d : Dev) (t : Nat) : Option Nat :=
  let m := tambOf d t
  let us := cf (seen d t) .tEncTmo t 0 23 0
  if clocked d && m.on && cf (seen d t) .tTrig t 0 9 9 == 1 && us != 0 && !m.gapDone then
    some (Nat.max m.gapFrom (m.edgeAt + 200 * us))
  else none

/-- The gap has lasted its time at a tick that has come (R89). -/
def encGap (d : Dev) (t n : Nat) : Dev :=
  setTamb d t (fun m => { m with encTmo := true, gapDone := true, tmoAt := some (cycleOf d n) })

/-- What fell due before a tick under the values then in force, and of which no command has told. -/
def tambRoll (d : Dev) (t e : Nat) : Dev :=
  let d := match timeoutTick d t with
    | some n => if n < e then encGap d t n else d
    | none => d
  patRoll t e (e + 1) (timerRoll t e (e + 1) d)

/-- The Tambour takes up the values of the last commit at the effect edge (R81). C is loaded again at the first trigger after a change of
ENC_DIV or Y_RATIO (R87); another source begins at the effect edge, and so does another encoder timeout (DESIGN CHOICE, log entry 92). -/
def tambTakes (c : Units) (d : Dev) (t e : Nat) : Dev :=
  let v := seen d t
  let differ := fun (r : Reg) (hi lo : Nat) => cf v r t 0 hi lo != cf d r t 0 hi lo
  let source := differ .tTrig 9 9
  setTamb d t (fun m => { m with
    on := running c (0x10 + t), edge := none, held := [], swapping := false
    reload := m.reload || differ .tTrig 31 16 || differ .tRes 3 2
    trigFrom := if source then e else m.trigFrom
    gapFrom := if source || differ .tEncTmo 23 0 then e else m.gapFrom
    gapDone := m.gapDone && !(source || differ .tEncTmo 23 0) })

/-- The effect edge of a boundary (R81): what fell due before it, the change of the coefficient banks (R102), then the values. -/
def tambEdge (c : Units) (d : Dev) (t e : Nat) : Dev :=
  let changes := !(tambOf d t).held.isEmpty || (tambOf d t).on != running c (0x10 + t)
  let d := if changes then tambRoll d t e else d
  let d := if (tambOf d t).swapping then flipBank d t else d
  tambCommit (tambTakes c d t e) t e

/-- A Tambour's effect edge and its encoder trigger to come, where their ticks have come (R81, R86). -/
def tambDue (c : Units) (d : Dev) (t : Nat) : Dev :=
  let now := tick200 d
  let d := match (tambOf d t).edge with
    | some e => if e ≤ now then tambEdge c (encFire d t (e - 1)) t e else d
    | none => d
  encFire d t now

/-- Every Tambour's effect edge and encoder trigger to come, where their ticks have come. -/
def tamboursDue (c : Units) (d : Dev) : Dev := (List.range 4).foldl (tambDue c) d

/-- Ticks to come of the effect edges and of the encoder triggers. -/
def tambTicks (d : Dev) : List Nat := (d.tambs.toList.flatMap (fun m => m.edge.toList ++ m.trigAt.toList)).eraseDups

/-- The ticks to come stand in the agenda of the Stitch that begins. -/
def tamboursLater (d : Dev) : Dev :=
  (tambTicks d).foldl (fun d n => addEv d (d.clk.offset + cyclesTo d n) prioRead 0 .tambours) d

/-! ### Pixel processing (R98 to R101) -/

/-- CCLK cycles of the Receive hop: from the command's cycle, in which the footer of the line's packet enters the CCLK domain, to
the cycle in which the line is readable (R15, R16). -/
def rxHop : Nat := 52

/-- Samples of a line by format code, as packed in CSI-2 (R126; PRESUMED, log entry 35). Of an RGB888 pixel the first payload byte is
taken as entry 3i, red (R98 numbers the entries, and no rule gives the order of the bytes; DESIGN CHOICE, log entry 35). -/
def samplesOf (fmt : Nat) : List Byte → List Nat
  | a :: b :: c :: e :: g :: h :: i :: t =>
    let n := fun (x : Byte) => x.toNat
    if fmt == 1 then
      (List.zip [n a, n b, n c, n e] [0, 1, 2, 3]).map (fun x => 4 * x.1 + bitsOf (n g) (2 * x.2 + 1) (2 * x.2)) ++ samplesOf fmt (h :: i :: t)
    else if fmt == 2 then [16 * n a + n c % 16, 16 * n b + n c / 16] ++ samplesOf fmt (e :: g :: h :: i :: t)
    else if fmt == 3 then
      let low := n g + 256 * n h + 65536 * n i
      (List.zip [n a, n b, n c, n e] [0, 1, 2, 3]).map (fun x => 64 * x.1 + bitsOf low (6 * x.2 + 5) (6 * x.2)) ++ samplesOf fmt t
    else if fmt == 4 then (n a + 256 * n b) :: samplesOf fmt (c :: e :: g :: h :: i :: t)
    else n a :: samplesOf fmt (b :: c :: e :: g :: h :: i :: t)
  | a :: b :: c :: e :: g :: t =>
    let n := fun (x : Byte) => x.toNat
    if fmt == 1 then (List.zip [n a, n b, n c, n e] [0, 1, 2, 3]).map (fun x => 4 * x.1 + bitsOf (n g) (2 * x.2 + 1) (2 * x.2))
    else if fmt == 2 then [16 * n a + n c % 16, 16 * n b + n c / 16] ++ samplesOf fmt (e :: g :: t)
    else if fmt == 3 then []
    else if fmt == 4 then (n a + 256 * n b) :: samplesOf fmt (c :: e :: g :: t)
    else n a :: samplesOf fmt (b :: c :: e :: g :: t)
  | a :: b :: c :: t =>
    let n := fun (x : Byte) => x.toNat
    if fmt == 1 || fmt == 3 then []
    else if fmt == 2 then [16 * n a + n c % 16, 16 * n b + n c / 16]
    else if fmt == 4 then (n a + 256 * n b) :: samplesOf fmt (c :: t)
    else n a :: samplesOf fmt (b :: c :: t)
  | a :: b :: t => if fmt == 4 then [a.toNat + 256 * b.toNat] else if fmt == 0 || 5 ≤ fmt then a.toNat :: samplesOf fmt (b :: t) else []
  | [a] => if fmt == 0 || 5 ≤ fmt then [a.toNat] else []
  | [] => []

/-- Widening to 16 bits (R98). -/
def widen16 (fmt s : Nat) : Nat :=
  s * (if fmt == 1 then 64 else if fmt == 2 then 16 else if fmt == 3 then 4 else if fmt == 4 then 1 else 256)

/-- Shading of one sample (R99). -/
def shade (p o g : Nat) : Nat := Nat.min 65535 (rneDiv ((p - o) * g : Nat) 8192).toNat

/-- Output of a line (R100): corrected samples averaged by X per channel, at 8 or 16 bits. -/
def averaged (ch x pixels : Nat) (deep : Bool) (cs : List Nat) : List Byte :=
  (List.range (pixels / x)).flatMap (fun j => (List.range ch).flatMap (fun k =>
    let s := (List.range x).foldl (fun n i => n + cs.getD ((j * x + i) * ch + k) 0) 0
    if deep then leBytes 2 (Nat.min 65535 (rneDiv s x).toNat) else leBytes 1 (Nat.min 255 (rneDiv s (256 * x)).toNat)))

/-- What becomes of a line on a Tambour's channel, whose header was received some cycles ago: discarded, consumed, or bytes with a stamp
and their X; the device. In LINE mode a line that finds no stamp takes the X of its frame start with its stamp (R97, R101; DESIGN
CHOICE, log entry 103). -/
def tambLine (c : Units) (d : Dev) (t headAgo : Nat) (frame : BitVec 64) (frameX : Nat) (payload : List Byte) :
    Dev × Option (List Byte × BitVec 64 × Nat) :=
  let d := settleStamp d t (tick200 d)
  let m := tambOf d t
  let v := seen d t
  let fmt := cf v .tLineCfg t 0 27 24
  let ch := calChans v t
  if m.active == 2 then (setTamb d t (fun m => { m with nDisc := m.nDisc + 1 }), none)
  else
    -- the stamp and width that travel with the line (R97, R101)
    let (d, stamp, x) :=
      if m.active == 1 then
        match m.stamps with
        | (v, x) :: rest => (setTamb d t (fun m => { m with stamps := rest }), v, x)
        | [] => (setTamb d t (fun m => { m with nMissing := m.nMissing + 1, stampFlt := true, fltAt := some d.clk.mono }), frame, frameX)
      else (d, frame, frameX)
    let ps := (samplesOf fmt payload).map (widen16 fmt)
    let taken := m.cal.state == .running && m.cal.armed && m.cal.line < calEnd v t
    if taken && m.cal.skip == 0 then
      let w := calWin v t
      let add := fun (l : List Nat) => List.zipWith (· + ·) l ps
      (setTamb d t (fun m => { m with cal := { m.cal with
        line := m.cal.line + 1, lastAt := d.clk.mono + rxHop
        black := if inWin m.cal.line w.1 w.2.1 then add m.cal.black else m.cal.black
        white := if inWin m.cal.line w.2.2.1 w.2.2.2 then add m.cal.white else m.cal.white } }), none)
    else
      let d := if m.cal.state == .running && 0 < m.cal.skip then
          setTamb d t (fun m => { m with cal := { m.cal with skip := m.cal.skip - 1 } })
        else d
      let shadeOn := cf v .tCtrl t 0 6 6 == 1
      let k := coefKey t (b2n (bankAgo d t headAgo)) 0
      let n := ps.length
      let d := if shadeOn then (eccRead c d { unit := 0x10 + t } k (4 * n)).1 else d
      let cs := if shadeOn then
          let bs := peek d k (4 * n)
          ps.mapIdx (fun i p => shade p (fld bs (4 * i) 2) (fld bs (4 * i + 2) 2))
        else ps
      (d, some (averaged ch x (cf v .tLineCfg t 0 14 0) (cf v .tLineCfg t 0 28 28 == 1) cs, stamp, x))

end Sys2Proof.Machine
end

