-- ==== Sys2Proof/Machine/Rx.lean ====
section
/-!
DEFINITION. Receive ports (R122 to R140): packet checks, jobs, rows and the page store, the stale rule, coded pages.
-/
namespace Sys2Proof.Machine

/-- Port x takes packets (R123). -/
def rxOn (c : Units) (d : Dev) (x : Nat) : Bool := clocked d && running c (0x14 + x)

/-- RXIN_Px_VCv_CFG.MODE (R127). -/
def vcMode (d : Dev) (x v : Nat) : Nat := cf d .vcCfg x v 31 30

/-- The channel is the bulk channel of its port (R142). -/
def isBulk (d : Dev) (x v : Nat) : Bool := cf d .rxCfg x 0 4 4 == 1 && cf d .rxCfg x 0 11 8 == v

/-- Count packets or bytes discarded for want of a job (R147). -/
def countNoJob (d : Dev) (x n : Nat) : Dev := setRx d x (fun r => { r with noJob := r.noJob + n })

/-- A received packet: ignored while the port does not run; a corrected header counts (R123, R125). -/
def rxIn (c : Units) (d : Dev) (r : RxHdr) (f : Dev → Dev) : Dev :=
  if rxOn c d r.port then
    f (if r.eccFixed then setRx d r.port (fun q => { q with eccFixed := q.eccFixed + 1 }) else d)
  else d

/-- A long packet of an ordinary channel (R124): counted as discarded on the bulk channel or with MODE OFF. -/
def rxLong (c : Units) (d : Dev) (r : RxHdr) (f : Dev → Dev) : Dev :=
  rxIn c d r (fun d => if isBulk d r.port r.vc || vcMode d r.port r.vc == 0 then countNoJob d r.port 1 else f d)

/-! ### Formats (R126, R132) -/

/-- The Tambour of the port processes the channel (R82). A YUV422 line passes unchanged in PATTERN mode too, although R95 discards
the lines that arrive on the channel then (DESIGN CHOICE, log entry 92). -/
def processed (c : Units) (d : Dev) (x v : Nat) : Bool :=
  clocked d && running c (0x10 + x) && cf d .tLineCfg x 0 23 20 == v && cf d .tLineCfg x 0 27 24 != 6

/-- Expected width and format of a channel (R126). A YUV422 line on the Tambour's channel, which passes unchanged, is checked against the
channel's own WIDTH and FORMAT (R82; DESIGN CHOICE, log entry 103). -/
def lineFormat (c : Units) (d : Dev) (x v : Nat) : Nat × Nat :=
  if processed c d x v then (cf d .tLineCfg x 0 14 0, cf d .tLineCfg x 0 27 24)
  else (cf d .vcCfg x v 15 0, cf d .vcCfg x v 27 24)

/-- Data type of a format (R124). -/
def formatType (fmt : Nat) : Nat := [0x2A, 0x2B, 0x2C, 0x2D, 0x2E, 0x24, 0x1E].getD fmt 0

/-- Expected word count (R126). -/
def wordCount (fmt w : Nat) : Nat :=
  match fmt with
  | 0 => w | 1 => 5 * cdiv w 4 | 2 => 3 * cdiv w 2 | 3 => 7 * cdiv w 4 | 5 => 3 * w | _ => 2 * w

/-- Width in force for the frame's transport averaging (R101). -/
def frameX (d : Dev) (x v : Nat) : Nat := let n := (vcOf d x v).xavg; if n == 0 then ratioX (seen d x) x else n

/-- X of the next line of a channel: in LINE mode that of the oldest stamp, or of the line in progress; else the frame's (R101). -/
def lineX (d : Dev) (x v : Nat) : Nat :=
  let m := tambOf d x
  if m.driving && m.active == 1 then
    match m.stamps, m.line with
    | s :: _, _ => s.2
    | [], some l => l.xavg
    | [], none => ratioX (seen d x) x
  else frameX d x v

/-- Output width at an averaging X, and bytes per pixel, of a channel's rows (R100, R132). -/
def rowShape (c : Units) (d : Dev) (x v xa : Nat) : Nat × Nat :=
  let (w, fmt) := lineFormat c d x v
  if processed c d x v then (w / xa, calChans d x * (cf d .tLineCfg x 0 28 28 + 1))
  else (w, if fmt == 0 then 1 else if fmt == 5 then 3 else 2)

/-- An unprocessed line as stored (R132). -/
def plainLine (fmt w : Nat) (payload : List Byte) : List Byte :=
  if 1 ≤ fmt && fmt ≤ 4 then ((samplesOf fmt payload).take w).flatMap (leBytes 2)
  else if fmt == 0 then payload.take w else if fmt == 5 then payload.take (3 * w) else payload.take (2 * w)

/-! ### The job pool (R132) -/

/-- Granules that loaded images claim: first and last. -/
def claimedGranules (d : Dev) : List (Nat × Nat) :=
  (List.range 8).flatMap (fun p =>
    if hasImage d p then
      (bufsOf (imgOf d p)).filterMap (fun b =>
        if b.1 == 1 && b.2.2.2 != 0 then some (b.2.2.1 / 4096, (b.2.2.1 + b.2.2.2 - 1) / 4096) else none)
    else [])

/-- Free granules of the job pool, ascending. -/
def freeGranules (d : Dev) : List Nat :=
  let cl := claimedGranules d
  (List.range 32768).filter (fun g =>
    !cl.any (fun r => r.1 ≤ g && g ≤ r.2) && !d.jobs.any (fun j => j.pages.contains g))

/-- RXIN_POOL.FREE (R145). -/
def poolFree (d : Dev) : Nat := (freeGranules d).length

/-! ### Opening and closing (R127 to R140) -/

/-- The job open on a channel. -/
def openJobOf (d : Dev) (x v : Nat) : Option Job := (vcOf d x v).job.bind (jobOf d)

/-- Mark rows of a job missing. -/
def missRow (j : Job) (r : Nat) : Job := if j.missing.contains r then j else { j with missing := j.missing ++ [r] }

/-- Rows of a job count as readable, or as marked missing, from a cycle on (R134). -/
def rowsAt (j : Job) (rows : List Nat) (cycle : Nat) : Job := { j with rowAt := j.rowAt ++ rows.map (fun r => (r, cycle)) }

/-- An accepted packet of a job arrives (R127). -/
def notePkt (d : Dev) (id : Nat) : Dev := setJob d id (fun j => { j with lastPkt := d.clk.mono })

/-- The event that a job carries from its opening (R139). -/
def openEvents (c : Units) (d : Dev) (j : Job) : Dev :=
  if j.dimBad then
    raise c d (.job j.id) { code := 0x0015, unit := 0x14 + j.port, detail := [j.width, j.height, j.limits.1, j.limits.2] }
  else d

/-- The events that a job carries from its close (R137, R139, R140). -/
def closeEvents (c : Units) (d : Dev) (j : Job) : Dev :=
  let ev := fun (d : Dev) (code : Nat) (detail : List Nat) => raise c d (.job j.id) { code, unit := 0x14 + j.port, detail }
  let d := if j.staleRow.isEmpty then d else
    ev d 0x0004 [j.staleRow.length, j.staleRow.foldl Nat.min (j.staleRow.headD 0)]
  let d := if j.coded.isSome && !j.missing.isEmpty then
      ev d 0x0014 [j.missing.foldl Nat.min (j.missing.headD 0), j.missing.length]
    else d
  if j.verdict == some true || j.dimBad then d
  else ev d 0x0016 [if j.pages.isEmpty then 2 else if j.linkLost then 3 else 1, j.height - j.missing.length, j.height]

/-- Jobs stand in the order of the cycles of their opening, those of one cycle by port, then by virtual channel (R130). -/
def Job.opensBefore (a b : Job) : Bool :=
  a.openAt < b.openAt || (a.openAt == b.openAt && (a.port < b.port || (a.port == b.port && a.vc < b.vc)))

/-- A new job takes its place in the submission order (R130). -/
def submitJob (jobs : List Job) (j : Job) : List Job :=
  let k := jobs.length - (jobs.reverse.takeWhile j.opensBefore).length
  jobs.take k ++ j :: jobs.drop k

/-- Open a job (R127 to R132, R135, R139, R145); X of the lines it will hold. -/
def openJob (c : Units) (d : Dev) (x v p kind k flags : Nat) (seq : Word) (decl : Option (Nat × Nat)) (opened : BitVec 64)
    (xa : Nat) : Dev :=
  let (w0, b0) := rowShape c d x v xa
  let maxW := cf d .pageLimits 0 0 15 0
  let maxH := cf d .pageLimits 0 0 31 16
  let dimBad := match decl with
    | none => false
    | some (w, h) => w == 0 || h == 0 || maxW < w || maxH < h || (kind == 0 && w != (lineFormat c d x v).1)
  let bpp := if kind == 0 then b0 else 1
  let width := match decl with | some (w, _) => if kind == 0 && !dimBad then w0 else w | none => w0
  let height := match decl with | some (_, h) => h | none => cf d .vcLines x v 15 0
  let emb := cf d .vcCfg x v 29 29 == 1
  let need := cdiv (width * bpp * height + cdiv height 8 + (if emb then 4096 else 0)) 4096
  let pages := if dimBad then [] else let f := freeGranules d; if need ≤ f.length then f.take need else []
  let id := d.nextJob
  let j : Job :=
    { id, part := p, port := x, vc := v, seq, kind, k, flags, width, height, rowBytes := width * bpp, bpp, pages
      bandRows := 16 * 2 ^ cf d .vcLines x v 17 16, emb, opened, limits := (maxW, maxH), dimBad
      openAt := d.clk.mono + (if vcMode d x v == 3 then rxHop else 0)
      minPct := cf d .jobCfg 0 0 6 0, tmoMs := cf d .jobCfg 0 0 31 16, lastPkt := d.clk.mono
      -- only a T.6 page begins with the imaginary white row as its reference
      coded := if kind == 0 || dimBad then none else some { ref := if kind == 3 then some [] else none } }
  let d := { d with jobs := submitJob d.jobs j, nextJob := id + 1 }
  let d := setVc d x v (fun q => { q with job := some id })
  let d := bindJob d j
  openEvents c d j

/-- The sequence number of a FRAME or STRIP job (R129). Behind 0xFFFF_FFFF NEXT reads 0 (DESIGN CHOICE, log entry 103). -/
def nextSeq (d : Dev) (x v : Nat) : Dev × Word :=
  let n := com d .vcSeq x v
  let d := putCom d .vcSeq x v ((n + 1) % 2 ^ 32)
  (if n == 0xFFFFFFFF then setVc d x v (fun q => { q with seqEnd := true }) else d, BitVec.ofNat 32 n)

/-- The partition for which a channel may open a job (R128, R129). -/
def opener (c : Units) (d : Dev) (x v : Nat) : Option Nat :=
  match binder d x v with
  | some p => if running c p && !(vcOf d x v).seqEnd then some p else none
  | none => none

/-- Byte offset of the missing-row bitmap, and of the embedded data behind it (R132; DESIGN CHOICE, log entry 37). -/
def bitmapAt (j : Job) : Nat := j.height * j.rowBytes
def embAt (j : Job) : Nat := bitmapAt j + cdiv j.height 8

/-- The bitmap of the rows marked missing. -/
def bitmapBytes (j : Job) : List Byte :=
  (List.range (cdiv j.height 8)).map (fun i =>
    BitVec.ofNat 8 ((List.range 8).foldl (fun n b => n + b2n (j.missing.contains (8 * i + b)) * 2 ^ b) 0))

/-- Who writes for a receive port. -/
def whoRx (j : Job) : Who := { unit := 0x14 + j.port, part := j.part, job := some j.id }

/-- Rows dropped as stale (R137); they count as marked from a cycle on. -/
def markStale (d : Dev) (j : Job) (rows : List Nat) (cycle : Nat) : Dev :=
  let d := setJob d j.id (fun j => rowsAt (rows.foldl missRow
    { j with staleRow := j.staleRow ++ rows, stored := j.stored.filter (fun r => !rows.contains r) }) rows cycle)
  setVc d j.port j.vc (fun q => { q with stale := satAdd 16 q.stale rows.length })

/-- Data with a stamp is stale when it becomes readable, some cycles from now (R137). -/
def isStale (d : Dev) (x hop : Nat) (stamp : BitVec 64) : Bool :=
  let s := cf d .rxStale x 0 23 0
  s != 0 && s * 1000 < ((elapse d hop).clk.time - stamp).toNat

/-- The cycle from which a row counts as readable or marked missing; the close marks those that have none (R133). -/
def rowCycle (j : Job) (r : Nat) : Nat := (assoc j.rowAt r).getD (if j.isOpen then 0 else j.closedAt)

/-- Every row of a band was readable or marked missing before a cycle (R17, R134). -/
def bandDone (j : Job) (cycle b : Nat) : Bool :=
  let lo := b * j.bandRows
  (List.range (Nat.min j.bandRows (j.height - lo))).all (fun i =>
    (j.stored.contains (lo + i) || j.missing.contains (lo + i)) && rowCycle j (lo + i) < cycle)

/-- Update the decoder of a job. -/
def setCoded (d : Dev) (id : Nat) (f : Coded → Coded) : Dev :=
  setJob d id (fun j => { j with coded := j.coded.map f })

/-- The decoded rows of the band in progress are judged together, and written or marked stale (R132, R137). -/
def flushBand (c : Units) (d : Dev) (id : Nat) : Dev :=
  match jobOf d id with
  | none => d
  | some j =>
    let held := match j.coded with | some k => k.held | none => []
    let d := setCoded d id (fun k => { k with held := [] })
    if held.isEmpty then d
    else if isStale d j.port 0 j.opened then markStale d j (held.map (·.1)) d.clk.mono
    else if j.pages.isEmpty then d
    else held.foldl (fun d x =>
      let d := jobStore c d (whoRx j) j (x.1 * j.rowBytes) (rowPixels j.width x.2)
      setJob d id (fun j => rowsAt { j with
        stored := if j.stored.contains x.1 then j.stored else j.stored ++ [x.1]
        stamp0 := if x.1 == 0 then some j.opened else j.stamp0 } [x.1] d.clk.mono)) d

/-- The last rows of a strip as the next one begins with them (R135); they are read as the strip closes (DESIGN CHOICE, log entry
93). -/
def overlapRows (c : Units) (d : Dev) (j : Job) (n : Nat) : Dev × List (Option (List Byte)) :=
  (List.range n).foldl (fun (x : Dev × List (Option (List Byte))) i =>
    let r := j.height - n + i
    if j.height < n || j.pages.isEmpty || j.missing.contains r then (x.1, x.2 ++ [none])
    else
      ((jobNote c x.1 (whoRx j) j (r * j.rowBytes) j.rowBytes).1, x.2 ++ [some (jobPeek x.1 j (r * j.rowBytes) j.rowBytes)]))
    (d, [])

/-- The data of a coded job ends: a row that was complete but for an EOL behind it stands, and the band in progress is judged (R137,
R139). -/
def finishCoded (c : Units) (d : Dev) (id : Nat) : Dev :=
  let d := match (jobOf d id).bind (fun j => j.coded.map (fun k => (j, k))) with
    | some (j, k) =>
      if k.stopped || k.resync || j.height ≤ k.row then d
      else match nextRow j.kind j.k k.row j.width j.height (bitOf j.flags 0) true k.ref k.bits with
        | .row ch _ => setCoded d id (fun q => { q with held := q.held ++ [(k.row, ch)], stopped := true })
        | _ => d
    | none => d
  flushBand c d id

/-- Close the open job of a channel: missing rows, events, verdict (R127, R133, R137 to R140). -/
def closeJob (c : Units) (d : Dev) (x v : Nat) : Dev :=
  match openJobOf d x v with
  | none => setVc d x v (fun q => { q with job := none })
  | some j =>
    let d := setVc d x v (fun q => { q with job := none })
    -- a coded band cut short is judged with the close
    let d := finishCoded c d j.id
    let j := (jobOf d j.id).getD j
    let miss := if j.dimBad then [] else
      (List.range j.height).filter (fun r => j.missing.contains r || !j.stored.contains r)
    let good := if j.dimBad then 0 else j.height - miss.length
    let read := j.minPct * j.height ≤ good * 100 && !j.dimBad && !j.pages.isEmpty
    let j := { j with missing := miss, isOpen := false, verdict := some read, closedAt := d.clk.mono }
    let d := setJob d j.id (fun _ => j)
    let d := if j.pages.isEmpty then d else
      let d := miss.foldl (fun d r => jobStore c d (whoRx j) j (r * j.rowBytes) (List.replicate j.rowBytes 0xFF)) d
      jobStore c d (whoRx j) j (bitmapAt j) (bitmapBytes j)
    let d := if vcMode d x v == 3 then
        let (d, rows) := overlapRows c d j (cf d .vcCfg x v 23 16)
        setVc d x v (fun q => { q with prior := some rows })
      else d
    closeEvents c d j

/-- A strip after the first starts with the last rows of the strip before it, readable with its first new line (R135). -/
def copyOverlap (c : Units) (d : Dev) (x v : Nat) (prior : Option (List (Option (List Byte)))) : Dev :=
  match prior, openJobOf d x v with
  | some rows, some j =>
    (rows.mapIdx (fun i r => (i, r))).foldl (fun d e =>
      match e.2 with
      | none => setJob d j.id (fun j => missRow j e.1)
      | some bs =>
        let d := if j.pages.isEmpty then d else jobStore c d (whoRx j) j (e.1 * j.rowBytes) (bs.take j.rowBytes)
        if j.pages.isEmpty then d else setJob d j.id (fun j => { j with stored := j.stored ++ [e.1] }))
      (setJob d j.id (fun j => rowsAt { j with next := rows.length, lead := rows.length } (List.range rows.length) (d.clk.mono + rxHop)))
  | _, _ => d

/-- A line of a STRIP channel opens a job when none is open (R127); the averaging X of that line (R101). -/
def stripOpen (c : Units) (d : Dev) (x v xa : Nat) : Dev :=
  if vcMode d x v != 3 || (vcOf d x v).job.isSome then d
  else match opener c d x v with
    | none => d
    | some p =>
      let prior := (vcOf d x v).prior
      let (d, seq) := nextSeq d x v
      copyOverlap c (openJob c d x v p 0 0 0 seq none d.clk.time xa) x v prior

/-- A strip closes after row H − 1 (R127). -/
def stripClose (c : Units) (d : Dev) (x v : Nat) : Dev :=
  match openJobOf d x v with
  | some j => if vcMode d x v == 3 && j.height ≤ j.next then closeJob c d x v else d
  | none => d

/-- The row that the line in hand takes; its line-start number is used up (R133). After copied rows the first new line takes the
row behind them, and later ones follow from its number (R135; DEDUCED, log entry 93). -/
def lineRow (d : Dev) (x v : Nat) (j : Job) : Dev × Nat :=
  let q := vcOf d x v
  let d := setVc d x v (fun q => { q with curLn := none })
  match q.curLn, q.firstLn with
  | some a, some b =>
    if cf d .rxCfg x 0 12 12 != 1 then (d, j.next)
    else if j.lead == 0 then (d, (a + 65536 - b) % 65536)
    else
      match j.lnBase with
      | none => (setJob d j.id (fun j => { j with lnBase := some a }), j.lead)
      | some f => (d, j.lead + (a + 65536 - f) % 65536)
  | _, _ => (d, j.next)

/-- A line is discarded after checks 1 to 4: the row counter of the open job goes on (R133). Rows of a pixel job are lost with lines that
fail check 5 or 6 (R140); the other lines are packets of the job that have been accepted (R127). A line that the Tambour discards or
consumes opens no strip (DESIGN CHOICE, log entry 103). -/
def skipRow (c : Units) (d : Dev) (x v : Nat) (lost : Bool) : Dev :=
  match openJobOf d x v with
  | none => d
  | some j =>
    let (d, row) := lineRow (if lost then d else notePkt d j.id) x v j
    let gone : Bool := lost && j.kind == 0 && row < j.height
    stripClose c (setJob d j.id (fun j => { j with next := row + 1, linkLost := j.linkLost || gone })) x v

/-- A pixel line failed check 5 or 6: the row counter advances (R125). Such a line opens a strip as any other does (R127; DESIGN CHOICE,
log entry 103). -/
def lostLine (c : Units) (d : Dev) (x v : Nat) : Dev := skipRow c (stripOpen c d x v (lineX d x v)) x v true

/-- A line reaches the band assembler, with the averaging X that travels with it (R101, R132, R133, R137). What it stores counts as
readable 52 cycles on (R15, R16). -/
def placeLine (c : Units) (d : Dev) (x v : Nat) (bytes : List Byte) (stamp : BitVec 64) (xa : Nat) : Dev :=
  let d := stripOpen c d x v xa
  match openJobOf d x v with
  | none => countNoJob d x 1
  | some j =>
    if j.kind != 0 then countNoJob d x 1
    else if j.dimBad then notePkt d j.id
    else
      let (d, row) := lineRow (notePkt d j.id) x v j
      let d := setJob d j.id (fun j => { j with next := row + 1 })
      let at_ := d.clk.mono + rxHop
      let d :=
        if j.height ≤ row then countNoJob d x 1
        else if isStale d x rxHop stamp then markStale d j [row] at_
        else if j.pages.isEmpty then d
        else
          let d := jobStore c d (whoRx j) j (row * j.rowBytes) (bytes.take j.rowBytes)
          setJob d j.id (fun j => rowsAt { j with
            stored := if j.stored.contains row then j.stored else j.stored ++ [row]
            stamp0 := if row == 0 then some stamp else j.stamp0 } [row] at_)
      stripClose c d x v

/-- PIXEL_LINE (R124 to R126, R132, R133). -/
def execPixelLine (r : RxHdr) (dt : BitVec 6) (payload : List Byte) (s : State) : Host.Outcome State Fault Refusal :=
  onDev (fun c d => rxLong c d r (fun d =>
    let x : Nat := r.port
    let v : Nat := r.vc
    let (w, fmt) := lineFormat c d x v
    if dt.toNat != formatType fmt then countNoJob d x 1
    else if payload.length != wordCount fmt w then
      lostLine c (setRx d x (fun q => { q with wcBad := q.wcBad + 1 })) x v
    else if r.crcBad then lostLine c (setRx d x (fun q => { q with crcBad := q.crcBad + 1 })) x v
    else
      let stamp := (vcOf d x v).frame.getD d.clk.time
      if processed c d x v then
        match tambLine c d x r.headAgo stamp (frameX d x v) payload with
        | (d, some (bytes, st, xa)) => placeLine c d x v bytes st xa
        | (d, none) => skipRow c d x v false
      else placeLine c d x v (plainLine fmt w payload) stamp (frameX d x v))) s

/-! ### Frames and lines -/

/-- FRAME_START (R96, R101, R104, R127 to R130). -/
def execFrameStart (r : RxHdr) (_number : BitVec 16) (s : State) : Host.Outcome State Fault Refusal :=
  onDev (fun c d => rxIn c d r (fun d =>
    let x : Nat := r.port
    let v : Nat := r.vc
    let mode := vcMode d x v
    if isBulk d x v || mode == 0 then d
    else
      let now := d.clk.time
      let d := setVc d x v (fun q => { q with frame := some now, xavg := ratioX (seen d x) x, firstLn := none, curLn := none })
      let d := if processed c d x v && (tambOf d x).active == 0 && (tambOf d x).cal.state == .running && (tambOf d x).cal.from_ ≤ tick200 d then
          setTamb d x (fun m => { m with cal := { m.cal with armed := true } })
        else d
      if mode != 1 then d
      else
        let d := if (vcOf d x v).job.isSome then closeJob c d x v else d
        match opener c d x v with
        | none => d
        | some p =>
          let (d, seq) := nextSeq d x v
          openJob c d x v p 0 0 0 seq none now (lineX d x v))) s

/-- FRAME_END (R127). -/
def execFrameEnd (r : RxHdr) (_number : BitVec 16) (s : State) : Host.Outcome State Fault Refusal :=
  onDev (fun c d => rxIn c d r (fun d =>
    if !isBulk d r.port r.vc && vcMode d r.port r.vc == 1 && (vcOf d r.port r.vc).job.isSome then closeJob c d r.port r.vc
    else d)) s

/-- LINE_START: the number counts with LSLN = 1 (R124, R133). -/
def execLineStart (r : RxHdr) (number : BitVec 16) (s : State) : Host.Outcome State Fault Refusal :=
  onDev (fun c d => rxIn c d r (fun d =>
    if cf d .rxCfg r.port 0 12 12 == 1 && !isBulk d r.port r.vc && vcMode d r.port r.vc != 0 then
      setVc d r.port r.vc (fun q => { q with
        firstLn := match q.firstLn with | some n => some n | none => some number.toNat
        curLn := some number.toNat })
    else d)) s

/-! ### Embedded data and coded pages (R136, R138, R139) -/

/-- EMBEDDED_DATA (R136). -/
def execEmbeddedData (r : RxHdr) (payload : List Byte) (s : State) : Host.Outcome State Fault Refusal :=
  onDev (fun c d => rxLong c d r (fun d =>
    let x : Nat := r.port
    if r.crcBad then setRx d x (fun q => { q with crcBad := q.crcBad + 1 })
    else if cf d .vcCfg x r.vc 29 29 == 0 then d
    else
      match openJobOf d x r.vc with
      | none => countNoJob d x payload.length
      | some j =>
        -- without space the first 4,096 bytes have nowhere to go; the bytes beyond them count as ever
        let d := notePkt d j.id
        if j.dimBad || !j.emb then d
        else
          let fit := payload.take (4096 - j.embUsed)
          let d := if j.pages.isEmpty then d else jobStore c d (whoRx j) j (embAt j + j.embUsed) fit
          let d := setJob d j.id (fun j => { j with embUsed := j.embUsed + fit.length })
          countNoJob d x (payload.length - fit.length))) s

/-- The decoder passes from one row to a later one: a band left behind is judged and written (R137, R138). -/
def passRow (c : Units) (d : Dev) (j : Job) (row next : Nat) : Dev :=
  if row / j.bandRows != next / j.bandRows || j.height ≤ next then flushBand c d j.id else d

/-- Rows between a decoding error and the row at which decoding resumes are missing (R139). -/
def missRows (d : Dev) (j : Job) (row next : Nat) : Dev :=
  let rows := (List.range (Nat.min next j.height - row)).map (fun i => row + i)
  setJob d j.id (fun j => rowsAt (rows.foldl missRow j) rows d.clk.mono)

/-- Decode what has arrived (R138, R139); the count bounds the rows left. -/
def decodeRows (c : Units) (id : Nat) : Nat → Dev → Dev
  | 0, d => d
  | n + 1, d =>
    match jobOf d id with
    | none => d
    | some j =>
      match j.coded with
      | none => d
      | some k =>
        if k.stopped then d
        else if j.height ≤ k.row then setCoded d id (fun k => { k with stopped := true, bits := [] })
        else
          let tagged := j.kind == 2
          let eol := bitOf j.flags 0
          if k.resync then
            match seekEol tagged (k.bits.length + 1) 0 k.bits with
            | none => d
            | some (m, rest) =>
              let d := passRow c (missRows d j k.row (k.row + m)) j k.row (k.row + m)
              decodeRows c id n (setCoded d id (fun k => { k with bits := rest, row := k.row + m, resync := false, ref := none }))
          else
            match nextRow j.kind j.k k.row j.width j.height eol false k.ref k.bits with
            | .more => d
            | .stop => setCoded d id (fun k => { k with stopped := true, bits := [] })
            | .row ch rest =>
              let d := setCoded d id (fun q => { q with held := q.held ++ [(k.row, ch)] })
              decodeRows c id n (setCoded (passRow c d j k.row (k.row + 1)) id (fun k => { k with bits := rest, row := k.row + 1, ref := some ch }))
            | .bad rest =>
              if j.kind != 3 && eol then
                decodeRows c id n (setCoded d id (fun k => { k with bits := rest, resync := true }))
              else setCoded d id (fun k => { k with stopped := true, bits := [] })

/-- CODED_DATA (R138, R139). -/
def execCodedData (r : RxHdr) (payload : List Byte) (s : State) : Host.Outcome State Fault Refusal :=
  onDev (fun c d => rxLong c d r (fun d =>
    let x : Nat := r.port
    if r.crcBad then
      let d := setRx d x (fun q => { q with crcBad := q.crcBad + 1 })
      match openJobOf d x r.vc with
      | some j => setJob d j.id (fun j => { j with linkLost := j.linkLost || j.coded.any (fun k => !k.stopped) })
      | none => d
    else
      match openJobOf d x r.vc with
      | none => countNoJob d x 1
      | some j =>
        if j.kind == 0 then countNoJob d x 1
        else
          match j.coded with
          | none => notePkt d j.id
          | some k =>
            if k.stopped then notePkt d j.id
            else
              decodeRows c j.id (2 * (j.height + 1))
                (setCoded (notePkt d j.id) j.id (fun k => { k with bits := k.bits ++ bitsMsb payload, started := true })))) s

end Sys2Proof.Machine
end

