-- ==== Sys2Proof/Machine/Inband.lean ====
section
/-!
DEFINITION. What else arrives on the receive ports: in-band job commands (R78, R79, R129 to R131, R442), text input (R141)
and bulk load (R142, R143).
-/
namespace Sys2Proof.Machine

/-! ### Packets (R420) -/

/-- Bytes of a packet before its CRC. -/
def pktHead (opcode : Nat) (k : Pkt) : List Byte :=
  leBytes 2 opcode ++ leBytes 2 k.tag.toNat ++ leBytes 2 k.len.toNat ++ leBytes 2 k.rsvd.toNat ++ k.payload

/-- The packet's CRC-32C is right. -/
def pktCrcOk (opcode : Nat) (k : Pkt) : Bool := crc32c (pktHead opcode k) == k.crc

/-- LENGTH gives the payload that came, a multiple of 4 up to 4,096. -/
def pktLenOk (k : Pkt) : Bool := k.len.toNat == k.payload.length && k.len.toNat % 4 == 0 && k.len.toNat ≤ 4096

/-! ### In-band job commands -/

/-- Refuse a 0x30 or 0x32 packet: counted and logged (R129, R131, R141, R432). -/
def refuseInband (d : Dev) (x v op reason : Nat) (seq : Nat) : Dev :=
  let d := setRx d x (fun r => { r with inband := r.inband + 1 })
  logOnly d 0x0104 (0x14 + x) 255 [x, v, op, reason, seq]

/-- Reserved fields of a JOB_BEGIN payload (R131). -/
def beginOk (b : List Byte) : Bool :=
  let kind := fld b 4 1
  let flags := fld b 6 1
  kind ≤ 3 && (kind == 2 || fld b 5 1 == 0) && flags ≤ 3 && (kind == 1 || kind == 2 || flags % 2 == 0) && fld b 7 1 == 0

/-- JOB_BEGIN opens its job with an opening stamp (R129, R131, R137). -/
def beginJob (c : Units) (d : Dev) (x v p : Nat) (b : List Byte) (opened : BitVec 64) : Dev :=
  let d := if (vcOf d x v).job.isSome then closeJob c d x v else d
  openJob c d x v p (fld b 4 1) (fld b 5 1) (fld b 6 1) (BitVec.ofNat 32 (fld b 0 4)) (some (fld b 8 4, fld b 12 4)) opened
    (lineX d x v)

/-- A 0x30 packet of an in-band opcode with its payload length: format, then state, then job numbers (R78, R131; the order
of the three groups is DEDUCED, log entry 38). For unit 0xFF there is no committed state to name: W0 is 0xF, as R493 gives it for
W1 (DESIGN CHOICE, log entry 94). The packet is judged in the cycle in which its footer enters the CCLK domain, for the 52 cycles of R15
are those of line packets; one that is discarded with STATE_SKEW is not counted in INBAND_BAD, whose list is that of R131 (both DESIGN
CHOICE, log entry 103). -/
def inbandPacket (c : Units) (d : Dev) (r : RxHdr) (op len : Nat) (k : Pkt) (okFields : List Byte → Bool)
    (act : Dev → Nat → List Byte → Dev) : Dev :=
  rxLong c d r (fun d =>
    let x : Nat := r.port
    let v : Nat := r.vc
    let b := k.payload
    let seq := fld b 0 4
    if r.crcBad then setRx d x (fun q => { q with crcBad := q.crcBad + 1 })
    else if !pktLenOk k then refuseInband d x v op 2 seq
    else if !pktCrcOk op k then refuseInband d x v op 1 seq
    else if b.length != len then refuseInband d x v op 2 seq
    else if k.rsvd != 0 || !okFields b then refuseInband d x v op 4 seq
    else
      match binder d x v with
      | none => raise c d .nothing { code := 0x0002, detail := [15, 15, op, x, v, seq], log := true }
      | some p =>
        if !running c p then
          let pend := match reqOf d p with | some s => s.code | none => 15
          raise c d (.part p) { code := 0x0002, unit := p, detail := [(ust c p).code, pend, op, x, v, seq], log := true }
        else act d p b)

/-- JOB_BEGIN (R127 to R131, R137, R139). In FRAME and STRIP modes it is accepted and opens nothing, for R127 gives those modes
other openings. A SEQ_END set in one of those modes does not block it, for an in-band job takes no number from NEXT (R129; DESIGN CHOICE,
log entry 103). One whose SEQ is held is refused, and closes the open job of its channel as an opening event: its data has no open
job (R127, R129; both DEDUCED, log entry 94). -/
def execJobBegin (r : RxHdr) (pkt : Pkt) (s : State) : Host.Outcome State Fault Refusal :=
  onDev (fun c d => inbandPacket c d r 0x0022 16 pkt beginOk (fun d p b =>
    if vcMode d r.port r.vc != 2 then d
    else if (heldJob d p (BitVec.ofNat 32 (fld b 0 4))).isSome then
      let d := refuseInband d r.port r.vc 0x0022 7 (fld b 0 4)
      if (vcOf d r.port r.vc).job.isSome then closeJob c d r.port r.vc else d
    else beginJob c d r.port r.vc p b ((vcOf d r.port r.vc).frame.getD d.clk.time))) s

/-- A JOB_END or PAGE_MARK names the open job. -/
def namedJob (d : Dev) (x v op : Nat) (b : List Byte) (f : Job → Dev) : Dev :=
  match openJobOf d x v with
  | none => refuseInband d x v op 6 (fld b 0 4)
  | some j => if j.seq.toNat != fld b 0 4 then refuseInband d x v op 5 (fld b 0 4) else f j

/-- JOB_END (R127, R131): it closes its job in INBAND mode only. -/
def execJobEnd (r : RxHdr) (pkt : Pkt) (s : State) : Host.Outcome State Fault Refusal :=
  onDev (fun c d => inbandPacket c d r 0x0023 4 pkt (fun _ => true) (fun d _ b =>
    namedJob d r.port r.vc 0x0023 b (fun _ => if vcMode d r.port r.vc == 2 then closeJob c d r.port r.vc else d))) s

/-- PAGE_MARK: kept with the index of the next row (R131). -/
def execPageMark (r : RxHdr) (pkt : Pkt) (s : State) : Host.Outcome State Fault Refusal :=
  onDev (fun c d => inbandPacket c d r 0x0024 8 pkt (fun _ => true) (fun d _ b =>
    namedJob d r.port r.vc 0x0024 b (fun j =>
      let row := match j.coded with | some k => k.row | none => j.next
      setJob (notePkt d j.id) j.id (fun j => { j with marks := j.marks ++ [(row, BitVec.ofNat 32 (fld b 4 4))] })))) s

/-- A 0x30 packet that is no packet of R420, or whose opcode is none of the three (R131, R442). -/
def strayInband (c : Units) (d : Dev) (r : RxHdr) (bs : List Byte) : Dev :=
  rxLong c d r (fun d =>
    let n := fld bs 4 2
    let no := fun (why : Nat) => refuseInband d r.port r.vc (fld bs 0 2) why (fld bs 8 4)
    if r.crcBad then setRx d r.port (fun q => { q with crcBad := q.crcBad + 1 })
    else if bs.length < 12 || bs.length != 12 + n || n % 4 != 0 || 4096 < n then no 2
    else if (crc32c (bs.take (8 + n))).toNat != fld bs (8 + n) 4 then no 1
    else no 3)

/-- PACKET_DISCARDED: sync and header errors (R125 checks 1 and 3), unlisted data types (R124), and 0x30 packets that are
no in-band command (R131). -/
def execPacketDiscarded (r : RxHdr) (cause : DropCause) (s : State) : Host.Outcome State Fault Refusal :=
  onDev (fun c d =>
    match cause with
    | .dataType => rxIn c d r (fun d => countNoJob d r.port 1)
    | .inband bytes => strayInband c d r bytes
    | _ => if rxOn c d r.port then setRx d r.port (fun q => { q with hdrBad := q.hdrBad + 1 }) else d) s

/-! ### Text input (R141) -/

/-- Add a fragment to a string: the first 8,192 bytes are kept. -/
def addText (g : Gather) (t : List Byte) : Gather :=
  { g with next := g.next + 1, text := g.text ++ t.take (8192 - g.text.length), excess := g.excess || decide (8192 < g.text.length + t.length) }

/-- TEXT_INPUT (R141, R317). -/
def execTextInput (r : RxHdr) (payload : List Byte) (s : State) : Host.Outcome State Fault Refusal :=
  onDev (fun c d => rxLong c d r (fun d =>
    let x : Nat := r.port
    let v : Nat := r.vc
    let seq := fld payload 0 4
    let kind := fld payload 4 1
    let flags := fld payload 5 1
    let frag := fld payload 6 2
    let held := match binder d x v with | some p => (heldJob d p (BitVec.ofNat 32 seq)).isSome | none => false
    if r.crcBad then setRx d x (fun q => { q with crcBad := q.crcBad + 1 })
    else if payload.length < 8 || kind == 0 || 3 < kind || 1 < flags then refuseInband d x v kind 4 seq
    else if seq != 0xFFFFFFFF && !held then refuseInband d x v kind 9 seq
    else
      let take := fun (d : Dev) (g : Gather) =>
        let g := addText g (payload.drop 8)
        if flags == 1 then
          handString c (setVc d x v (fun q => { q with str := none, strBad := false })) x v g.kind g.job g.text g.excess
        else setVc d x v (fun q => { q with str := some g, strBad := false })
      match (vcOf d x v).str with
      | some g =>
        if frag == 0 then take (refuseInband d x v kind 8 seq) { job := BitVec.ofNat 32 seq, kind, next := 0, text := [], excess := false }
        else if frag == g.next then take d g
        else refuseInband (setVc d x v (fun q => { q with str := none, strBad := true })) x v kind 8 seq
      | none =>
        if frag == 0 then take d { job := BitVec.ofNat 32 seq, kind, next := 0, text := [], excess := false }
        else if (vcOf d x v).strBad then d
        else refuseInband (setVc d x v (fun q => { q with strBad := true })) x v kind 8 seq)) s

/-! ### Bulk load (R142, R143) -/

/-- Ranges that a run, or a copy, keeps from bulk load: state area, sample table, its samples, checkpoint (R142). -/
def adaptAreas (d : Dev) : List (Nat × Nat) :=
  if d.adapt.run != .active && d.adapt.copy == 0 then []
  else
    let n := cf d .aSetCount 0 0 16 0
    let t := com d .aSetBase 0 0 * 256
    let size := com d .aStateSize 0 0 * 256
    [(com d .aStateBase 0 0 * 256, size), (t, 32 * n)]
      ++ (List.range n).map (fun i => (leNat (ddrPeek d (t + 32 * i) 8), leNat (ddrPeek d (t + 32 * i + 8) 4)))
      ++ (if d.adapt.copy != 0 then [(com d .aCkptBase 0 0 * 256, 256 + size)] else [])

/-- A range meets a DDR5 claim of a partition committed RUN or FAULTED. -/
def meetsClaims (c : Units) (d : Dev) (a n : Nat) : Bool :=
  (List.range 8).any (fun p => partOn c p && (bufsOf (imgOf d p)).any (fun b => b.1 == 7 && a < b.2.2.1 + b.2.2.2 && b.2.2.1 < a + n))

/-- Check 3 of R142. -/
def bulkState (c : Units) (d : Dev) (target a n : Nat) : Bool :=
  if target == 3 then ust c 0x1A == .disabled
  else if target == 5 then ust c 31 == .disabled
  else if target == 7 then
    d.ddr.state == .ready && inRegions d regsBulk a n && !meetsClaims c d a n
      && (adaptAreas d).all (fun r => !(a < r.1 + r.2 && r.1 < a + n))
  else ust c target == .disabled

/-- Size of a bulk-load target; none when it is not accepted. -/
def bulkSize (d : Dev) (target : Nat) : Option Nat :=
  if target == 7 then some (ddrCap d)
  else if target == 3 || target == 5 || (8 ≤ target && target < 16) then some (storeSize target)
  else none

/-- A transfer fails (R142). -/
def bulkFail (d : Dev) (x id cause : Nat) : Dev :=
  let d := setRx d x (fun r => { r with bulk := { r.bulk with state := 3, cause := BitVec.ofNat 4 cause, id := BitVec.ofNat 16 id } })
  logOnly d 0x0105 (0x14 + x) 255 [x, id, cause, (rxOf d x).bulk.bytes]

/-- BULK_LOAD (R142, R143). -/
def execBulkLoad (r : RxHdr) (payload : List Byte) (s : State) : Host.Outcome State Fault Refusal :=
  onDev (fun c d => rxIn c d r (fun d =>
    let x : Nat := r.port
    if !isBulk d x r.vc then countNoJob d x 1
    else
      let d := if r.crcBad then setRx d x (fun q => { q with crcBad := q.crcBad + 1 }) else d
      let target := fld payload 0 1
      let flags := fld payload 1 1
      let id := fld payload 2 2
      let a := fld payload 4 8
      let data := payload.drop 16
      let n := data.length
      let first := bitOf flags 0
      let d := if first then setRx d x (fun q => { q with bulk := { state := 1, id := BitVec.ofNat 16 id, target, next := a } }) else d
      let b := (rxOf d x).bulk
      let level := d.bulkLevel - 40 * (d.clk.mono - d.bulkAt)
      if !first && b.state == 3 then d
      else if !first && (b.state != 1 || b.id.toNat != id || b.next != a) then bulkFail d x id 3
      else
        match bulkSize d target with
        | none => bulkFail d x id 1
        | some size =>
          if n % 4 != 0 || a % 4 != 0 || size < a + n then bulkFail d x id 1
          else if !bulkState c d target a n then bulkFail d x id 2
          else if r.crcBad then bulkFail d x id 6
          else if 11 * 262144 < level + 11 * n then bulkFail d x id 5
          else
            let crc := crcFrom b.crc data
            if bitOf flags 1 && ~~~ crc != BitVec.ofNat 32 (fld payload 12 4) then bulkFail d x id 4
            else
              let d := { d with bulkLevel := level + 11 * n, bulkAt := d.clk.mono }
              let w : Who := { unit := 0x14 + x }
              let d := if target == 7 then ddrWrite c d w regsBulk a data else store c d w (key target a) data
              setRx d x (fun q => { q with bulk := { q.bulk with
                crc, next := a + n, target, bytes := satAdd 32 q.bulk.bytes n
                state := if bitOf flags 1 then 2 else 1 } }))) s

end Sys2Proof.Machine
end

