-- ==== Sys2Proof/Machine/Adapt.lean ====
section
/-!
DEFINITION. On-device adaptation (R389 to R413): samples, permutation, staged batches, the boundary work of the ADAPT unit,
checkpoints, restores and reports.
-/
namespace Sys2Proof.Machine

/-- Who reads and writes for the ADAPT unit, in the service of the run's partition (R542). -/
def whoAdapt (d : Dev) : Who := { unit := 0x1D, part := cf d .aCfg 0 0 2 0 }

/-- N, and the run's partition. -/
def setCount (d : Dev) : Nat := cf d .aSetCount 0 0 16 0
def adaptPart (d : Dev) : Nat := cf d .aCfg 0 0 2 0

/-- An image has one page-store claim that covers the whole staging range. -/
def coversStage (d : Dev) (img : List Byte) : Bool :=
  (bufsOf img).any (fun b => b.1 == 1 && b.2.2.1 ≤ stageBase d && stageBase d + 2 * halfSize d ≤ b.2.2.1 + b.2.2.2)

/-- The staging range is guarded (R397). -/
def guarded (d : Dev) : Bool :=
  let p := adaptPart d
  let s := stageBase d
  let n := 2 * halfSize d
  hasImage d p && coversStage d (imgOf d p)
    && (List.range 8).all (fun q => q == p || !hasImage d q
      || (bufsOf (imgOf d q)).all (fun b => !(b.1 == 1 && s < b.2.2.1 + b.2.2.2 && b.2.2.1 < s + n)))
    && d.jobs.all (fun j => j.pages.all (fun g => !(s < g * 4096 + 4096 && g * 4096 < s + n)))

/-- The range stopped being guarded: STAGE_READY returns to 0 and a fill stops (R397). -/
def adaptGuard (d : Dev) : Dev :=
  if (d.adapt.ready || d.adapt.filling) && !guarded d then { d with adapt := { d.adapt with ready := false, filling := false } } else d

/-- Zero a range of whole words of the page store. -/
def zeroPages (d : Dev) (a n : Nat) : Dev :=
  { d with mem := Memory.erase d.mem (key 1 a) n
           ecc := d.ecc.filter (fun e => e.1 * 8 < key 1 a || key 1 (a + n) ≤ e.1 * 8) }

/-! ### Permutation (R394) -/

/-- One index below a bound: draws in the uneven head are rejected. -/
def drawBelow (bound : BitVec 64) : Nat → BitVec 64 → BitVec 64 × Nat
  | 0, x => (x, 0)
  | n + 1, x =>
    let (x, r) := drawNext x
    if r.toNat < ((0 - bound) % bound).toNat then drawBelow bound n x else (x, (r % bound).toNat)

/-- The order of an epoch. -/
def adaptPerm (seed : BitVec 64) (epoch n : Nat) : List Nat :=
  let x0 := seed ^^^ (BitVec.ofNat 64 epoch * 0xD1B54A32D192ED03)
  ((List.range (n - 1)).foldl (fun (s : BitVec 64 × List Nat) k =>
    let i := n - 1 - k
    let (x, j) := drawBelow (BitVec.ofNat 64 (i + 1)) 1024 s.1
    let t := s.2.getD i 0
    (x, (s.2.set i (s.2.getD j 0)).set j t)) (x0, List.range n)).2

/-! ### Samples and batches (R392, R393, R395, R397, R399) -/

/-- A checked sample: index, length, tag, data. -/
structure Sample where
  idx  : Nat
  len  : Nat
  tag  : Nat
  data : List Byte
  deriving DecidableEq, Repr

/-- Stage one sample: its data, or the cause for which it is corrupt (R393). -/
def checkSample (c : Units) (d : Dev) (i : Nat) : Dev × Except Nat Sample :=
  let w := whoAdapt d
  let a := com d .aSetBase 0 0 * 256 + 32 * i
  let (d, e, bad1) := ddrRead c d w regsAdapt a 32
  let addr := fld e 0 8
  let len := fld e 8 4
  if !zeroAt e 20 12 || addr % 64 != 0 || len == 0 || cf d .aStage 0 0 28 16 * 1024 < len then (d, .error 1)
  else if !inRegions d regsAdapt a 32 || !inRegions d regsAdapt addr len then (d, .error 2)
  else
    let (d, bs, bad2) := ddrRead c d w regsAdapt addr len
    if (crc32c bs).toNat != fld e 12 4 then (d, .error 3)
    else if bad1 || bad2 then (d, .error 4)
    else (d, .ok { idx := i, len, tag := fld e 16 4, data := bs })

/-- Count a skipped sample (R393). -/
def skipSample (d : Dev) (i cause : Nat) : Dev :=
  let a := d.adapt
  let d := { d with adapt := { a with
    skipped := a.skipped + 1, rSkip := a.rSkip + 1, rList := if a.rList.length < 1024 then a.rList ++ [i] else a.rList } }
  logAt d 0x0016 0x1D (adaptPart d) noWord noWord [0x10 + cause, i, 0] 0

/-- Take samples from the cursor until the slots are filled or the epoch is through (R395); the count bounds the positions
left. -/
def fillSlots (c : Units) (b : Nat) : Nat → Dev → List Sample → Dev × List Sample
  | 0, d, got => (d, got)
  | n + 1, d, got =>
    if b ≤ got.length || setCount d ≤ d.adapt.spos then (d, got)
    else
      let (d, r) := checkSample c d (d.adapt.perm.getD d.adapt.spos 0)
      let i := d.adapt.perm.getD d.adapt.spos 0
      let d := { d with adapt := { d.adapt with spos := d.adapt.spos + 1 } }
      match r with
      | .ok x => fillSlots c b n d (got ++ [x])
      | .error e => fillSlots c b n (skipSample d i e) got

/-- FP32 committed parameter. -/
def param (d : Dev) (r : Reg) : Word := BitVec.ofNat 32 (com d r 0 0)

/-- FP32 product, and difference from one. -/
def mul32 (a b : Word) : Word := rne32 ((f32 a).mul (f32 b))
def oneMinus (a : Word) : Xv := (Xv.ofInt 1).sub (f32 a)

/-- x × √(1 − p2) / q in FP32, formed exactly and rounded once; q is an exact positive value. -/
def rootScaled (x p2 : Word) (q : Xv) : Word :=
  match f32 x, oneMinus p2, q with
  | .fin _ f fe, .fin _ m e, .fin _ n ne => sqrtScaled f fe n ne m e
  | _, _, _ => 0

/-- Scalars of a step (R399): B1, B1C, B2, B2C, LR_T, EPS_T, LRWD. -/
def stepScalars (d : Dev) (p1 p2 : Word) : List Word :=
  let b1 := param d .aBeta1
  let b2 := param d .aBeta2
  [b1, rne32 (oneMinus b1), b2, rne32 (oneMinus b2), rootScaled (param d .aLr) p2 (oneMinus p1)
   , rootScaled (param d .aEps) p2 (Xv.ofInt 1), mul32 (param d .aLr) (param d .aWd)]

/-- Header and slot entries of a staged half (R397). -/
def halfHead (d : Dev) (b : Batch) (epoch : Word) (first : Bool) (index : Nat) (xs : List Sample) : List Byte :=
  let wt := rneQuot false 1 b.count 0
  leBytes 4 b.step ++ leBytes 4 epoch.toNat ++ leBytes 4 index ++ leBytes 4 b.count ++ leBytes 4 0x3F800000 ++ leBytes 4 0
    ++ leBytes 1 (b2n first + 2 * b2n b.last) ++ List.replicate 7 0
    ++ (stepScalars d b.p1 b.p2).flatMap (fun x => leBytes 4 x.toNat) ++ List.replicate 196 0
    ++ (List.range (batchSize d)).flatMap (fun s =>
      match xs[s]? with
      | some x => leBytes 4 x.idx ++ leBytes 4 x.len ++ leBytes 4 x.tag ++ leBytes 4 wt.toNat
      | none => leBytes 4 0xFFFFFFFF ++ List.replicate 12 0)

/-- First byte of a physical half (R396). -/
def halfAt (d : Dev) (h : Bool) : Nat := stageBase d + (if h then halfSize d else 0)

/-- The run's next epoch begins its staging: its permutation is formed (R394). -/
def nextEpoch (d : Dev) : Dev :=
  let a := d.adapt
  let e := (a.first + BitVec.ofNat 32 (a.sIdx + 1))
  { d with adapt := { a with sIdx := a.sIdx + 1, spos := 0, batch := 0, perm := adaptPerm a.seed e.toNat (setCount d) } }

/-- The fill wiped a batch that was staged and not yet published: it is discarded as R400 discards one, and is built anew from the
epoch of POS (DESIGN CHOICE, log entry 82). -/
def unstage (d : Dev) : Dev :=
  let a := d.adapt
  if a.staged.isNone || a.run != .active then d
  else { d with adapt := { a with
    staged := none, spos := a.pos, sIdx := a.done, batch := if a.pos == 0 then 0 else a.batch - 1
    perm := adaptPerm a.seed a.epoch.toNat (setCount d) } }

/-- STAGE_FILL_DONE (R397). -/
def execStageFillDone (s : State) : Host.Outcome State Fault Refusal :=
  onDev (fun c d =>
    let d := adaptGuard d
    if alive d && running c 0x1D && d.adapt.filling then
      let d := unstage (zeroPages d (stageBase d) (2 * halfSize d))
      { d with adapt := { d.adapt with filling := false, ready := true } }
    else d) s

/-- Build the next batch (R395, R397, R399). -/
def stageBatch (c : Units) (d : Dev) : Dev :=
  let d := if setCount d ≤ d.adapt.spos && d.adapt.sIdx + 1 < d.adapt.epochs then nextEpoch d else d
  if setCount d ≤ d.adapt.spos then d
  else
    let fresh := d.adapt.batch == 0
    let (d, xs) := fillSlots c (batchSize d) (setCount d) d []
    let a := d.adapt
    let through : Bool := setCount d ≤ a.spos
    let waits := match a.shown with | some s => s.apply | none => false
    if xs.isEmpty then
      -- the epoch ended with the batch before it
      match a.shown with
      | some s => if s.apply && a.batch != 0 then { d with adapt := { a with shown := some { s with last := true } } }
                  else { d with adapt := { a with tail := a.tail + 1 } }
      | none => { d with adapt := { a with tail := a.tail + 1 } }
    else
      let p := match a.shown with | some s => if waits then (s.p1, s.p2, s.step) else (a.p1, a.p2, a.step.toNat) | none => (a.p1, a.p2, a.step.toNat)
      let b : Batch :=
        { step := sat 32 (p.2.2 + 1), count := xs.length, spos := a.spos, last := through, apply := true
          p1 := mul32 p.1 (param d .aBeta1), p2 := mul32 p.2.1 (param d .aBeta2) }
      let h := halfAt d (!a.half)
      let d := zeroPages d h (halfSize d)
      let w := whoAdapt d
      let d := store c d w (key 1 h) (halfHead d b (a.first + BitVec.ofNat 32 a.sIdx) fresh a.batch xs)
      let slot := cf d .aStage 0 0 28 16 * 1024
      let d := (xs.mapIdx (fun s x => (s, x))).foldl (fun d y => store c d w (key 1 (h + 4096 + y.1 * slot)) y.2.data) d
      { d with adapt := { d.adapt with staged := some b, batch := a.batch + 1 } }

/-- BATCH_STAGED (R392 to R397, R399). -/
def execBatchStaged (s : State) : Host.Outcome State Fault Refusal :=
  onDev (fun c d =>
    let d := adaptGuard d
    -- after a START or a swap staging begins at offset 64 (R391, R398)
    let early : Bool := d.clk.mono < d.adapt.stageAt
    if alive d && running c 0x1D && d.adapt.run == .active && d.adapt.ready && d.adapt.staged.isNone && !early then stageBatch c d
    else d) s

/-! ### Checkpoints (R403, R404) -/

/-- Header of a checkpoint (R403). -/
def ckptHead (d : Dev) (crc : Word) (clean ecc : Bool) : List Byte :=
  let a := d.adapt
  leBytes 4 0x4B435041 ++ leBytes 4 crc.toNat ++ leBytes 8 a.seed.toNat ++ leBytes 4 a.first.toNat ++ leBytes 4 a.epochs
    ++ leBytes 4 a.epoch.toNat ++ leBytes 4 a.pos ++ leBytes 4 a.step.toNat ++ leBytes 4 a.p1.toNat ++ leBytes 4 a.p2.toNat
    ++ leBytes 4 (setCount d) ++ leBytes 4 (batchSize d) ++ leBytes 4 (com d .aStateSize 0 0) ++ leBytes 4 (com d .aSetBase 0 0)
    ++ leBytes 4 (b2n clean + 2 * b2n ecc) ++ List.replicate 192 0

/-- State area and checkpoint: first bytes, and the size copied. -/
def stateArea (d : Dev) : Nat × Nat := (com d .aStateBase 0 0 * 256, com d .aStateSize 0 0 * 256)
def ckptAt (d : Dev) : Nat := com d .aCkptBase 0 0 * 256

/-- CHECKPOINT_DONE (R403, R406). A copy that the image of a partition committed RUN or FAULTED claims is not written: the checkpoint
goes on until none does (R407; DESIGN CHOICE, log entry 102). -/
def execCheckpointDone (s : State) : Host.Outcome State Fault Refusal :=
  onDev (fun c d =>
    if !(alive d && d.adapt.copy == 1) || d.clk.mono < d.adapt.copyAt || meetsClaims c d (ckptAt d) (256 + (stateArea d).2) then d
    else
      let w := whoAdapt d
      let (a, n) := stateArea d
      let (d, bs, bad) := ddrRead c d w regsAdapt a n
      let d := ddrWrite c d w regsAdapt (ckptAt d + 256) bs
      let d := ddrWrite c d w regsAdapt (ckptAt d) (ckptHead d (crc32c bs) (d.adapt.clean && !bad) bad)
      { d with adapt := { d.adapt with copy := 0, rFlags := d.adapt.rFlags ||| 0x08, rEcc := d.adapt.rEcc || bad } }) s

/-- Header of the checkpoint as RESUME judges it (R404). -/
def ckptOk (d : Dev) : Bool :=
  let h := ddrPeek d (ckptAt d) 64
  d.ddr.state == .ready && inRegions d regsAdapt (ckptAt d) 256 && fld h 0 4 == 0x4B435041 && bitOf (fld h 60 4) 0
    && fld h 44 4 == setCount d && fld h 48 4 == batchSize d && fld h 52 4 == com d .aStateSize 0 0 && fld h 56 4 == com d .aSetBase 0 0

/-- A restore fails (R404). -/
def restoreFail (d : Dev) (cause : Nat) : Dev :=
  let d := { d with adapt := { d.adapt with
    copy := 0, run := .idle, clean := false, fail := true, broken := false, rFlags := d.adapt.rFlags ||| 0x100 } }
  logOnly d 0x010A 0x1D (adaptPart d) [cause]

/-- RESTORE_DONE (R404, R406). -/
def execRestoreDone (s : State) : Host.Outcome State Fault Refusal :=
  onDev (fun c d =>
    if !(alive d && d.adapt.copy == 2) then d
    else
      let w := whoAdapt d
      let (a, n) := stateArea d
      let (d, h, bad0) := ddrRead c d w regsAdapt (ckptAt d) 64
      let (d, bs, bad) := ddrRead c d w regsAdapt (ckptAt d + 256) n
      let d := ddrWrite c d w regsAdapt a bs
      let d := { d with adapt := { d.adapt with rEcc := d.adapt.rEcc || bad || bad0 } }
      if d.adapt.broken || running c (adaptPart d) then restoreFail d 2
      else if (crc32c bs).toNat != fld h 4 4 then restoreFail d 1
      else
        let seed := BitVec.ofNat 64 (fld h 8 8)
        let first := BitVec.ofNat 32 (fld h 16 4)
        let epoch := BitVec.ofNat 32 (fld h 24 4)
        let pos := fld h 28 4
        let at_ := (epoch - first).toNat
        { d with adapt := { d.adapt with
          copy := 0, run := .active, clean := true, seed, first, epochs := fld h 20 4, epoch, pos, spos := pos
          done := at_, sIdx := at_, tail := b2n (setCount d ≤ pos), step := BitVec.ofNat 32 (fld h 32 4)
          p1 := BitVec.ofNat 32 (fld h 36 4), p2 := BitVec.ofNat 32 (fld h 40 4)
          perm := adaptPerm seed epoch.toNat (setCount d), batch := cdiv pos (batchSize d), staged := none
          shown := d.adapt.shown.map (fun b => { b with apply := false })
          rList := [], rSkip := 0, rFlags := d.adapt.rFlags ||| 0x80 } }) s

/-! ### Boundary work (R391, R398, R400, R406) -/

/-- Raise report flags. -/
def reportFlag (d : Dev) (f : Nat) : Dev := { d with adapt := { d.adapt with rFlags := d.adapt.rFlags ||| f } }

/-- The run ends before its last epoch does: a staged batch is discarded (R400). -/
def stopRun (d : Dev) : Dev :=
  let a := d.adapt
  reportFlag { d with adapt := { a with run := .idle, staged := none, spos := a.pos } } 0x04

/-- An epoch ends: the next one, or the end of the run (R395, R400, R406). -/
def endEpoch (d : Dev) : Dev :=
  let a := d.adapt
  let d := if a.done + 1 < a.epochs then { d with adapt := { a with done := a.done + 1, epoch := a.epoch + 1, pos := 0 } }
    else reportFlag { d with adapt := { a with done := a.done + 1, run := .done } } 0x02
  reportFlag d 0x01

/-- A published batch is applied, or lost with its partition (R398). -/
def applyBatch (c : Units) (d : Dev) : Dev :=
  let a := d.adapt
  let p := adaptPart d
  match a.shown with
  | none => d
  | some b =>
    if !b.apply then d
    else
      let d := { d with adapt := { a with shown := some { b with apply := false } } }
      if ust c p == .faulted then { d with adapt := { d.adapt with clean := false } }
      else if !(running c p || ust c p == .halted) then d
      else
        let k := key 1 (halfAt d a.half + 64)
        let (d, _) := eccRead c d (whoAdapt d) k 4
        let loss := BitVec.ofNat 32 (peekNat d k 4)
        let sum := if a.rLossN == 0 then loss else rne32 ((f32 a.rLoss).add (f32 loss))
        let d := { d with adapt := { d.adapt with
          step := BitVec.ofNat 32 b.step, rUsed := a.rUsed + b.count, rLoss := sum, rLossN := a.rLossN + 1
          pos := b.spos, p1 := b.p1, p2 := b.p2 } }
        let every := cf d .aCfg 0 0 31 16
        let d := if every != 0 && b.step % every == 0 then reportFlag d 0x10 else d
        if b.last then endEpoch d else d

/-- Epochs that ended in corrupt samples end once no batch of theirs is outstanding. -/
def endTails : Nat → Dev → Dev
  | 0, d => d
  | n + 1, d => if d.adapt.run == .active && d.adapt.tail != 0 then
      endTails n (endEpoch { d with adapt := { d.adapt with tail := d.adapt.tail - 1 } }) else d

/-- An accepted action takes effect (R391, R400, R403, R404). -/
def adaptAction (c : Units) (d : Dev) (x : Nat) : Dev :=
  let a := d.adapt
  if x == 1 then
    let seed := BitVec.ofNat 64 (com d .aSeedLo 0 0 + 2 ^ 32 * com d .aSeedHi 0 0)
    let first := BitVec.ofNat 32 (com d .aEpochFirst 0 0)
    { d with adapt := { a with
      seed, first, epochs := cf d .aEpochs 0 0 15 0, step := 0, pos := 0, spos := 0, epoch := first, done := 0, sIdx := 0, tail := 0
      p1 := 0x3F800000, p2 := 0x3F800000, run := .active, clean := true, batch := 0, staged := none
      stageAt := d.clk.mono + 64
      shown := a.shown.map (fun b => { b with apply := false }), perm := adaptPerm seed first.toNat (setCount d) } }
  else if x == 2 then (if a.run == .active then stopRun d else d)
  else if x == 3 then
    { d with adapt := { a with copy := 1, copyAt := if running c (adaptPart d) then d.clk.mono + 64 else d.clk.mono } }
  else { d with adapt := { a with copy := 2, broken := running c (adaptPart d) } }

/-- Swap, or an empty Stitch (R398). -/
def swapHalf (c : Units) (d : Dev) : Dev :=
  let a := d.adapt
  if !running c (adaptPart d) then d
  else if a.run == .active && a.copy == 0 && a.ready && a.staged.isSome then
    { d with adapt := { a with half := !a.half, shown := a.staged, staged := none, stageAt := d.clk.mono - d.clk.offset + 64 } }
  else
    let d := if guarded d && a.ready then
        store c d (whoAdapt d) (key 1 (halfAt d a.half + 16)) (leBytes 4 0 ++ leBytes 4 0x3F800000)
      else d
    if a.run == .active then { d with adapt := { d.adapt with empty := a.empty + 1 } } else d

/-- ADAPT_REPORT (R366, R405, R406). -/
def adaptReport (c : Units) (d : Dev) : Dev :=
  let a := d.adapt
  if a.rFlags == 0 then d
  else
    let flags := a.rFlags ||| (if 1024 < a.rSkip then 0x20 else 0) ||| (if a.clean then 0 else 0x40)
    let epoch := if bitOf flags 0 && !bitOf flags 1 then a.epoch - 1 else a.epoch
    let loss := if a.rLossN == 0 then 0x7FC00000 else div32 (f32 a.rLoss) (Xv.ofInt a.rLossN)
    let bytes := recHead 0x0D a.rEcc false (64 + 4 * a.rList.length) noWord noWord ++ leBytes 4 epoch.toNat ++ leBytes 4 a.step.toNat
      ++ leBytes 8 a.seed.toNat ++ leBytes 4 a.rUsed ++ leBytes 4 a.rSkip ++ leBytes 4 loss.toNat ++ leBytes 4 flags
      ++ leBytes 4 a.rList.length ++ List.replicate 12 0 ++ a.rList.flatMap (leBytes 4)
    let bs := outputsOf (imgOf d (adaptPart d))
    let d := if bs.isEmpty then handSnap c d { bytes } else bs.foldl (fun d b => handFree d b.1 b.2 { bytes }) d
    { d with adapt := { d.adapt with rUsed := 0, rSkip := 0, rList := [], rLoss := 0, rLossN := 0, rFlags := 0, rEcc := false } }

/-- The ADAPT unit's work at offset 0, after the commits: the published batch, the actions, a stop, the fill, the report. The table before the boundary tells whether the partition left RUN. -/
def adaptBoundary (c0 c : Units) (d : Dev) : Dev :=
  let d := adaptGuard d
  let p := adaptPart d
  let d := applyBatch c d
  let d := endTails (d.adapt.tail + 1) d
  let acts := d.adapt.pend
  let d := acts.foldl (adaptAction c) { d with adapt := { d.adapt with pend := [] } }
  let st := ust c p
  let d := if d.adapt.run == .active && (!running c 0x1D || (running c0 p && st != .run && st != .halted)) then stopRun d else d
  let d := if d.adapt.copy == 2 && running c p then { d with adapt := { d.adapt with broken := true } } else d
  if !running c 0x1D then
    adaptReport c { d with adapt := { d.adapt with ready := false, filling := false } }
  else
    let d := if !d.adapt.ready && !d.adapt.filling && guarded d then { d with adapt := { d.adapt with filling := true } } else d
    adaptReport c d

/-- The ADAPT unit's work in the publication phase: the swap, or the empty Stitch (R398). -/
def adaptSwap (c : Units) (d : Dev) : Dev := if running c 0x1D then swapHalf c (adaptGuard d) else d

end Sys2Proof.Machine
end

