-- ==== Sys2Proof/Machine/Health.lean ====
section
/-!
DEFINITION. Health: the Bobbins' self-test (R499), temperature and the trip (R505 to R507), the current governor (R501 to
R504), and the log entries of a boundary (R497, R498).
-/
namespace Sys2Proof.Machine

/-! ### Self-test (R499) -/

/-- Erase every store of a Bobbin: zero with valid check bits (R467, R499). -/
def eraseBob (d : Dev) (n : Nat) : Dev :=
  let mine := fun (k : Nat) => k / 2 ^ 44 == 8 + n || k / 2 ^ 44 == 16 + n || k / 2 ^ 44 == 24 + n
  { d with mem := Memory.keep d.mem (fun k => !mine k), ecc := d.ecc.filter (fun e => !mine (e.1 * 8)) }

/-- BIST_DONE (R204, R499, R509). -/
def execBistDone (n : Fin 8) (pass : Bool) (area : BitVec 4) (loc : Word) (s : State) : Host.Outcome State Fault Refusal :=
  onDev (fun c d =>
    if !(alive d && (bobOf d n).bistBusy) then d
    else
      let area := if pass then 0 else area
      let loc := if pass then 0 else loc
      let st := ust c (8 + n)
      let d := eraseBob d n
      -- a Bobbin that fails its test accepts no word until it next leaves FAILED, whatever its state (R204)
      let d := if pass then d else stopBob d n
      let d := setBob d n (fun b =>
        let b := { b with bistBusy := false, result := if pass then 1 else 2, area, loc }
        if pass then (if st == .failed then { b with passDue := true, ueNow := 0, uePast := [] } else b)
        else if st == .disabled then
          { b with failDue := match b.failDue with | none => some 1 | x => x }
        else b)
      logOnly d 0x010D (8 + n) 255 [n, if pass then 1 else 2, area.toNat, loc.toNat]) s

/-! ### Temperature (R505 to R507) -/

/-- A temperature as a DETAIL word: signed, in 1/16 °C. -/
def tempWord (t : BitVec 16) : Nat := (t.signExtend 32).toNat

/-- Twelve readings; two consecutive ones of at least 115.0 °C trip the latch (R505, R506). -/
def takeSamples (c : Units) (d : Dev) (now : List (BitVec 16)) : Dev :=
  let old := d.health.sensors
  let hot := fun (v : BitVec 16) => !v.slt 1840
  let first := (List.range 12).find? (fun i => hot (now.getD i 0) && ((old[i]?).map (·.hot)).getD false)
  let sensors := (List.range 12).foldl (fun (v : Vector Sensor 12) i => vmod v i (fun q =>
    let t := now.getD i 0
    { q with now := t, cur := some (match q.cur with | none => t | some m => if m.slt t then t else m), hot := hot t })) old
  let d := { d with health := { d.health with sensors } }
  match first with
  | none => d
  | some i =>
    if d.health.trip then d
    else
      let t := now.getD i 0
      let d := { d with health := { d.health with trip := true, tripDue := true, tripSens := BitVec.ofNat 4 i, tripTemp := t } }
      raise c d .nothing { code := 0x0012, detail := [i, tempWord t], log := true }

/-- A write of 1 to BOB0_THERM.TRIP (R507). -/
def clearTrip (d : Dev) : Dev :=
  let ss := d.health.sensors.toList
  if d.health.trip && ss.all (fun q => !(1600 : BitVec 16).slt q.now) then
    let top := ss.foldl (fun m q => if m.slt q.now then q.now else m) (-32768)
    let d := { d with health := { d.health with trip := false } }
    let d := if d.ddr.tripSr then { d with ddr := { d.ddr with
        tripSr := false, state := if d.ddr.state == .selfRefresh then .ready else d.ddr.state
        -- in IDLE the DRAM stays in self-refresh (R477)
        idleSr := d.ddr.idleSr || (d.ddr.state == .selfRefresh && d.pwr.state == .idle) } } else d
    logOnly d 0x010F 255 255 [tempWord top]
  else d

/-! ### Densities (R501) -/

/-- Beat spans of a word from its issue, skipped blocks with them: start and length of each (R189, R241, R261). -/
def beatSpans (img : List Byte) (w : Nat) (desc aux : List Byte) : List (Nat × Nat) :=
  if wClass w == 1 && wOp w == 0 then [(22, maBeats w)]
  else if wClass w == 5 then
    (List.range (blockCount (imgBobs img) (wOp w) desc)).map (fun k => (blockAt (wOp w) desc aux k, blockBeats (wOp w) desc aux))
  else []

/-- Beat spans of a logical Bobbin of an image, first and last cycle of each in ascending order: of its OPS words, replay words as
if offered, and of the DECODE operations expanded at each issue of their slab; a word's issue is delayed as the argument says
(R193, R242). -/
def imgBeats (img : List Byte) (delay : Nat → Nat) (lb : Nat) : List (Nat × Nat) :=
  let at_ := fun (t : Nat) (l : List (Nat × Nat)) => (l.filter (fun s => s.2 != 0)).map (fun s => (t + s.1, t + s.1 + s.2 - 1))
  let mine := (slabDescs img).filter (fun x => x.1 == 5 && wTarget (slabOp img 5 x.2) == lb)
  sortBy (fun (a b : Nat × Nat) => decide (a.1 < b.1)) ((opsOf img).flatMap (fun w =>
    let t := wIssue w + delay w
    if wTarget w == lb then at_ t (beatSpans img w (descAt img (wDesc w)) (auxOf img w))
    else if wClass w == 9 then
      mine.flatMap (fun x =>
        let (slab, offset) := slabPlace img 5 x.2
        if slab == bitsOf w 5 0 then at_ (t + offset) (beatSpans img (slabOp img 5 x.2) (descAt img x.2) []) else [])
    else []))

/-- Parts of spans that lie inside, or outside, a set of windows. -/
def cutSpans (inside : Bool) (wins : List (Nat × Nat)) (l : List (Nat × Nat)) : List (Nat × Nat) :=
  let clip := fun (s w : Nat × Nat) => (Nat.max s.1 w.1, Nat.min s.2 w.2)
  let keep := fun (s : Nat × Nat) => s.1 < s.2
  if inside then (l.flatMap (fun s => wins.map (clip s))).filter keep
  else wins.foldl (fun l w => (l.flatMap (fun s => [(s.1, Nat.min s.2 w.1), (Nat.max s.1 w.2, s.2)])).filter keep) l

/-- Largest count of cycles in any 4,096-cycle span. -/
def maxIn4096 (l : List (Nat × Nat)) : Nat :=
  let starts := l.flatMap (fun s => [s.1, s.2 - 4096])
  starts.foldl (fun m a => Nat.max m (l.foldl (fun n s => n + (Nat.min s.2 (a + 4096) - Nat.max s.1 a)) 0)) 0

/-- Densities of each logical Bobbin of an image, in cycles per 4,096 (R501). -/
def densities (img : List Byte) (ramp : Nat → Nat) : List (Nat × Nat) :=
  let wins := (slackOf img).map (fun w => (w.1, w.1 + w.2.1))
  (List.range (imgBobs img)).map (fun lb =>
    let act := activeRuns (ramp lb) none (imgBeats img (fun _ => 0) lb)
    (maxIn4096 (cutSpans false wins act), maxIn4096 (cutSpans true wins act)))

/-! ### The governor (R502 to R504) -/

/-- Trimmed coefficients within their ranges (R515): 0 I_BASE in 1/8 A, 1 LEAK85 in 1/64 A, 2 K_ARRAY in 1/32 A. -/
def govTrim (i : Nat) : Nat :=
  let v := Config.govCoef i
  let r := if i == 0 then (192, 288) else if i == 1 then (128, 384) else (320, 432)
  Nat.max r.1 (Nat.min r.2 v)

/-- 256 × λ(T) for a reading in 1/16 °C (R502): the nearest integer to 256 × 2^((floor(T) − 85) / 20). -/
def lambda256 (t : BitVec 16) : Nat :=
  let e : Int := 180 + (t.toInt.fdiv 16 - 85)
  if e < 0 then 0
  else
    let x := 2 ^ e.toNat
    let root := (List.range 128).foldl (fun m i => let k := m + 2 ^ (127 - i); if k ^ 20 ≤ x then k else m) 0
    (root + 1) / 2

/-- F and S of a physical Bobbin, and the partition that maps it (R501). -/
def bobDensity (c : Units) (d : Dev) (n : Nat) : Nat × Nat × Option Nat :=
  if (bobOf d n).bistBusy then (4096, 0, none)
  else
    match (List.range 8).find? (fun p => running c p && (mapped d p).contains n) with
    | none => (0, 0, none)
    | some p =>
      let i := ((mapped d p).findIdx? (· == n)).getD 0
      let x := (partOf d p).dens.getD i (0, 0)
      (x.1, x.2, some p)

/-- The estimate of R502 at a rate for each partition, in units of 2^-25 A. -/
def govEstimate (c : Units) (d : Dev) (rate : Nat → Nat) : Nat :=
  (List.range 8).foldl (fun sum n =>
    let t := ((d.health.sensors[n]?).getD {}).max_
    let (f, s, p) := bobDensity c d n
    let r := match p with | some p => rate p | none => 256
    sum + govTrim 1 * lambda256 t * 2 ^ 11 + govTrim 2 * Nat.max (256 * f) (s * r)) (govTrim 0 * 2 ^ 22)

/-- Effective limit of R502 in units of 2^-25 A. -/
def govLimit (d : Dev) : Int :=
  let hotter : Int := (tjMax d).toInt - 16 * (cf d .govLimit 0 0 19 12 : Nat)
  (cf d .govLimit 0 0 31 20 * 2 ^ 22 : Nat) - (cf d .govLimit 0 0 11 0 : Nat) * (if hotter < 0 then 0 else hotter) * 2 ^ 17

/-- Smallest rate at which every SLACK word of an image stays within its window's MAX_DELAY (R503). -/
def slackFloor (img : List Byte) : Nat :=
  let xs := (opsOf img).filterMap (fun w =>
    if wSlack w then (windowOf img (wIssue w)).map (fun s => (wIssue w - s.1, s.2.2)) else none)
  ((List.range 256).find? (fun r => xs.all (fun x => cdiv (x.1 * (255 - r)) (r + 1) ≤ x.2))).getD 255 + 1

/-- The ramp of a Bobbin plans on the beats of the Stitch at the granted rates, behind the last beats before it (R193). -/
def planBob (c : Units) (d : Dev) (n : Nat) : Dev :=
  let start := d.clk.mono - d.clk.offset
  let mine := (List.range 8).flatMap (fun p =>
    match (mapped d p).findIdx? (· == n) with
    | some lb => if (bobOf d n).accepting && running c p && hasImage d p then imgBeats (imgOf d p) (slackDelay d (imgOf d p) p) lb else []
    | none => [])
  setBob (settleBob d n) n (fun b => { b with
    plan := (b.plan.filter (fun s => s.1 < d.clk.mono)).reverse.take 1 ++ mine.map (fun s => (start + s.1, start + s.2)) })

/-- The grants of a boundary (R502 to R504). -/
def govern (c : Units) (d : Dev) : Dev :=
  let on := cf d .govCfg 0 0 16 16 == 1
  let ps := (List.range 8).map (fun p =>
    if running c p && on && !(slackOf (imgOf d p)).isEmpty then
      some (Nat.max (cf d .govCfg 0 0 8 0) (slackFloor (imgOf d p)))
    else none)
  let rateAt := fun (r p : Nat) => match (ps[p]?).getD none with | some f => Nat.max r f | none => 256
  let lim := govLimit d
  let best := (List.range 256).findSome? (fun k => if (govEstimate c d (rateAt (256 - k)) : Int) ≤ lim then some (256 - k) else none)
  let r := best.getD 0
  let est := govEstimate c d (rateAt r)
  let d := (List.range 8).foldl (fun d p => setPart d p (fun s => { s with grant := rateAt r p })) d
  let d := if clocked d && d.clk.ticking then (List.range 8).foldl (planBob c) d else d
  let low := (List.range 8).foldl (fun m p => if running c p then Nat.min m (rateAt r p) else m) 256
  let h := d.health
  let demand : Bool := decide (lim < (est : Int))
  let amps := fun (x : Int) => if x ≤ 0 then 0 else (x.toNat + 2 ^ 22 - 1) / 2 ^ 22
  let d := { d with health := { h with
    rateMin := low, iEst := Nat.min 4095 (amps est), demand, demandN := if demand then h.demandN + 1 else 0 } }
  if demand && !h.demand then
    let mask := (List.range 8).foldl (fun m p => if best.isNone && ((ps[p]?).getD none).isSome then m + 2 ^ p else m) 0
    let d := { d with health := { d.health with govDem := true, demAt := some d.clk.mono } }
    raise c d .nothing { code := 0x0011, detail := [amps est, amps lim, tempWord (tjMax d), mask], log := true }
  else if h.demand && !demand then logOnly d 0x010E 255 255 [h.demandN]
  else d

/-! ### Boundary bookkeeping -/

/-- ECC_CORRECTED entries of the Stitch that has ended (R497), by store and Bobbin. -/
def logFixes (d : Dev) : Dev :=
  let unitOf := fun (f : Nat × Nat × Nat × Nat) => if f.2.1 < 8 then 8 + f.2.1 else 255
  let d := (sortBy (fun a b => decide (unitOf a < unitOf b)) d.health.fixes).foldl (fun d f =>
    logAt d 0x000E (unitOf f) 255 noWord noWord [f.1, f.2.2.1 % 2 ^ 32, f.2.2.1 / 2 ^ 32, f.2.2.2] 2) d
  { d with health := { d.health with fixes := [] } }

/-- MAX of the sensors, and the error counts of the Bobbins, move on at a boundary (R498, R505). -/
def healthTurn (d : Dev) : Dev :=
  let d := { d with health := { d.health with sensors := d.health.sensors.map (fun (q : Sensor) => { q with max_ := q.cur.getD q.now, cur := none }) } }
  { d with bobs := d.bobs.map (fun (b : Bob) => { b with uePast := (b.ueNow :: b.uePast).take 63, ueNow := 0 }) }

end Sys2Proof.Machine
end

