-- ==== Sys2Proof/Machine/Phases.lean ====
section
/-!
DEFINITION. The phases of the boundary window (R17, R40): publication, the refill of the slabs (R72, R281) and the governor (R502 to
R504), each carried out in the first cycle of its offsets (DESIGN CHOICE, log entry 95).
-/
namespace Sys2Proof.Machine

/-! ### Publication (R17, R134, R140, R320, R398) -/

/-- The bands of a job that were complete before a cycle; the last one, which carries the verdict, waits for a close before it (R134,
R140). -/
def readyBands (j : Job) (cycle : Nat) : List Nat :=
  let n := cdiv j.height j.bandRows
  (List.range (if j.isOpen || cycle ≤ j.closedAt then n - 1 else n)).filter (bandDone j cycle)

/-- The job had closed before a cycle, and every row of it was readable or marked missing: its verdict may be published. -/
def verdictReady (j : Job) (cycle : Nat) : Bool :=
  !j.isOpen && j.closedAt < cycle && (List.range j.height).all (fun r => rowCycle j r < cycle)

/-- Publish the bands and verdicts that were complete before a cycle, that of the boundary, to partitions committed RUN. -/
def publishJobs (c : Units) (cycle : Nat) (d : Dev) : Dev :=
  { d with jobs := d.jobs.map (fun j =>
      if !running c j.part then j
      else { j with
        bands := j.bands ++ (readyBands j cycle).filter (fun b => !j.bands.contains b)
        pubVer := j.pubVer || verdictReady j cycle }) }

/-! ### The refill of the slabs (R72, R281, R289) -/

/-- Ended contexts are freed and the stalls of the Stitch before end, then the slabs of partitions committed RUN are refilled. -/
def refill (c : Units) (d : Dev) : Dev :=
  let d := (d.kvm.ctx.filter (fun e => e.2.state == 4)).foldl (fun d e => freeCtx c d e.1) d
  let d := (d.kvm.ctx.filter (fun e => e.2.stalled)).foldl (fun d e => setCtx d e.1 (fun x => { x with stalled := false })) d
  let d := { d with txt := { d.txt with slots := d.txt.slots.map (fun s => { s with stalled := false, endDue := 0 }) } }
  kvUse ((List.range 8).foldl (fun d p => if running c p then kvBoundary c d p else d) d)

/-! ### The phases -/

/-- The publication phase: what was complete before the boundary's cycle. -/
def publish (c : Units) (d : Dev) : Dev :=
  let cycle := d.clk.mono - d.clk.offset
  adaptSwap c (publishText c cycle (publishJobs c cycle d))

/-- A phase is carried out. -/
def runPhase (c : Units) (d : Dev) (a : Act) : Dev :=
  match a with
  | .publish => publish c d
  | .refill => refill c d
  | .govern => govern c d
  | _ => d

end Sys2Proof.Machine
end

