-- ==== Sys2Proof/Machine/Move.lean ====
section
/-!
DEFINITION. MOVE words (R201 to R203, R482): on-chip moves chunk by chunk, DDR5 moves on the partition's owned cycles.
-/
namespace Sys2Proof.Machine

/-- Fields of a MOVE descriptor (R202). -/
structure MoveD where
  src : Nat
  dst : Nat
  rowBytes : Nat
  rows : Nat
  sStride : Nat
  dStride : Nat
  deriving DecidableEq, Repr

/-- Read a MOVE descriptor. -/
def moveD (b : List Byte) : MoveD :=
  { src := fld b 0 8, dst := fld b 8 8, rowBytes := fld b 16 4, rows := fld b 20 4, sStride := fld b 24 4, dStride := fld b 28 4 }

/-- Transfer size. -/
def MoveD.size (m : MoveD) : Nat := m.rowBytes * m.rows

/-- Row segments of bytes lo to lo + n − 1 of the transfer: row, offset in the row, length. -/
def rowSegs (rowBytes lo n : Nat) : List (Nat × Nat × Nat) :=
  let r0 := lo / rowBytes
  (List.range (cdiv (lo + n) rowBytes - r0)).map (fun i =>
    let r := r0 + i
    let a := max lo (r * rowBytes)
    (r, a - r * rowBytes, min (lo + n) ((r + 1) * rowBytes) - a))

/-- Read a segment of an on-chip source. -/
def moveRead (c : Units) (d : Dev) (f : Flight) (m : MoveD) (r o n : Nat) : Dev × List Byte :=
  let bob := f.bob.getD 0
  match placeOf m.src with
  | .localStore a =>
    let (d, _) := lsNote c d (whoBob f none) bob (a + r * m.sStride + o) n
    (d, lsGet d bob (a + r * m.sStride + o) n)
  | .claim b off =>
    let a := claimBase (imgOf d f.part) b + off + r * m.sStride + o
    let sp := pageSpans d a n
    let d := sp.foldl (fun d x => (eccRead c d (whoBob f none) x.1 x.2).1) d
    (d, sp.flatMap (fun x => peek d x.1 x.2))
  | .rows inp age r0 =>
    match agedJob d f.part inp age with
    | none => (d, List.replicate n 0xFF)
    | some j =>
      let (d, _) := noteRow c d (whoBob f none) j (r0 + r) o n
      (d, jobRowBytes d j (r0 + r) o n)
  | .bad => (d, List.replicate n 0)

/-- Where a segment of an on-chip destination is written. -/
def moveDest (d : Dev) (f : Flight) (m : MoveD) (r o : Nat) (bs : List Byte) : Nat × List Byte :=
  match placeOf m.dst with
  | .claim b off => (key 1 (claimBase (imgOf d f.part) b + off + r * m.dStride + o), bs)
  | .localStore a => lsPut (f.bob.getD 0) (a + r * m.dStride + o) bs
  | _ => (key 1 0, [])

/-- Chunk j of an on-chip move (R195, R201). -/
def actChunk (c : Units) (d : Dev) (f : Flight) (j : Nat) : Dev :=
  let m := moveD f.desc
  let n := min 512 (m.size - 512 * j)
  let (d, ws) := (rowSegs m.rowBytes (512 * j) n).foldl (fun (x : Dev × List (Nat × List Byte)) s =>
    let (d, bs) := moveRead c x.1 f m s.1 s.2.1 s.2.2
    (d, x.2 ++ [moveDest d f m s.1 s.2.1 bs])) (d, [])
  let prio := if wOp f.word.toNat == 2 then prioPage (wTarget f.word.toNat) false else prioMove
  let d := putAt d (f.done.getD f.limit) prio f.id ws
  if 512 * (j + 1) < m.size then addEv d (d.clk.offset + 1) prioRead f.id (.chunk (j + 1)) else d

/-- The first n bytes of a DDR5 move (R201, R480): reads at the last owned cycle taken. -/
def ddrMove (c : Units) (d : Dev) (f : Flight) (n : Nat) : Dev :=
  let m := moveD f.desc
  let op := wOp f.word.toNat
  let w : Who := if op == 5 then { unit := f.part, part := f.part } else whoBob f none
  let bob := f.bob.getD 0
  if op == 4 then
    (rowSegs m.rowBytes 0 n).foldl (fun d s =>
      let a := bitsOf m.src 24 0 + s.1 * m.sStride
      let (d, _) := lsNote c d w bob a s.2.2
      ddrWrite c d w regsMove (m.dst + s.1 * m.dStride) (lsGet d bob a s.2.2)) d
  else
    let bobs := if op == 5 then mapped d f.part else [bob]
    let (d, ws) := (rowSegs m.rowBytes 0 n).foldl (fun (x : Dev × List (Nat × List Byte)) s =>
      let (d, bs, _) := ddrRead c x.1 w regsMove (m.src + s.1 * m.sStride) s.2.2
      (d, x.2 ++ bobs.map (fun b => lsPut b (bitsOf m.dst 24 0 + s.1 * m.dStride) bs))) (d, [])
    match f.done with
    | some e => putAt d e prioMove f.id ws
    | none => storeAll c d w ws

/-- The work of a DDR5 move: all of it, or what its owned cycles carried before the boundary (R482). -/
def actMove (c : Units) (d : Dev) (f : Flight) : Dev :=
  match f.done with
  | some _ => ddrMove c d f (moveD f.desc).size
  | none => ddrMove c d f (fld f.aux 0 8)

/-- Steps that an accepted MOVE word schedules. -/
def startMove (d : Dev) (f : Flight) : Dev :=
  let m := moveD f.desc
  let op := wOp f.word.toNat
  if op ≤ 2 then
    let d := completeAt d f (f.issue + cdiv m.size 512 + (if op == 0 then 12 else 20))
    addEv d (f.issue + 6) prioRead f.id (.chunk 0)
  else
    let start := match (partOf d f.part).ddrLast with | some l => max (f.issue + 6) (l + 1) | none => f.issue + 6
    let per := periodOf d
    let part := ownedBefore (slotOwner d 0) per f.part start per * ddrG d
    let (d, last) := takeDdr d f.part f.issue m.size
    match last with
    | some l =>
      let d := if l + 160 < per then completeAt d f (l + 160)
        else setFlight d f.id (fun x => { x with aux := leBytes 8 m.size })
      addEv d l prioRead f.id .whole
    | none =>
      let d := setFlight d f.id (fun x => { x with aux := leBytes 8 (min m.size part) })
      addEv d (per - 1) prioRead f.id .whole

/-- A replay word that is not offered: a DDR5 move leaves idle the owned cycles that it would take, and no other work uses them
(R62, R482). -/
def idleWord (d : Dev) (p w : Nat) (desc : List Byte) : Dev :=
  if wClass w == 3 && 3 ≤ wOp w then (takeDdr d p d.clk.offset (moveD desc).size).1 else d

/-- Every byte of a row lies inside some claim of a store. -/
def coveredBy (bufs : List (Nat × Bool × Nat × Nat)) (st a n : Nat) : Bool :=
  let go := fun (x : Nat) => bufs.foldl (fun m b => if b.1 == st && b.2.2.1 ≤ x && x < b.2.2.1 + b.2.2.2 then max m (b.2.2.1 + b.2.2.2) else m) x
  a + n ≤ (List.range (bufs.length + 1)).foldl (fun x _ => go x) a

/-- Operand checks of a MOVE word and descriptor (R201, R202). -/
def moveOk (img : List Byte) (w : Nat) (desc : List Byte) : Bool :=
  let m := moveD desc
  let op := wOp w
  let bufs := bufsOf img
  let isLocal := fun a => match placeOf a with | .localStore _ => true | _ => false
  let inClaim := fun (a stride : Nat) => match placeOf a with
    | .claim b off => match bufAt img b with
      | some (1, _, _, size) => off + (m.rows - 1) * stride + m.rowBytes ≤ size
      | _ => false
    | _ => false
  let isRows := fun a => match placeOf a with | .rows inp _ _ => inp < (inputsOf img).length | _ => false
  let isDdr := fun (a stride : Nat) => a % 64 == 0 && (m.rows == 1 || stride % 64 == 0)
    && (List.range m.rows).all (fun r => coveredBy bufs 7 (a + r * stride) m.rowBytes)
  op ≤ 5 && bitsOf w 39 0 == 0 && zeroAt desc 32 32 && m.rowBytes % 64 == 0 && 64 ≤ m.rowBytes && 1 ≤ m.rows
    && (match op with
        | 0 => isLocal m.src && isLocal m.dst
        | 1 => (inClaim m.src m.sStride || isRows m.src) && isLocal m.dst
        | 2 => isLocal m.src && inClaim m.dst m.dStride
        | 4 => isLocal m.src && isDdr m.dst m.dStride
        | _ => isDdr m.src m.sStride && isLocal m.dst)

end Sys2Proof.Machine
end

