-- ==== Sys2Proof/Machine/Vector.lean ====
section
/-!
DEFINITION. The vector and special-function unit (R197 to R200, R541): element groups, scales, conversions, MAXABS and
ROWSTAT (R163, R256).
-/
namespace Sys2Proof.Machine

/-- Fields of a VECTOR descriptor (R199). -/
structure VecD where
  srcA : Nat
  srcB : Nat
  srcC : Nat
  dst : Nat
  n : Nat
  rows : Nat
  fmtA : Nat
  fmtB : Nat
  fmtC : Nat
  aScale : Nat
  sStride : Nat
  dStride : Nat
  imm : Word
  ccw : Ccw
  scaleA : Nat
  stat : Nat
  sOut : Nat
  deriving DecidableEq, Repr

/-- Read a VECTOR descriptor (R199). -/
def vecD (b : List Byte) : VecD :=
  { srcA := fld b 0 4, srcB := fld b 4 4, srcC := fld b 8 4, dst := fld b 12 4, n := fld b 16 4, rows := fld b 20 4
    fmtA := fld b 24 1, fmtB := fld b 25 1, fmtC := fld b 26 1, aScale := fld b 27 1, sStride := fld b 28 4
    dStride := fld b 32 4, imm := BitVec.ofNat 32 (fld b 36 4), ccw := ccwOf (fld b 40 8), scaleA := fld b 48 4
    stat := fld b 52 4, sOut := fld b 56 4 }

/-- L_op of a VECTOR operation (R197). -/
def vecLat (op : Nat) : Nat :=
  if op ≤ 5 then 4 else if op == 6 then 5 else if op == 7 then 9 else if op == 8 || op == 9 then 8
  else if op == 10 then 12 else 16

/-- Groups per row and in all (R200). -/
def vecGroups (v : VecD) : Nat := v.rows * cdiv v.n 256

/-- Values of operand A, scaled, of row r from element lo, and invalid scales to count (R199). -/
def readA (d : Dev) (n : Nat) (v : VecD) (r lo cnt : Nat) : List Xv × Nat :=
  let xs := lsVals d n v.fmtA (v.srcA + r * v.sStride) lo cnt
  if v.aScale == 1 then
    let s := scaleOf (lsWord d n v.scaleA)
    (xs.map (fun x => scaled x s.1), if r == 0 && lo == 0 then b2n !s.2 else 0)
  else if v.aScale == 2 then
    let ss := (List.range cnt).map (fun i => scaleOf (lsWord d n (v.scaleA + 4 * (lo + i))))
    (List.zipWith (fun x s => scaled x s.1) xs ss, if r == 0 then (ss.filter (fun s => !s.2)).length else 0)
  else (xs, 0)

/-- The exact or FP32 result of one element (R197, R198). -/
def vecFn (op : Nat) (a b c : Xv) : Xv :=
  match op with
  | 0 => a.add b | 1 => a.sub b | 2 => a.mul b | 3 => a.fma b c | 4 => a.max2 b | 5 => a.min2 b
  | 7 => f32 (exp32 a) | 8 => f32 (recip32 a) | 9 => f32 (rsqrt32 a) | _ => a

/-- Size in bytes of lo to lo + cnt − 1 of packed data and the first byte of them. -/
def spanOf (fmt lo cnt : Nat) : Nat × Nat :=
  if fmt == 7 then (lo / 256 * 144, 144 * (cdiv (lo + cnt) 256 - lo / 256))
  else if fmt == 5 then (lo / 2, cdiv (lo % 2 + cnt) 2) else (lo * fmtBytes fmt, cnt * fmtBytes fmt)

/-- ECC reports of the operands of a group, and of the scales and statistics that it uses (R199, R496; how often is the model's choice,
log entry 101). -/
def noteVec (c : Units) (d : Dev) (f : Flight) (v : VecD) (op r lo cnt : Nat) : Dev :=
  if d.ecc.isEmpty then d
  else
    let n := f.bob.getD 0
    let w := whoBob f none
    let rd := fun (d : Dev) (a fmt : Nat) => let s := spanOf fmt lo cnt; (lsNote c d w n (a + r * v.sStride + s.1) s.2).1
    let d := rd d v.srcA v.fmtA
    let d := if op ≤ 5 && v.srcB != 0xFFFFFFFF then rd d v.srcB v.fmtB else d
    let d := if op == 3 then rd d v.srcC v.fmtC else d
    let word := fun (d : Dev) (a : Nat) (per : Bool) => (lsNote c d w n (if per then a + 4 * lo else a) (if per then 4 * cnt else 4)).1
    let d := if v.aScale == 0 then d else word d v.scaleA (v.aScale == 2)
    if 10 ≤ op || v.ccw.fmt == 7 then d
    else if v.ccw.src == 2 then word d v.stat (v.ccw.gran == 1)
    else if v.ccw.src == 1 && v.ccw.gran == 1 then word d v.sOut true else d

/-- Convert values of one row from channel lo, with the scales used and whether each belongs to a new granule. -/
def vecConvert (d : Dev) (n : Nat) (v : VecD) (first : Bool) (lo : Nat) (xs : List Xv) : List Byte × Tally × List (Nat × List Byte) :=
  let k := v.ccw
  if k.fmt == 7 then let t := pf4Tile k.rtz xs; (t.1, t.2, [])
  else if k.src == 2 then
    if k.gran == 0 then
      let s := dynScale k.fmt (lsWord d n v.stat)
      let (cs, t) := convertAll k.fmt k.rtz k.nonsat (scaleOf s).1 xs
      (packCodes k.fmt d.free cs, { t with zr := if first && lo == 0 then b2n (s == 0) else 0 },
       if first && lo == 0 then [lsPut n v.sOut (leBytes 4 s.toNat)] else [])
    else
      let rs := xs.mapIdx (fun i x =>
        let s := dynScale k.fmt (lsWord d n (v.stat + 4 * (lo + i)))
        let (cs, t) := convertAll k.fmt k.rtz k.nonsat (scaleOf s).1 [x]
        (cs.headD 0, t, s))
      let t : Tally := rs.foldl (fun (t : Tally) x => t.join x.2.1) {}
      (packCodes k.fmt d.free (rs.map (·.1)),
       { t with zr := if first then (rs.filter (fun x => x.2.2 == (0 : Word))).length else 0 },
       if first then [lsPut n (v.sOut + 4 * lo) (rs.flatMap (fun x => leBytes 4 x.2.2.toNat))] else [])
  else if k.src == 1 && k.gran == 1 then
    let rs := xs.mapIdx (fun i x =>
      let s := scaleOf (lsWord d n (v.sOut + 4 * (lo + i)))
      let (cs, t) := convertAll k.fmt k.rtz k.nonsat s.1 [x]
      let zero : Bool := match s.1 with | .zero => s.2 | _ => false
      (cs.headD 0, if first then { t with zr := b2n !s.2, met := b2n zero } else t))
    (packCodes k.fmt d.free (rs.map (·.1)), rs.foldl (fun (t : Tally) x => t.join x.2) {}, [])
  else
    let sc := if k.src == 0 then Scale.one else (scaleOf k.scale).1
    let (cs, t) := convertAll k.fmt k.rtz k.nonsat sc xs
    (packCodes k.fmt d.free cs, if first && lo == 0 && k.zeroTensor then { t with met := 1 } else t, [])

/-- Element group i of an elementwise operation (R198, R200). -/
def actGroup (c : Units) (d : Dev) (f : Flight) (i : Nat) : Dev :=
  let v := vecD f.desc
  let op := wOp f.word.toNat
  let n := f.bob.getD 0
  let per := cdiv v.n 256
  let r := i / per
  let lo := i % per * 256
  let cnt := min 256 (v.n - lo)
  let d := noteVec c d f v op r lo cnt
  let (as, bad) := readA d n v r lo cnt
  let bs := if op ≤ 5 then
      (if v.srcB == 0xFFFFFFFF then as.map (fun _ => f32 v.imm) else lsVals d n v.fmtB (v.srcB + r * v.sStride) lo cnt)
    else as.map (fun _ => Xv.zero)
  let cs := if op == 3 then lsVals d n v.fmtC (v.srcC + r * v.sStride) lo cnt else as.map (fun _ => Xv.zero)
  let xs := List.zipWith (fun a p => vecFn op a p.1 p.2) as (bs.zip cs)
  let (bytes, t, scales) := vecConvert d n v (r == 0) lo xs
  let d := book { d with free := d.free + 1 } f v.ccw { t with zr := t.zr + bad }
  let off := (spanOf v.ccw.fmt lo cnt).1
  putAt d (f.issue + 6 + i + vecLat op) prioVec f.id (lsPut n (v.dst + r * v.dStride + off) bytes :: scales)

/-- Element group i of MAXABS (R163, R199, R200): the statistics of the tensor, of each channel or of each PF4 block so far;
behind the last group they are written. -/
def actMaxabs (c : Units) (d : Dev) (f : Flight) (i : Nat) : Dev :=
  let v := vecD f.desc
  let n := f.bob.getD 0
  let per := cdiv v.n 256
  let r := i / per
  let lo := i % per * 256
  let cnt := min 256 (v.n - lo)
  let d := noteVec c d f v 10 r lo cnt
  let (xs, bad) := readA d n v r lo cnt
  let old := f.vals.map Xv.unpack
  let stats : List Xv :=
    if v.ccw.gran == 0 then [maxAbs (old ++ xs)]
    else if v.ccw.gran == 1 then
      (if r == 0 then old ++ xs.map (fun x => maxAbs [x])
       else old.mapIdx (fun k m => if lo ≤ k && k < lo + cnt then maxAbs [m, xs.getD (k - lo) Xv.zero] else m))
    else old ++ (List.range (cdiv cnt 16)).map (fun b => maxAbs ((xs.drop (16 * b)).take 16))
  let d := countNum d n { zr := bad }
  if i + 1 < vecGroups v then setFlight d f.id (fun x => { x with vals := stats.map Xv.pack })
  else putAt d (f.done.getD f.limit) prioVec f.id [lsPut n v.stat (stats.flatMap (fun x => leBytes 4 (rne32 x).toNat))]

/-- One row of ROWSTAT (R237, R256): statistics entry and written values. -/
def rowStat (m l : Word) (s : List Xv) (conv : List Xv → List Nat × Tally) (val : Nat → Xv) : List Nat × List Byte × Tally :=
  let m2 := rne32 ((f32 m).max2 (scoreMax s))
  let ninf : Word := 0xFF800000
  let alpha : Word := if m2 == ninf then 0x3F800000 else exp32 (f32 (rne32 ((f32 m).sub (f32 m2))))
  let ph := s.map (fun x => if x == .inf true then Xv.zero else f32 (exp32 (f32 (rne32 (x.sub (f32 m2))))))
  let (codes, t) := conv ph
  let sum := Xv.sum Xv.zero (codes.map val)
  let l2 := rne32 (((f32 alpha).mul (f32 l)).add sum)
  (codes, leBytes 4 m2.toNat ++ leBytes 4 l2.toNat ++ leBytes 4 alpha.toNat ++ leBytes 4 (b2n (f32 l2).isZero), t)

/-- Element group i of ROWSTAT (R200, R256): its scores; with the last group of a row the row's step is made, readable L_op later. -/
def actRowstat (c : Units) (d : Dev) (f : Flight) (i : Nat) : Dev :=
  let v := vecD f.desc
  let n := f.bob.getD 0
  let k := v.ccw
  let per := cdiv v.n 256
  let r := i / per
  let lo := i % per * 256
  let cnt := min 256 (v.n - lo)
  let d := noteVec c d f v 11 r lo cnt
  let (xs, bad) := readA d n v r lo cnt
  let d := countNum d n { zr := bad }
  let d := if k.repZr && bad != 0 then setPart d f.part (fun s => { s with zr := s.zr + bad }) else d
  let s := f.vals.map Xv.unpack ++ xs
  if i % per + 1 != per then setFlight d f.id (fun x => { x with vals := s.map Xv.pack })
  else
    let d := setFlight d f.id (fun x => { x with vals := [] })
    let d := (lsNote c d (whoBob f none) n (v.stat + 16 * r) 16).1
    let (codes, entry, t) := rowStat (lsWord d n (v.stat + 16 * r)) (lsWord d n (v.stat + 16 * r + 4)) s
      (convertAll k.fmt k.rtz k.nonsat .one) (fun x => codeVal k.fmt x 0)
    let d := book d f k t
    let bytes := packCodes k.fmt d.free codes
    putAt { d with free := d.free + 1 } (f.issue + 6 + i + vecLat 11) prioVec f.id
      [lsPut n (v.dst + r * v.dStride) bytes, lsPut n (v.stat + 16 * r) entry]

/-- Steps that an accepted VECTOR word schedules (R200). -/
def startVector (d : Dev) (f : Flight) : Dev :=
  let d := completeAt d f (f.issue + vecGroups (vecD f.desc) + 5 + vecLat (wOp f.word.toNat))
  addEv d (f.issue + 6) prioRead f.id (.group 0)

/-- Element group i of a VECTOR word; the next one follows in the next cycle. -/
def actVector (c : Units) (d : Dev) (f : Flight) (i : Nat) : Dev :=
  let op := wOp f.word.toNat
  let d := if op ≤ 9 then actGroup c d f i else if op == 10 then actMaxabs c d f i else actRowstat c d f i
  if i + 1 < vecGroups (vecD f.desc) then addEv d (d.clk.offset + 1) prioRead f.id (.group (i + 1)) else d

/-! ### Checks (R541) -/

/-- Rows of a range end inside the local store. -/
def rowsFit (a rows stride len : Nat) : Bool := a + (rows - 1) * stride + len ≤ 20971520

/-- Operand checks of a VECTOR word and descriptor (R541). -/
def vectorOk (w : Nat) (desc : List Byte) : Bool :=
  let v := vecD desc
  let op := wOp w
  let none32 := 0xFFFFFFFF
  let k := v.ccw
  let usesB := op ≤ 5 && v.srcB != none32
  let src := fun (a fmt : Nat) => fmt < 8 && rowsFit a v.rows v.sStride (packedBytes fmt v.n)
  let maxabs := op == 10
  let rowstat := op == 11
  let rawCcw := fld desc 40 8
  let statLen := if maxabs then (if k.gran == 0 then 4 else if k.gran == 1 then 4 * v.n else 4 * v.rows * cdiv v.n 16)
    else if rowstat then 16 * v.rows else if k.gran == 0 then 4 else 4 * v.n
  let needStat := maxabs || rowstat || (k.src == 2 && k.fmt != 7)
  let needOut := !maxabs && ((k.src == 2 && k.fmt != 7) || (k.src == 1 && k.gran == 1))
  let outLen := if k.src == 2 && k.gran == 0 then 4 else 4 * v.n
  let vec := fun (need : Bool) (a len : Nat) => if need then a != none32 && a + len ≤ 20971520 else a == none32
  op ≤ 11 && bitsOf w 39 0 == 0 && zeroAt desc 60 4 && 1 ≤ v.n && 1 ≤ v.rows && v.rows ≤ 65536
    && v.aScale ≤ 2 && (v.aScale == 0 || (2 ≤ v.fmtA && v.fmtA ≤ 6))
    && v.fmtA < 8 && v.fmtB < 8 && v.fmtC < 8
    && (if maxabs then rawCcw == k.gran * 256 && k.gran < 3 else k.ok)
    && (!rowstat || k.src == 0)
    && vec (v.aScale != 0) v.scaleA (if v.aScale == 2 then 4 * v.n else 4)
    && vec needStat v.stat statLen && vec needOut v.sOut outLen
    && src v.srcA v.fmtA && (!usesB || src v.srcB v.fmtB) && (op != 3 || src v.srcC v.fmtC)
    && (maxabs || rowsFit v.dst v.rows v.dStride (packedBytes k.fmt v.n))

end Sys2Proof.Machine
end

