-- ==== Sys2Proof/Machine/Window.lean ====
section
/-!
DEFINITION. The window unit (R212 to R232): selvedge rules, GATHER, DEPTHWISE, pooling, resampling and rotated crops.
-/
namespace Sys2Proof.Machine

/-- Fields of a WINDOW descriptor (R229). -/
structure WinD where
  src : Nat
  dst : Nat
  w : Nat
  h : Nat
  c : Nat
  fmt : Nat
  rule : Nat
  mode : Nat
  kh : Nat
  kw : Nat
  sh : Nat
  sw : Nat
  dh : Nat
  dw : Nat
  t0 : Nat
  t1 : Nat
  padT : Nat
  padB : Nat
  padL : Nat
  padR : Nat
  ox0 : Nat
  ow : Nat
  oy0 : Nat
  oh : Nat
  sPitch : Nat
  dPitch : Nat
  ccw : Ccw
  deriving DecidableEq, Repr

/-- Read a WINDOW descriptor. -/
def winD (b : List Byte) : WinD :=
  { src := fld b 0 8, dst := fld b 8 8, w := fld b 16 2, h := fld b 18 2, c := fld b 20 2, fmt := fld b 22 1
    rule := bitsOf (fld b 23 1) 1 0, mode := bitsOf (fld b 23 1) 3 2, kh := fld b 24 1, kw := fld b 25 1
    sh := fld b 26 1, sw := fld b 27 1, dh := fld b 28 1, dw := fld b 29 1, t0 := fld b 30 1, t1 := fld b 31 1
    padT := fld b 32 2, padB := fld b 34 2, padL := fld b 36 2, padR := fld b 38 2
    ox0 := fld b 40 2, ow := fld b 42 2, oy0 := fld b 44 2, oh := fld b 46 2
    sPitch := fld b 48 4, dPitch := fld b 52 4, ccw := ccwOf (fld b 56 8) }

/-- Position that a tap reads on one axis of length n (R214); none for ZERO. -/
def tapPos (rule : Nat) (i : Int) (n : Nat) : Option Nat :=
  if 0 ≤ i && i < n then some i.toNat
  else if rule == 0 then none
  else if rule == 1 then some (if i < 0 then 0 else n - 1)
  else if n == 1 then some 0
  else
    let m := (i % (2 * (n - 1) : Nat)).toNat
    some (if m < n then m else 2 * (n - 1) - m)

/-- A source plane as a word reads it: kind, base or job, pitch, extent (R216 to R218). -/
structure Plane where
  base : Nat
  job : Option Job
  rows : Bool
  pitch : Nat
  w : Nat
  h : Nat
  b : Nat
  c : Nat
  deriving DecidableEq, Repr

/-- The source plane of a word. -/
def planeOf (d : Dev) (f : Flight) (v : WinD) : Plane :=
  let b := fmtBytes v.fmt
  match placeOf v.src with
  | .localStore a => { base := key (8 + f.bob.getD 0) a, job := none, rows := false, pitch := v.sPitch, w := v.w, h := v.h, b, c := v.c }
  | .claim i off =>
    { base := key 1 (claimBase (imgOf d f.part) i + off), job := none, rows := false, pitch := v.sPitch, w := v.w, h := v.h, b, c := v.c }
  | .rows inp age _ =>
    let j := agedJob d f.part inp age
    let a := agedEntry d f.part inp age
    { base := 0, job := j, rows := true, pitch := 0, w := (a.map (·.width)).getD v.w, h := (a.map (·.height)).getD v.h, b, c := v.c }
  | .bad => { base := 0, job := none, rows := true, pitch := 0, w := v.w, h := v.h, b, c := v.c }

/-- One tap of one channel: code, outside, read as 0xFF under R218, uncorrectable, and the stretches read. -/
structure Tap where
  code : Nat
  outside : Bool := false
  noData : Bool := false
  ecc : Bool := false
  at_ : List (Nat × Nat) := []
  deriving DecidableEq, Repr

/-- A tap of the bytes of some stretches. -/
def tapOf (d : Dev) (sp : List (Nat × Nat)) (outside : Bool) : Tap :=
  { code := leNat (sp.flatMap (fun x => peek d x.1 x.2)), outside, ecc := sp.any (fun x => eccBad d x.1 x.2), at_ := sp }

/-- Read one tap; page-store addresses are mapped to the staging halves (R214, R216, R218, R396). -/
def tapAt (d : Dev) (p : Plane) (rule : Nat) (x y : Int) (ch : Nat) : Tap :=
  let outside := !(0 ≤ x && x < p.w && 0 ≤ y && y < p.h)
  match tapPos rule x p.w, tapPos rule y p.h with
  | some px, some py =>
    let o := (px * p.c + ch) * p.b
    if p.rows then
      match p.job with
      | some j =>
        if j.bpp == p.c * p.b && rowReadable j py then tapOf d (jobReach d j (py * j.rowBytes + o) p.b) outside
        else { code := 256 ^ p.b - 1, outside, noData := true }
      | none => { code := 256 ^ p.b - 1, outside, noData := true }
    else
      let k := p.base + py * p.pitch + o
      tapOf d (if k / 2 ^ 44 == 1 then pageSpans d (k % 2 ^ 44) p.b else [(k, p.b)]) outside
  | _, _ => { code := 0, outside := true }

/-- ECC reports of a set of taps, each word once (R496). -/
def noteTaps (c : Units) (d : Dev) (f : Flight) (p : Plane) (ts : List Tap) : Dev :=
  if d.ecc.isEmpty then d
  else
    let words := (ts.flatMap (fun t => t.at_.flatMap (fun x =>
      (List.range ((x.1 + x.2 - 1) / 8 + 1 - x.1 / 8)).map (x.1 / 8 + ·)))).eraseDups
    words.foldl (fun d k =>
      let (d, bad) := eccRead c d (whoBob f (p.job.map (·.id))) (8 * k) 8
      match p.job with
      | some j => if bad then setJob d j.id (fun j => { j with ecc := true }) else d
      | none => d) d

/-- Taps of one output of a filter: rows outermost (R213, R221). -/
def filterTaps (v : WinD) (ox oy : Nat) : List (Int × Int) :=
  (List.range (v.t1 + 1 - v.t0)).flatMap (fun i => (List.range v.kw).map (fun j =>
    (((ox * v.sw + j * v.dw : Nat) : Int) - v.padL, ((oy * v.sh + (v.t0 + i) * v.dh : Nat) : Int) - v.padT)))

/-- Positions and weights of one axis of RESAMPLE (R224). -/
def axisTaps (mode o n nOut : Nat) : List (Int × Nat) :=
  if mode == 0 then [((((2 * o + 1) * n / (2 * nOut) : Nat) : Int), 1)]
  else if mode == 1 then
    let u : Int := rneDiv ((2 * o + 1) * n * 128 : Nat) nOut - 128
    let i0 := u.fdiv 256
    let fr := (u - 256 * i0).toNat
    [(i0, 256 - fr), (i0 + 1, fr)]
  else (List.range (n / nOut)).map (fun k => (((o * n / nOut + k : Nat) : Int), 1))

/-- Bilinear taps of one crop element from u and v (R224, R226): position and weight. -/
def crossTaps (xs ys : List (Int × Nat)) : List (Int × Int × Nat) :=
  ys.flatMap (fun y => xs.map (fun x => (x.1, y.1, x.2 * y.2)))

/-- Weighted exact sum of taps; the divisor is left to the conversion. -/
def weighSum (fmt : Nat) (ts : List (Tap × Nat)) : Xv :=
  Xv.sum Xv.zero (ts.map (fun t => (codeVal fmt t.1.code 0).mul (.fin false t.2 0)))

/-- The scale of a conversion with a further integer divisor. -/
def divScale (k : Ccw) (n : Nat) : Scale :=
  match if k.src == 0 then Scale.one else (scaleOf k.scale).1 with
  | .zero => .zero
  | .one => .val n 0
  | .val m e => .val (m * n) e

/-- Where row y of a result is written. -/
def winDest (d : Dev) (f : Flight) (v : WinD) (off : Nat) (bs : List Byte) : Nat × List Byte :=
  match placeOf v.dst with
  | .claim i o => (key 1 (claimBase (imgOf d f.part) i + o + off), bs)
  | .localStore a => lsPut (f.bob.getD 0) (a + off) bs
  | _ => (key 1 0, [])

/-- Order of the results of a window word within their cycle. -/
def prioWinAt (v : WinD) (f : Flight) : Nat :=
  match placeOf v.dst with
  | .claim _ _ => prioPage (wTarget f.word.toNat) true
  | _ => prioWin

/-- Value of one output channel of DEPTHWISE, pooling and RESAMPLE with the divisor and the taps read. -/
def winValue (d : Dev) (p : Plane) (v : WinD) (op : Nat) (bob : Nat) (aux : List Byte) (x y ch : Nat) : Xv × Nat × List Tap :=
  if op == 4 then
    let xs := axisTaps v.mode x v.w v.ow
    let ys := axisTaps v.mode y v.h v.oh
    let ts := (crossTaps xs ys).map (fun t => (tapAt d p v.rule t.1 t.2.1 ch, t.2.2))
    (weighSum v.fmt ts, ts.foldl (fun n t => n + t.2) 0, ts.map (·.1))
  else
    let ts := (filterTaps v (v.ox0 + x) (v.oy0 + y)).map (fun t => tapAt d p v.rule t.1 t.2 ch)
    let xs := ts.map (fun t => codeVal v.fmt t.code 0)
    if op == 1 then
      let wf := fld aux 4 1
      let ws := (List.range xs.length).map (fun i => valAt wf (lsGet d bob (fld aux 0 4 + (i * v.c + ch) * fmtBytes wf) (fmtBytes wf)) 0)
      let m := if fld aux 8 4 == 0xFFFFFFFF then BitVec.ofNat 32 (fld aux 12 4) else lsWord d bob (fld aux 8 4 + 4 * ch)
      ((Xv.sum Xv.zero (List.zipWith Xv.mul xs ws)).mul (f32 m), 1, ts)
    else if op == 2 then (match xs with | [] => Xv.zero | a :: t => t.foldl Xv.max2 a, 1, ts)
    else (Xv.sum Xv.zero xs, v.kh * v.kw, ts)

/-- GATHER: patch rows of source codes (R221). -/
def winGather (d : Dev) (f : Flight) (v : WinD) (p : Plane) : List (Nat × List Byte) × List Tap :=
  let rows := (List.range v.oh).flatMap (fun y => (List.range v.ow).map (fun x =>
    let ts := (filterTaps v (v.ox0 + x) (v.oy0 + y)).flatMap (fun t => (List.range v.c).map (fun ch => tapAt d p v.rule t.1 t.2 ch))
    let bs := ts.flatMap (fun t => leBytes p.b t.code)
    (winDest d f v ((y * v.ow + x) * v.dPitch) (bs ++ List.replicate (v.dPitch - bs.length) 0), ts)))
  (rows.map (·.1), rows.flatMap (·.2))

/-- Rows of a converted result. -/
def winRows (d : Dev) (f : Flight) (v : WinD) (p : Plane) : List (Nat × List Byte) × List Tap × Tally :=
  let op := wOp f.word.toNat
  let k := v.ccw
  let rows := (List.range v.oh).map (fun y =>
    let vs := (List.range v.ow).flatMap (fun x => (List.range v.c).map (fun ch => winValue d p v op (f.bob.getD 0) f.aux x y ch))
    let cs := vs.map (fun x => convertAll k.fmt k.rtz k.nonsat (divScale k x.2.1) [x.1])
    (winDest d f v (y * v.dPitch) (packCodes k.fmt (d.free + y) (cs.map (fun c => c.1.headD 0))),
     vs.flatMap (fun x => x.2.2), cs.foldl (fun (t : Tally) c => t.join c.2) {}))
  (rows.map (·.1), rows.flatMap (fun r => r.2.1), rows.foldl (fun (t : Tally) r => t.join r.2.2) {})

/-! ### CROP -/

/-- π × 2^120, rounded down. -/
def piFix : Nat := 4175892906503776358826876457663557747

/-- Sine and cosine series in units of 2^-120 for an angle in the first quadrant. -/
def trigSeries (x : Int) : Int × Int :=
  let one : Int := 2 ^ 120
  let x2 := x * x / one
  let go := fun (t0 : Int) (i0 : Int) =>
    ((List.range 30).foldl (fun (a : Int × Int × Int) _ =>
      let t := -(a.1 * x2) / (one * (a.2.2 * (a.2.2 + 1)))
      (t, a.2.1 + t, a.2.2 + 2)) (t0, t0, i0)).2.1
  (go x 2, go one 1)

/-- RNE(cos × 2^30) and RNE(sin × 2^30) of 2π × ANGLE / 65,536 (R226). -/
def cosSin (angle : Nat) : Int × Int :=
  let q := angle % 65536 / 16384
  let r := angle % 16384
  let (s, c) := trigSeries (((2 * piFix * r / 65536 : Nat) : Int))
  let s := rneDiv s (2 ^ 90)
  let c := rneDiv c (2 ^ 90)
  match q with | 0 => (c, s) | 1 => (-s, c) | 2 => (-c, -s) | _ => (s, -c)

/-- A box of R225. -/
structure Box where
  cx : Int
  cy : Int
  bw : Nat
  bh : Nat
  angle : Nat
  flags : Nat
  rsvd : Bool
  deriving DecidableEq, Repr

/-- Read a box entry. -/
def boxOf (b : List Byte) : Box :=
  { cx := sx 32 (fld b 0 4), cy := sx 32 (fld b 4 4), bw := fld b 8 4, bh := fld b 12 4, angle := fld b 16 2
    flags := fld b 18 1, rsvd := !(zeroAt b 19 1 && zeroAt b 24 8 && bitsOf (fld b 18 1) 7 1 == 0) }

/-- u and v of crop element (ox, oy), in 1/256 pixel (R226). -/
def cropPos (bx : Box) (ow oh ox oy : Nat) : Int × Int :=
  let (cs, sn) := cosSin bx.angle
  let a : Int := ((2 * ox + 1) * bx.bw : Nat) - ((ow * bx.bw : Nat) : Int)
  let b : Int := ((2 * oy + 1) * bx.bh : Nat) - ((oh * bx.bh : Nat) : Int)
  let den : Nat := 4 * ow * oh * 2 ^ 30
  let px : Int := bx.cx * (den : Int) + (a * cs * (2 * oh : Nat) - b * sn * (2 * ow : Nat))
  let py : Int := bx.cy * (den : Int) + (a * sn * (2 * oh : Nat) + b * cs * (2 * ow : Nat))
  (rneDiv (16 * px) den - 128, rneDiv (16 * py) den - 128)

/-- Taps of one bilinear sample. -/
def sampleTaps (u v : Int) : List (Int × Int × Nat) :=
  let ax := fun (u : Int) => let i := u.fdiv 256; let fr := (u - 256 * i).toNat; [(i, 256 - fr), (i + 1, fr)]
  crossTaps (ax u) (ax v)

/-- One crop: status byte, writes, taps, counts (R227). -/
def winCrop (d : Dev) (f : Flight) (v : WinD) (p : Plane) (n k : Nat) : Nat × List (Nat × List Byte) × List Tap × Tally :=
  let bob := f.bob.getD 0
  let bx := boxOf (lsGet d bob (fld f.aux 0 4 + 32 * k) 32)
  if n ≤ k || bitsOf bx.flags 0 0 == 0 then (0, [], [], {})
  else if bx.rsvd || bx.bw == 0 || 2 ^ 24 < bx.bw || bx.bh == 0 || 2 ^ 24 < bx.bh then (8, [], [], {})
  else
    let kc := v.ccw
    let rows := (List.range v.oh).map (fun y =>
      let els := (List.range v.ow).flatMap (fun x =>
        let (u, w) := cropPos bx v.ow v.oh x y
        (List.range v.c).map (fun ch => (sampleTaps u w).map (fun t => (tapAt d p v.rule t.1 t.2.1 ch, t.2.2))))
      let cs := els.map (fun ts => convertAll kc.fmt kc.rtz kc.nonsat (divScale kc 65536) [weighSum v.fmt ts])
      (winDest d f v (k * fld f.aux 8 4 + y * v.dPitch) (packCodes kc.fmt (d.free + y) (cs.map (fun c => c.1.headD 0))),
       els.flatten, cs.foldl (fun (t : Tally) c => t.join c.2) {}))
    let ts := rows.flatMap (fun r => r.2.1)
    let live := ts.filter (fun t => t.2 != 0)
    let st := 1 + 2 * b2n (live.any (fun t => t.1.outside)) + 4 * b2n (live.any (fun t => t.1.noData))
      + 16 * b2n (ts.any (fun t => t.1.ecc))
    (st, rows.map (·.1), ts.map (·.1), rows.foldl (fun (t : Tally) r => t.join r.2.2) {})

/-- ECC reports of the filter and the multipliers that a DEPTHWISE word reads (R222, R496). -/
def noteFilter (c : Units) (d : Dev) (f : Flight) (v : WinD) : Dev :=
  if wOp f.word.toNat != 1 then d
  else
    let n := f.bob.getD 0
    let d := (lsNote c d (whoBob f none) n (fld f.aux 0 4) (v.kh * v.kw * v.c * fmtBytes (fld f.aux 4 1))).1
    if fld f.aux 8 4 == 0xFFFFFFFF then d else (lsNote c d (whoBob f none) n (fld f.aux 8 4) (4 * v.c)).1

/-- The work of a WINDOW word. -/
def actWindow (c : Units) (d : Dev) (f : Flight) : Dev :=
  let v := winD f.desc
  let p := planeOf d f v
  let op := wOp f.word.toNat
  let fin := f.done.getD f.limit
  let prio := prioWinAt v f
  let bob := f.bob.getD 0
  if op == 0 then
    let (ws, ts) := winGather d f v p
    putAt (noteTaps c d f p ts) fin prio f.id ws
  else if op == 5 then
    let cnt := fld f.aux 16 4
    let n := if cnt == 0xFFFFFFFF then fld f.aux 4 2 else lsNat d bob cnt 4
    let d := if cnt == 0xFFFFFFFF then d else (lsNote c d (whoBob f none) bob cnt 4).1
    let d := (lsNote c d (whoBob f none) bob (fld f.aux 0 4) (32 * min n (fld f.aux 4 2))).1
    let rs := (List.range (fld f.aux 4 2)).map (winCrop d f v p n)
    let d := noteTaps c d f p (rs.flatMap (fun r => r.2.2.1))
    let met := b2n (v.ccw.zeroTensor && rs.any (fun r => bitOf r.1 0))
    let d := book { d with free := d.free + v.oh } f v.ccw (rs.foldl (fun (t : Tally) r => t.join r.2.2.2) { met })
    let d := putAt d fin prio f.id (rs.flatMap (fun r => r.2.1))
    putAt d fin prioWin f.id [lsPut bob (fld f.aux 12 4) (rs.map (fun r => BitVec.ofNat 8 r.1))]
  else
    let (ws, ts, t) := winRows d f v p
    let d := book { noteTaps c (noteFilter c d f v) f p ts with free := d.free + v.oh } f v.ccw { t with met := t.met + b2n v.ccw.zeroTensor }
    putAt d fin prio f.id ws

/-! ### Timing and checks (R231, R232) -/

/-- Output size of R212 on one axis, none when it is not positive. -/
def outSize (n k s dl lo hi : Nat) : Option Nat :=
  if n + lo + hi < dl * (k - 1) + 1 then none else some ((n + lo + hi - dl * (k - 1) - 1) / s + 1)

/-- Input rows that the computed region reaches (R231). -/
def rowsReached (v : WinD) (op : Nat) : Nat :=
  let ys : List Int := (List.range v.oh).flatMap (fun y =>
    if op == 4 then (axisTaps v.mode y v.h v.oh).map (·.1)
    else (List.range (v.t1 + 1 - v.t0)).map (fun i => (((v.oy0 + y) * v.sh + (v.t0 + i) * v.dh : Nat) : Int) - v.padT))
  ((ys.filter (fun (y : Int) => decide (0 ≤ y) && decide (y < v.h))).eraseDups).length

/-- Columns spanned (R231). -/
def winSpan (v : WinD) (op : Nat) : Nat := if op == 4 then v.w else (v.ow - 1) * v.sw + (v.kw - 1) * v.dw + 1

/-- DURATION of a WINDOW word (R231). -/
def winDur (desc aux : List Byte) (op : Nat) : Nat :=
  let v := winD desc
  let l0 := match placeOf v.src with | .localStore _ => 20 | _ => 36
  let nr := rowsReached v op * cdiv (winSpan v op * v.c * fmtBytes v.fmt) 512
  let nw := v.oh * cdiv (packedBytes v.ccw.fmt (v.ow * v.c)) 512
  if op == 0 then l0 + nr + v.oh * v.ow * cdiv v.dPitch 512
  else if op ≤ 3 then l0 + nr + v.oh * v.ow * cdiv v.c 128 * v.kh * v.kw + nw
  else if op == 4 then
    let t := if v.mode == 0 then 1 else if v.mode == 1 then 4 else v.w / v.ow * (v.h / v.oh)
    l0 + nr + v.oh * v.ow * cdiv (v.c * t) 128 + nw
  else 36 + fld aux 4 2 * (v.oh * cdiv (v.ow * v.c) 32 + 16)

/-- Steps that an accepted WINDOW word schedules: operands are read at ISSUE, results readable at completion. -/
def startWindow (d : Dev) (f : Flight) : Dev :=
  let d := completeAt d f (f.issue + winDur f.desc f.aux (wOp f.word.toNat))
  addEv d f.issue prioRead f.id .whole

/-- A plane of rows of len bytes lies inside its claim or the local store (R232). -/
def planeFits (img : List Byte) (a rows pitch len : Nat) : Bool :=
  match placeOf a with
  | .localStore b => rowsFit b rows pitch len
  | .claim i off => match bufAt img i with
    | some (1, _, _, size) => off + (rows - 1) * pitch + len ≤ size
    | _ => false
  | .rows inp _ r0 => inp < (inputsOf img).length && r0 == 0
  | .bad => false

/-- Operand checks of a WINDOW word with its descriptors (R228 to R232). -/
def windowOk (img : List Byte) (w : Nat) (desc aux : List Byte) : Bool :=
  let v := winD desc
  let op := wOp w
  let b := fmtBytes v.fmt
  let narrow := v.fmt == 6 || v.fmt == 4 || v.fmt == 2 || v.fmt == 3 || v.fmt == 1
  let ones := v.kh == 1 && v.kw == 1 && v.sh == 1 && v.sw == 1 && v.dh == 1 && v.dw == 1
    && v.padT == 0 && v.padB == 0 && v.padL == 0 && v.padR == 0 && v.ox0 == 0 && v.oy0 == 0
  let patch := (v.t1 + 1 - v.t0) * v.kw * v.c * b
  let outRow := packedBytes v.ccw.fmt (v.ow * v.c)
  let isRows := match placeOf v.dst with | .rows _ _ _ => true | _ => false
  let held := if op == 0 then v.t1 + 1 - v.t0 else if op ≤ 3 then v.kh
    else if v.mode == 0 then 1 else if v.mode == 1 then 2 else v.h / v.oh
  let raw := fld desc 56 8
  let needAux := op == 1 || op == 5
  -- an AUX address lies in the local store (R230)
  let inStore := fun (o : Nat) => decide (fld aux o 4 < 20971520)
  op ≤ 5 && bitsOf w 23 0 == 0 && (needAux == (bitsOf w 39 24 != 0xFFFF))
    && 1 ≤ v.w && v.w ≤ 16384 && 1 ≤ v.h && 1 ≤ v.c && v.c ≤ 4096 && v.rule < 3 && v.mode < 3
    && (op == 4 || v.mode == 0) && bitsOf (fld desc 23 1) 7 4 == 0
    && 1 ≤ v.kh && 1 ≤ v.kw && 1 ≤ v.sh && 1 ≤ v.sw && 1 ≤ v.dh && 1 ≤ v.dw && 1 ≤ v.ow && 1 ≤ v.oh
    && v.t0 ≤ v.t1 && v.t1 < v.kh && (op == 0 || (v.t0 == 0 && v.t1 + 1 == v.kh))
    && (narrow || (2 ≤ op && v.fmt == 0))
    && (op ≤ 3 || ones)
    && (op != 5 || (v.ow ≤ 2048 && v.oh ≤ 256))
    && (4 ≤ op || (match outSize v.w v.kw v.sw v.dw v.padL v.padR, outSize v.h v.kh v.sh v.dh v.padT v.padB with
        | some nx, some ny => v.ox0 + v.ow ≤ nx && v.oy0 + v.oh ≤ ny
        | _, _ => false))
    && planeFits img v.src v.h v.sPitch (v.w * v.c * b) && !isRows
    && (if op == 0 then v.dPitch % 64 == 0 && patch ≤ v.dPitch && planeFits img v.dst (v.oh * v.ow) v.dPitch v.dPitch && raw == 0
        else outRow ≤ v.dPitch && v.ccw.ok && v.ccw.fmt != 7 && v.ccw.src != 2 && !(v.ccw.src == 1 && v.ccw.gran == 1)
          && (if op == 5 then
                1 ≤ fld aux 4 2 && fld aux 4 2 ≤ 1024 && fld aux 0 4 % 32 == 0 && v.oh * v.dPitch ≤ fld aux 8 4
                  && inStore 0 && inStore 12
                  && (fld aux 16 4 == 0xFFFFFFFF || (fld aux 16 4 % 4 == 0 && inStore 16)) && zeroAt aux 6 2 && zeroAt aux 20 44
                  && planeFits img v.dst (fld aux 4 2) (fld aux 8 4) ((v.oh - 1) * v.dPitch + outRow)
              else planeFits img v.dst v.oh v.dPitch outRow))
    && (op != 1 || ((fld aux 4 1 == 4 || fld aux 4 1 == 2 || fld aux 4 1 == 3 || fld aux 4 1 == 1)
          && inStore 0 && (fld aux 8 4 == 0xFFFFFFFF || inStore 8)
          && zeroAt aux 5 3 && zeroAt aux 16 48))
    && (op != 4 || v.mode != 2 || (v.w % v.ow == 0 && v.h % v.oh == 0))
    && (op == 5 || held * (winSpan v op * v.c * b) ≤ 262144)

end Sys2Proof.Machine
end

