-- ==== Sys2Proof/Machine/Run.lean ====
section
/-!
DEFINITION. Running a Stitch: the steps of operations in flight, their completion and LATE (R63), and the offer of every
Pricking word at its issue cycle (R60 to R62, R71, R173, R174, R204).
-/
namespace Sys2Proof.Machine

/-! ### Steps of operations in flight -/

/-- Abandon an operation: its remaining steps never happen. -/
def abandon (d : Dev) (id : Nat) : Dev :=
  { d with flights := d.flights.filter (fun f => f.id != id), agenda := d.agenda.filter (fun e => e.fl != id) }

/-- GUARDS entry of a guard number (R173): logical Bobbin, REPORT, SAT_LIMIT. -/
def guardEntry (img : List Byte) (g : Nat) : Option (Nat × Bool × Nat) :=
  ((entries img 8).find? (fun e => fld e 0 1 == g)).map (fun e => (fld e 1 1, bitOf (fld e 2 1) 0, fld e 4 2))

/-- A GUARD word compares its count with SAT_LIMIT in its issue cycle (R174, R175). -/
def actGuard (d : Dev) (f : Flight) : Dev :=
  let g := bitsOf f.word.toNat 5 0
  let n := f.bob.getD 0
  let count := (assoc (bobOf d n).guards g).getD 0
  match guardEntry (imgOf d f.part) g with
  | none => d
  | some (_, _, lim) =>
    if count ≤ lim then d
    else
      let d := setBob d n (fun b => { b with tripNow := b.tripNow ||| BitVec.ofNat 64 (2 ^ g), replay := b.replay + 1 })
      setPart d f.part (fun p => { p with trips := p.trips ++ [(g, count)] })

/-- Saturations of a guarded conversion reach its guard (R174). -/
def addSats (d : Dev) (n g k : Nat) : Dev :=
  setBob d n (fun b => { b with guards := assocPut b.guards g (satAdd 16 ((assoc b.guards g).getD 0) k) })

/-- The end of a slab step: sequences whose end was met within it end now (R245, R288). -/
def actSlabEnd (c : Units) (d : Dev) (f : Flight) : Dev :=
  let slab := bitsOf f.word.toNat 5 0
  let limit := ((slabById (imgOf d f.part) slab).map (fun s => s.2.2.2.2)).getD 0
  let mine := sortBy (fun a b : Slot => decide (a.idx < b.idx)) (d.txt.slots.filter (fun s => s.part == f.part && s.slab == slab && s.endDue != 0))
  mine.foldl (fun d s =>
    let d := setSlot d s.ctx (fun y => { y with endDue := 0 })
    if s.endDue == 5 then endLimit c d s.ctx limit else endSeq c d s.ctx 6 false) d

/-- The work that an operation of one step does in it. -/
def actWhole (c : Units) (d : Dev) (f : Flight) : Dev :=
  match wClass f.word.toNat with
  | 3 => actMove c d f
  | 4 => actWindow c d f
  | 6 => actKvService c d f
  | 7 => actFetch d f
  | 8 => actOutCount c d f
  | 9 => actSlabEnd c d f
  | 10 => actGuard d f
  | _ => d

/-- A numbered group of an operation: elements of a vector word, a block of an ATTN word, a slot of a DECIDE, a group of a window
word. -/
def actPart (c : Units) (d : Dev) (f : Flight) (i : Nat) : Dev :=
  match wClass f.word.toNat with
  | 2 => actVector c d f i
  | 5 => actBlock c d f i
  | 7 => actSlot c d f i
  | _ => actGroup c d f i

/-- A numbered cycle or chunk of an operation: a write cycle of a WLOAD, a read cycle of a DECIDE, a chunk of a move. -/
def actCycle (c : Units) (d : Dev) (f : Flight) (j : Nat) : Dev :=
  match wClass f.word.toNat with
  | 1 => actWload c d f j
  | 7 => actLogits c d f j
  | _ => actChunk c d f j

/-- A numbered entry of an operation: of a KV or OUT list, or the end of an ATTN word. -/
def actEntry (c : Units) (d : Dev) (f : Flight) (k : Nat) : Dev :=
  match wClass f.word.toNat with
  | 5 => actAttnEnd d f
  | 6 => actKv c d f k
  | _ => actOutEntry c d f k

/-- Who writes for an operation (R542). -/
def whoOf (f : Flight) : Who :=
  match f.bob, wClass f.word.toNat with
  | some _, _ => whoBob f none
  | none, 6 => { unit := 0x1B, part := f.part }
  | none, 7 => { unit := 0x1A, part := f.part }
  | none, 3 => { unit := f.part, part := f.part }
  | none, _ => { unit := 0x1C, part := f.part }

/-- One step of an operation in flight. -/
def runAct (c : Units) (d : Dev) (f : Flight) : Act → Dev
  | .beat r b => if wClass f.word.toNat == 5 then actAttnBeat d f r b else actBeat c d f r b
  | .group i => actPart c d f i
  | .chunk j => actCycle c d f j
  | .whole => actWhole c d f
  | .entry k => actEntry c d f k
  | .put ws => storeAll c d (whoOf f) ws
  | .sats g n => addSats d (f.bob.getD 0) g n
  | .ovf n => countNum d (f.bob.getD 0) { ovf := n }
  | .finish => abandon d f.id
  | .publish | .refill | .govern | .tambours => d
  | .late =>
    if f.late then d
    else fault (setFlight d f.id (fun x => { x with late := true })) f.part (f.limit + 1) 2 f.op

/-- An agenda entry comes due; the operations of a Bobbin that accepts no word are abandoned (R204). -/
def runEv (c : Units) (d : Dev) (e : Ev) : Dev :=
  if e.act == .publish || e.act == .refill || e.act == .govern then runPhase c d e.act
  else if e.act == .tambours then tamboursDue c d
  else
    match flightOf d e.fl with
    | none => d
    | some f =>
      let dead := match f.bob with | some n => !(bobOf d n).accepting | none => false
      if dead && e.act != .late then abandon d f.id else runAct c d f e.act

/-- Run what comes due before a cycle, in order of cycle, order within it, and age. -/
def drainTo (c : Units) (stop : Nat) : Nat → Dev → Dev
  | 0, d => d
  | n + 1, d =>
    match d.agenda with
    | [] => d
    | e :: rest =>
      if stop ≤ e.at_ then d
      else drainTo c stop n (runEv c (elapse { d with agenda := rest } (e.at_ - d.clk.offset)) e)

/-- A bound on the steps of one Stitch. -/
def fuel : Nat := 1073741824

/-- Let time pass to a cycle of the Stitch; a tick of the Tambours that has come in it has come before anything else that the cycle brings
(R81). -/
def advanceTo (c : Units) (d : Dev) (cycle : Nat) : Dev :=
  let d := drainTo c cycle fuel d
  tamboursDue c (elapse d (cycle - d.clk.offset))

/-- Carry out the reads of a cycle that operations in flight make before a word is offered in it. -/
def drainReads (c : Units) (cycle : Nat) : Nat → Dev → Dev
  | 0, d => d
  | n + 1, d =>
    match d.agenda with
    | [] => d
    | e :: rest =>
      if cycle < e.at_ || prioRing ≤ e.prio then d
      else drainReads c cycle n (runEv c { d with agenda := rest } e)

/-- Let time pass to the issue cycle of a word; a Bobbin that stops in that very cycle refuses it (R204). -/
def reachIssue (c : Units) (d : Dev) (cycle : Nat) : Dev := drainReads c cycle fuel (advanceTo c d cycle)

/-! ### Offering words -/

/-- Address of an OPS word in the Pricking store. -/
def opKey (d : Dev) (img : List Byte) (p i : Nat) : Nat :=
  key 5 ((partOf d p).base * 256 + ((sect img 1).map (fun s => s.2.1)).getD 0 + 16 * i)

/-- The sequencer's read of a word: whether it met an uncorrectable error (R62, R496). -/
def readWord (c : Units) (d : Dev) (img : List Byte) (p i : Nat) : Dev × Bool :=
  eccRead c d { unit := 0x1F, part := p } (opKey d img p i) 16

/-- The sequencer's reads of the descriptors that an offered word names (R60, R496; DESIGN CHOICE, log entry 101). -/
def readDescs (c : Units) (d : Dev) (img : List Byte) (p : Nat) (is : List Nat) : Dev :=
  is.foldl (fun d i => (eccRead c d { unit := 0x1F, part := p }
    (imgKey d p + ((sect img 2).map (fun s => s.2.1)).getD 0 + 64 * i) 64).1) d

/-- Descriptors that a word names: none for a NOP, a SLAB and a GUARD word. -/
def wDescs (w : Nat) : List Nat :=
  if !(1 ≤ wClass w && wClass w ≤ 8) then []
  else wDesc w :: (if (wClass w == 4 || wClass w == 5) && bitsOf w 39 24 != 0xFFFF then [bitsOf w 39 24] else [])

/-- Whether a Bobbin accepts a word in the present cycle: not if what the cycle still holds, its writes included, makes it reach
ECC_FAIL_LIMIT (R204, R498, R539). -/
def acceptsNow (c : Units) (d : Dev) (n : Nat) : Bool :=
  (bobOf d n).accepting && (d.ecc.isEmpty || (bobOf (drainTo c (d.clk.offset + 1) fuel d) n).accepting)

/-- Schedule the steps of an accepted word. -/
def startWord (d : Dev) (f : Flight) : Dev :=
  match wClass f.word.toNat with
  | 1 => startArray d f
  | 2 => startVector d f
  | 3 => startMove d f
  | 4 => startWindow d f
  | 5 => startAttn d f
  | 6 => startKv d f
  | 7 => startText d f
  | 8 => startOut d f
  | 9 =>
    let fin := f.issue + ((slabById (imgOf d f.part) (bitsOf f.word.toNat 5 0)).map (fun s => s.2.2.1)).getD 0
    let d := setPart d f.part (fun p => { p with steps := p.steps ++ [⟨f.op, bitsOf f.word.toNat 5 0, f.issue⟩] })
    addEv (completeAt d f fin) fin 90 f.id .whole
  | 10 => addEv (completeAt d f (f.issue + 2)) f.issue (prioEnd + 1) f.id .whole
  | _ => d

/-- Offer a word at the present cycle: accepted, or ISSUE_MISS (R63, R204); a NOP issues nothing more. -/
def offer (c : Units) (d : Dev) (p i w : Nat) (desc aux : List Byte) (dur : Nat) (step : Option Nat) : Dev :=
  let now := d.clk.offset
  let img := imgOf d p
  let bob := if wTarget w < 8 then some (phys d img p (wTarget w)) else none
  let ok := match bob with | some n => acceptsNow c d n | none => true
  if !ok then fault d p now 1 i
  else
    let id := d.nextId
    let f : Flight :=
      { id, part := p, op := i, word := BitVec.ofNat 128 w, desc, aux, bob, step, issue := now, limit := now + dur, done := none }
    let d := match bob with | some n => setBob d n (fun b => { b with words := b.words + 1 }) | none => d
    if wClass w == 0 then d
    else
    let d := startWord { d with nextId := id + 1, flights := d.flights ++ [f] } f
    let inTime := match (flightOf d id).bind (fun f => f.done) with | some e => decide (e ≤ now + dur) | none => false
    if inTime then d else addEv d (now + dur + 1) prioRead id .late

/-- Mark an OPS word, or one expanded from it, as issued in this Stitch. -/
def markIssued (d : Dev) (p i : Nat) (desc : Option Nat) : Dev :=
  setPart d p (fun s => { s with issued := s.issued ++ [(i, desc)] })

/-- Whether words issue: RUN power, the tick, the partition committed RUN with its image. -/
def issuing (c : Units) (d : Dev) (p : Nat) : Bool := clocked d && d.clk.ticking && running c p && hasImage d p

/-- The guard of a replay word has tripped, and the word stands at least 2 cycles after it (R174). -/
def replayDue (d : Dev) (img : List Byte) (p w : Nat) : Bool :=
  let g := wGuard w
  let n := phys d img p (wTarget w)
  (bobOf d n).tripNow.getLsbD g && (partOf d p).trips.any (fun t => t.1 == g)

/-- Issue OPS word i of a partition when its class and function are those of the command (R62). The clock moves to the
word's issue cycle; a word whose cycle has passed, or that was judged before in this Stitch, changes nothing. -/
def issueWord (c : Units) (d : Dev) (p i cls op : Nat) : Dev :=
  if !issuing c d p then d
  else
    let img := imgOf d p
    match opAt img i with
    | none => d
    | some w =>
      let at_ := wIssue w + slackDelay d img p w
      if wClass w != cls || wOp w != op || (partOf d p).issued.contains (i, none) || at_ < d.clk.offset then d
      else
        let d := markIssued (reachIssue c d at_) p i none
        let (d, bad) := readWord c d img p i
        -- a replay word not offered: its cycles stay idle, those of the DDR5 resource too, and its planned beats are dummy beats (R62, R193)
        if wReplay w && !replayDue d img p w then idleWord d p w (descAt img (wDesc w))
        else if bad then fault d p at_ 1 i
        else offer c (readDescs c d img p (wDescs w)) p i w (descAt img (wDesc w)) (auxOf img w) (wDur w) none

/-- Issue the operation that a slab step expands from a descriptor (R71, R242, R294, R337): word index i is the SLAB word,
di the descriptor, kind its class; a descriptor that is not one of the slab's expands to nothing (one that fails its checks
is in no image that has loaded, R65). -/
def issueSlabWork (c : Units) (s : Dev) (p i di : Nat) (w kind dur : Nat) (ok : Bool) : Dev :=
  if !issuing c s p then s
  else
    match (partOf s p).steps.find? (fun t => t.op == i) with
    | none => s
    | some t =>
      let img := imgOf s p
      let (slab, offset) := slabPlace img kind di
      let at_ := t.issue + offset
      if t.slab != slab || slabKind img di != some kind || !ok || (partOf s p).issued.contains (i, some di) || at_ < s.clk.offset || periodOf s ≤ at_ then s
      else
        let s := markIssued (reachIssue c s at_) p i (some di)
        offer c (readDescs c s img p [di]) p i w (descAt img di) [] dur (some i)

/-! ### The words (R61) -/

/-- NOP issues nothing. -/
def execNop (p : Fin 8) (i : Nat) (s : State) : Host.Outcome State Fault Refusal := onDev (fun c d => issueWord c d p i 0 0) s
/-- MATMUL (R187, R189). -/
def execMatmul (p : Fin 8) (i : Nat) (s : State) : Host.Outcome State Fault Refusal := onDev (fun c d => issueWord c d p i 1 0) s
/-- WLOAD (R184, R187). -/
def execWload (p : Fin 8) (i : Nat) (s : State) : Host.Outcome State Fault Refusal := onDev (fun c d => issueWord c d p i 1 1) s
/-- VECTOR operations (R197). -/
def execAdd (p : Fin 8) (i : Nat) (s : State) : Host.Outcome State Fault Refusal := onDev (fun c d => issueWord c d p i 2 0) s
/-- SUB (R197). -/
def execSub (p : Fin 8) (i : Nat) (s : State) : Host.Outcome State Fault Refusal := onDev (fun c d => issueWord c d p i 2 1) s
/-- MUL (R197). -/
def execMul (p : Fin 8) (i : Nat) (s : State) : Host.Outcome State Fault Refusal := onDev (fun c d => issueWord c d p i 2 2) s
/-- FMA (R197). -/
def execFma (p : Fin 8) (i : Nat) (s : State) : Host.Outcome State Fault Refusal := onDev (fun c d => issueWord c d p i 2 3) s
/-- MAX (R197). -/
def execMax (p : Fin 8) (i : Nat) (s : State) : Host.Outcome State Fault Refusal := onDev (fun c d => issueWord c d p i 2 4) s
/-- MIN (R197). -/
def execMin (p : Fin 8) (i : Nat) (s : State) : Host.Outcome State Fault Refusal := onDev (fun c d => issueWord c d p i 2 5) s
/-- CONVERT (R197). -/
def execConvert (p : Fin 8) (i : Nat) (s : State) : Host.Outcome State Fault Refusal := onDev (fun c d => issueWord c d p i 2 6) s
/-- EXP (R197). -/
def execExp (p : Fin 8) (i : Nat) (s : State) : Host.Outcome State Fault Refusal := onDev (fun c d => issueWord c d p i 2 7) s
/-- RECIP (R197). -/
def execRecip (p : Fin 8) (i : Nat) (s : State) : Host.Outcome State Fault Refusal := onDev (fun c d => issueWord c d p i 2 8) s
/-- RSQRT (R197). -/
def execRsqrt (p : Fin 8) (i : Nat) (s : State) : Host.Outcome State Fault Refusal := onDev (fun c d => issueWord c d p i 2 9) s
/-- MAXABS (R163). -/
def execMaxabs (p : Fin 8) (i : Nat) (s : State) : Host.Outcome State Fault Refusal := onDev (fun c d => issueWord c d p i 2 10) s
/-- ROWSTAT (R256). -/
def execRowstat (p : Fin 8) (i : Nat) (s : State) : Host.Outcome State Fault Refusal := onDev (fun c d => issueWord c d p i 2 11) s
/-- LS_COPY (R201). -/
def execLsCopy (p : Fin 8) (i : Nat) (s : State) : Host.Outcome State Fault Refusal := onDev (fun c d => issueWord c d p i 3 0) s
/-- PS_READ (R201). -/
def execPsRead (p : Fin 8) (i : Nat) (s : State) : Host.Outcome State Fault Refusal := onDev (fun c d => issueWord c d p i 3 1) s
/-- PS_WRITE (R201). -/
def execPsWrite (p : Fin 8) (i : Nat) (s : State) : Host.Outcome State Fault Refusal := onDev (fun c d => issueWord c d p i 3 2) s
/-- DDR_READ (R201, R482). -/
def execDdrRead (p : Fin 8) (i : Nat) (s : State) : Host.Outcome State Fault Refusal := onDev (fun c d => issueWord c d p i 3 3) s
/-- DDR_WRITE (R201, R482). -/
def execDdrWrite (p : Fin 8) (i : Nat) (s : State) : Host.Outcome State Fault Refusal := onDev (fun c d => issueWord c d p i 3 4) s
/-- DDR_BCAST (R201, R482). -/
def execDdrBcast (p : Fin 8) (i : Nat) (s : State) : Host.Outcome State Fault Refusal := onDev (fun c d => issueWord c d p i 3 5) s
/-- GATHER (R220). -/
def execGather (p : Fin 8) (i : Nat) (s : State) : Host.Outcome State Fault Refusal := onDev (fun c d => issueWord c d p i 4 0) s
/-- DEPTHWISE (R221). -/
def execDepthwise (p : Fin 8) (i : Nat) (s : State) : Host.Outcome State Fault Refusal := onDev (fun c d => issueWord c d p i 4 1) s
/-- MAXPOOL (R222). -/
def execMaxpool (p : Fin 8) (i : Nat) (s : State) : Host.Outcome State Fault Refusal := onDev (fun c d => issueWord c d p i 4 2) s
/-- AVGPOOL (R222). -/
def execAvgpool (p : Fin 8) (i : Nat) (s : State) : Host.Outcome State Fault Refusal := onDev (fun c d => issueWord c d p i 4 3) s
/-- RESAMPLE (R223). -/
def execResample (p : Fin 8) (i : Nat) (s : State) : Host.Outcome State Fault Refusal := onDev (fun c d => issueWord c d p i 4 4) s
/-- CROP (R225). -/
def execCrop (p : Fin 8) (i : Nat) (s : State) : Host.Outcome State Fault Refusal := onDev (fun c d => issueWord c d p i 4 5) s
/-- FWD (R233). -/
def execFwd (p : Fin 8) (i : Nat) (s : State) : Host.Outcome State Fault Refusal := onDev (fun c d => issueWord c d p i 5 0) s
/-- BWD (R253). -/
def execBwd (p : Fin 8) (i : Nat) (s : State) : Host.Outcome State Fault Refusal := onDev (fun c d => issueWord c d p i 5 2) s
/-- KV_CREATE (R291). -/
def execKvCreate (p : Fin 8) (i : Nat) (s : State) : Host.Outcome State Fault Refusal := onDev (fun c d => issueWord c d p i 6 0) s
/-- KV_APPEND (R292). -/
def execKvAppend (p : Fin 8) (i : Nat) (s : State) : Host.Outcome State Fault Refusal := onDev (fun c d => issueWord c d p i 6 1) s
/-- KV_FREE (R293). -/
def execKvFree (p : Fin 8) (i : Nat) (s : State) : Host.Outcome State Fault Refusal := onDev (fun c d => issueWord c d p i 6 3) s
/-- KV_SERVICE (R294). -/
def execKvService (p : Fin 8) (i : Nat) (s : State) : Host.Outcome State Fault Refusal := onDev (fun c d => issueWord c d p i 6 4) s
/-- TXT_FETCH (R338). -/
def execTxtFetch (p : Fin 8) (i : Nat) (s : State) : Host.Outcome State Fault Refusal := onDev (fun c d => issueWord c d p i 7 0) s
/-- EMIT (R379). -/
def execEmit (p : Fin 8) (i : Nat) (s : State) : Host.Outcome State Fault Refusal := onDev (fun c d => issueWord c d p i 8 0) s
/-- JOB_DONE (R379). -/
def execJobDone (p : Fin 8) (i : Nat) (s : State) : Host.Outcome State Fault Refusal := onDev (fun c d => issueWord c d p i 8 1) s
/-- SLAB (R71). -/
def execSlab (p : Fin 8) (i : Nat) (s : State) : Host.Outcome State Fault Refusal := onDev (fun c d => issueWord c d p i 9 0) s
/-- GUARD (R174). -/
def execGuard (p : Fin 8) (i : Nat) (s : State) : Host.Outcome State Fault Refusal := onDev (fun c d => issueWord c d p i 10 0) s

/-- DECODE of a slab step (R242). -/
def execDecode (p : Fin 8) (i d : Nat) (s : State) : Host.Outcome State Fault Refusal :=
  onDev (fun c x =>
    let img := imgOf x p
    let desc := descAt img d
    let w := slabOp img 5 d
    issueSlabWork c x p i d w 5 (attnDur (fld img 20 1) 1 desc []) (attnOk img w desc [])) s

/-- KV_WRITE of a slab step (R294). -/
def execKvWrite (p : Fin 8) (i d : Nat) (s : State) : Host.Outcome State Fault Refusal :=
  onDev (fun c x =>
    let img := imgOf x p
    let desc := descAt img d
    let w := slabOp img 6 d
    issueSlabWork c x p i d w 6 (kvDur w desc) (kvOk img w desc)) s

/-- DECIDE of a slab step (R337, R340). -/
def execDecide (p : Fin 8) (i d : Nat) (s : State) : Host.Outcome State Fault Refusal :=
  onDev (fun c x =>
    let img := imgOf x p
    let desc := descAt img d
    issueSlabWork c x p i d (slabOp img 7 d) 7 (textDur 1 desc) (decideOk img desc)) s

/-! ### Completion and LATE -/

/-- Cycle of the first agenda entry of a kind. -/
def firstAt (d : Dev) (p : Act → Bool) : Option Nat := (d.agenda.find? (fun e => p e.act)).map (fun e => e.at_)

/-- Time passes until the next result becomes readable and its operation is complete. -/
def execOperationComplete (s : State) : Host.Outcome State Fault Refusal :=
  onDev (fun c d =>
    match firstAt d (fun a => a == .finish) with
    | some t => if clocked d && t < periodOf d then drainTo c (t + 1) fuel (advanceTo c d t) else d
    | none => d) s

/-- Time passes until LATE is recorded against an operation that has not completed in time. -/
def execLate (s : State) : Host.Outcome State Fault Refusal :=
  onDev (fun c d =>
    match firstAt d (fun a => a == .late) with
    | some t => if clocked d && t < periodOf d then drainTo c (t + 1) fuel (advanceTo c d t) else d
    | none => d) s

end Sys2Proof.Machine
end

