-- ==== Sys2Proof/Machine/Checks.lean ====
section
/-!
DEFINITION. The checks of a Pricking (R53 to R57, R64, R65, R70, R173, R176, R186, R190, R203, R543): image checks over the
image alone, binding checks over the configuration as it stands or as it will stand at the next boundary.
-/
namespace Sys2Proof.Machine

/-! ### Header and sections -/

/-- Check 0x05. -/
def headerOk (img : List Byte) : Bool :=
  zeroAt img 52 4 && zeroAt img 64 64 && 1 ≤ imgBobs img && imgBobs img ≤ 8 && fld img 21 1 ≤ 1
    && 1 ≤ fld img 22 2 && fld img 22 2 ≤ 16 && 1 ≤ fld img 28 4 && fld img 32 4 ≤ 20971520 && fld img 36 4 ≤ 134217728
    && fld img 40 4 ≤ 4096

/-- Entry size of a section type (R56), if the image's format version knows the type (R54). -/
def sectEntry (minor ty : Nat) : Option Nat :=
  if ty == 1 then some 16 else if ty == 2 then some 64 else if ty == 3 then some 16 else if ty == 4 then some 8
  else if ty == 5 then some 8 else if ty == 6 then some 32 else if ty == 7 then some 16
  else if ty == 8 then (if minor == 0 then none else some 16) else if ty == 9 then some 8 else none

/-- A valid Stitch period (R43). -/
def periodOk (p : Nat) : Bool := p % 256 == 0 && 65536 ≤ p && p ≤ 16777216

/-- Entries of the smaller sections (R57). -/
def smallOk (img : List Byte) : Bool :=
  let n := imgBobs img
  (entries img 3).all (fun e =>
      let s := fld e 0 1
      (s == 1 || s == 7 || (8 ≤ s && s < 8 + n)) && fld e 1 1 ≤ 1 && zeroAt e 2 2 && 1 ≤ fld e 8 4 && zeroAt e 12 4)
    && (entries img 4).all (fun e => fld e 0 1 < 4 && fld e 1 1 < 16 && zeroAt e 2 6)
    && (entries img 5).all (fun e => fld e 0 1 < 2 && fld e 1 1 < 16 && zeroAt e 2 6)
    && (entries img 7).all (fun e => 256 ≤ fld e 0 4 && 1 ≤ fld e 4 4 && fld e 0 4 + fld e 4 4 ≤ imgPeriod img
        && fld e 8 4 ≤ fld e 4 4 && zeroAt e 12 4)
    && (entries img 9).all (fun e => (List.range 8).all (fun i => if i < n then decide (fld e i 1 < 8) else fld e i 1 == 0xFF))

/-- Check 0x06 (R55 to R57). -/
def sectionsOk (img : List Byte) : Bool :=
  let t := fld img 24 4
  let k := fld img 22 2
  let es := sectTable img
  let size := fld img 8 4
  let types := es.map (·.1)
  t % 16 == 0 && 128 ≤ t && t + 16 * k ≤ size
    && es.all (fun e => sectEntry (imgMinor img) e.1 == some e.2.1 && e.2.2.1 % 16 == 0 && e.2.2.2.1 == e.2.2.2.2 * e.2.1
        && e.2.2.1 + e.2.2.2.1 ≤ size && (e.2.2.2.1 == 0 || 128 ≤ e.2.2.1)
        && (types.filter (· == e.1)).length == 1)
    && apart ((t, 16 * k) :: es.map (fun e => (e.2.2.1, e.2.2.2.1)))
    && ((sect img 1).map (fun s => s.2.2)).getD 0 == fld img 28 4
    && types.contains 9 == (fld img 21 1 == 1)
    && (match sect img 9 with | some s => s.2.2 == 1 | none => true)
    && smallOk img

/-! ### Operation words -/

/-- Greatest delay that the governor may give a word (R57, R543). -/
def maxDelay (img : List Byte) (w : Nat) : Nat :=
  if wSlack w then ((windowOf img (wIssue w)).map (fun x => x.2.2)).getD 0 else 0

/-- Check 0x08 of one word (R54, R60, R61). -/
def wordOk (img : List Byte) (w : Nat) : Bool :=
  let c := wClass w
  let t := wTarget w
  let bob : Bool := decide (t < imgBobs img)
  let m := imgMinor img
  c ≤ 10 && (if c == 0 || c == 3 then bob || t == 15 else if c ≤ 5 || c == 10 then bob else t == 15)
    && (wReplay w || wGuard w == 0)
    && (m != 0 || (c != 10 && !wReplay w && wGuard w == 0)) && (2 ≤ m || !wSlack w)

/-- Consecutive words ascend in ISSUE (R62). -/
def ascending : List Nat → Bool
  | a :: b :: t => wIssue a ≤ wIssue b && ascending (b :: t)
  | _ => true

/-- Check 0x0A of one word. -/
def fitsStitch (img : List Byte) (w : Nat) : Bool :=
  256 ≤ wIssue w && wIssue w + wDur w + maxDelay img w ≤ imgPeriod img - 1

/-! ### Occupancy (R189, R200, R202, R231, R262, R295, R337, R338, R381, R543) -/

/-- Unit inputs: 0 array, 1 weight path, 2 vector, 3 MOVE port, 4 window unit, 5 RING port of a logical Bobbin; 8 KV manager,
9 text unit, 10 output unit; 6 and 7 the links between neighbours of the extent, upward and downward. -/
def inputId (kind bob : Nat) : Nat := kind * 16 + bob

/-- A word at its declared issue: one of OPS, or one that a SLAB word expands, which issues OFFSET after it and moves with
it, under its SLACK bit and window. -/
structure Placed where
  word : Nat
  at_  : Nat
  base : Nat
  dur  : Nat
  deriving DecidableEq, Repr

/-- DURATION that the home chapter gives an expanded word (R261, R295, R340). -/
def slabDur (img : List Byte) (kind i : Nat) : Nat :=
  let e := descAt img i
  if kind == 5 then attnDur (imgBobs img) 1 e [] else if kind == 6 then kvDur (slabOp img 6 i) e else textDur 1 e

/-- The words of an image with those that its SLAB words expand (R71, R242, R294, R337), in issue order. -/
def placedOf (img : List Byte) : List Placed :=
  let ds := slabDescs img
  sortBy (fun a b : Placed => decide (a.at_ < b.at_)) ((opsOf img).flatMap (fun w =>
    ⟨w, wIssue w, w, wDur w⟩ :: (if wClass w != 9 then [] else
      (ds.filter (fun x => (slabPlace img x.1 x.2).1 == bitsOf w 5 0)).map (fun x =>
        ⟨slabOp img x.1 x.2, wIssue w + (slabPlace img x.1 x.2).2, w, slabDur img x.1 x.2⟩))))

/-- Links of the hop that a RING word's Bobbin sends (R247, R249): upward to the next, or downward from the last to the
first; link k joins the positions k and k + 1 of the extent. -/
def hopLinks (img : List Byte) (b : Nat) : List Nat :=
  let n := imgBobs img
  let at_ := physIn img 0
  let span := fun lo hi => (List.range (hi - lo)).map (fun k => lo + k)
  if b + 1 < n then (span (at_ b) (at_ (b + 1))).map (fun k => 6 * 16 + k) else (span (at_ 0) (at_ b)).map (fun k => 7 * 16 + k)

/-- Inputs that a word occupies with its first and last cycle, at its declared issue. -/
def occupies (img : List Byte) (x : Placed) : List (Nat × Nat × Nat) :=
  let w := x.word
  let s := x.at_
  let b := wTarget w
  let desc := descAt img (wDesc w)
  let aux := auxOf img w
  match wClass w with
  | 1 => if wOp w == 0 then [(inputId 0 b, s + 22, s + 21 + maBeats w)] else [(inputId 1 b, s + 22, s + 21 + 16 * wlLines w)]
  | 2 => [(inputId 2 b, s + 6, s + 5 + vecGroups (vecD desc))]
  | 3 => if wOp w ≤ 2 then [(inputId 3 b, s + 6, s + 5 + cdiv (moveD desc).size 512)] else []
  | 4 => [(inputId 4 b, s, s + winDur desc aux (wOp w) - 1)]
  | 5 =>
    let e := s + attnDur (imgBobs img) (wOp w) desc aux - 1
    [(inputId 0 b, s, e), (inputId 1 b, s, e), (inputId 2 b, s, e)]
      ++ (if wOp w == 1 then [(inputId 8 0, s, e)] else [])
      ++ (if wOp w == 0 && (attnD desc).ring then (inputId 5 b, s, e) :: (hopLinks img b).map (fun k => (k, s, e)) else [])
  | 6 => [(inputId 8 0, s, s + kvDur w desc - 1)]
  | 7 =>
    if wOp w == 0 then [(inputId 9 0, s, s + 39), (inputId 3 (fld desc 0 1), s + 6, s + 22)]
    else
      (inputId 9 0, s, s + x.dur + 31) :: (List.range (decSplit desc)).map (fun i =>
        (inputId 3 (fld desc 23 1 + i), s, s + fld desc 10 2 * decR desc - 1))
  | 8 => [(inputId 10 0, s, s + outDur (wOp w) desc - 1), (inputId 3 (fld desc 0 1), s + 6, s + outDur (wOp w) desc - 1)]
  | _ => []

/-- Two SLACK words of one window (R543). -/
def sameWindow (img : List Byte) (a b : Nat) : Bool :=
  wSlack a && wSlack b && (windowOf img (wIssue a)).isSome && windowOf img (wIssue a) == windowOf img (wIssue b)

/-- Two words never stand on one input in one cycle. -/
def inputsApart (img : List Byte) (a b : Placed) : Bool :=
  let same := sameWindow img a.base b.base
  let da := if same then 0 else maxDelay img a.base
  let db := if same then 0 else maxDelay img b.base
  (occupies img a).all (fun x => (occupies img b).all (fun y =>
    x.1 != y.1 || x.2.2 + da < y.2.1 || y.2.2 + db < x.2.1))

/-- Every pair of a list passes a test. -/
def pairwise {α : Type} (f : α → α → Bool) : List α → Bool
  | [] => true
  | a :: t => t.all (f a) && pairwise f t

/-- Check 0x0B. -/
def occupancyOk (img : List Byte) : Bool :=
  (opsOf img).all (fun w => !(wClass w == 1 && wOp w == 0 && wIssue w < 330)) && pairwise (inputsApart img) (placedOf img)

/-! ### Banks (R185, R186) -/

/-- WLOADs and MATMULs of a bank, and ATTN words, of a logical Bobbin. -/
def bankWords (img : List Byte) (b bank : Nat) : List Placed :=
  (placedOf img).filter (fun x =>
    wTarget x.word == b && ((wClass x.word == 1 && maBank x.word == bank) || wClass x.word == 5))

/-- Whether a cycle of word a, counted with its delay, stands before a cycle of word b. -/
def cycleBefore (img : List Byte) (a b : Placed) (ca cb : Nat) : Bool :=
  ca + (if sameWindow img a.base b.base then 0 else maxDelay img a.base) < cb

/-- One bank of a Bobbin: its words in issue order with the WLOAD in force. -/
def bankOk (img : List Byte) : List Placed → Option Placed → List (Placed × Nat) → Bool
  | [], _, _ => true
  | x :: t, cur, busy =>
    -- `busy`: words of the claim in force with their last cycle
    let w := x.word
    let free := fun (c : Nat) => busy.all (fun y => cycleBefore img y.1 x y.2 c)
    if wClass w == 5 then
      let e := x.at_ + attnDur (imgBobs img) (wOp w) (descAt img (wDesc w)) (auxOf img w) - 1
      free x.at_ && bankOk img t none [(x, e)]
    else if wOp w == 1 then
      free (x.at_ + 22) && bankOk img t (some x) [(x, x.at_ + 21 + 16 * wlLines w)]
    else match cur with
      | none => false
      | some l =>
        let wb := match pairOf (fld (descAt img (wDesc w)) 12 1) (fld (descAt img (wDesc l.word)) 8 1) with
          | some y => y.2.2 | none => 0
        cycleBefore img l x (l.at_ + 21 + 16 * wlLines l.word) (x.at_ + 22) && maDepth w * wb ≤ wlLines l.word * 128
          && bankOk img t cur (busy ++ [(x, x.at_ + 21 + maBeats w)])

/-- Check 0x0C. -/
def banksOk (img : List Byte) : Bool :=
  (List.range (imgBobs img)).all (fun b => bankOk img (bankWords img b 0) none [] && bankOk img (bankWords img b 1) none [])

/-! ### Claims, slabs, slack (R57, R65, R70) -/

/-- Size of the store of a claim; DDR5 at its largest capacity. -/
def claimRoom (st : Nat) : Nat := if st == 1 then 134217728 else if st == 7 then 137438953472 else 20971520

/-- Two byte ranges share a byte. -/
def meets (a n b m : Nat) : Bool := a < b + m && b < a + n && n != 0 && m != 0

/-- Check 0x0D. -/
def claimsOk (img : List Byte) : Bool :=
  let bs := bufsOf img
  bs.all (fun b => b.2.2.1 + b.2.2.2 ≤ claimRoom b.1)
    && pairwise (fun a b => a.1 != b.1 || (a.2.1 && b.2.1) || !meets a.2.2.1 a.2.2.2 b.2.2.1 b.2.2.2) bs

/-- Check 0x0E (R70). -/
def slabsOk (img : List Byte) : Bool :=
  let es := entries img 6
  let ids := es.map (fun e => fld e 0 1)
  es.all (fun e => fld e 0 1 < 64 && fld e 1 1 == 0 && 1 ≤ fld e 2 2 && fld e 2 2 ≤ 1024 && zeroAt e 9 3 && 1 ≤ fld e 12 4
      && fld e 12 4 ≤ 16384 && zeroAt e 16 16 && (ids.filter (· == fld e 0 1)).length == 1
      && (opsOf img).all (fun w => wClass w != 9 || bitsOf w 5 0 != fld e 0 1 || wDur w == fld e 4 4))
    && es.foldl (fun n e => n + fld e 2 2) 0 == fld img 40 4

/-- Check 0x0F. -/
def slackOk (img : List Byte) : Bool :=
  apart ((slackOf img).map (fun s => (s.1, s.2.1)))
    && (opsOf img).all (fun w => !wSlack w || (windowOf img (wIssue w)).isSome)

/-! ### Ranges that a word reads and writes -/

/-- Rows of bytes in a store: code (1 page store, 7 DDR5, 8 + i local store of logical Bobbin i), first byte, rows, stride,
length. -/
structure Rng where
  store  : Nat
  base   : Nat
  rows   : Nat
  stride : Nat
  len    : Nat
  deriving DecidableEq, Repr

/-- A row range shares a byte with a run of bytes. -/
def Rng.hits (r : Rng) (st a n : Nat) : Bool :=
  r.store == st && n != 0 && r.len != 0 && r.rows != 0 &&
    (if r.stride == 0 then meets r.base r.len a n
     else
       -- the first row that ends after a
       let i := if r.base + r.len ≤ a then (a - r.base - r.len) / r.stride + 1 else 0
       i < r.rows && r.base + i * r.stride < a + n)

/-- Two row ranges share a byte. -/
def Rng.meets (r s : Rng) : Bool := r.store == s.store && (List.range s.rows).any (fun i => r.hits s.store (s.base + i * s.stride) s.len)

/-- Rows at an address of R217 as a range. -/
def rngAt (img : List Byte) (b a rows stride len : Nat) : List Rng :=
  match placeOf a with
  | .localStore x => [⟨8 + b, x, rows, stride, len⟩]
  | .claim i off => [⟨1, claimBase img i + off, rows, stride, len⟩]
  | _ => []

/-- A run of bytes in the local store of a logical Bobbin. -/
def lsRun (b a n : Nat) : Rng := ⟨8 + b, a, 1, 0, n⟩

/-- The weight format that a MATMUL's bank holds when it issues. -/
def bankFmt (img : List Byte) (w : Nat) : Nat :=
  let l := (opsOf img).filter (fun x =>
    wClass x == 1 && wOp x == 1 && wTarget x == wTarget w && maBank x == maBank w && wIssue x < wIssue w)
  match l.getLast? with | some x => fld (descAt img (wDesc x)) 8 1 | none => 0

/-- Ranges that a WINDOW word writes. -/
def winWrites (img : List Byte) (w : Nat) : List Rng :=
  let v := winD (descAt img (wDesc w))
  let aux := auxOf img w
  let row := packedBytes v.ccw.fmt (v.ow * v.c)
  let b := wTarget w
  if wOp w == 0 then rngAt img b v.dst (v.oh * v.ow) v.dPitch v.dPitch
  else if wOp w == 5 then
    lsRun b (fld aux 12 4) (fld aux 4 2) ::
      (List.range (fld aux 4 2)).flatMap (fun k => rngAt img b (v.dst + k * fld aux 8 4) v.oh v.dPitch row)
  else rngAt img b v.dst v.oh v.dPitch row

/-- Ranges that a word reads and writes, as its descriptor names them. -/
def touches (img : List Byte) (w : Nat) : List Rng × List Rng :=
  let b := wTarget w
  let e := descAt img (wDesc w)
  let aux := auxOf img w
  match wClass w with
  | 1 =>
    if wOp w == 0 then
      let act := fld e 12 1
      let k := ccwOf (fld e 32 8)
      let (ne, ab) := match pairOf act (bankFmt img w) with | some x => (x.1, x.2.1) | none => (0, 0)
      let acts := if act == 7 then [⟨8 + b, fld e 0 4, maRows w, fld e 4 4, 144 * cdiv (maDepth w * ne) 256⟩]
        else (List.range (maDepth w)).map (fun i => (⟨8 + b, fld e 0 4 + i * fld e 8 4, maRows w, fld e 4 4, ab⟩ : Rng))
      let cols := fld e 13 1 + 1
      (acts ++ (if maOut w && fld e 28 4 != 0xFFFFFFFF then [lsRun b (fld e 28 4) (4 * cols)] else [])
        ++ (if maOut w && k.src == 1 && k.gran == 1 then [lsRun b (fld e 40 4) (4 * cols)] else []),
       if maOut w then [⟨8 + b, fld e 16 4, maRows w, fld e 20 4, packedBytes k.fmt cols⟩] else [])
    else
      let len := wlLines w * (if fld e 8 1 == 7 then 144 else 128)
      ([⟨8 + b, fld e 0 4, fld e 9 1 + 1, fld e 4 4, len⟩], [])
  | 2 =>
    let v := vecD e
    let op := wOp w
    let src := fun (a fmt : Nat) => (⟨8 + b, a, v.rows, v.sStride, packedBytes fmt v.n⟩ : Rng)
    let none32 := 0xFFFFFFFF
    let statLen := if op == 10 then (if v.ccw.gran == 0 then 4 else if v.ccw.gran == 1 then 4 * v.n else 4 * v.rows * cdiv v.n 16)
      else if op == 11 then 16 * v.rows else if v.ccw.gran == 0 then 4 else 4 * v.n
    let outLen := if v.ccw.gran == 0 then 4 else 4 * v.n
    ([src v.srcA v.fmtA] ++ (if op ≤ 5 && v.srcB != none32 then [src v.srcB v.fmtB] else [])
      ++ (if op == 3 then [src v.srcC v.fmtC] else [])
      ++ (if v.aScale == 0 then [] else [lsRun b v.scaleA (if v.aScale == 2 then 4 * v.n else 4)])
      ++ (if op == 10 || v.stat == none32 then [] else [lsRun b v.stat statLen])
      ++ (if v.ccw.src == 1 && v.ccw.gran == 1 then [lsRun b v.sOut outLen] else []),
     (if op == 10 then [] else [⟨8 + b, v.dst, v.rows, v.dStride, packedBytes v.ccw.fmt v.n⟩])
      ++ (if op == 10 || op == 11 then [lsRun b v.stat statLen] else [])
      ++ (if v.ccw.src == 2 && v.sOut != none32 then [lsRun b v.sOut outLen] else []))
  | 3 =>
    let m := moveD e
    let ddr := fun (a s : Nat) => [(⟨7, a, m.rows, s, m.rowBytes⟩ : Rng)]
    if wOp w ≤ 2 then (rngAt img b m.src m.rows m.sStride m.rowBytes, rngAt img b m.dst m.rows m.dStride m.rowBytes)
    else if wOp w == 3 then (ddr m.src m.sStride, rngAt img b m.dst m.rows m.dStride m.rowBytes)
    else if wOp w == 4 then (rngAt img b m.src m.rows m.sStride m.rowBytes, ddr m.dst m.dStride)
    else (ddr m.src m.sStride, (List.range (imgBobs img)).flatMap (fun i => rngAt img i m.dst m.rows m.dStride m.rowBytes))
  | 4 =>
    let v := winD e
    let op := wOp w
    let wf := fld aux 4 1
    (rngAt img b v.src v.h v.sPitch (v.w * v.c * fmtBytes v.fmt)
      ++ (if op == 1 then [lsRun b (fld aux 0 4) (v.kh * v.kw * v.c * fmtBytes wf)]
            ++ (if fld aux 8 4 == 0xFFFFFFFF then [] else [lsRun b (fld aux 8 4) (4 * v.c)]) else [])
      ++ (if op == 5 then [lsRun b (fld aux 0 4) (32 * fld aux 4 2)]
            ++ (if fld aux 16 4 == 0xFFFFFFFF then [] else [lsRun b (fld aux 16 4) 4]) else []),
     winWrites img w)
  | 5 =>
    let a := attnD e
    let rows := fun (base fmt n : Nat) => (⟨8 + b, base, n, rowPitch fmt a.hdim, packedBytes fmt a.hdim⟩ : Rng)
    let m := if wOp w == 1 then fld e 38 2 * a.qr else a.qr
    let stat := if a.stat == 0xFFFFFFFF then [] else [lsRun b a.stat (16 * m)]
    let kv := [rows a.k a.kvFmt (128 * a.nb), rows a.v a.kvFmt (128 * a.nb)]
    if wOp w == 1 then ([rows a.q a.qFmt m], rows a.o a.ccw.fmt m :: stat)
    else if wOp w == 0 then
      ([rows a.q a.qFmt a.qr] ++ kv,
       [rows a.o a.ccw.fmt a.qr] ++ stat
        ++ (if a.ring then [lsRun b (fld aux 4 4) (4 * a.nb * 128 * a.hdim * fmtBytes a.kvFmt)] else []))
    else
      let grads := [rows (fld aux 8 4) 0 (128 * a.nb), rows (fld aux 12 4) 0 (128 * a.nb)]
      ([rows a.q a.qFmt a.qr, rows a.o a.ccw.fmt a.qr, rows (fld aux 0 4) (fld aux 16 1) a.qr] ++ kv ++ stat
        ++ (if bitOf (fld aux 18 1) 0 then grads else []),
       rows (fld aux 4 4) 0 a.qr :: grads)
  | 6 =>
    if wOp w == 4 then ([], [])
    else if wOp w == 2 then
      let l := fld e 1 1
      let n := fld e 10 2 * headsOf (fld e 22 1) * rowPitch (fld e 20 1) (hdimOf (16 * fld e 23 1))
      ([lsRun l (fld e 12 4) n, lsRun l (fld e 16 4) n], [])
    else
      let l := fld e 0 1
      ([lsRun l (fld e 4 4) (16 * fld e 2 2)] ++ (if fld e 8 4 == 0xFFFFFFFF then [] else [lsRun l (fld e 8 4) 4]),
       [lsRun l (fld e 12 4) (8 * fld e 2 2)])
  | 7 =>
    if wOp w == 0 then ([], [lsRun (fld e 0 1) (fld e 4 4) 8208])
    else
      ((List.range (decSplit e)).map (fun i =>
          ⟨8 + (fld e 23 1 + i), fld e 24 4, fld e 10 2, fld e 28 4, decVB e * decSize e⟩),
       [lsRun (fld e 52 1) (fld e 56 4) (4 * fld e 10 2)])
  | 8 =>
    let l := fld e 0 1
    ([lsRun l (fld e 4 4) ((if wOp w == 0 then 64 else 4) * fld e 2 2)]
      ++ (if fld e 8 4 == 0xFFFFFFFF then [] else [lsRun l (fld e 8 4) 4]), [])
  | _ => ([], [])

/-! ### Guards (R173, R176) -/

/-- The CCW of a word, where it has one. -/
def wordCcw (img : List Byte) (w : Nat) : Option Nat :=
  let e := descAt img (wDesc w)
  match wClass w with
  | 1 => if wOp w == 0 then some (fld e 32 8) else none
  | 2 => some (fld e 40 8)
  | 4 => some (fld e 56 8)
  | 5 => some (fld e 48 8)
  | _ => none

/-- The guard that a word's CCW names, when it is guarded. -/
def guardOf (img : List Byte) (w : Nat) : Option Nat :=
  (wordCcw img w).bind (fun n => let k := ccwOf n; if k.guarded then some k.guard_ else none)

/-- Last cycle before a word's completion, with its greatest delay. -/
def lastCycle (img : List Byte) (x : Placed) : Nat := x.at_ + x.dur - 1 + maxDelay img x.base

/-- One guard of an image (R176). A DECODE is a word with a CCW of its own here, and the words that a SLAB expands count among
those that read and write (DEDUCED, log entry 75). -/
def guardOk (img : List Byte) (e : List Byte) : Bool :=
  let g := fld e 0 1
  let b := fld e 1 1
  let first := fld e 8 4
  let cnt := fld e 6 2
  let ws := opsOf img
  let own := ws.filter (fun w => wClass w == 10 && bitsOf w 5 0 == g)
  let guarded := (placedOf img).filter (fun x => guardOf img x.word == some g)
  let replay := (ws.drop first).take cnt
  let others := ws.take first ++ ws.drop (first + cnt)
  let own1 := fun (w : Nat) => (⟨w, wIssue w, w, wDur w⟩ : Placed)
  let mine := replay.map own1
  match own, (bufsOf img)[fld e 12 2]?, (bufsOf img)[fld e 14 2]? with
  | [gw], some inB, some outB =>
    let hits := fun (l : List Rng) (bf : Nat × Bool × Nat × Nat) => l.any (fun r => r.hits bf.1 bf.2.2.1 bf.2.2.2)
    let lo := guarded.foldl (fun m x => Nat.min m x.at_) (wIssue gw)
    let hi := mine.foldl (fun m x => Nat.max m (lastCycle img x)) 0
    let inside := fun (x : Placed) => x.at_ ≤ hi && lo ≤ lastCycle img x
    let narrow := fun (x : Placed) => lo ≤ x.at_ && lastCycle img x < wIssue gw
    wTarget gw == b
      && guarded.all (fun x => wTarget x.word == b && lastCycle img x < wIssue gw)
      && replay.length == cnt && replay.all (fun w => wReplay w && wGuard w == g && !wSlack w && wTarget w == b && guardOf img w == none)
      && (match replay.head? with | some w => wIssue gw + 2 ≤ wIssue w | none => false)
      && others.all (fun w => !(wReplay w && wGuard w == g))
      && (placedOf img).all (fun x => mine.contains x || !inside x || (let t := touches img x.word
            (narrow x || (!hits t.1 outB && !hits t.2 outB)) && !hits t.2 inB))
      && guarded.all (fun x => !hits (touches img x.word).2 inB)
  | _, _, _ => false

/-- Check 0x10. A version 1.0 image has no guards, and what it uses of them fails checks 0x06, 0x08 and 0x11 (R54). -/
def guardsOk (img : List Byte) : Bool :=
  let es := entries img 8
  let ids := es.map (fun e => fld e 0 1)
  imgMinor img == 0 || es.all (fun e => fld e 0 1 < 64 && fld e 1 1 < imgBobs img && fld e 2 1 ≤ 1 && fld e 3 1 == 0 && 1 ≤ fld e 6 2
      && (ids.filter (· == fld e 0 1)).length == 1 && guardOk img e)
    && (opsOf img).all (fun w => (wClass w != 10 || ids.contains (bitsOf w 5 0)) && (!wReplay w || ids.contains (wGuard w))
        && (match guardOf img w with | some g => ids.contains g | none => true))
    && (slabDescs img).all (fun x => match guardOf img (slabOp img x.1 x.2) with | some g => ids.contains g | none => true)

/-! ### Class operands (check 0x11) -/

/-- Accumulator entries of a Bobbin over the image (R190): ACC = 1 only on an entry written before by its type. -/
def accOk (img : List Byte) (b : Nat) : Bool :=
  ((placedOf img).foldl (fun (x : Bool × List (Option Bool)) y =>
    let w := y.word
    if wTarget w != b then x
    else if wClass w == 5 then (x.1, List.replicate 512 none)
    else if wClass w == 1 && wOp w == 0 then
      let int := isInt (fld (descAt img (wDesc w)) 12 1) && isInt (bankFmt img w)
      let span := (x.2.drop (maBase w)).take (maRows w)
      (x.1 && (!maAcc w || span.all (· == some int)),
       x.2.take (maBase w) ++ List.replicate (maRows w) (some int) ++ x.2.drop (maBase w + maRows w))
    else x) (true, List.replicate 512 none)).1

/-- R203: page data never reaches DDR5 through the local store. -/
def ddrSourcesOk (img : List Byte) : Bool :=
  let ws := opsOf img
  let out := (ws.filter (fun w => wClass w == 3 && wOp w == 4)).flatMap (fun w => (touches img w).1)
  let from_ := fun (w : Nat) => match placeOf (winD (descAt img (wDesc w))).src with | .claim _ _ => true | .rows _ _ _ => true | _ => false
  let page := ws.flatMap (fun w =>
    if wClass w == 3 && wOp w == 1 then (touches img w).2
    else if wClass w == 3 && wOp w == 2 then (touches img w).1
    else if wClass w == 4 && from_ w then (winWrites img w)
    else [])
  out.all (fun r => page.all (fun s => !r.meets s))

/-- Operands of one word. A NOP is loaded with any OP, for CLASS 0x0 has no OP of its own; the one that is offered bears OP 0x00 (R61;
DESIGN CHOICE, log entry 103). -/
def operandsOk (img : List Byte) (w : Nat) : Bool :=
  let cls := wClass w
  let op := wOp w
  let e := descAt img (wDesc w)
  let aux := auxOf img w
  let n := ((sect img 2).map (fun s => s.2.2)).getD 0
  let twoDesc := (cls == 4 || cls == 5) && bitsOf w 39 24 != 0xFFFF
  (cls == 0 || cls == 9 || cls == 10 || (wDesc w < n && (!twoDesc || bitsOf w 39 24 < n)))
    && (imgMinor img != 0 || guardOf img w == none)
    && match cls with
      | 0 => wOper w == 0
      | 1 => if op == 0 then matmulOk w e && (pairOf (fld e 12 1) (bankFmt img w)).isSome else op == 1 && wloadOk w e
      | 2 => vectorOk w e
      | 3 => moveOk img w e && ((op == 5) == (wTarget w == 15))
      | 4 => windowOk img w e aux
      | 5 => attnOk img w e aux && op != 1 && (!(attnD e).ring || ringOk img w)
      | 6 => kvOk img w e && op != 2
      | 7 => op == 0 && fetchOk img w e
      | 8 => outOk img w e
      | 9 => op == 0 && bitsOf w 55 6 == 0 && (slabById img (bitsOf w 5 0)).isSome
      | _ => op == 0 && !wReplay w && !wSlack w && wGuard w == 0 && bitsOf w 55 6 == 0 && wDur w == 2

/-- Operands of one slab descriptor (R54, R263, R296, R341). -/
def slabDescOk (img : List Byte) (x : Nat × Nat) : Bool :=
  let w := slabOp img x.1 x.2
  let e := descAt img x.2
  (imgMinor img != 0 || guardOf img w == none)
    && if x.1 == 5 then attnOk img w e [] else if x.1 == 6 then kvOk img w e else decideOk img e

/-- Every slot of every slab is covered by one DECIDE descriptor, and by one only (R341). -/
def decidesCover (img : List Byte) : Bool :=
  let ds := ((slabDescs img).filter (fun x => x.1 == 7)).map (fun x => descAt img x.2)
  (slabsOf img).all (fun s => (List.range s.2.1).all (fun t =>
    (ds.filter (fun e => fld e 0 1 == s.1 && fld e 8 2 ≤ t && t < fld e 8 2 + fld e 10 2)).length == 1))

/-- Check 0x11. -/
def classesOk (img : List Byte) : Bool :=
  (opsOf img).all (operandsOk img) && (slabDescs img).all (slabDescOk img) && decidesCover img && (List.range (imgBobs img)).all (accOk img) && ddrSourcesOk img

/-- The first image check that a transfer fails; 0 none (R65). -/
def imageCheck (img : List Byte) : Nat :=
  let size := fld img 8 4
  if !(img.length == size && size % 16 == 0 && size ≤ 4194304) then 0x01
  else if (crcImage img).toNat != fld img 12 4 then 0x02
  else if fld img 0 4 != 0x4B435250 then 0x03
  else if !(fld img 6 2 == 1 && imgMinor img ≤ 2) then 0x04
  else if !headerOk img then 0x05
  else if !sectionsOk img then 0x06
  else if !periodOk (imgPeriod img) then 0x07
  else if !(opsOf img).all (wordOk img) then 0x08
  else if !ascending (opsOf img) then 0x09
  else if !(opsOf img).all (fitsStitch img) then 0x0A
  else if !occupancyOk img then 0x0B
  else if !banksOk img then 0x0C
  else if !claimsOk img then 0x0D
  else if !slabsOk img then 0x0E
  else if !slackOk img then 0x0F
  else if !guardsOk img then 0x10
  else if !classesOk img then 0x11
  else 0

/-! ### Binding checks -/

/-- The configuration that binding checks judge against (R64). -/
structure BindView where
  period  : Nat
  first   : Nat
  count   : Nat
  states  : List UnitSt
  owners  : List (List Nat)
  g       : Nat
  weights : Nat × Nat
  adapt   : Nat × Nat
  active  : Bool
  deriving DecidableEq, Repr

/-- Owners of a resource's slots from words read by a function. -/
def ownersBy (f : Nat → Nat → Nat) : List (List Nat) :=
  (List.range 4).map (fun r => (List.range 32).flatMap (fun w => let x := f r w; (List.range 8).map (fun i => bitsOf x (4 * i + 3) (4 * i))))

/-- Values committed now; the memory controller counts as RUN only when it is READY. -/
def viewNow (c : Units) (d : Dev) (p : Nat) : BindView :=
  { period := periodOf d, first := (extent d p).1, count := (extent d p).2
    states := (List.range 32).map (fun u => if u == 0x1E && d.ddr.state != .ready then .disabled else ust c u)
    owners := ownersBy (fun r w => com d .share r w), g := ddrG d, weights := region d 0, adapt := region d 3, active := d.txt.active }

/-- Values as they will stand at the next boundary: shadows and requests stand in (R64). -/
def viewNext (c : Units) (d : Dev) (p : Nat) : BindView :=
  let reg := fun (k : Nat) => (sf d .dRegBase k 0 16 0 * 2 ^ 20, sf d .dRegSize k 0 17 0 * 2 ^ 20)
  { period := sf d .period 0 0 24 0, first := sf d .partCfg p 0 2 0, count := sf d .partCfg p 0 7 4
    states := (List.range 32).map (fun u =>
      if u == 0x1E then (if ust c u == .run && d.ddr.state == .ready && reqOf d u != some .disabled then .run else .disabled)
      else (reqOf d u).getD (ust c u))
    owners := ownersBy (fun r w => sha d .share r w), g := 96 + 16 * sf d .dCfg 0 0 2 0, weights := reg 0, adapt := reg 3
    active := d.txt.active != d.txt.swap }

/-- Check 0x22: the Bobbins that an image maps are DISABLED, the others of the extent FAILED or OFFLINE. -/
def mapOk (v : BindView) (img : List Byte) : Bool :=
  let n := imgBobs img
  let st := fun (i : Nat) => v.states.getD (8 + v.first + i) .disabled
  let map := (List.range n).map (fun i => if fld img 21 1 == 1 then fld ((entryAt img 9 0).getD []) i 1 else i)
  pairwise (fun a b => a != b) map && map.all (fun i => i < v.count && st i == .disabled)
    && (List.range v.count).all (fun i => map.contains i || st i == .failed || st i == .offline)

/-- DDR5 words of an image placed on owned cycles (R482), from the last cycle taken: each completes as declared. -/
def ddrPlaced (v : BindView) (img : List Byte) (p : Nat) : List Nat → Option Nat → Bool
  | [], _ => true
  | w :: t, last =>
    let desc := descAt img (wDesc w)
    let bytes := if wClass w == 6 then fld desc 0 4 else (moveD desc).size
    let own := fun s => (v.owners.getD 0 []).getD s 15
    let at_ := fun (s : Nat) =>
      takeCycles own v.period p (match last with | some l => Nat.max (s + 6) (l + 1) | none => s + 6) (cdiv bytes v.g)
    let ok := fun (s : Nat) => match at_ s with | some l => decide (l + 160 ≤ s + wDur w) | none => false
    cdiv bytes v.g == 0 && ddrPlaced v img p t last ||
      ((List.range (maxDelay img w + 1)).all (fun k => ok (wIssue w + k)) && ddrPlaced v img p t (at_ (wIssue w + maxDelay img w)))

/-- Check 0x23: TXT, OUT and KVM spans lie in owned slots; DDR5 words meet their completion. -/
def slotsOk (v : BindView) (img : List Byte) (p : Nat) : Bool :=
  let own := fun (r s : Nat) => (v.owners.getD r []).getD s 15
  let span := fun (r : Nat) (x : Placed) (dur : Nat) => ownsSpan (own r) v.period p x.at_ (x.at_ + dur - 1 + maxDelay img x.base)
  (placedOf img).all (fun x =>
      let e := descAt img (wDesc x.word)
      match wClass x.word with
      | 5 => wOp x.word != 1 || span 3 x x.dur
      | 6 => span 3 x (kvDur x.word e)
      | 7 => span 1 x (if wOp x.word == 0 then 40 else x.dur + 32)
      | 8 => span 2 x (outDur (wOp x.word) e)
      | _ => true)
    && ddrPlaced v img p ((opsOf img).filter (fun w => (wClass w == 3 && 3 ≤ wOp w) || (wClass w == 6 && wOp w == 4))) none

/-- The other partitions that hold an image in a view: one that becomes DISABLED holds none (R49, R64). -/
def othersIn (d : Dev) (v : BindView) (p : Nat) : List Nat :=
  (List.range 8).filter (fun q => q != p && hasImage d q && v.states.getD q .disabled != .disabled)

/-- Check 0x24 (R481). -/
def storesOk (d : Dev) (v : BindView) (img : List Byte) (p : Nat) : Bool :=
  let others := (othersIn d v p).flatMap (fun q => bufsOf (imgOf d q))
  let within := fun (r : Nat × Nat) (b : Nat × Bool × Nat × Nat) => r.1 ≤ b.2.2.1 && b.2.2.1 + b.2.2.2 ≤ r.1 + r.2
  (bufsOf img).all (fun b =>
    (b.1 != 7 || within v.weights b || within v.adapt b)
      && (b.1 != 1 && b.1 != 7 || others.all (fun o => o.1 != b.1 || (o.2.1 && b.2.1) || !meets o.2.2.1 o.2.2.2 b.2.2.1 b.2.2.2)))

/-- TABLE_SET is loaded in the active buffer (R316). -/
def setLoaded (d : Dev) (v : BindView) (img : List Byte) : Bool :=
  bufSt d.txt v.active == .valid && (bufSet d.txt v.active).toNat == fld img 44 4
    && (slabDescs img).all (fun x => x.1 != 7 || decideSetOk d v.active (descAt img x.2))

/-- The memory controller is one of the units an image uses (R475); a KV_WRITE is a KV word. -/
def usesDdr (d : Dev) (img : List Byte) (p : Nat) : Bool :=
  (bufsOf img).any (fun b => b.1 == 7) || (opsOf img).any (fun w => wClass w == 3 && 3 ≤ wOp w) || hasClass img 6
    || (slabDescs img).any (fun x => x.1 == 6)
    || (d.adapt.run == .active && cf d .aCfg 0 0 2 0 == p)

/-- Every unit that an image uses is RUN (R544). -/
def unitsOk (d : Dev) (v : BindView) (img : List Byte) (p : Nat) : Bool :=
  let st := fun u => v.states.getD u .disabled
  (List.range 9).all (fun i => !usesUnit img (0x14 + i) || st (0x14 + i) == .run) && (!usesDdr d img p || st 0x1E == .run)

/-- The first binding check that fails; 0 none (R65). -/
def bindCheck (d : Dev) (v : BindView) (img : List Byte) (p : Nat) : Nat :=
  let bad := ((List.range v.count).filter (fun i =>
    let s := v.states.getD (8 + v.first + i) .disabled
    s == .failed || s == .offline)).length
  let full := fld img 21 1 == 0
  let rest := othersIn d v p
  let set := fld img 44 4
  if imgPeriod img != v.period then 0x20
  else if imgBobs img != (if full then v.count else v.count - bad) then 0x21
  else if !mapOk v img then 0x22
  else if !slotsOk v img p then 0x23
  else if !storesOk d v img p then 0x24
  else if rest.any (fun q => (inputsOf (imgOf d q)).any (fun b => (inputsOf img).contains b)
      || (outputsOf (imgOf d q)).any (fun b => (outputsOf img).contains b)) then 0x25
  else if !unitsOk d v img p then 0x26
  else if set != 0 && !setLoaded d v img then 0x27
  else if 8192 < rest.foldl (fun n q => n + fld (imgOf d q) 40 4) (fld img 40 4) then 0x28
  else 0

end Sys2Proof.Machine
end

