-- ==== Sys2Proof/Machine/Timed.lean ====
section
/-!
DEFINITION. Events that fall due by the clock: line triggers, capture points, mode changes, pattern steps and feed periods of the
Tambours (R84 to R96), the ends of a calibration (R106), the job timeout (R127), the sending of packets (R15, R372), the hold timeout
(R377), the samples of the sensors (R505), and self-refresh and MR4 of DDR5 (R477). The command lets time pass to the tick or cycle
at which its event is due, and the event acts there; one that is overdue acts with the tick at which it was due; one that lies beyond
the running Stitch waits for its boundary and does nothing yet (DESIGN CHOICE, log entry 91).
-/
namespace Sys2Proof.Machine

/-- Let k cycles pass, where they lie within the running Stitch. -/
def passCycles (c : Units) (d : Dev) (k : Nat) : Option Dev :=
  if k = 0 then some d
  else if !d.clk.ticking then
    let e := elapse d k
    some { e with clk := { e.clk with offset := 0 } }
  else if d.clk.offset + k < periodOf d then some (advanceTo c d (d.clk.offset + k))
  else none

/-- What happens when a tick has come. -/
def atTick (c : Units) (d : Dev) (n : Nat) (f : Dev → Dev) : Dev :=
  match passCycles c d (cyclesTo d n) with
  | some e => f e
  | none => d

/-- An event of a Tambour, given by the tick at which it falls due: it acts when that tick has come, if it is due then as well. -/
def atDue (c : Units) (d : Dev) (due : Dev → Option Nat) (f : Dev → Nat → Dev) : Dev :=
  match due d with
  | some n => atTick c d n (fun e => if due e == some n then f e n else e)
  | none => d

/-- What happens when a CCLK cycle, counted since lock, has come. -/
def atCycle (c : Units) (d : Dev) (n : Nat) (f : Dev → Dev) : Dev :=
  match passCycles c d (n - d.clk.mono) with
  | some e => f e
  | none => d

/-- CCLK cycles in a millisecond: 1.1 GHz (R21). -/
def cyclesPerMs : Nat := 1100000

/-- CCLK cycles in a microsecond. -/
def cyclesPerUs : Nat := 1100

/-! ### Tambours -/

/-- LINE_TRIGGER in timer mode: TICKS after the trigger before it (R85, R92). -/
def execLineTrigger (t : Fin 4) (s : State) : Host.Outcome State Fault Refusal :=
  onDev (fun c d => atDue c d (fun e => timerTick e t) (fun e n => acceptTrigger e t n)) s

/-- ENC_TIMEOUT: MICROS µs without a counted edge (R89). -/
def execEncTimeout (t : Fin 4) (s : State) : Host.Outcome State Fault Refusal :=
  onDev (fun c d => atDue c d (fun e => timeoutTick e t) (fun e n => encGap e t n)) s

/-- Tick at which the time-stamp of the line in progress is taken (R96). -/
def stampTick (d : Dev) (t : Nat) : Option Nat :=
  let m := tambOf d t
  match m.line with
  | some l => if clocked d && m.driving && m.active == 1 && m.stampDue then some (l.t0 + l.stop) else none
  | none => none

/-- STAMP_CAPTURE: at t0 + END of the line in progress its time-stamp is queued (R96, R97). -/
def execStampCapture (t : Fin 4) (s : State) : Host.Outcome State Fault Refusal :=
  onDev (fun c d => atDue c d (fun e => stampTick e t) (fun e _ => pushStamp e t)) s

/-- Tick at which a committed mode change or disable takes effect, while the Tambours are clocked. -/
def modeDue (d : Dev) (t : Nat) : Option Nat := if clocked d then modeTick d t else none

/-- MODE_EFFECT: a committed mode change or disable takes effect, at the later of the effect edge and the end of the line or pattern
step in progress (R84). -/
def execModeEffect (t : Fin 4) (s : State) : Host.Outcome State Fault Refusal :=
  onDev (fun c d => atDue c d (fun e => modeDue e t) (fun e n => takeMode e t n)) s

/-- PATTERN_DONE: the last step of the last pass has run out (R94). -/
def execPatternDone (t : Fin 4) (s : State) : Host.Outcome State Fault Refusal :=
  onDev (fun c d => atDue c d (fun e => if patLast e t then patTick e t else none) (fun e _ => patFinish e t)) s

/-- PATTERN_STEP_END: the step's ticks run out (R94). -/
def execPatternStepEnd (t : Fin 4) (s : State) : Host.Outcome State Fault Refusal :=
  onDev (fun c d => atDue c d (fun e => patTick e t) (fun e _ => patNext e t)) s

/-- Tick at which the feed period in progress of an output ends (R93). -/
def feedTick (d : Dev) (t k : Nat) : Option Nat :=
  let m := tambOf d t
  let f := (m.feedF[k]?).getD 0
  if clocked d && m.driving && m.active != 2 && decide (2 ≤ f) then some ((m.feedAt[k]?).getD 0 + f) else none

/-- FEED_PERIOD_END of output k: the period in progress ends, and a new one begins with the committed length (R93). -/
def execFeedPeriodEnd (t : Fin 4) (k : Fin 8) (s : State) : Host.Outcome State Fault Refusal :=
  onDev (fun c d => atDue c d (fun e => feedTick e t k) (fun e n => setTamb e t (fun m =>
    { m with feedF := vmod m.feedF k (fun _ => feedPeriod (seen e t) t), feedAt := vmod m.feedAt k (fun _ => n) }))) s

/-! ### End of a calibration (R106) -/

/-- Cycle by which the last calibration line must be readable. -/
def calLimit (d : Dev) (t : Nat) : Nat := (tambOf d t).cal.startAt + cyclesPerMs * cf (seen d t) .tCalTarget t 0 31 16

/-- The last calibration line is readable in time. -/
def calTaken (d : Dev) (t : Nat) : Bool := calEnd (seen d t) t ≤ (tambOf d t).cal.line && (tambOf d t).cal.lastAt ≤ calLimit d t

/-- CAL_COMPLETE: one entry per CCLK cycle after the last line is readable, unless an effect edge on the way has aborted it (R84). -/
def execCalComplete (t : Fin 4) (s : State) : Host.Outcome State Fault Refusal :=
  onDev (fun c d =>
    if clocked d && (tambOf d t).cal.state == .running && calTaken d t then
      atCycle c d ((tambOf d t).cal.lastAt + calEntries d t) (fun e => if (tambOf e t).cal.state == .running then calFinish c e t else e)
    else d) s

/-- CAL_TIMEOUT, unless an effect edge on the way has aborted the calibration. -/
def execCalTimeout (t : Fin 4) (s : State) : Host.Outcome State Fault Refusal :=
  onDev (fun c d =>
    if clocked d && (tambOf d t).cal.state == .running && !calTaken d t then
      atCycle c d (calLimit d t) (fun e =>
        if (tambOf e t).cal.state == .running then reportCal c (calFail e t 2 0 0 0) t 2 0 0 0 else e)
    else d) s

/-! ### Jobs -/

/-- JOB_TIMEOUT: no accepted packet of the open job for the time that stood when it opened (R127, R145). -/
def execJobTimeout (port : Fin 4) (vc : Fin 16) (s : State) : Host.Outcome State Fault Refusal :=
  onDev (fun c d =>
    match openJobOf d port vc with
    | some j => if clocked d then atCycle c d (j.lastPkt + cyclesPerMs * j.tmoMs) (fun e => closeJob c e port vc) else d
    | none => d) s

/-! ### Transmit ports -/

/-- RECORD_SEND on port x: the next packet of R372, 70 cycles after its record was handed over at the earliest, and behind the packet in
progress and the LP-to-HS entry (R15, R16, R351). -/
def execRecordSend (x : Fin 2) (s : State) : Host.Outcome State Fault Refusal :=
  onDev (fun c d =>
    if !clocked d then d
    else match portDue (txOf d x) with
      | some n => atCycle c d (startAt d x n) (fun e => sendNow c e x)
      | none => d) s

/-- HS_EXIT: the linger behind the last packet has passed with nothing ready to send (R351). -/
def execHsExit (x : Fin 2) (s : State) : Host.Outcome State Fault Refusal :=
  onDev (fun c d =>
    if clocked d && running c (0x18 + x) && (txOf d x).hs then
      atCycle c d ((txOf d x).laneAt + lingerCycles d x) (fun e =>
        if (portDue (txOf e x)).all (fun n => decide (e.clk.mono < n)) then setTx e x (leaveHs e x) else e)
    else d) s

/-- HOLD_TIMEOUT: raised once in a hold that has been in force for its time (R377). -/
def execHoldTimeout (x : Fin 2) (s : State) : Host.Outcome State Fault Refusal :=
  onDev (fun c d =>
    let ms := cf d .oTiming x 0 31 16
    if clocked d && running c (0x18 + x) && (txOf d x).held && !(txOf d x).tmoDone && ms != 0 then
      atCycle c d ((txOf d x).heldAt + cyclesPerMs * ms) (fun e =>
        let e := setTx e x (fun t => { t with tmo := true, tmoDone := true, tmos := t.tmos + 1, tmoAt := some e.clk.mono })
        raise c e .nothing { code := 0x000C, unit := 0x18 + x, detail := [x, ms], log := true })
    else d) s

/-! ### Sensors and DDR5 -/

/-- SENSOR_SAMPLE, every 10 µs (R505); the first sample after a reset falls at any time. -/
def execSensorSample (now : List (BitVec 16)) (s : State) : Host.Outcome State Fault Refusal :=
  onDev (fun c d =>
    if alive d then
      atCycle c d d.health.sampleDue (fun e =>
        takeSamples c { e with health := { e.health with sampleDue := e.clk.mono + 10 * cyclesPerUs } } now)
    else d) s

/-- SELF_REFRESH_RETURN: in IDLE, 1 µs after the last access, the DRAM returns to self-refresh (R477). -/
def execSelfRefreshReturn (s : State) : Host.Outcome State Fault Refusal :=
  onDev (fun c d =>
    if alive d && d.pwr.state == .idle && d.ddr.state == .ready && !d.ddr.idleSr then
      atCycle c d (d.ddr.lastAt + cyclesPerUs) (fun e => { e with ddr := { e.ddr with idleSr := true } })
    else d) s

/-- DRAM_TEMP_READ, every 1 ms: MR4 is read and the refresh rate follows the DRAM temperature (R477). -/
def execDramTempRead (hot : Bool) (s : State) : Host.Outcome State Fault Refusal :=
  onDev (fun c d =>
    if alive d && d.ddr.state == .ready then
      atCycle c d d.ddr.hotDue (fun e => { e with ddr := { e.ddr with hot, hotDue := e.clk.mono + cyclesPerMs } })
    else d) s

end Sys2Proof.Machine
end

