-- ==== Sys2Proof/Machine/Power.lean ====
section
/-!
DEFINITION. Power, reset, boot and firmware restarts (R26, R435 to R439, R447 to R460, R540).
-/
namespace Sys2Proof.Machine

/-! ### Replies (R421, R446) -/

/-- A reply is complete: it takes the buffer, and one that is neither OK nor DEFERRED_TO_STITCH is counted. -/
def giveReply (d : Dev) (op tag : BitVec 16) (status : Nat) (payload : List Byte) : Dev :=
  { d with i3c := { d.i3c with
    reply := { opcode := op, tag, status := BitVec.ofNat 16 status, payload }
    refused := if status == stOk || status == stDeferred then d.i3c.refused else d.i3c.refused + 1 } }

/-- The session as it begins (R428). -/
def freshSession (d : Dev) : Dev := { d with i3c := { d.i3c with major := 1, minor := 0, hello := false } }

/-- The inline transfer in progress is abandoned; a bank being received is left not READY (R435, R438). -/
def dropXfer (d : Dev) : Dev :=
  match d.xfer with
  | none => d
  | some x => { d with
      xfer := none
      fw := if x.opcode == 0x70 && d.fw.state == .receiving then { d.fw with state := .idle } else d.fw }

/-- LOAD_TRANSFER_TIMEOUT: 1,000 ms without a fragment (R435). -/
def execLoadTransferTimeout (s : State) : Host.Outcome State Fault Refusal :=
  onDev (fun c d =>
    match d.xfer with
    | some x => if alive d then atCycle c d (x.at_ + 1000 * cyclesPerMs) dropXfer else d
    | none => d) s

/-! ### Resets (R447 to R450) -/

/-- Every unit DISABLED (R449). -/
def allDisabled : Units := Vector.replicate 32 .disabled

/-- What a chip reset leaves (R447, R449): every block and store at its reset value, but for the time counter, the PLL,
the dynamic address, the straps, the error log and the TAP; the cause and time of the last boot stand until the next. -/
def coreReset (d : Dev) : Dev :=
  { clk := { mono := d.clk.mono, time := d.clk.time, phase := d.clk.phase, timeLoad := d.clk.timeLoad
             pllLock := d.clk.pllLock, refLost := d.clk.holdover, holdover := d.clk.holdover }
    pwr := { powered := d.pwr.powered, pwrok := d.pwr.pwrok, sa := d.pwr.sa, testen := d.pwr.testen, cause := d.pwr.cause, micros := d.pwr.micros }
    i3c := { da := d.i3c.da, hdr := d.i3c.hdr }
    health := { log := d.health.log, seq := d.health.seq, lost := d.health.lost }
    jtag := d.jtag, free := d.free }

/-- Time from the start of a boot to the lock of the PLL, in ns: at most 100 µs, and otherwise open (R457; DESIGN CHOICE, log entry 64). -/
def lockTime (d : Dev) : Nat := 10 * ((Config.openValue 8 d.free).toNat % 10001)

/-- A boot in progress is cut off: the time it took is open. With the PLL locked the clocks have run on through it; else the PLL has
locked if that time reached its lock, and the counter has run from there on, or in a wake throughout (R22, R455; DESIGN CHOICE, log
entry 64). -/
def cutBoot (d : Dev) : Dev :=
  let t := (Config.openValue 11 d.free).toNat
  if !d.pwr.booting then d
  else if d.clk.pllLock then { elapse d t with free := d.free + 1 }
  else
    let run := t - lockTime d
    { d with
      clk := { d.clk with
        pllLock := lockTime d ≤ t, mono := d.clk.mono + 11 * run / 10
        time := d.clk.time + BitVec.ofNat 64 (if d.clk.mono == 0 then run else t)
        phase := (Config.openValue 9 d.free).toNat % 11 }
      free := d.free + 1 }

/-- POWER_ON_RESET: the whole device; the level of RESET_N is the board's (R447, R448). -/
def execPowerOnReset (s : State) : Host.Outcome State Fault Refusal :=
  .next { State.reset with
    pending := s.pending
    dev := { State.reset.dev with free := s.dev.free, pwr := { State.reset.dev.pwr with resetLow := s.dev.pwr.resetLow } } }

/-- PWROK_RISE: the straps are sampled, and boot begins, with RESET_N low once that is released; with TESTEN high the device stays in
power-on reset (R448, R525). -/
def execPwrokRise (sa : BitVec 2) (testen : Bool) (s : State) : Host.Outcome State Fault Refusal :=
  onDev (fun _ d =>
    if d.pwr.pwrok then d
    else
      let d := { d with pwr := { d.pwr with pwrok := true, sa, testen } }
      if testen then d else { d with pwr := { d.pwr with powered := true, booting := !d.pwr.resetLow, bootKind := 0 } }) s

/-- CHIP_RESET: RESET_N counts low; in power-on reset that is its level only (R447 to R450, R535). -/
def execChipReset (s : State) : Host.Outcome State Fault Refusal :=
  if s.dev.pwr.resetLow then .next s
  else if !s.dev.pwr.powered then .next { s with dev := { s.dev with pwr := { s.dev.pwr with resetLow := true } } }
  else
    let d := coreReset (cutBoot s.dev)
    let d := { d with pwr := { d.pwr with resetLow := true, bootKind := 1, resetAt := d.clk.mono } }
    .next { s with committed := allDisabled, dev := logReset d 1 0 }

/-- FLASH_SPI ends: QSPI_CS_N goes high and the instruction acts as BYPASS (R536). -/
def flashOff (j : Jtag) : Jtag := { j with flash := false, csN := true, busy := false, next := none }

/-- A chip reset lasts 1 µs at least; the clocks run through it while the PLL is locked (R448). -/
def endReset (d : Dev) : Dev := if d.clk.pllLock then elapse d (d.pwr.resetAt + cyclesPerUs - d.clk.mono) else d

/-- RESET_N_RELEASE: boot begins, unless power-on reset stands (R448, R536). -/
def execResetNRelease (s : State) : Host.Outcome State Fault Refusal :=
  onDev (fun _ d =>
    if d.pwr.resetLow then
      let d := if d.pwr.powered then endReset d else d
      { d with pwr := { d.pwr with resetLow := false, booting := d.pwr.powered }, jtag := flashOff d.jtag }
    else d) s

/-- Session reset (R417): the transfer is abandoned, the reply buffer emptied, a command in progress loses its reply. -/
def sessionReset (d : Dev) : Dev :=
  let d := freshSession (dropXfer d)
  logReset { d with i3c := { d.i3c with da := 0, reply := {}, busy := none, rstact := 1 } } 5 0

/-- TARGET_RESET: what RSTACT selected (R417, R447). -/
def execTargetReset (s : State) : Host.Outcome State Fault Refusal :=
  let d := s.dev
  if !d.pwr.powered then .next s
  else if d.i3c.rstact == 2 then
    let low := d.pwr.resetLow
    let d := coreReset (cutBoot d)
    let d := endReset { d with pwr := { d.pwr with resetAt := if low then s.dev.pwr.resetAt else d.clk.mono } }
    let d := { d with
      i3c := { d.i3c with da := 0, hdr := false }
      pwr := { d.pwr with resetLow := low, booting := !low, bootKind := if low then 1 else 2 } }
    .next { s with committed := allDisabled, dev := logReset d 2 0 }
  else if d.i3c.rstact == 1 then .next { s with dev := sessionReset d }
  else .next { s with dev := { d with i3c := { d.i3c with rstact := 1 } } }

/-! ### Flash (R458) -/

/-- A boot-selector copy. -/
def selOf (bs : List Byte) : SelCopy :=
  let ok := 64 ≤ bs.length && fld bs 0 4 == 0x4B435342 && fld bs 8 1 ≤ 1 && zeroAt bs 9 3 && zeroAt bs 16 48
    && (crcImage (bs.take 64)).toNat == fld bs 12 4
  if ok then { valid := true, seq := BitVec.ofNat 32 (fld bs 4 4), bank := fld bs 8 1 == 1 } else {}

/-- The bank that two copies select. -/
def selected (a b : SelCopy) : Bool :=
  if a.valid && b.valid then (if a.seq < b.seq then b.bank else a.bank)
  else if a.valid then a.bank else b.valid && b.bank

/-- Header of a bank image: SIZE where its fields are right (R437, R458). -/
def bankSize (bs : List Byte) : Option Nat :=
  let n := fld bs 8 4
  let ok := 64 ≤ bs.length && fld bs 0 4 == 0x4B435746 && fld bs 4 2 != 0 && (fld bs 6 1 == 0xA1 || fld bs 6 1 == 0)
    && n % 4 == 0 && 64 ≤ n && n ≤ 2097152 && zeroAt bs 7 1 && zeroAt bs 16 48
  if ok then some n else none

/-- A bank is valid. -/
def bankValid (bs : List Byte) : Bool :=
  match bankSize bs with
  | some n => n ≤ bs.length && (crcImage (bs.take n)).toNat == fld bs 12 4
  | none => false

/-- RELEASE of a bank image. -/
def bankRelease (bs : List Byte) : BitVec 16 := BitVec.ofNat 16 (fld bs 4 2)

/-- A selector copy as FW_SWITCH writes it. -/
def selBytes (seq : Word) (bank : Bool) : List Byte :=
  let head := leBytes 4 0x4B435342 ++ leBytes 4 seq.toNat ++ leBytes 1 (b2n bank) ++ [0, 0, 0]
  head ++ leBytes 4 (crcImage (head ++ List.replicate 52 0)).toNat ++ List.replicate 48 0

/-! ### Boot (R457, R459, R540) -/

/-- Time that a boot takes (R22, R455, R457): with the PLL locked the clocks run on; a first lock starts the counter, at a
time after the start of boot that no rule fixes; with a lost lock the phase of the clocks is open. -/
def bootElapse (d : Dev) (micros : Nat) : Dev :=
  if d.clk.pllLock then elapse d (1100 * micros)
  else
    let lock := if d.clk.mono == 0 then Nat.min (1000 * micros) (lockTime d) else 0
    { d with
      clk := { d.clk with
        mono := d.clk.mono + 1100 * micros, time := d.clk.time + BitVec.ofNat 64 (1000 * micros - lock)
        phase := (Config.openValue 9 d.free).toNat % 11 }
      free := d.free + 1 }

/-- The end of a boot whose banks have been judged: the bank booted, or none for recovery. -/
def bootWith (d : Dev) (f : FlashRead) (micros : Word) (sel : Bool) (bank : Option Bool) (fell : Bool) : Dev :=
  let a := selOf f.sel0
  let b := selOf f.sel1
  let d := bootElapse d micros.toNat
  let up := bank.isSome
  let on := bank.getD true
  let rel := match bank with | some x => bankRelease (if x then f.bank1 else f.bank0) | none => 0
  let selV := BitVec.ofNat 2 (b2n a.valid + 2 * b2n b.valid)
  let valV := match bank with | some x => BitVec.ofNat 2 (if x then 2 else 1) | none => 0
  let d := { d with
    clk := { d.clk with pllLock := true, ticking := up, offset := 0, count := 0 }
    pwr := { d.pwr with
      booting := false, booted := true, recovery := !up, state := if d.pwr.bootKind == 3 then .idle else .run, waking := false
      cause := d.pwr.bootKind, micros, fallback := fell, selected := sel, selValid := selV, bankValid := valV
      bank := bank.getD false, check := up && !fell }
    fw := { active := on, release0 := if up && !on then rel else 0, release1 := if up && on then rel else 0, sel0 := a, sel1 := b } }
  if up && fell then logOnly d 0x0102 255 255 [b2n sel, b2n on, selV.toNat, valV.toNat] else d

/-- The selector copy that FW_SWITCH wrote is erased (R460). -/
def restoreSel (d : Dev) : Dev :=
  match d.fw.wrote with
  | none => d
  | some k => { d with fw := { d.fw with
      wrote := none, sel0 := if k then d.fw.sel0 else {}, sel1 := if k then {} else d.fw.sel1
      flash := d.fw.flash ++ [(if k then 0x1000 else 0, List.replicate 64 0xFF)] } }

/-- A FW_SWITCH from recovery ends with its boot; where that ends in recovery again, the mask ROM has restarted, and the copy that the
switch wrote is erased (R3, R439, R450, R459, R460). -/
def switchEnd (d : Dev) (busy : Option (BitVec 16 × BitVec 16)) (wrote : Option Bool) : Dev :=
  match busy with
  | none => { d with i3c := { d.i3c with busy := none, reply := {} } }
  | some (op, tag) =>
    let d := { d with i3c := { d.i3c with busy := none } }
    if d.pwr.recovery then
      let d := logReset (restoreSel { d with fw := { d.fw with wrote } }) 6 0
      giveReply { d with fw := { d.fw with state := .failed, cause := 4 } } op tag stFirmware []
    else giveReply d op tag stOk (leBytes 2 (fwRelease d) ++ leBytes 1 (b2n d.fw.active) ++ [0])

/-- BOOT_COMPLETE (R428, R457 to R459, R465, R466, R540). -/
def execBootComplete (flash : FlashRead) (micros : Word) (s : State) : Host.Outcome State Fault Refusal :=
  onDev (fun _ d =>
    if !(d.pwr.powered && d.pwr.booting && !d.pwr.resetLow) then d
    else
      let sel := selected (selOf flash.sel0) (selOf flash.sel1)
      let first := bankValid (if sel then flash.bank1 else flash.bank0)
      let other := bankValid (if sel then flash.bank0 else flash.bank1)
      let busy := d.i3c.busy
      let wrote := d.fw.wrote
      let d := if first then bootWith d flash micros sel (some sel) false
        else if other then bootWith d flash micros sel (some (!sel)) true
        else bootWith d flash micros sel none true
      switchEnd (freshSession d) busy wrote) s

/-- STANDBY_CHECK_DONE (R446, R466, R540). -/
def execStandbyCheckDone (bank : List Byte) (s : State) : Host.Outcome State Fault Refusal :=
  onDev (fun _ d =>
    if !(alive d && d.pwr.check) then d
    else
      let d := { d with pwr := { d.pwr with check := false } }
      if !bankValid bank then d
      else
        let rel := bankRelease bank
        if d.fw.active then
          { d with pwr := { d.pwr with bankValid := d.pwr.bankValid ||| 1 }, fw := { d.fw with state := .ready, release0 := rel } }
        else
          { d with pwr := { d.pwr with bankValid := d.pwr.bankValid ||| 2 }, fw := { d.fw with state := .ready, release1 := rel } }) s

/-! ### Firmware (R437 to R439, R460) -/

/-- Write the RELEASE field of the standby bank (R446). -/
def setStandby (f : Fw) (rel : BitVec 16) : Fw := if f.active then { f with release0 := rel } else { f with release1 := rel }

/-- FW_PROGRAM_DONE: the read-back decides (R437, R446). -/
def execFwProgramDone (matched : Bool) (s : State) : Host.Outcome State Fault Refusal :=
  onDev (fun _ d =>
    if !(d.pwr.powered && d.pwr.booted && d.fw.state == .programming) then d
    else if matched then { d with fw := { setStandby d.fw d.fw.progRel with state := .ready, cause := 0 } }
    else { d with fw := { d.fw with state := .failed, cause := 3 } }) s

/-- A firmware restart is under way. -/
def restarting (d : Dev) : Bool := d.pwr.booted && d.fw.wrote.isSome

/-- NEW_FIRMWARE_STARTED: the standby bank runs; its release is the one read from its header when it became READY, and the event brings
nothing of its own (R428, R438, R439, R446). -/
def execNewFirmwareStarted (_ : Unit) (s : State) : Host.Outcome State Fault Refusal :=
  onDev (fun _ d =>
    if !restarting d then d
    else
      let d := { d with fw := { d.fw with active := !d.fw.active, state := .idle, cause := 0, wrote := none } }
      let busy := d.i3c.busy
      let d := freshSession { d with i3c := { d.i3c with busy := none } }
      match busy with
      | some (op, tag) => giveReply d op tag stOk (leBytes 2 (fwRelease d) ++ leBytes 1 (b2n d.fw.active) ++ [0])
      | none => d) s

/-- The new firmware did not start: the former bank, or the mask ROM, serves again (R439, R459, R460). -/
def formerBank (d : Dev) : Dev :=
  let busy := d.i3c.busy
  let d := restoreSel d
  let d := if d.pwr.booting then
      { d with clk := { d.clk with offset := 0 }, pwr := { d.pwr with booting := false, booted := true, recovery := true } }
    else d
  -- the restart from the former bank is a firmware restart too (R3, R450)
  let d := logReset d 6 0
  let d := freshSession { d with fw := { d.fw with state := .failed, cause := 4 }, i3c := { d.i3c with busy := none } }
  match busy with
  | some (op, tag) => giveReply d op tag stFirmware []
  | none => d

/-- FW_START_TIMEOUT: 250 ms after the switch (R439). -/
def execFwStartTimeout (s : State) : Host.Outcome State Fault Refusal :=
  onDev (fun c d =>
    if d.pwr.powered && d.fw.wrote.isSome then atCycle c d (d.fw.wroteAt + 250 * cyclesPerMs) formerBank else d) s

/-! ### REFCLK (R26, R30) -/

/-- REFCLK_LOST: the PLL runs in holdover. -/
def execRefclkLost (s : State) : Host.Outcome State Fault Refusal :=
  onDev (fun _ d =>
    if d.pwr.powered then
      let asleep : Bool := d.pwr.state == .sleep && !d.pwr.booting
      { d with clk := { d.clk with refLost := true, holdover := true, refAt := some d.clk.mono, sleepLost := d.clk.sleepLost || asleep } }
    else d) s

/-- PLL_RELOCK: REFCLK is back and holdover ends. -/
def execPllRelock (s : State) : Host.Outcome State Fault Refusal :=
  onDev (fun _ d => if d.pwr.powered then { d with clk := { d.clk with holdover := false } } else d) s

/-! ### SLEEP (R451 to R455, R474) -/

/-- Cells and words in error of DDR5 only. -/
def ddrOnly (d : Dev) : Dev :=
  { d with mem := Memory.keep d.mem (fun k => key 7 0 ≤ k && k < key 8 0)
           ecc := d.ecc.filter (fun e => key 7 0 ≤ e.1 * 8 && e.1 * 8 < key 8 0) }

/-- The entry to SLEEP: DDR5 goes into self-refresh, the status is frozen, the tick and the PLL stop, the on-chip stores are
lost. A time load that still waits for its TCLK edge is made at the entry, since TCLK stops there (R25; DESIGN CHOICE, log
entry 89). -/
def enterSleep (c : Units) (d : Dev) : Dev :=
  let r := d.ddr
  let up := r.state == .ready || r.tripSr
  let ddr : Ddr := if up then { r with state := .selfRefresh, kept := some (BitVec.ofNat 32 (com d .dCfg 0 0)), tripSr := false, idleSr := false }
    else if r.state == .selfRefresh then r else { r with state := .off, kept := none }
  ddrOnly { d with
    pwr := { d.pwr with state := .sleep, pend := none, frozen := statusPayload c d }
    clk := { d.clk with ticking := false, pllLock := false, time := d.clk.timeLoad.getD d.clk.time, timeLoad := none
                        sleepLost := d.clk.holdover }
    ddr }

/-- Leaving SLEEP (R453): as a chip reset, but the memory controller keeps its configuration and training; its enable is
off. The reply to POWER_STATE stands until boot completes. -/
def wake (d : Dev) : Dev :=
  let e := coreReset d
  let e := { e with
    clk := { e.clk with refLost := e.clk.refLost || d.clk.sleepLost }
    pwr := { e.pwr with state := .sleep, booting := true, bootKind := 3, waking := true }
    i3c := { e.i3c with reply := d.i3c.reply }
    regs := d.regs.filter (fun x => 0x80000 ≤ x.1 && x.1 < 0x90000)
    ddr := { state := d.ddr.state, kept := d.ddr.kept, known := d.ddr.known, trainTok := d.ddr.trainTok, lostTok := d.ddr.lostTok }, mem := d.mem, ecc := d.ecc }
  logReset (putCom e .dCtrl 0 0 (com e .dCtrl 0 0 / 2 * 2)) 3 0

/-! ### Unit resets (R456, R467) -/

/-- A unit reset of a Bobbin, outside its registers; its committed state stays, and with it ACCEPTING and what awaits the
boundary (DESIGN CHOICE, log entry 90). -/
def resetBob (b : Bob) : Bob :=
  { accepting := b.accepting, passDue := b.passDue, failDue := b.failDue }

/-- The device-wide registers of the BOB0 block return with BOB0 (R456), but for TRIP and its reading, which only R507 clears
(log entry 90). -/
def resetShared (d : Dev) : Dev :=
  let h := d.health
  { d with health := { h with
    sensors := Vector.replicate 12 {}, demand := false, demandN := 0, rateMin := 256, iEst := 0, secc := Vector.replicate 6 (0, 0)
    tripSens := if h.trip then h.tripSens else 0, tripTemp := if h.trip then h.tripTemp else 0 } }

/-- What the output buffer holds for a transmit port is discarded: its FREE reads the whole quota (R349, R386, R456). A STREAM_HEADER
written and not sent falls due again. -/
def emptyTx (d : Dev) (x : Nat) : Dev :=
  let d := { d with out := { d.out with jobs := d.out.jobs.map (fun y =>
    if y.port == x then { y with evs := [], recs := [], admitted := if y.released then y.admitted else none } else y) } }
  setTx d x (fun t => { t with
    used := 0, leaving := [], rest := none
    vcs := t.vcs.map (fun v => { v with free := [], q := [], stream := none, header := v.header || v.stream.isSome }) })

/-- A unit that R456 names returns to its reset values. -/
def unitToReset (d : Dev) (u : Nat) : Dev :=
  let within := fun (a lo n : Nat) => lo ≤ a && a < lo + n
  if 0x08 ≤ u && u < 0x10 then
    let n := u - 8
    let d := setBob (resetRegs (eraseBob d n) (fun a => within a (0x40000 + 0x2000 * n) 0x2000)) n resetBob
    if n == 0 then resetShared d else d
  else if 0x10 ≤ u && u < 0x14 then
    let t := u - 0x10
    let coef := key 6 (t * (coefBytes / 4))
    let d := resetRegs d (fun a => within a (0x20000 + 0x4000 * t) 0x4000)
    let gone := fun (k : Nat) => within k coef (coefBytes / 4) || within k (key (40 + t) 0) 8192
    let d := { d with mem := Memory.keep d.mem (fun k => !gone k), ecc := d.ecc.filter (fun e => !gone (e.1 * 8)) }
    setTamb d t (fun m => { encA := m.encA, encB := m.encB })
  else if 0x14 ≤ u && u < 0x18 then
    let x := u - 0x14
    let d := resetRegs d (fun a => within a (0x30100 + 0x40 * x) 0x40 || within a (0x31000 + 0x400 * x) 0x400)
    setRx d x (fun r => { vcs := r.vcs.map (fun v => { job := v.job }) })
  else if u == 0x18 || u == 0x19 then
    let x := u - 0x18
    setTx (emptyTx (resetRegs d (fun a => within a (0x70100 + 0x20 * x) 0x20)) x) x
      (fun t => { last := t.last, vcs := t.vcs, wire := t.wire })
  else if u == 0x1A then { resetRegs d (fun a => within a 0x60000 0x10000) with txt := { worked := d.txt.worked, wrote := d.txt.wrote } }
  else if u == 0x1B then { resetRegs d (fun a => within a 0x50000 0x10000) with kvm := {} }
  else if u == 0x1C then
    let d := resetRegs d (fun a => within a 0x70000 0x100)
    emptyTx (emptyTx { d with out := { d.out with bad := 0, snap := [] } } 0) 1
  else if u == 0x1D then { resetRegs d (fun a => within a 0xB0000 0x10000) with adapt := {} }
  else d

/-- UNIT_RESET_DONE (R450, R456, R467). -/
def execUnitResetDone (s : State) : Host.Outcome State Fault Refusal :=
  onDev (fun _ d =>
    if !(alive d && d.pwr.urBusy) then d
    else
      let u := d.pwr.urUnit.toNat
      let d := lowerCounts (unitToReset d u)
      logReset { d with pwr := { d.pwr with urBusy := false } } 4 u) s

end Sys2Proof.Machine
end

