-- ==== Sys2Proof/Machine/Boundary.lean ====
section
/-!
DEFINITION. The Stitch boundary (R38 to R41, R45, R74 to R76) and the passing of time on an empty queue.
-/
namespace Sys2Proof.Machine

/-! ### Offset 0: the Stitch checks (R74, R75, R498, R499) -/

/-- The committed table with one entry changed. -/
def setUnit (c : Units) (u : Nat) (s : UnitSt) : Units := c.setIfInBounds u s

/-- First fault of a Stitch: in cycle order, ISSUE_MISS before LATE, then the lower OPS index. -/
def firstFault : List FaultRec → Option FaultRec
  | [] => none
  | f :: t =>
    match firstFault t with
    | none => some f
    | some g => if lexLt [(g.cycle : Int), g.kind, g.op] [(f.cycle : Int), f.kind, f.op] then some g else some f

/-- A Bobbin that becomes FAILED at this boundary; one under self-test takes no transition. -/
def failsNow (c : Units) (d : Dev) (n : Nat) : Bool :=
  (bobOf d n).failDue.isSome && !(bobOf d n).bistBusy && ust c (8 + n) != .failed

/-- Operations that have not completed when their Stitch ends are LATE (R63). -/
def lateLeft (d : Dev) : Dev :=
  d.flights.foldl (fun d f => if f.late then d else fault d f.part (f.limit + 1) 2 f.op) d

/-- Judge a partition that was RUN in the Stitch that has ended. -/
def judgePart (x : Units × Dev) (p : Nat) : Units × Dev :=
  let (c, d) := x
  let s := partOf d p
  if ust c p != .run then x
  else if (mapped d p).any (failsNow c d) then
    (setUnit c p .faulted, setPart d p (fun s => { s with check := 3, faultOp := 0 }))
  else
    match firstFault s.faults with
    | none => x
    | some f =>
      let count := fun (k : Nat) => (s.faults.filter (fun g => g.kind == k)).length
      let d := raise c d (.part p) { code := 0x0001, unit := p, detail := [f.kind, f.op, count 1, count 2], log := true }
      (setUnit c p .faulted, setPart d p (fun s => { s with check := BitVec.ofNat 4 f.kind, faultOp := f.op }))

/-- A Bobbin becomes FAILED, or DISABLED after a passed self-test. -/
def markBob (x : Units × Dev) (n : Nat) : Units × Dev :=
  let (c, d) := x
  let b := bobOf d n
  if failsNow c d n then
    let tie := match extentOf d n with | some p => Tie.part p | none => .nothing
    let d := raise c d tie { code := 0x0010, unit := 8 + n, detail := [n, b.failDue.getD 0, recentUe d n], log := true }
    (setUnit c (8 + n) .failed, setReq (setBob d n (fun b => { b with failDue := none, passDue := false, accepting := false })) (8 + n) none)
  else if b.bistBusy then x
  else
    let c := if b.passDue && ust c (8 + n) == .failed then setUnit c (8 + n) .disabled else c
    (c, setBob d n (fun b => { b with failDue := none, passDue := false, accepting := b.accepting || b.passDue }))

/-! ### Offset 0: what the ended Stitch reports (R175, R257) -/

/-- SAT_REPLAY, ZERO_RANGE and ROW_EMPTY of a partition. -/
def reportPart (c : Units) (d : Dev) (p : Nat) : Dev :=
  let s := partOf d p
  let img := imgOf d p
  let rep := (List.range 64).filterMap (fun g =>
    match assoc s.trips g, guardEntry img g with
    | some n, some (_, true, _) => some (g, n)
    | _, _ => none)
  let mask := fun (lo : Nat) => rep.foldl (fun m e => if lo ≤ e.1 && e.1 < lo + 32 then m + 2 ^ (e.1 - lo) else m) 0
  let ev := fun (d : Dev) (code : Nat) (detail : List Nat) => raise c d (.part p) { code, unit := p, detail }
  let d := if rep.isEmpty then d else
    ev d 0x0003 ([mask 0, mask 32] ++ (List.range 7).map (fun i =>
      match rep[i]? with | some (g, n) => g * 65536 + n | none => 0xFFFFFFFF))
  let d := if s.empty == 0 then d else ev d 0x000A [s.empty]
  if s.zr == 0 then d else ev d 0x000B [s.zr]

/-- The Stitch's own state is left behind: operations in flight, faults, guards, claims. The phases of the boundary window are set
for the first of their offsets (R40; DESIGN CHOICE, log entry 95). -/
def clearStitch (d : Dev) : Dev :=
  let d := (List.range 8).foldl cutPlan d
  { d with
    flights := []
    agenda := [⟨1, prioRead, 0, .publish⟩, ⟨64, prioRead, 0, .refill⟩, ⟨192, prioRead, 0, .govern⟩]
    parts := d.parts.map (fun (s : Part) => { s with issued := [], steps := [], faults := [], trips := [], zr := 0, empty := 0, ddrLast := none })
    bobs := d.bobs.map (fun (b : Bob) => { b with
      guards := [], trips := b.tripNow, tripNow := 0
      bankA := { b.bankA with claim := none }, bankB := { b.bankB with claim := none } }) }

/-! ### Offset 0: requests and shadows (R12, R41, R49, R64, R506) -/

/-- The thermal trip halts every partition that is RUN or FAULTED (R506). -/
def tripHalt (x : Units × Dev) : Units × Dev :=
  let (c, d) := x
  if !d.health.tripDue then x
  else
    let (c, d) := (List.range 8).foldl (fun (y : Units × Dev) p =>
      let d := if reqOf y.2 p == some .run || partOn y.1 p then setReq y.2 p none else y.2
      (if partOn y.1 p then setUnit y.1 p .halted else y.1, d)) (c, d)
    let down : Bool := d.health.trip && d.ddr.state == .ready
    let d := { d with health := { d.health with tripDue := false } }
    (c, if down then
        let lost := match d.xfer with | some t => !t.rom | none => false
        let d := if lost then { dropXfer d with xferLost := true } else d
        { d with ddr := { d.ddr with state := .selfRefresh, tripSr := true } }
      else d)

/-- A pending TABLE_SWAP passes R314 against a table of states; pending starts count where asked. -/
def swapOk (c : Units) (d : Dev) (starts : Bool) : Bool :=
  let t := d.txt
  let same := bufSet t false == bufSet t true && tabNat d 0 20 4 == tabNat d 1 20 4
  bufSt t (!t.active) == .valid
    && (same || (List.range 8).all (fun p =>
      !((partOn c p || (starts && reqOf d p == some .run)) && hasImage d p && fld (imgOf d p) 44 4 != 0)))

/-- TABLE_SWAP at the boundary (R314): the buffers change roles, or the request is dropped. -/
def commitSwap (c : Units) (d : Dev) : Dev :=
  if !d.txt.swap then d
  else
    let ok := swapOk c d false
    let d := { d with txt := { d.txt with swap := false } }
    if ok then
      let old := d.txt.active
      let t := { d.txt with active := !old }
      let t := putBuf t (!old) .valid (bufSet t (!old))
      { d with txt := if bufSt t old == .valid then putBuf t old .draining (bufSet t old) else t }
    else logOnly { d with txt := { d.txt with detail := 0x20 } } 0x0109 0x1A 255 [0x0031, 0x20]

/-- A pending start is checked again (R64). -/
def recheck (c : Units) (d : Dev) (p : Nat) : Dev :=
  if reqOf d p != some .run then d
  else
    let code := bindCheck d (viewNext c d p) (imgOf d p) p
    if code == 0 && (ust c p == .idle || ust c p == .halted) then d
    else
      let d := setPart (setReq d p none) p (fun s => { s with detail := BitVec.ofNat 8 code })
      logOnly d 0x0109 p p [0x0013, code]

/-- A request commits by a transition of R49. -/
def commitReq (x : Units × Dev) (u : Nat) : Units × Dev :=
  let (c, d) := x
  match reqOf d u with
  | none => x
  | some s =>
    let d := setReq d u none
    let f := ust c u
    let ok : Bool :=
      if u < 8 then
        (f == .disabled && s == .idle) || ((f == .idle || f == .halted) && (s == .disabled || s == .run))
          || ((f == .run || f == .faulted) && s == .halted)
      else if u < 16 then (f == .disabled && s == .offline) || (f == .offline && s == .disabled)
      else (f == .disabled && s == .run) || (f == .run && s == .disabled)
    (if ok then setUnit c u s else c, d)

/-- One shadow word commits. -/
def commitWord (d : Dev) (e : Nat × Word) : Dev :=
  match regAt e.1 with
  | none => d
  | some r =>
    let d := match r.row.reg with
      | .vcSeq => setVc d r.i r.j (fun q => { q with seqEnd := false })
      | _ => d
    putCom d r.row.reg r.i r.j e.2.toNat

/-- The words of Tambour t that are about to be replaced stay in force for it until the effect edge (R81). -/
def holdTamb (l : List (Nat × Word)) (d : Dev) (t : Nat) : Dev :=
  let held := l.filterMap (fun e =>
    if e.1 / 0x4000 != 8 + t then none
    else (regAt e.1).map (fun r => (e.1, BitVec.ofNat 32 (comAt d r e.1))))
  setTamb d t (fun m => { m with held := m.held ++ held })

/-- Every shadow commits together (R12). -/
def commitShadows (d : Dev) : Dev :=
  let l := d.shadow
  l.foldl commitWord { (List.range 4).foldl (holdTamb l) d with shadow := [] }

/-- A load that commits at a boundary whose first CCLK edge is a TCLK edge is in the counter from that edge on: whatever the boundary
raises bears the loaded value (R25). -/
def earlyTime (d : Dev) : Dev :=
  if d.clk.phase == 0 && sf d .timeCtrl 0 0 0 0 == 1 then
    { d with clk := { d.clk with
      time := BitVec.ofNat 64 (sha d .timeLoadLo 0 0 + 2 ^ 32 * sha d .timeLoadHi 0 0), timeLoad := none } }
  else d

/-- GLOBAL_TIME_CTRL.LOAD: the counter takes the value at the first TCLK edge from now (R25). -/
def commitTime (d : Dev) : Dev :=
  if cf d .timeCtrl 0 0 0 0 == 0 then d
  else
    let v := BitVec.ofNat 64 (com d .timeLoadLo 0 0 + 2 ^ 32 * com d .timeLoadHi 0 0)
    let d := putCom d .timeCtrl 0 0 0
    if d.clk.phase == 0 then { d with clk := { d.clk with time := v, timeLoad := none } }
    else { d with clk := { d.clk with timeLoad := some v } }

/-! ### Offset 0: what a commit does to the units -/

/-- A partition has left RUN, has entered it, or is DISABLED: its Bobbins follow, its image and contexts go (R49, R289). -/
def followPart (c0 : Units) (x : Units × Dev) (p : Nat) : Units × Dev :=
  let (c, d) := x
  let was := ust c0 p
  let now := ust c p
  let move := fun (c : Units) (a b : UnitSt) => (mapped d p).foldl (fun c n =>
    if ust c (8 + n) == a && !(bobOf d n).bistBusy then setUnit c (8 + n) b else c) c
  if was == .run && now != .run then (move c .run .disabled, d)
  else if was != .run && now == .run then
    let d := (outputsOf (imgOf d p)).foldl (fun d b => renewStream d b.1 b.2) d
    (move c .disabled .run, d)
  else if was != .disabled && now == .disabled then
    let d := (ctxsOf d p).foldl (fun d e => freeCtx c d e.1) d
    -- its input-queue entries are freed (R320)
    let d := { d with txt := { d.txt with queue := d.txt.queue.filter (fun e => e.part != some p) } }
    (c, setPart d p (fun s => { detail := s.detail, check := s.check, faultOp := s.faultOp }))
  else (c, d)

/-- A receive port has entered or left RUN (R127, R135). -/
def followRx (c0 c : Units) (d : Dev) (x : Nat) : Dev :=
  let was := running c0 (0x14 + x)
  let now := running c (0x14 + x)
  if !was && now then setRx d x (fun r => { r with vcs := r.vcs.map (fun q => { q with prior := none }) })
  else if was && !now then
    let d := (List.range 16).foldl (fun d v =>
      if (vcOf d x v).job.isSome && (vcMode d x v == 1 || vcMode d x v == 2) then closeJob c d x v else d) d
    setRx d x (fun r => { r with vcs := r.vcs.map (fun q =>
      { q with frame := none, firstLn := none, curLn := none, prior := none, str := none, strBad := false }) })
  else d

/-- Records held for a transmit port (R349). -/
def heldRecs (d : Dev) (x : Nat) : Nat :=
  let q := (txOf d x).vcs.toList.foldl (fun n t =>
    n + b2n t.stream.isSome + t.free.length + (t.q.filter (fun i => match i with | .item _ => true | _ => false)).length) 0
  d.out.jobs.foldl (fun n y => if y.port == x then n + y.evs.length + y.recs.length else n) q

/-- A transmit port has entered or left RUN (R349, R355). -/
def followTx (c0 c : Units) (d : Dev) (x : Nat) : Dev :=
  let was := running c0 (0x18 + x)
  let now := running c (0x18 + x)
  if !was && now then
    (List.range 16).foldl (fun d v => renewStream d x v) (setTx d x (fun t => { t with hs := false, held := false, laneAt := d.clk.mono, hsEnd := 0 }))
  else if was && !now then
    setTx (emptyTx (countLost d x (heldRecs d x)) x) x (fun t => { t with hs := false, held := false, hsEnd := 0 })
  else d

/-- The memory controller's enable starts a course of training; its disable keeps the contents only from READY (R472, R474,
R475). -/
def followDdr (c0 c : Units) (d : Dev) : Dev :=
  let was := running c0 0x1E
  let now := running c 0x1E
  let r := d.ddr
  let cfg := BitVec.ofNat 32 (com d .dCfg 0 0)
  if !was && now then
    let kept : Bool := r.state == .selfRefresh && r.kept == some cfg
    let re := cf d .dCtrl 0 0 1 1 == 1
    let d := putCom d .dCtrl 0 0 (com d .dCtrl 0 0 % 2)
    { d with ddr := { r with
      state := .training, failStep := 0, failSub := 0, course := if !kept then 2 else if re then 1 else 0, enabledAt := d.clk.mono
      kept := if kept then r.kept else none, tripSr := false } }
  else if was && !now then
    let lost := match d.xfer with | some t => !t.rom | none => false
    let d := if lost && r.state == .ready then { dropXfer d with xferLost := true } else d
    if r.state == .ready || r.tripSr then { d with ddr := { r with state := .selfRefresh, kept := some cfg, tripSr := false, idleSr := false } }
    else { d with ddr := { r with state := .off, kept := none, failStep := 0, failSub := 0 } }
  else d

/-- A unit that runs works in its store: what the host wrote there no longer stands (R36, R37). -/
def followStores (c : Units) (d : Dev) : Dev :=
  let d := if running c 0x1A then { d with txt := { d.txt with worked := true, wrote := [] } } else d
  if running c 0x1C then { d with out := { d.out with worked := true, wrote := [] } } else d

/-- At a boundary the new bank of a PASS becomes active, a calibration starts, and the committed values set out for their effect edge (R81,
R102 to R106). The swap of a PASS and a host's swap that commit at one boundary are both made, and cancel out (DESIGN CHOICE, log entry
92). -/
def followTamb (c : Units) (d : Dev) (t : Nat) : Dev :=
  let d := if (tambOf d t).cal.swapDue then
      setTamb (flipBank d t) t (fun m => { m with cal := { m.cal with swapDue := false } })
    else d
  let d := if cf d .tCtrl t 0 7 7 == 1 then
      setTamb (putCom d .tCtrl t 0 (com d .tCtrl t 0 % 128)) t (fun m => { m with swapping := true })
    else d
  let d := if !(tambOf d t).cal.due then d
    else if running c (0x10 + t) then calStart d t
    else setTamb d t (fun m => { m with cal := { state := .fail, cause := 3 } })
  setTamb d t (fun m => { m with edge := some (tickNext d) })

/-- The Tambours at a boundary: where the effect edge lies on its first CCLK edge, the values are taken up at once. -/
def followTambs (c : Units) (d : Dev) : Dev := tamboursLater (tamboursDue c ((List.range 4).foldl (followTamb c) d))

/-! ### Offset 0: jobs from the host (R432, R433) -/

/-- A deferred JOB_SUBMIT is judged again. As with JOB_BEGIN, SEQ_END does not block it (DESIGN CHOICE, log entry 103). -/
def commitSubmit (c : Units) (d : Dev) (s : Submit) : Dev :=
  let seq := fld s.body 0 4
  let drop := refuseInband d s.port s.vc 0x0020 10 seq
  match binder d s.port s.vc with
  | none => drop
  | some p =>
    if vcMode d s.port s.vc != 2 || !running c p then drop
    else if s.begin_ then
      if (vcOf d s.port s.vc).job.isSome || (heldJob d p (BitVec.ofNat 32 seq)).isSome then drop
      else beginJob c d s.port s.vc p s.body d.clk.time
    else
      match openJobOf d s.port s.vc with
      | some j => if j.seq.toNat == seq then closeJob c d s.port s.vc else drop
      | none => drop

/-- Contexts of a job: one that is tied to no job is none of them, though its job field reads as a job numbered 0xFFFF_FFFF does
(R129, R266, R289). -/
def jobCtxs (d : Dev) (j : Job) : List (Nat × Ctx) :=
  (ctxsOf d j.part).filter (fun e => e.2.job == j.seq && j.seq != noWord)

/-- The contexts of a job end for a cause. -/
def endJobSeqs (c : Units) (d : Dev) (j : Job) (cause : Nat) : Dev :=
  (jobCtxs d j).foldl (fun d e => endSeq c d e.1 cause false) d

/-- A JOB_CANCEL takes effect; a job that has left the partition is left as it is. -/
def commitCancel (c : Units) (d : Dev) (e : Nat × Word) : Dev :=
  match heldJob d e.1 e.2 with
  | none => d
  | some j =>
    -- the strip that is cancelled is the one before the next (R135)
    let d := if !j.isOpen then d
      else if vcMode d j.port j.vc == 3 then
        let (d, rows) := overlapRows c d { j with missing := (List.range j.height).filter (fun r => j.missing.contains r || !j.stored.contains r) }
          (cf d .vcCfg j.port j.vc 23 16)
        setVc d j.port j.vc (fun q => { q with job := none, prior := some rows })
      else setVc d j.port j.vc (fun q => { q with job := none })
    let d := cancelOut (endJobSeqs c d j 7) j
    { d with txt := { d.txt with queue := d.txt.queue.filter (fun x => !(x.part == some j.part && x.job == j.seq)) } }

/-- A partition enters RUN from HALTED: the sequences of its held jobs end and are freed, the jobs begin again (R76). -/
def rereadPart (c0 c : Units) (d : Dev) (p : Nat) : Dev :=
  if !(ust c0 p == .halted && running c p) then d
  else
    -- a job that a JOB_CANCEL names leaves at this boundary
  (d.jobs.filter (fun j => j.part == p && !d.cancels.contains (p, j.seq))).foldl (fun d j =>
      let d := endJobSeqs c d j 8
      let d := (jobCtxs d j).foldl (fun d e => freeCtx c d e.1) d
      let d := setJob (rereadOut d ((jobOf d j.id).getD j)) j.id (fun j =>
        { j with reread := true, bands := [], pubVer := false, doneNamed := false, sequences := 0, ecc := false })
      -- the job carries its own events again
      let d := openEvents c d j
      if j.isOpen then d else closeEvents c d j) d

/-! ### Offset 0: power states (R451 to R453) -/

/-- Every unit but the memory controller and SEQ is DISABLED, Bobbins DISABLED, FAILED or OFFLINE; no request is pending. -/
def quiet (c : Units) (d : Dev) : Bool :=
  (List.range 30).all (fun u => let s := ust c u; s == .disabled || (8 ≤ u && u < 16 && (s == .failed || s == .offline)))
    && d.req.toList.all (·.isNone) && d.adapt.copy == 0 && d.tambs.toList.all (fun t => t.cal.state != .running && !t.cal.due)

/-- The entry to SLEEP may proceed. -/
def sleepOk (d : Dev) : Bool :=
  d.req.toList.all (·.isNone) && d.fw.state != .programming && !d.pwr.check && d.xfer.isNone

/-- A pending power state commits, or is dropped. -/
def commitPower (c : Units) (d : Dev) : Dev :=
  let drop := logOnly { d with pwr := { d.pwr with pend := none } } 0x0109 255 255 [0x0060, 0]
  let go := fun (s : PState) => { d with pwr := { d.pwr with pend := none, state := s } }
  match d.pwr.pend with
  | none => d
  | some .idle =>
    if d.pwr.state == .run && quiet c d then
      let d := go .idle
      { d with ddr := { d.ddr with idleSr := d.ddr.state == .ready } }
    else drop
  | some .run =>
    if d.pwr.state == .idle then
      let d := go .run
      { d with pwr := { d.pwr with runAt := some d.clk.mono }, ddr := { d.ddr with idleSr := false } }
    else drop
  | some .sleep => if d.pwr.state == .idle && sleepOk d then enterSleep c d else drop

/-! ### Bookkeeping of offset 0 (R218, R365, R494) -/

/-- Number the jobs held on each binding (R218). -/
def numberJobs (d : Dev) : Dev :=
  (List.range 8).foldl (fun d p => setPart d p (fun s => { s with
    ages := (inputsOf (imgOf d p)).map (fun b =>
      (d.jobs.filter (fun j => j.part == p && j.port == b.1 && j.vc == b.2 && j.openAt ≤ d.clk.mono)).map (fun j => ⟨j.id, j.width, j.height⟩)) })) d

/-- STATUS_SNAPSHOT every PERIOD Stitches (R365, R383). -/
def snapshot (c : Units) (d : Dev) : Dev :=
  let d := drainSnap c d
  let n := cf d .oSnap 0 0 31 16
  if n != 0 && d.clk.count.toNat % n == 0 && running c 0x1C then handSnap c d { bytes := recSnapshot c d (snapAt d).1 } else d

/-- Offset 0 up to the committed table: the Stitch that has ended is judged and reported, the trip halts, swap, shadows and
requests commit, Bobbins follow their partitions. -/
def boundaryUnits (c0 : Units) (d0 : Dev) : Units × Dev :=
  let ps := List.range 8
  let x := ps.foldl markBob
    (ps.foldl judgePart (c0, lateLeft (earlyTime { d0 with clk := { d0.clk with
      offset := 0, count := if d0.clk.count == -1 then -1 else d0.clk.count + 1 } })))
  let x := tripHalt (x.1, clearStitch (ps.foldl (reportPart x.1) x.2))
  let x := (List.range 31).foldl commitReq (x.1, commitShadows (ps.foldl (recheck x.1) (commitSwap x.1 x.2)))
  ps.foldl (followPart c0) x

/-- Offset 0 after the commit: what the units and the waiting host commands do, and the boundary's own bookkeeping. -/
def boundaryRest (c0 c : Units) (d : Dev) : Dev :=
  let d := commitTime d
  let d := (List.range 4).foldl (followRx c0 c) d
  let d := (List.range 2).foldl (followTx c0 c) d
  let d := followTambs c (followStores c (followDdr c0 c d))
  let subs := sortBy (fun (a b : Submit) => decide (a.port < b.port) || (a.port == b.port && decide (a.vc < b.vc))) d.submits
  let cans := d.cancels
  let d := (List.range 8).foldl (rereadPart c0 c) d
  let d := subs.foldl (commitSubmit c) { d with submits := [], cancels := [] }
  let d := adaptBoundary c0 c (numberJobs (cans.foldl (commitCancel c) d))
  let d := commitPower c (noteSummary c (healthTurn (logFixes d)))
  snapshot c (noteSummary c d)

/-- The work of offset 0. -/
def boundaryZero (c0 : Units) (d0 : Dev) : Units × Dev :=
  let x := boundaryUnits c0 d0
  (x.1, boundaryRest c0 x.1 x.2)

/-- The boundary: the work of offset 0. The phases of the boundary window come due at their offsets (R40). -/
def boundary (s : State) : State :=
  let x := boundaryZero s.committed s.dev
  { s with committed := x.1, dev := x.2 }

/-- STITCH_BOUNDARY: the rest of the Stitch passes, and its boundary is carried out (R38, R40). -/
def execStitchBoundary (s : State) : Host.Outcome State Fault Refusal :=
  if s.dev.clk.ticking then .next (boundary { s with dev := advanceTo s.committed s.dev (periodOf s.dev) }) else .next s

/-- One cycle of the device's own time: CCLK while the PLL runs, REFCLK without it (R22, R39, R455). -/
def tick (s : State) : State :=
  let d := s.dev
  if !d.pwr.powered || d.pwr.booting then s
  else if !d.clk.pllLock then
    if d.clk.holdover || !d.pwr.booted then s else { s with dev := { d with clk := { d.clk with time := d.clk.time + 40 } } }
  else if d.clk.ticking then
    let d := advanceTo s.committed d (d.clk.offset + 1)
    if periodOf d ≤ d.clk.offset then boundary { s with dev := d } else { s with dev := d }
  else
    let d := elapse d 1
    { s with dev := { d with clk := { d.clk with offset := 0 } } }

end Sys2Proof.Machine
end

