-- ==== Sys2Proof/Machine/Host.lean ====
section
/-!
DEFINITION. Host commands (R419 to R433, R440, R441): delivery of a packet, the checks in their order, replies, and the
commands that are not register accesses or loads.
-/
namespace Sys2Proof.Machine

/-! ### Delivery (R415, R419, R422, R439, R454, R457) -/

/-- A private transfer names the target in the mode its bus is in, in HDR-DDR with the command code that the device accepts: 0x00 for a
write, 0x80 for a read. HDR-DDR is ignored in SLEEP. -/
def addressed (d : Dev) (da : BitVec 7) (hdr : Option Byte) (code : Byte) : Bool :=
  d.pwr.powered && d.i3c.da != 0 && d.i3c.da == da && d.i3c.hdr == hdr.isSome && hdr.all (· == code)
    && !(hdr.isSome && d.pwr.state == .sleep)

/-- A private write is taken: no reset, boot, restart or command is in progress. -/
def reaches (d : Dev) (da : BitVec 7) (hdr : Option Byte) : Bool :=
  addressed d da hdr 0x00 && !d.pwr.resetLow && d.pwr.booted && !d.pwr.booting && d.fw.wrote.isNone && d.i3c.busy.isNone

/-- What the device does on the bus: it acknowledges, or not, and drives bytes. -/
def answerBus (d : Dev) (ack : Bool) (out : List Byte) : Dev := { d with i3c := { d.i3c with ack, out } }

/-! ### Checks (R423, R426) -/

/-- A row of R426: opcode, least and greatest LENGTH, lowest minor version, served in SLEEP. -/
structure CmdRow where
  op    : BitVec 16
  least : Nat
  most  : Nat
  minor : Nat
  s     : Bool
  deriving DecidableEq, Repr

/-- A reply that ends at a check: BAD_CRC counts apart (R446). -/
def refusePacket (d : Dev) (op tag : BitVec 16) (status : Nat) : Dev :=
  let e := giveReply d op tag status []
  if status == stCrc then
    { e with i3c := { e.i3c with crcBad := d.i3c.crcBad + 1, refused := d.i3c.refused } }
  else e

/-- Check 6, and the mask ROM in recovery (R454, R459). -/
def served (d : Dev) (r : CmdRow) : Bool :=
  (d.pwr.state != .sleep || r.s) && (!d.pwr.recovery || r.s || r.op == 0x70 || r.op == 0x71)

/-- Checks 1 to 6 in their order: the first failure, if any. -/
def packetStatus (d : Dev) (r : CmdRow) (ok : Dev → List Byte → Bool) (k : Pkt) : Option Nat :=
  let n := k.payload.length
  if !pktLenOk k then some stLength
  else if !pktCrcOk r.op.toNat k then some stCrc
  else if d.i3c.minor.toNat < r.minor then some stOpcode
  else if n < r.least || r.most < n then some stLength
  else if k.rsvd != 0 || !ok d k.payload then some stValue
  else if !served d r then some stOffline
  else none

/-- A private write with a command packet: not taken, refused at a check, or carried out. -/
def takeCmd (r : CmdRow) (ok : Dev → List Byte → Bool) (d : Dev) (w : HostWrite) (act : Dev → BitVec 16 → List Byte → Dev) : Dev :=
  if !reaches d w.da w.hdr then answerBus d false []
  else
    let d := answerBus d true []
    match packetStatus d r ok w.pkt with
    | some st => refusePacket d r.op w.pkt.tag st
    | none => act d w.pkt.tag w.pkt.payload

/-- A command whose reply is complete at once: effect, status and reply payload. -/
def hostCmd (r : CmdRow) (ok : Dev → List Byte → Bool) (d : Dev) (w : HostWrite)
    (act : Dev → List Byte → Dev × Nat × List Byte) : Dev :=
  takeCmd r ok d w (fun d tag b => let x := act d b; giveReply x.1 r.op tag x.2.1 x.2.2)

/-- A packet as a host forms it. -/
def okPkt (op : Nat) (tag : BitVec 16) (payload : List Byte) : Pkt :=
  let k : Pkt := { tag, len := BitVec.ofNat 16 payload.length, rsvd := 0, payload, crc := 0 }
  { k with crc := crc32c (pktHead op k) }

/-! ### HELLO (R428, R459) -/

def rowHello : CmdRow := ⟨0x0001, 4, 4, 0, true⟩

/-- HELLO chooses the session version; the mask ROM speaks 1.0 only. -/
def doHello (d : Dev) (b : List Byte) : Dev × Nat × List Byte :=
  let major := fld b 0 1
  if major == 0 then (d, stVersion, [])
  else
    let minor := if d.pwr.recovery then 0 else if major == 1 then Nat.min (fld b 1 1) 3 else 3
    ({ d with i3c := { d.i3c with major := 1, minor := BitVec.ofNat 4 minor, hello := true } }, stOk,
      [1, BitVec.ofNat 8 minor, 0xA1, BitVec.ofNat 8 (b2n d.fw.active)] ++ leBytes 2 0x8384 ++ leBytes 2 (fwRelease d))

/-- HELLO. -/
def execHello (w : HostWrite) (s : State) : Host.Outcome State Fault Refusal :=
  onDev (fun _ d => hostCmd rowHello (fun _ b => zeroAt b 2 2) d w doHello) s

/-! ### Partitions (R49, R64, R453, R507) -/

/-- A request that would move a unit to RUN is refused (R453). -/
def runBlocked (d : Dev) : Bool :=
  d.pwr.state != .run || d.pwr.pend.isSome || (match d.pwr.runAt with | some m => decide (d.clk.mono < m + 11000) | none => false)

/-- A payload of a partition number and zeros. -/
def partBody (_ : Dev) (b : List Byte) : Bool := fld b 0 1 < 8 && zeroAt b 1 3

def rowStart : CmdRow := ⟨0x0013, 4, 4, 0, false⟩

/-- PARTITION_START at receipt. -/
def doStart (c : Units) (d : Dev) (b : List Byte) : Dev × Nat × List Byte :=
  let p := fld b 0 1
  if !(ust c p == .idle || ust c p == .halted) || d.health.trip || runBlocked d || !hasImage d p then (d, stConflict, [])
  else
    let code := bindCheck d (viewNext c d p) (imgOf d p) p
    if code != 0 then (setPart d p (fun s => { s with detail := BitVec.ofNat 8 code }), stRejected, [])
    else (setReq d p (some .run), stDeferred, [])

/-- PARTITION_START. -/
def execPartitionStart (w : HostWrite) (s : State) : Host.Outcome State Fault Refusal :=
  onDev (fun c d => hostCmd rowStart partBody d w (doStart c)) s

def rowHalt : CmdRow := ⟨0x0014, 4, 4, 0, false⟩

/-- PARTITION_HALT at receipt. -/
def doHalt (c : Units) (d : Dev) (b : List Byte) : Dev × Nat × List Byte :=
  let p := fld b 0 1
  if partOn c p then (setReq d p (some .halted), stDeferred, []) else (d, stConflict, [])

/-- PARTITION_HALT. -/
def execPartitionHalt (w : HostWrite) (s : State) : Host.Outcome State Fault Refusal :=
  onDev (fun c d => hostCmd rowHalt partBody d w (doHalt c)) s

/-! ### Jobs (R432, R433) -/

def rowSubmit : CmdRow := ⟨0x0020, 20, 20, 0, false⟩

/-- Fields of JOB_SUBMIT: for END only SEQ stands in the JOB_BEGIN payload. -/
def submitBody (_ : Dev) (b : List Byte) : Bool :=
  fld b 0 1 < 4 && fld b 1 1 < 16 && fld b 2 1 < 2 && zeroAt b 3 1
    && (if fld b 2 1 == 0 then beginOk (b.drop 4) else zeroAt b 8 12)

/-- JOB_SUBMIT at receipt, against the committed and pending configuration. -/
def doSubmit (c : Units) (d : Dev) (b : List Byte) : Dev × Nat × List Byte :=
  let x := fld b 0 1
  let v := fld b 1 1
  let start := fld b 2 1 == 0
  let seq := BitVec.ofNat 32 (fld b 4 4)
  let ok : Bool := match binder d x v with
    | none => false
    | some p =>
      sf d .vcCfg x v 31 30 == 2 && (running c p || reqOf d p == some .run)
        && (if start then (vcOf d x v).job.isNone && (heldJob d p seq).isNone
            else match openJobOf d x v with | some j => j.seq == seq | none => false)
  if ok then ({ d with submits := d.submits ++ [{ port := x, vc := v, begin_ := start, body := b.drop 4 }] }, stDeferred, [])
  else (d, stConflict, [])

/-- JOB_SUBMIT with ACTION BEGIN. -/
def execJobSubmitBegin (w : HostWrite) (s : State) : Host.Outcome State Fault Refusal :=
  onDev (fun c d => hostCmd rowSubmit submitBody d w (doSubmit c)) s

/-- JOB_SUBMIT with ACTION END. -/
def execJobSubmitEnd (w : HostWrite) (s : State) : Host.Outcome State Fault Refusal :=
  onDev (fun c d => hostCmd rowSubmit submitBody d w (doSubmit c)) s

def rowCancel : CmdRow := ⟨0x0021, 8, 8, 0, false⟩

/-- JOB_CANCEL at receipt. -/
def doCancel (d : Dev) (b : List Byte) : Dev × Nat × List Byte :=
  let p := fld b 0 1
  let seq := BitVec.ofNat 32 (fld b 4 4)
  if (heldJob d p seq).isSome then ({ d with cancels := d.cancels ++ [(p, seq)] }, stDeferred, []) else (d, stValue, [])

/-- JOB_CANCEL. -/
def execJobCancel (w : HostWrite) (s : State) : Host.Outcome State Fault Refusal :=
  onDev (fun _ d => hostCmd rowCancel partBody d w doCancel) s

/-! ### Tables, calibration, adaptation (R103, R314, R391) -/

def rowTableSwap : CmdRow := ⟨0x0031, 0, 0, 0, false⟩

/-- TABLE_SWAP at receipt. -/
def doTableSwap (c : Units) (d : Dev) (_ : List Byte) : Dev × Nat × List Byte :=
  if swapOk c d true then ({ d with txt := { d.txt with swap := true } }, stDeferred, []) else (d, stConflict, [])

/-- TABLE_SWAP. -/
def execTableSwap (w : HostWrite) (s : State) : Host.Outcome State Fault Refusal :=
  onDev (fun c d => hostCmd rowTableSwap (fun _ _ => true) d w (doTableSwap c)) s

def rowCalibrate : CmdRow := ⟨0x0040, 4, 4, 0, false⟩

/-- CALIBRATE at receipt. -/
def doCalibrate (c : Units) (d : Dev) (b : List Byte) : Dev × Nat × List Byte :=
  let t := fld b 0 1
  let m := tambOf d t
  let w := calWin d t
  if !running c (0x10 + t) || m.cal.state == .running || m.active == 2 || cf d .tLineCfg t 0 27 24 == 6
      || (cf d .tCalCfg t 0 25 25 == 1 && m.active == 0) || sf d .tCtrl t 0 7 7 == 1 then (d, stConflict, [])
  else if w.1 < w.2.2.1 + w.2.2.2 && w.2.2.1 < w.1 + w.2.1 then (d, stValue, [])
  else (setTamb d t (fun m => { m with cal := { m.cal with due := true } }), stDeferred, [])

/-- CALIBRATE. -/
def execCalibrate (w : HostWrite) (s : State) : Host.Outcome State Fault Refusal :=
  onDev (fun c d => hostCmd rowCalibrate (fun _ b => fld b 0 1 < 4 && zeroAt b 1 3) d w (doCalibrate c)) s

def rowAdapt : CmdRow := ⟨0x0050, 4, 4, 1, false⟩

/-- Condition of an ADAPT_RUN action: its refusal, if any (R391). -/
def adaptRefusal (c : Units) (d : Dev) (x : Nat) : Option Nat :=
  let a := d.adapt
  let p := adaptPart d
  let need := fun (b : Bool) (e : Option Nat) => if b then e else some stConflict
  if x == 1 then
    need (running c 0x1D && a.ready && a.run != .active && a.copy == 0 && hasImage d p && coversStage d (imgOf d p)) none
  else if x == 2 then need (a.run == .active) none
  else if x == 3 then
    let n := 256 + (stateArea d).2
    need (a.copy == 0 && (a.run == .active || a.clean))
      (if !inRegions d regsAdapt (ckptAt d) n then some stValue else need (!meetsClaims c d (ckptAt d) n) none)
  else
    need (a.run != .active && a.copy == 0 && (ust c p == .idle || ust c p == .halted) && reqOf d p != some .run)
      (if ckptOk d then none else some stValue)

/-- ADAPT_RUN at receipt. -/
def doAdapt (c : Units) (d : Dev) (b : List Byte) : Dev × Nat × List Byte :=
  let d := adaptGuard d
  let x := fld b 0 1
  match adaptRefusal c d x with
  | some st => (d, st, [])
  | none =>
    -- an accepted START or RESUME clears RESTORE_FAIL (R412)
    let fail := d.adapt.fail && x != 1 && x != 4
    ({ d with adapt := { d.adapt with pend := d.adapt.pend ++ [x], fail } }, stDeferred, [])

/-- ACTION is 0x01 to 0x04. -/
def adaptBody (_ : Dev) (b : List Byte) : Bool := 1 ≤ fld b 0 1 && fld b 0 1 ≤ 4 && zeroAt b 1 3

/-- ADAPT_RUN START. -/
def execAdaptRunStart (w : HostWrite) (s : State) : Host.Outcome State Fault Refusal :=
  onDev (fun c d => hostCmd rowAdapt adaptBody d w (doAdapt c)) s

/-- ADAPT_RUN STOP. -/
def execAdaptRunStop (w : HostWrite) (s : State) : Host.Outcome State Fault Refusal :=
  onDev (fun c d => hostCmd rowAdapt adaptBody d w (doAdapt c)) s

/-- ADAPT_RUN CHECKPOINT. -/
def execAdaptRunCheckpoint (w : HostWrite) (s : State) : Host.Outcome State Fault Refusal :=
  onDev (fun c d => hostCmd rowAdapt adaptBody d w (doAdapt c)) s

/-- ADAPT_RUN RESUME. -/
def execAdaptRunResume (w : HostWrite) (s : State) : Host.Outcome State Fault Refusal :=
  onDev (fun c d => hostCmd rowAdapt adaptBody d w (doAdapt c)) s

/-! ### Power states (R452, R453) -/

def rowPower : CmdRow := ⟨0x0060, 4, 4, 0, true⟩

/-- Power state of a code of R451. -/
def pstateOf (n : Nat) : PState := if n == 0 then .run else if n == 1 then .idle else .sleep

/-- Whether a transition of R452 may be requested. -/
def powerOk (c : Units) (d : Dev) : PState → PState → Bool
  | .run, .idle => quiet c d
  | .idle, .run => true
  | .idle, .sleep => sleepOk d
  | _, _ => false

/-- POWER_STATE outside SLEEP. -/
def doPower (c : Units) (d : Dev) (b : List Byte) : Dev × Nat × List Byte :=
  let dest := pstateOf (fld b 0 1)
  if dest == d.pwr.state && d.pwr.pend.isNone then (d, stOk, [])
  else if powerOk c d d.pwr.state dest then ({ d with pwr := { d.pwr with pend := some dest } }, stDeferred, [])
  else (d, stConflict, [])

/-- A POWER_STATE command as a whole: from SLEEP a request for RUN or IDLE wakes the device. -/
def powerCmd (c : Units) (d : Dev) (w : HostWrite) : Dev :=
  takeCmd rowPower (fun _ b => fld b 0 1 < 3 && zeroAt b 1 3) d w (fun d tag b =>
    if d.pwr.state == .sleep && fld b 0 1 != 2 then wake (giveReply d rowPower.op tag stOk [])
    else let x := doPower c d b; giveReply x.1 rowPower.op tag x.2.1 x.2.2)

/-- POWER_STATE: a wake leaves every unit DISABLED (R449, R453). -/
def execPowerState (w : HostWrite) (s : State) : Host.Outcome State Fault Refusal :=
  let d := powerCmd s.committed s.dev w
  .next { s with committed := if d.pwr.waking && !s.dev.pwr.waking then allDisabled else s.committed, dev := d }

/-! ### Status and the error log (R440, R441, R495) -/

def rowStatus : CmdRow := ⟨0x00F0, 0, 0, 0, true⟩

/-- STATUS_GET; in SLEEP the values frozen at entry, but for TIME (R454). -/
def doStatus (c : Units) (d : Dev) (_ : List Byte) : Dev × Nat × List Byte :=
  (d, stOk, if d.pwr.state == .sleep then leBytes 8 d.clk.time.toNat ++ d.pwr.frozen.drop 8 else statusPayload c d)

/-- STATUS_GET. -/
def execStatusGet (w : HostWrite) (s : State) : Host.Outcome State Fault Refusal :=
  onDev (fun c d => hostCmd rowStatus (fun _ _ => true) d w (doStatus c)) s

def rowLog : CmdRow := ⟨0x00F1, 8, 8, 0, true⟩

/-- Fields of ERROR_LOG_READ: ACK is reserved below version 1.3 (R427). -/
def logBody (d : Dev) (b : List Byte) : Bool :=
  1 ≤ fld b 4 1 && fld b 4 1 ≤ 64 && fld b 5 1 ≤ (if 3 ≤ d.i3c.minor.toNat then 1 else 0) && zeroAt b 6 2

/-- ACK removes every entry below FROM; space freed after entries were not stored brings LOG_LOST (R441, R495). -/
def ackLog (d : Dev) (upto : Nat) : Dev :=
  let h := d.health
  let kept := h.log.filter (fun e => decide (upto ≤ e.seq))
  let d := { d with health := { h with log := kept } }
  if kept.length < h.log.length && h.lost != 0 then
    logOnly { d with health := { d.health with lost := 0 } } 0x0103 255 255 [h.lost]
  else d

/-- Entries that a read returns: from FROM, or the oldest, up to MAX and to what fits in 4,088 bytes. -/
def logSlice (d : Dev) (upto most : Nat) : List LogEntry :=
  (if upto == 0xFFFFFFFF then d.health.log else d.health.log.filter (fun e => decide (upto ≤ e.seq))).take (Nat.min most 63)

/-- ERROR_LOG_READ. -/
def doLog (d : Dev) (b : List Byte) : Dev × Nat × List Byte :=
  let upto := fld b 0 4
  let d := if fld b 5 1 == 1 then ackLog d upto else d
  let es := logSlice d upto (fld b 4 1)
  let next := match es.getLast? with | some e => e.seq + 1 | none => d.health.seq
  (d, stOk, leBytes 4 es.length ++ leBytes 4 next ++ es.flatMap LogEntry.bytes)

/-- ERROR_LOG_READ. -/
def execErrorLogRead (w : HostWrite) (s : State) : Host.Outcome State Fault Refusal :=
  onDev (fun _ d => hostCmd rowLog logBody d w doLog) s

end Sys2Proof.Machine
end

