-- ==== Sys2Proof/Machine/Bus.lean ====
section
/-!
DEFINITION. The I3C target outside commands (R414 to R423, R457): private reads, discarded writes, common commands,
HDR-DDR, and packets with no row of their own.
-/
namespace Sys2Proof.Machine

/-! ### Private transfers -/

/-- The reply that a private read finds (R421, R422, R439, R454, R457). -/
def replyNow (d : Dev) : Reply :=
  if d.pwr.booting then
    if d.pwr.waking then d.i3c.reply else { opcode := 0xFFFF, tag := 0, status := BitVec.ofNat 16 stProgress }
  else if d.i3c.busy.isSome || restarting d then
    let x := d.i3c.busy.getD (0xFFFF, 0)
    { opcode := x.1, tag := x.2, status := BitVec.ofNat 16 stProgress }
  else d.i3c.reply

/-- The bytes of a reply (R421). -/
def Reply.bytes (r : Reply) : List Byte :=
  let body := leBytes 2 r.opcode.toNat ++ leBytes 2 r.tag.toNat ++ leBytes 2 r.status.toNat ++ leBytes 2 r.payload.length ++ r.payload
  body ++ leBytes 4 (crc32c body).toNat

/-- PRIVATE_READ of at most count bytes; in HDR-DDR only the code 0x80 reads, and SDR has no code (R419, R421). -/
def execPrivateRead (da : BitVec 7) (hdr : Bool) (code : Byte) (count : Nat) (s : State) : Host.Outcome State Fault Refusal :=
  onDev (fun _ d =>
    if addressed d da (if hdr then some code else none) 0x80 && !d.pwr.resetLow then answerBus d true ((replyNow d).bytes.take count)
    else answerBus d false []) s

/-- PRIVATE_WRITE_DISCARDED: the write is dropped whole and the reply buffer stands (R418, R419). -/
def execPrivateWriteDiscarded (da : BitVec 7) (s : State) : Host.Outcome State Fault Refusal :=
  onDev (fun _ d =>
    if reaches d da (if d.i3c.hdr then some 0x00 else none) then
      let d := answerBus d true []
      { d with i3c := { d.i3c with protErr := true, parity := d.i3c.parity + 1 } }
    else answerBus d false []) s

/-- Checks 1 to 3 on the bytes of a private write that is no command of R426 (R423). -/
def strayStatus (bs : List Byte) : Nat :=
  let n := fld bs 4 2
  if bs.length < 12 || n % 4 != 0 || 4096 < n || bs.length != 12 + n then stLength
  else if (crc32c (bs.take (8 + n))).toNat != fld bs (8 + n) 4 then stCrc
  else stOpcode

/-- UNKNOWN_OPCODE: a packet that is too short or names no command. What OPCODE and TAG read where their bytes did not
arrive is left open. -/
def execUnknownOpcode (da : BitVec 7) (hdr : Option Byte) (bytes : List Byte) (s : State) : Host.Outcome State Fault Refusal :=
  onDev (fun _ d =>
    if !reaches d da hdr then answerBus d false []
    else
      let d := answerBus d true []
      let head := bytes ++ leBytes 4 (Config.openValue 10 d.free).toNat
      let d := if bytes.length < 4 then { d with free := d.free + 1 } else d
      refusePacket d (BitVec.ofNat 16 (fld head 0 2)) (BitVec.ofNat 16 (fld head 2 2)) (strayStatus bytes)) s

/-! ### Common commands (R415 to R418) -/

/-- The target hears common commands: powered, and the bus in SDR. -/
def hears (d : Dev) : Bool := d.pwr.powered && !d.i3c.hdr

/-- A direct common command to the device's dynamic address, answered with bytes. -/
def directCmd (d : Dev) (da : BitVec 7) (f : Dev → Dev × List Byte) : Dev :=
  if hears d && d.i3c.da != 0 && d.i3c.da == da then let x := f d; answerBus x.1 true x.2 else answerBus d false []

/-- The provisioned ID (R416); like every multi-byte field it is sent byte 0 first (R5; DEDUCED, log entry 40). -/
def provId (d : Dev) : Nat := 0x0C5E * 2 ^ 33 + 0x8384 * 65536 + d.pwr.sa.toNat * 4096 + 0x0A1

/-- BCR and DCR (R416). -/
def bcr : Byte := 0x01
def dcr : Byte := 0x00

/-- The static address (R415). -/
def staticAddr (d : Dev) : BitVec 7 := 0x2C + d.pwr.sa.zeroExtend 7

/-- ENTDAA: without a dynamic address the device takes part and takes the address assigned. -/
def execEntdaa (da : BitVec 7) (s : State) : Host.Outcome State Fault Refusal :=
  onDev (fun _ d =>
    if hears d && d.i3c.da == 0 then
      let d := answerBus d true (leBytes 6 (provId d) ++ [bcr, dcr])
      { d with i3c := { d.i3c with da } }
    else answerBus d false []) s

/-- SETDASA at the static address. -/
def execSetdasa (static : BitVec 7) (da : BitVec 7) (s : State) : Host.Outcome State Fault Refusal :=
  onDev (fun _ d =>
    if hears d && d.i3c.da == 0 && static == staticAddr d then
      let d := answerBus d true []
      { d with i3c := { d.i3c with da } }
    else answerBus d false []) s

/-- RSTDAA. -/
def execRstdaa (s : State) : Host.Outcome State Fault Refusal :=
  onDev (fun _ d =>
    if hears d then
      let d := answerBus d true []
      { d with i3c := { d.i3c with da := 0 } }
    else answerBus d false []) s

/-- GETPID. -/
def execGetpid (da : BitVec 7) (s : State) : Host.Outcome State Fault Refusal :=
  onDev (fun _ d => directCmd d da (fun d => (d, leBytes 6 (provId d)))) s

/-- GETBCR. -/
def execGetbcr (da : BitVec 7) (s : State) : Host.Outcome State Fault Refusal := onDev (fun _ d => directCmd d da (fun d => (d, [bcr]))) s

/-- GETDCR. -/
def execGetdcr (da : BitVec 7) (s : State) : Host.Outcome State Fault Refusal := onDev (fun _ d => directCmd d da (fun d => (d, [dcr]))) s

/-- GETCAPS. -/
def execGetcaps (da : BitVec 7) (s : State) : Host.Outcome State Fault Refusal := onDev (fun _ d => directCmd d da (fun d => (d, [0x01]))) s

/-- GETMXDS: 2 MHz in SLEEP. -/
def execGetmxds (da : BitVec 7) (s : State) : Host.Outcome State Fault Refusal :=
  onDev (fun _ d => directCmd d da (fun d => (d, if d.pwr.state == .sleep then [0x04, 0x04] else [0x00, 0x00]))) s

/-- The 16 bits of GETSTATUS (R418). -/
def statusBits (d : Dev) : Nat := summaryWord d % 256 * 256 + b2n d.i3c.protErr * 32

/-- GETSTATUS clears the protocol error. -/
def execGetstatus (da : BitVec 7) (s : State) : Host.Outcome State Fault Refusal :=
  onDev (fun _ d => directCmd d da (fun d => ({ d with i3c := { d.i3c with protErr := false } }, leBytes 2 (statusBits d)))) s

/-- ENEC and DISEC are accepted and enable nothing. -/
def execEnecDisec (broadcast : Bool) (da : BitVec 7) (_enable : Bool) (_events : Byte) (s : State) : Host.Outcome State Fault Refusal :=
  onDev (fun _ d => if broadcast then answerBus d (hears d) [] else directCmd d da (fun d => (d, []))) s

/-- ENTHDR0: the bus is in HDR-DDR. -/
def execEnthdr0 (s : State) : Host.Outcome State Fault Refusal :=
  onDev (fun _ d =>
    if hears d then
      let d := answerBus d true []
      { d with i3c := { d.i3c with hdr := true } }
    else d) s

/-- The HDR exit pattern returns the target to SDR (R454). -/
def execHdrExitPattern (s : State) : Host.Outcome State Fault Refusal :=
  onDev (fun _ d => if d.pwr.powered then { d with i3c := { d.i3c with hdr := false } } else d) s

/-- RSTACT selects what the next target reset pattern does (R417). -/
def execRstact (broadcast : Bool) (da : BitVec 7) (action : Byte) (s : State) : Host.Outcome State Fault Refusal :=
  onDev (fun _ d =>
    let mine : Bool := hears d && (broadcast || (d.i3c.da != 0 && d.i3c.da == da))
    if mine && action.toNat ≤ 2 then
      let d := answerBus d true []
      { d with i3c := { d.i3c with rstact := action } }
    else answerBus d false []) s

end Sys2Proof.Machine
end

