-- ==== Sys2Proof/Machine/Jtag.lean ====
section
/-!
DEFINITION. The TAP and FLASH_SPI (R535, R536), and the states of the pins (R462).
-/
namespace Sys2Proof.Machine

/-- Codes with an instruction of their own; every other code selects BYPASS (R535). -/
def tapCode (code : Byte) : Byte := if [0x00, 0x01, 0x02, 0x03, 0x04, 0x3A].contains code then code else 0xFF

/-- The instruction in effect: EXTEST, HIGHZ and CLAMP act while RESET_N counts low, in power-on reset too, FLASH_SPI while it is
selected. -/
def tapInstr (d : Dev) : Byte :=
  let i := d.jtag.ir
  if i == 0x00 || i == 0x03 || i == 0x04 then (if d.pwr.resetLow then i else 0xFF)
  else if i == 0x3A then (if d.jtag.flash then i else 0xFF) else i

/-- JTAG_UPDATE_IR; FLASH_SPI is accepted while RESET_N counts low and PWROK is high (R535). -/
def execJtagUpdateIr (code : Byte) (s : State) : Host.Outcome State Fault Refusal :=
  onDev (fun _ d =>
    let j := d.jtag
    let dest := tapCode code
    if dest == 0x3A then
      { d with jtag := { j with ir := dest, flash := j.flash || (d.pwr.pwrok && d.pwr.resetLow) } }
    else { d with jtag := { flashOff j with ir := dest } }) s

/-- What an Update-DR does once no transfer runs: QSPI_CS_N, and with SEND a transfer. -/
def applyDr (j : Jtag) (v : BitVec 10) : Jtag :=
  let j := { j with csN := !v.getLsbD 9 }
  if v.getLsbD 8 then { j with busy := true, ended := false, spi := j.spi ++ [v.truncate 8] } else j

/-- JTAG_UPDATE_DR: under FLASH_SPI what applyDr does, and while a transfer runs it waits; under EXTEST and SAMPLE/PRELOAD the update
stage of the boundary-scan register, as far as the command carries it (R535, R536; DESIGN CHOICE, log entry 9). -/
def execJtagUpdateDr (value : BitVec 10) (s : State) : Host.Outcome State Fault Refusal :=
  onDev (fun _ d =>
    if !d.jtag.flash then
      (if tapInstr d == 0x00 || tapInstr d == 0x01 then { d with jtag := { d.jtag with bsr := value } } else d)
    else if d.jtag.busy then { d with jtag := { d.jtag with next := some value } }
    else { d with jtag := applyDr d.jtag value }) s

/-- What Capture-DR loads under an instruction other than FLASH_SPI: the identification code of R535; zero where the bypass
register is selected (IEEE 1149.1, PRESUMED, log entry 9); under EXTEST and SAMPLE/PRELOAD the levels of the pins, whose order in the
boundary-scan register is in the BSDL description only, so that what it reads is open (log entry 9). -/
def captured (d : Dev) : Word :=
  let i := tapInstr d
  if i == 0x02 then 0x18384BCF else if i == 0x00 || i == 0x01 then Config.openValue 13 d.free else 0

/-- JTAG_CAPTURE_DR: the captured flash byte under FLASH_SPI. -/
def execJtagCaptureDr (s : State) : Host.Outcome State Fault Refusal :=
  onDev (fun _ d =>
    if !d.jtag.flash then { d with jtag := { d.jtag with dr := captured d }, free := d.free + 1 }
    else { d with jtag := { d.jtag with dr := BitVec.ofNat 32 (b2n d.jtag.ended * 256 + d.jtag.byte.toNat) } }) s

/-- FLASH_SPI_TRANSFER_END: the captured byte is held and a waiting Update-DR proceeds. -/
def execFlashSpiTransferEnd (captured : Byte) (s : State) : Host.Outcome State Fault Refusal :=
  onDev (fun _ d =>
    if !(d.jtag.flash && d.jtag.busy) then d
    else
      let j := { d.jtag with byte := captured, busy := false, ended := true, next := none }
      { d with jtag := match d.jtag.next with | some v => applyDr j v | none => j }) s

/-- TRST_N low: Test-Logic-Reset selects IDCODE. -/
def execTrstNLow (s : State) : Host.Outcome State Fault Refusal :=
  onDev (fun _ d => { d with jtag := { flashOff d.jtag with ir := 2 } }) s

/-! ### Pins (R462); the timing-generator outputs are `tgLevel`, the DDR5 balls `ddrPins`, before the TAP takes them over -/

/-- The columns of R462. With PWROK low the rails may be absent; every pin is then fail-safe or high impedance. -/
inductive PinTime where
  | reset
  | boot
  | run
  | idle
  | sleep
  deriving DecidableEq, Repr

/-- The column in force. -/
def pinTime (d : Dev) : PinTime :=
  if !d.pwr.powered || d.pwr.resetLow then .reset
  else if d.pwr.booting then .boot
  else match d.pwr.state with
    | .run => .run
    | .idle => .idle
    | .sleep => .sleep

/-- What the device does with a group of pins. -/
inductive PinState where
  | hiZ
  /-- High impedance with a weak pull-down. -/
  | pullDown
  /-- D-PHY receiver. -/
  | receiver
  /-- LP-11 on every lane, or a burst in HS (R349, R351). -/
  | lp11
  | hs
  /-- An input that counts, or that is ignored. -/
  | used
  | ignored
  /-- QSPI: CS_N high, CLK low and IO released; or driven to reach the flash. -/
  | atRest
  | driven
  /-- Driven from the boundary-scan register (R535). -/
  | scanned
  deriving DecidableEq, Repr

/-- Clock and data lanes of receive port x. -/
def rxPins (c : Units) (d : Dev) (x : Nat) : PinState :=
  if pinTime d == .run && running c (0x14 + x) then .receiver else .hiZ

/-- Lanes of transmit port x. -/
def txPins (c : Units) (d : Dev) (x : Nat) : PinState :=
  if pinTime d == .run && running c (0x18 + x) then (if (txOf d x).hs || d.clk.mono < (txOf d x).hsEnd then .hs else .lp11) else .pullDown

/-- What the TAP makes of a pin that the boundary-scan register covers and that the device drives or may drive: TG, I3C, QSPI and the
DDR5 signals but for DDRc_ZQ (R535). -/
def tapTakes (d : Dev) : Option PinState :=
  let i := tapInstr d
  if i == 0x00 || i == 0x04 then some .scanned else if i == 0x03 then some .hiZ else none

/-- TDO: no command leaves the TAP in a shift state, and outside one TDO is high impedance. -/
def tdoPin : PinState := .hiZ

/-- Inputs of a unit: the encoder inputs of a Tambour, OUT_HOLD of a transmit port. -/
def inputPins (c : Units) (d : Dev) (u : Nat) : PinState :=
  if pinTime d == .run && running c u then .used else .ignored

/-- Levels that FLASH_SPI drives on QSPI_CS_N and QSPI_IO[3:0]: IO[2] and IO[3] high throughout, IO[1] captured; IO[0] gives the bits of a
transfer and is not followed bit by bit (R536). -/
def flashLevel (d : Dev) : Option (Bool × Bool × Bool) :=
  if d.jtag.flash then some (d.jtag.csN, true, true) else none

/-- The QSPI pins: FW_UPDATE's programming, a switch, the standby check, FLASH_SPI, with the levels of flashLevel, and the TAP reach the
flash. -/
def qspiPins (d : Dev) : PinState :=
  match pinTime d with
  | .reset => if d.jtag.flash then .driven else (tapTakes d).getD .hiZ
  | .boot => .driven
  | .sleep => .hiZ
  | _ => if d.fw.state == .programming || d.fw.wrote.isSome || d.pwr.check then .driven else .atRest

end Sys2Proof.Machine
end

