-- ==== Sys2Proof/Machine/RegRead.lean ====
section
/-!
DEFINITION. Reading the register space (R8, R10, R14, R24, R27 to R37, R429): read-only fields computed from the
records, index registers, table windows, REG_READ and REG_READ_BLOCK.
-/
namespace Sys2Proof.Machine

/-! ### Codes of fields -/

/-- STATE of PWR_STATE (R451, R464). -/
def PState.code : PState → Nat
  | .run => 0 | .idle => 1 | .sleep => 2

/-- STATE of CMD_FW_STATUS (R445). -/
def FwSt.code : FwSt → Nat
  | .idle => 0 | .receiving => 1 | .programming => 2 | .ready => 3 | .failed => 4

/-- STATE of TAMB_CAL_RESULT (R119). -/
def CalSt.code : CalSt → Nat
  | .idle => 0 | .running => 1 | .pass => 2 | .fail => 3

/-- STANDBY of TXT_STATUS (R343). -/
def BufSt.code : BufSt → Nat
  | .empty => 0 | .loading => 1 | .valid => 2 | .draining => 3

/-- STATE of DDR_STATUS (R488). -/
def DdrSt.code : DdrSt → Nat
  | .off => 0 | .training => 1 | .ready => 2 | .selfRefresh => 3 | .failed => 4

/-- RUN_STATE of ADAPT_STATUS (R412). -/
def RunSt.code : RunSt → Nat
  | .idle => 0 | .active => 1 | .done => 2

/-! ### Read-only fields -/

/-- Activity level of a Bobbin now (R192, R208). -/
def levelNow (d : Dev) (n : Nat) : Nat := levelAt (rampOf d n) (bobOf d n).plan d.clk.mono

/-- A bank is claimed now (R185). -/
def claimedNow (d : Dev) (b : Bank) : Bool :=
  match b.claim with | some (x, y) => x ≤ d.clk.offset && d.clk.offset ≤ y | none => false

/-- SEQ_UNITu_STATE (R50). -/
def unitWord (c : Units) (d : Dev) (u : Nat) : Nat :=
  (ust c u).code + (match reqOf d u with | some s => 65536 + s.code * 256 | none => 0)

/-- SET_ID of a buffer, 0 while EMPTY or LOADING (R344). -/
def setIdOf (t : Txt) (b : Bool) : Nat :=
  match bufSt t b with | .empty | .loading => 0 | _ => (bufSet t b).toNat

/-- The RO and W1C fields of GLOBAL and SEQ. -/
def roSeq (c : Units) (d : Dev) (r : RegAt) : Nat :=
  let k := d.clk
  let s := partOf d r.i
  match r.row.reg with
  | .globalId => 0x8384A100
  | .clkStatus => b2n (k.holdover && k.pllLock) * 4 + b2n k.refLost * 2 + b2n k.pllLock
  | .timeLo => k.time.toNat % 2 ^ 32
  | .timeHi => k.timeHi.toNat
  | .offset => k.offset
  | .countLo => k.count.toNat % 2 ^ 32
  | .countHi => k.countHi.toNat
  | .partStatus => s.detail.toNat * 2 ^ 24 + s.check.toNat * 2 ^ 20 + s.faultOp
  | .partImage => s.size * 65536 + s.base
  | .unitState => unitWord c d r.i
  | _ => 0

/-- The RO and W1C fields of the Tambours. -/
def roTamb (d : Dev) (r : RegAt) : Nat :=
  let m := tambOf d r.i
  match r.row.reg with
  | .tStatus =>
    m.stamps.length * 256 + b2n m.bank * 128 + m.active.toNat * 32 + b2n (lineBusy d r.i) * 16 + b2n m.stampFlt * 8
      + b2n m.encTmo * 4 + b2n m.encErr * 2 + b2n m.trigMiss
  | .tEncPos => unsx 32 m.pos
  | .tPgStatus => b2n m.pgDone * 2 ^ 31 + m.pgStep * 65536 + m.pgPasses
  | .tCalResult => m.cal.state.code * 2 ^ 30 + m.cal.cause.toNat * 2 ^ 28 + m.cal.bad
  | .tCalBadIdx => m.cal.last * 65536 + m.cal.first
  | .tCountTrig => sat 16 m.nEncErr * 65536 + sat 16 m.nTrigMis
  | .tCountStamp => sat 16 m.nLost * 65536 + sat 16 m.nMissing
  | .tCountDisc => sat 16 m.nDisc
  | _ => 0

/-- The RO fields of the receive ports. -/
def roRx (d : Dev) (r : RegAt) : Nat :=
  let x := rxOf d r.i
  let q := vcOf d r.i r.j
  match r.row.reg with
  | .pool => poolFree d
  | .rxCntHdr => sat 16 x.eccFixed * 65536 + sat 16 x.hdrBad
  | .rxCntPkt => sat 16 x.crcBad * 65536 + sat 16 x.wcBad
  | .rxCntJob => sat 16 x.noJob * 65536 + sat 16 x.inband
  | .rxBulk => x.bulk.state.toNat * 2 ^ 30 + x.bulk.cause.toNat * 2 ^ 26 + x.bulk.id.toNat
  | .rxBulkBytes => x.bulk.bytes
  | .vcStatus => b2n q.job.isSome * 2 ^ 31 + b2n q.seqEnd * 2 ^ 30 + q.stale
  | _ => 0

/-- The RO and W1C fields of the Bobbins. -/
def roBob (c : Units) (d : Dev) (r : RegAt) : Nat :=
  let b := bobOf d r.i
  let h := d.health
  match r.row.reg with
  | .bStatus =>
    b2n b.accepting * 2048 + b2n (claimedNow d b.bankB) * 1024 + b2n (claimedNow d b.bankA) * 512 + levelNow d r.i * 16
  | .bBeatsLo => sat 64 b.beats % 2 ^ 32
  | .bBeatsHi => b.beatsHi.toNat
  | .bDummy => sat 32 (dummyNow d r.i)
  | .bWords => sat 32 b.words
  | .bNum => sat 32 ((numCounts b).getD r.j 0)
  | .bTripLo => b.trips.toNat % 2 ^ 32
  | .bTripHi => b.trips.toNat / 2 ^ 32
  | .bBistStatus => b2n b.bistBusy * 2 ^ 31 + b.result.toNat * 2 ^ 24 + b.area.toNat * 65536
  | .bBistWhere => b.loc.toNat
  | .bEccCnt => sat 16 b.ueCnt * 65536 + sat 16 b.ceCnt
  | .bEccRecent => Nat.min 255 (recentUe d r.i)
  | .govCoef => govTrim 0 * 2 ^ 20 + govTrim 1 * 1024 + govTrim 2
  | .govStatus => b2n h.demand * 2 ^ 31 + h.rateMin * 65536 + Nat.min 4095 h.iEst
  | .therm => b2n h.trip * 2 ^ 31 + h.tripSens.toNat * 65536 + h.tripTemp.toNat
  | .tsens => let q := (h.sensors[r.i]?).getD {}; q.max_.toNat * 65536 + q.now.toNat
  | .secc => let q := (h.secc[r.i]?).getD (0, 0); sat 16 q.1 * 65536 + sat 16 q.2
  | _ => 0

/-- The RO fields of KVM and TXT. -/
def roKvTxt (d : Dev) (r : RegAt) : Nat :=
  let k := d.kvm
  let t := d.txt
  match r.row.reg with
  | .kCtxFree => k.free
  | .kCnt => sat 32 ([k.preempt, k.resume, k.refused, k.stall, k.cow, k.lenlim, k.stats.sat, k.stats.uflow, k.stats.zr].getD r.i 0)
  | .kUse => let u := (k.use[r.i]?).getD (0, 0, 0); u.1 * 65536 + u.2.1
  | .kSpillUse => ((k.use[r.i]?).getD (0, 0, 0)).2.2
  | .xStatus =>
    Nat.min 255 t.queue.length * 65536 + b2n t.swap * 256 + (bufSt t (!t.active)).code * 16 + b2n (activeValid t) * 2 + b2n t.active
  | .xSetActive => setIdOf t t.active
  | .xSetStandby => setIdOf t (!t.active)
  | .xPinned => pinned t true * 65536 + pinned t false
  | .xLoadStatus => t.detail.toNat * 2 ^ 24
  | .xCnt => sat 32 ((txtCounts t).getD r.i 0)
  | _ => 0

/-- The RO and W1C fields of OUT and DDR. -/
def roOutDdr (d : Dev) (r : RegAt) : Nat :=
  let x := txOf d r.i
  let m := d.ddr
  match r.row.reg with
  | .oCntBad => sat 32 d.out.bad
  | .oStatus => b2n x.held * 2 ^ 31 + b2n (x.hs || d.clk.mono < x.hsEnd) * 2 ^ 30 + b2n x.tmo * 2 ^ 29 + freeBytes d r.i
  | .oSent => sat 32 x.sent
  | .oLost => sat 32 x.lost
  | .oHoldCnt => sat 16 x.tmos * 65536 + sat 16 x.holds
  | .dStatus => capGiB (com d .dCfg 0 0) * 65536 + m.failStep.toNat * 256 + m.failSub.toNat * 16 + m.state.code
  | .dTrainTime => m.micros.toNat
  | .dScrubPos => (scrubNext d).getD m.scrubPos.toNat
  | .dCnt => sat 32 ((ddrCounts m).getD r.i 0)
  | _ => 0

/-- The RO and W1C fields of PWR, CMD and ADAPT. -/
def roSys (c : Units) (d : Dev) (r : RegAt) : Nat :=
  let p := d.pwr
  let a := d.adapt
  match r.row.reg with
  | .pwrState => (match p.pend with | some s => 65536 + s.code * 256 | none => 0) + p.state.code
  | .resetCause => p.cause.toNat
  | .bootStatus =>
    b2n p.recovery * 4096 + b2n p.fallback * 2048 + b2n p.selected * 1024 + p.selValid.toNat * 256 + p.bankValid.toNat * 16 + b2n p.bank
  | .bootTime => p.micros.toNat
  | .unitResetStatus => b2n p.urBusy * 2 ^ 31 + p.urUnit.toNat
  | .summary => summaryWord d
  | .session => d.i3c.major.toNat * 2 ^ 20 + d.i3c.minor.toNat * 65536 + b2n d.i3c.hello * 32768 + d.i3c.da.toNat
  | .fwStatus => d.fw.cause.toNat * 256 + b2n d.fw.active * 16 + d.fw.state.code
  | .fwBanks => d.fw.release1.toNat * 65536 + d.fw.release0.toNat
  | .cntErr => sat 8 d.i3c.parity * 2 ^ 24 + sat 12 d.i3c.crcBad * 4096 + sat 12 d.i3c.refused
  | .aStatus =>
    a.copy.toNat * 256 + b2n a.fail * 64 + b2n a.clean * 32 + b2n a.ready * 16 + b2n a.staged.isSome * 8 + b2n a.half * 4 + a.run.code
  | .aPos => a.pos
  | .aEpochNow => a.epoch.toNat
  | .aStep => a.step.toNat
  | .aCntSkipped => sat 32 a.skipped
  | .aCntEmpty => sat 32 a.empty
  | _ => 0

/-- The RO and W1C fields of a register, by the block of its address; BOBn_CTRL.OFFLINE shows the committed state, or in
the shadow view the pending one (R205, R207, R429). -/
def roVal (c : Units) (d : Dev) (r : RegAt) (shadow : Bool) : Nat :=
  let a := r.row.base
  if r.row.reg == .bCtrl then
    let s := if shadow then (reqOf d (8 + r.i)).getD (ust c (8 + r.i)) else ust c (8 + r.i)
    b2n (s == .offline) * 256
  else if a < 0x20000 then roSeq c d r
  else if a < 0x30000 then roTamb d r
  else if a < 0x40000 then roRx d r
  else if a < 0x50000 then roBob c d r
  else if a < 0x70000 then roKvTxt d r
  else if a < 0x90000 then roOutDdr d r
  else roSys c d r

/-! ### Table windows (R33 to R37) -/

/-- The command processor's own port (R542). -/
def whoCmd : Who := { unit := 0xFF }

/-- Target and first byte of a window access: TARGET and OFFSET of the window, low address bits of the access. -/
def winAt (d : Dev) (a : Nat) : Nat × Nat :=
  let n := (a - 0x100000) / 0x40000
  (cf d .winBase n 0 31 28, cf d .winBase n 0 18 0 * 2 ^ 18 + (a - 0x100000) % 0x40000 / 4 * 4)

/-- Size of a window's target (R34). -/
def winSize (d : Dev) (target : Nat) : Nat := if target == 7 then ddrCap d else storeSize target

/-- Working storage whose layout is not fixed: the output buffer, and the text store above both table buffers
(DESIGN CHOICE, log entry 13). -/
def openLayout (target o : Nat) : Bool := target == 4 || (target == 3 && 0xE00000 ≤ o)

/-- A word of working storage that the unit may have written: it has worked since the store was last zero, and the host has not
written the word since the unit last ran. -/
def openWord (d : Dev) (target o : Nat) : Bool :=
  openLayout target o
    && (if target == 4 then d.out.worked && !d.out.wrote.contains o else d.txt.worked && !d.txt.wrote.contains o)

/-- Bytes of the KV store that are reserved and read as zero (R269). -/
def kvHole (target o : Nat) : Bool := target == 2 && 0x03FFF000 ≤ o

/-- A window read (R35, R37, R269, R476, R477). -/
def winRead (c : Units) (d : Dev) (a : Nat) : Dev × Nat :=
  let (t, o) := winAt d a
  if t == 0 || winSize d t ≤ o || kvHole t o then (d, 0)
  else if t == 7 then
    if d.ddr.state != .ready then (d, 0)
    else
      let v := leNat (ddrPeek d o 4)
      ((eccRead c (ddrWake d) whoCmd (key 7 o) 4).1, v)
  else if openWord d t o then
    let e := (eccRead c d whoCmd (key t o) 4).1
    ({ e with free := d.free + 1 }, leNat ((List.range 4).map (fun i => Config.workingByte t (o + i) d.free)))
  else
    let v := peekNat d (key t o) 4
    ((eccRead c d whoCmd (key t o) 4).1, v)

/-! ### Reads -/

/-- Entry that TAMB_COEF_INDEX addresses: bank and index (R120). -/
def coefSel (d : Dev) (t : Nat) : Nat × Nat := (cf d .tCoefIndex t 0 15 15, cf d .tCoefIndex t 0 14 0)

/-- INDEX advances by 1; after entry 24,575 it returns to 0 (R120). -/
def coefNext (d : Dev) (t : Nat) : Dev :=
  let (b, i) := coefSel d t
  putCom d .tCoefIndex t 0 (b * 32768 + (if i == 24575 then 0 else i + 1))

/-- Word of a context's record or ring that KVM_CTX_SEL names, in the cache, or in DDR5 for a SPILLED context; a FREE context reads
zero (R275, R277, R302, R476, R480). -/
def ctxWord (c : Units) (d : Dev) : Dev × Nat :=
  let w := cf d .kCtxSel 0 0 20 16
  let cid := cf d .kCtxSel 0 0 15 0
  match ctxOf d cid with
  | none => (d, 0)
  | some x =>
    if x.state == 6 then
      let (d, bs, _) := ddrRead c d (whoKv x.part) regsKv ((region d 2).1 + cid * 128 + 4 * w) 4
      (d, leNat bs)
    else (d, fld (x.record ++ x.ringBytes) (4 * w) 4)

/-- WORD advances, wrapping from 31 to 0 (R302). -/
def ctxNext (d : Dev) : Dev :=
  putCom d .kCtxSel 0 0 ((cf d .kCtxSel 0 0 20 16 + 1) % 32 * 65536 + cf d .kCtxSel 0 0 15 0)

/-- Upper halves that a read latches (R24, R45, R209). -/
def latchHigh (d : Dev) (r : RegAt) : Dev :=
  match r.row.reg with
  | .timeLo => { d with clk := { d.clk with timeHi := BitVec.ofNat 32 (d.clk.time.toNat / 2 ^ 32) } }
  | .countLo => { d with clk := { d.clk with countHi := BitVec.ofNat 32 (d.clk.count.toNat / 2 ^ 32) } }
  | .bBeatsLo => setBob d r.i (fun b => { b with beatsHi := BitVec.ofNat 32 (sat 64 b.beats / 2 ^ 32) })
  | _ => d

/-- A register read: the word, and the state after the read's own effects (R8, R10, R429). -/
def regRead (c : Units) (d : Dev) (a : Nat) (shadow : Bool) : Dev × Nat :=
  match regAt a with
  | none => (d, 0)
  | some r =>
    match r.row.reg with
    | .tCoefData =>
      let (b, i) := coefSel d r.i
      let k := coefKey r.i b i
      let v := peekNat d k 4
      let d := (eccRead c d whoCmd k 4).1
      (if shadow then d else coefNext d r.i, v)
    | .tPgRam =>
      let k := key (40 + r.i) (4 * r.j)
      let v := peekNat d k 4
      ((eccRead c d whoCmd k 4).1, v)
    | .kCtxData => let (d, v) := ctxWord c d; (if shadow then d else ctxNext d, v)
    | _ =>
      let a := a / 4 * 4
      let kept := if shadow then shaAt d r a else comAt d r a
      let v := roVal c d r shadow + (if r.row.fields.any FieldDef.stored then kept else 0)
      (if shadow then d else latchHigh d r, v)

/-- One word of the register space. A SHADOW read leaves no trace in the machine, not in the ECC reports either (R429); the index of
the free values is the model's own. -/
def regWord (c : Units) (d : Dev) (a : Nat) (shadow : Bool) : Dev × Nat :=
  let x := if 0x100000 ≤ a then winRead c d a else regRead c d a shadow
  (if shadow then { d with free := x.1.free } else x.1, x.2)

/-- Words from an address onward, read one after the other. -/
def regWords (c : Units) (shadow : Bool) : Nat → Nat → Dev → Dev × List Byte
  | 0, _, d => (d, [])
  | n + 1, a, d =>
    let (d, v) := regWord c d a shadow
    let (d, bs) := regWords c shadow n (a + 4) d
    (d, leBytes 4 v ++ bs)

/-- In SLEEP reads reach only GLOBAL, PWR and CMD (R426); a block read is at most as long as one of them. -/
def sleepReach (d : Dev) (a n : Nat) : Bool :=
  let on := fun (x : Nat) => x / 0x10000 == 0 || x / 0x10000 == 9 || x / 0x10000 == 0xA
  d.pwr.state != .sleep || (on a && on (a + 4 * n - 4))

/-- A read of n words. -/
def doRead (c : Units) (d : Dev) (a n : Nat) (shadow : Bool) : Dev × Nat × List Byte :=
  let a := a / 4 * 4
  if !sleepReach d a n then (d, stOffline, [])
  else
    let (d, bs) := regWords c shadow n a (adaptGuard d)
    (d, stOk, bs)

/-! ### REG_READ and REG_READ_BLOCK (R427, R429) -/

def rowRegRead : CmdRow := ⟨0x0002, 8, 8, 0, true⟩

/-- ADDRESS lies in the register space; FLAGS holds SHADOW only. -/
def readBody (_ : Dev) (b : List Byte) : Bool := fld b 0 4 < 0x200000 && fld b 4 1 < 2 && zeroAt b 5 3

/-- A REG_READ packet. -/
def regReadCmd (c : Units) (d : Dev) (w : HostWrite) : Dev :=
  hostCmd rowRegRead readBody d w (fun d b => doRead c d (fld b 0 4) 1 (fld b 4 1 == 1))

/-- REG_READ. -/
def execRegRead (w : HostWrite) (s : State) : Host.Outcome State Fault Refusal := onDev (fun c d => regReadCmd c d w) s

def rowReadBlock : CmdRow := ⟨0x0004, 8, 8, 0, true⟩

/-- COUNT is 1 to 256 and every address lies in the register space. -/
def blockBody (_ : Dev) (b : List Byte) : Bool :=
  1 ≤ fld b 4 2 && fld b 4 2 ≤ 256 && fld b 0 4 / 4 * 4 + 4 * fld b 4 2 ≤ 0x200000 && fld b 6 1 < 2 && zeroAt b 7 1

/-- A REG_READ_BLOCK packet. -/
def readBlockCmd (c : Units) (d : Dev) (w : HostWrite) : Dev :=
  hostCmd rowReadBlock blockBody d w (fun d b => doRead c d (fld b 0 4) (fld b 4 2) (fld b 6 1 == 1))

/-- REG_READ_BLOCK. -/
def execRegReadBlock (w : HostWrite) (s : State) : Host.Outcome State Fault Refusal := onDev (fun c d => readBlockCmd c d w) s

/-! ### Reads with a row of their own -/

/-- A REG_READ of an address, as a packet. -/
def readPkt (b : Bus) (a : Nat) : HostWrite := ⟨b.da, b.hdr, okPkt 0x0002 b.tag (leBytes 4 a ++ [0, 0, 0, 0])⟩

/-- A REG_READ_BLOCK of two words, as a packet. -/
def pairPkt (b : Bus) (a : Nat) : HostWrite := ⟨b.da, b.hdr, okPkt 0x0004 b.tag (leBytes 4 a ++ [2, 0, 0, 0])⟩

/-- A read of a LO register alone, or with its HI register in one block. -/
def readLow (c : Units) (d : Dev) (b : Bus) (a : Nat) (block : Bool) : Dev :=
  if block then readBlockCmd c d (pairPkt b a) else regReadCmd c d (readPkt b a)

/-- GLOBAL_TIME_LO read (R24). -/
def execGlobalTimeLoRead (b : Bus) (block : Bool) (s : State) : Host.Outcome State Fault Refusal :=
  onDev (fun c d => readLow c d b (addrOf .timeLo 0 0) block) s

/-- SEQ_STITCH_COUNT_LO read (R45). -/
def execStitchCountLoRead (b : Bus) (block : Bool) (s : State) : Host.Outcome State Fault Refusal :=
  onDev (fun c d => readLow c d b (addrOf .countLo 0 0) block) s

/-- BOBn_BEATS_LO read (R209). -/
def execBeatsLoRead (b : Bus) (n : Fin 8) (block : Bool) (s : State) : Host.Outcome State Fault Refusal :=
  onDev (fun c d => readLow c d b (addrOf .bBeatsLo n 0) block) s

/-- First address of a window access. -/
def winAddr (n : Fin 4) (a : BitVec 18) : Nat := 0x100000 + n * 0x40000 + a.toNat

/-- Table window read (R33 to R37). -/
def execTableWindowRead (b : Bus) (n : Fin 4) (a : BitVec 18) (s : State) : Host.Outcome State Fault Refusal :=
  onDev (fun c d => regReadCmd c d (readPkt b (winAddr n a))) s

/-- KVM_CTX_DATA read (R277, R302). -/
def execCtxDataRead (b : Bus) (s : State) : Host.Outcome State Fault Refusal :=
  onDev (fun c d => regReadCmd c d (readPkt b (addrOf .kCtxData 0 0))) s

end Sys2Proof.Machine
end

