-- ==== Sys2Proof/Machine/RegWrite.lean ====
section
/-!
DEFINITION. Writing the register space (R10 to R13, R36, R49, R69, R91, R299, R385, R430, R456, R467, R479, R499):
reserved encodings, locks, state rules, requests and effects; REG_WRITE, PARTITION_SET and the rows that name one register.
-/
namespace Sys2Proof.Machine

/-! ### Reserved encodings (R13) -/

/-- FORMAT and a width in pixels, as TAMB_LINE_CFG and RXIN_Px_VCv_CFG judge them (R110, R149). -/
def badShape (fmt n : Nat) : Bool :=
  7 ≤ fmt || n == 0 || (if fmt == 5 then 8192 else 16384) < n || (fmt == 6 && n % 2 == 1)

/-- LINES against MODE and OVERLAP (R149). -/
def badLines (cfg lines : Nat) : Bool :=
  let mode := bitsOf cfg 31 30
  let lap := bitsOf cfg 23 16
  (lines == 0 && (mode == 1 || mode == 3)) || (lap != 0 && lines ≤ lap)

/-- START < END ≤ TICKS, and SET and CLR ≤ TICKS for every k (R91). -/
def badTiming (ticks expo : Nat) (edges : List Nat) : Bool :=
  !(bitsOf expo 15 0 < bitsOf expo 31 16 && bitsOf expo 31 16 ≤ ticks && edges.all (· ≤ ticks))

/-- The edges of a Tambour as they stand in the shadows. -/
def shadowEdges (d : Dev) (t : Nat) : List Nat := (List.range 8).flatMap (fun k => [sha d .tTgSet t k, sha d .tTgClr t k])

/-- A region register set: two present regions overlap, or one leaves the capacity below the training area (R479). -/
def badRegions (cfg : Nat) (rs : List (Nat × Nat)) : Bool :=
  let top := capGiB cfg * 1024 - 1
  let on := rs.filter (fun r => r.2 != 0)
  on.any (fun r => top < r.1 + r.2) || !pairwise (fun a b => !meets a.1 a.2 b.1 b.2) on

/-- Regions as they stand in the shadows, one value replaced. -/
def shadowRegions (d : Dev) (k : Nat) (f : Nat × Nat → Nat × Nat) : List (Nat × Nat) :=
  (List.range 5).map (fun i =>
    let r := (sf d .dRegBase i 0 16 0, sf d .dRegSize i 0 17 0)
    if i == k then f r else r)

/-- The staging range ends beyond the page store (R396, R410). -/
def badStage (stage batch : Nat) : Bool :=
  let h := 4096 + (batch + 1) * bitsOf stage 28 16 * 1024
  134217728 < bitsOf stage 14 0 * 4096 + 2 * h

/-- An FP32 parameter that is negative, −0, infinite or NaN (R411). -/
def badParam (v : Nat) : Bool := 0x7F800000 ≤ v

/-- A β outside 0 ≤ β < 1 (R411). -/
def badBeta (v : Nat) : Bool := 0x3F800000 ≤ v && v != 0x80000000

/-- Values of the other units' fields as a sum takes them: committed or pending, whichever is larger (R299, R385). -/
def sumOthers (d : Dev) (r : Reg) (n me hi lo : Nat) : Nat :=
  (List.range n).foldl (fun s i => if i == me then s else s + Nat.max (cf d r i 0 hi lo) (sf d r i 0 hi lo)) 0

/-- Reserved encodings of GLOBAL, SEQ and the Tambours. -/
def badLow (d : Dev) (r : RegAt) (v : Nat) : Bool :=
  let f := fun (hi lo : Nat) => bitsOf v hi lo
  let ticks := sf d .tPeriod r.i 0 23 0
  match r.row.reg with
  | .winBase => f 31 28 == 6
  | .period => f 24 0 % 256 != 0 || f 24 0 < 65536 || 16777216 < f 24 0
  | .partCfg => 8 < f 7 4 || 8 < f 2 0 + f 7 4
  | .share => (List.range 8).any (fun i => 8 ≤ f (4 * i + 3) (4 * i) && f (4 * i + 3) (4 * i) ≤ 14)
  | .tCtrl => f 5 4 == 3
  | .tLineCfg => badShape (f 27 24) (f 14 0) || (f 28 28 == 1 && f 27 24 == 6)
  | .tTrig => f 31 16 == 0 || f 7 0 == 0
  | .tPeriod => f 23 0 < 200 || badTiming (f 23 0) (sha d .tExposure r.i 0) (shadowEdges d r.i)
  | .tExposure => badTiming ticks v []
  | .tTgCfg => 5 ≤ f 3 0
  | .tTgSet | .tTgClr => ticks < f 23 0
  | .tPgLoop => f 27 16 < f 11 0
  | .tCalCfg => f 8 0 < 16 || 256 < f 8 0 || f 24 16 < 16 || 256 < f 24 16
  | .tCalTarget => f 31 16 == 0
  | .tCalLimits => f 31 16 == 0
  | .tCoefIndex => 24575 < f 14 0
  | _ => false

/-- Reserved encodings of RXIN, the Bobbins and KVM. -/
def badMid (d : Dev) (r : RegAt) (v : Nat) : Bool :=
  let f := fun (hi lo : Nat) => bitsOf v hi lo
  match r.row.reg with
  | .pageLimits => f 31 16 == 0 || f 15 0 == 0
  | .jobCfg => f 31 16 == 0 || 100 < f 6 0
  | .rxCfg => f 2 1 == 3
  | .vcCfg => badShape (f 27 24) (f 15 0) || badLines v (sf d .vcLines r.i r.j 15 0)
  | .vcLines => badLines (sha d .vcCfg r.i r.j) (f 15 0)
  | .bCtrl => f 6 0 % 8 != 0 || f 6 0 < 32 || 96 < f 6 0
  | .bEccCfg => f 14 8 == 0 || 64 < f 14 8
  | .govCfg => f 8 0 == 0 || 256 < f 8 0
  | .govLimit => f 31 20 == 0 || 115 < f 19 12
  | .kPool => 8128 < f 28 16 || 8128 < f 12 0
  | .kQuota => 8128 < f 12 0 + sumOthers d .kQuota 8 r.i 12 0 || 16384 < f 30 16 + sumOthers d .kQuota 8 r.i 30 16
  | _ => false

/-- Units that R456 names. -/
def resettable (u : Nat) : Bool := 0x08 ≤ u && u ≤ 0x1D

/-- Reserved encodings of OUT, DDR, PWR and ADAPT. -/
def badHigh (d : Dev) (r : RegAt) (v : Nat) : Bool :=
  let f := fun (hi lo : Nat) => bitsOf v hi lo
  match r.row.reg with
  | .oCfg => f 31 16 < 80 || 4500 < f 31 16
  | .oQuota => 2048 < f 11 0 || f 11 0 < f 27 16 || 2048 < f 11 0 + sumOthers d .oQuota 2 r.i 11 0
  | .dCfg => 6 ≤ f 2 0 || f 5 4 == 3 || capGiB v < 16 || 128 < capGiB v || badRegions v (shadowRegions d 5 id)
  | .dRegBase => badRegions (sha d .dCfg 0 0) (shadowRegions d r.i (fun x => (f 16 0, x.2)))
  | .dRegSize =>
    (r.i == 4 && 1 ≤ f 17 0 && f 17 0 ≤ 7) || badRegions (sha d .dCfg 0 0) (shadowRegions d r.i (fun x => (x.1, f 17 0)))
  | .unitReset => f 31 31 == 1 && !resettable (f 4 0)
  | .aCfg => badStage (sha d .aStage 0 0) (f 14 8)
  | .aSetCount => f 16 0 == 0 || 65536 < f 16 0
  | .aStage => f 28 16 == 0 || 4096 < f 28 16 || badStage v (sf d .aCfg 0 0 14 8)
  | .aEpochs => f 15 0 == 0
  | .aLr | .aEps | .aWd => badParam v
  | .aBeta1 | .aBeta2 => badBeta v
  | _ => false

/-- A write places a reserved encoding (R13). -/
def reservedWrite (d : Dev) (r : RegAt) (v : Nat) : Bool :=
  if r.row.base < 0x30000 then badLow d r v else if r.row.base < 0x60000 then badMid d r v else badHigh d r v

/-! ### Locks (R12, R52) -/

/-- The unit that owns a register with RWL fields. -/
def lockUnit (r : RegAt) : Option Nat :=
  match r.row.reg with
  | .period => some 0x1F
  | .partCfg => some r.i
  | .tLineCfg => some (0x10 + r.i)
  | .rxCfg | .vcCfg | .vcLines => some (0x14 + r.i)
  | .bCtrl => some (8 + r.i)
  | .kCtrl => some 0x1B
  | .oCfg | .oQuota | .oTiming => some (0x18 + r.i)
  | .dCtrl | .dCfg | .dRegBase | .dRegSize => some 0x1E
  | .aCfg | .aSetBase | .aSetCount | .aStage | .aStateBase | .aStateSize => some 0x1D
  | _ => none

/-- The write would change an RWL field of an enabled unit from its committed value. -/
def lockedWrite (c : Units) (d : Dev) (r : RegAt) (a v : Nat) : Bool :=
  match lockUnit r with
  | none => false
  | some u => unitOn c u && r.row.fields.any (fun f => f.acc == .rwl && bitsOf v f.hi f.lo != bitsOf (comAt d r a) f.hi f.lo)

/-! ### Requests (R49, R205, R453, R456, R499) -/

/-- Unit u has a unit reset or a self-test in progress: requests for it are refused. -/
def unitBusy (d : Dev) (u : Nat) : Bool :=
  (d.pwr.urBusy && d.pwr.urUnit.toNat == u) || (8 ≤ u && u < 16 && (bobOf d (u - 8)).bistBusy)

/-- A partition committed RUN or FAULTED binds the unit (R49, R390, R475, R544). -/
def boundUnit (c : Units) (d : Dev) (u : Nat) : Bool :=
  (List.range 8).any (fun p => partOn c p &&
    (if u == 0x1D then d.adapt.run == .active && adaptPart d == p
     else if u == 0x1E then usesDdr d (imgOf d p) p
     else usesUnit (imgOf d p) u))

/-- A write of an ENABLE field is accepted. -/
def enableOk (c : Units) (d : Dev) (u : Nat) (on : Bool) : Bool :=
  on == running c u
    || (!unitBusy d u && (if on then !runBlocked d else !boundUnit c d u && !(u == 0x1D && d.adapt.copy != 0)))

/-- The request that an ENABLE value makes; the committed state needs none. -/
def enableReq (c : Units) (d : Dev) (u : Nat) (on : Bool) : Dev :=
  setReq d u (if on == running c u then none else some (if on then .run else .disabled))

/-- Unit whose ENABLE stands in bit 0 of a register. -/
def enableUnit (r : RegAt) : Option Nat :=
  match r.row.reg with
  | .tCtrl => some (0x10 + r.i)
  | .rxCfg => some (0x14 + r.i)
  | .oCfg => some (0x18 + r.i)
  | .xCtrl => some 0x1A
  | .kCtrl => some 0x1B
  | .oCtrl => some 0x1C
  | .aCtrl => some 0x1D
  | .dCtrl => some 0x1E
  | _ => none

/-- What a write of BOBn_CTRL.OFFLINE requests: refused (none), nothing, or a state (R205). -/
def offlineAsk (c : Units) (d : Dev) (n : Nat) (on : Bool) : Option (Option UnitSt) :=
  let s := ust c (8 + n)
  if on == (s == .offline) then some none
  else if unitBusy d (8 + n) then none
  else if on then (if s == .disabled then some (some .offline) else none) else some (some .disabled)

/-- Extents meet. -/
def extentsMeet (a b : Nat × Nat) : Bool := meets a.1 a.2 b.1 b.2

/-- A new extent of partition p, by first Bobbin and count, is accepted (R46, R47, R49). -/
def extentOk (c : Units) (d : Dev) (p first count : Nat) : Bool :=
  let other := fun (q : Nat) => q != p
    && (extentsMeet (first, count) (extent d q) || extentsMeet (first, count) (sf d .partCfg q 0 2 0, sf d .partCfg q 0 7 4))
  !(List.range 8).any other
    && (count != 0 || ust c p == .disabled || d.jobs.all (fun j => j.part != p || j.ended))

/-- The request that an extent makes. -/
def extentReq (c : Units) (d : Dev) (p count : Nat) : Dev :=
  if partOn c p then d
  else if ust c p == .disabled then setReq d p (if count == 0 then none else some .idle)
  else if count == 0 then setReq d p (some .disabled)
  else if reqOf d p == some .disabled then setReq d p none else d

/-- A unit reset is accepted (R456). -/
def unitResetOk (c : Units) (d : Dev) (u : Nat) : Bool :=
  let s := ust c u
  let bob := 8 ≤ u && u < 16
  (s == .disabled || (bob && (s == .failed || s == .offline))) && (reqOf d u).isNone && !d.pwr.urBusy
    && (if bob then !(bobOf d (u - 8)).bistBusy && (match extentOf d (u - 8) with | some p => !hasImage d p | none => true)
        else if u == 0x1A then pinned d.txt true + pinned d.txt false == 0
        else if u == 0x1B then d.kvm.free == 65536
        else if u == 0x1D then d.adapt.copy == 0 else true)

/-- A self-test is accepted (R499). -/
def bistOk (c : Units) (d : Dev) (n : Nat) : Bool :=
  let s := ust c (8 + n)
  (s == .disabled || s == .failed || s == .offline) && (reqOf d (8 + n)).isNone && !unitBusy d (8 + n)

/-! ### State rules -/

/-- A share word changes a slot that a running partition owns, or gives it one (R69). -/
def shareHeld (c : Units) (old v : Nat) : Bool :=
  (List.range 8).any (fun i =>
    let a := bitsOf old (4 * i + 3) (4 * i)
    let b := bitsOf v (4 * i + 3) (4 * i)
    a != b && ((a < 8 && partOn c a) || (b < 8 && partOn c b)))

/-- A calibration of the Tambour runs or awaits its start boundary. -/
def calHeld (d : Dev) (t : Nat) : Bool := (tambOf d t).cal.state == .running || (tambOf d t).cal.due

/-- The register's own state rule refuses the write. -/
def ruleRefuses (c : Units) (d : Dev) (r : RegAt) (a v : Nat) : Bool :=
  match r.row.reg with
  | .share => shareHeld c (comAt d r a) v
  | .kQuota | .kSpill => partOn c r.i
  | .tCtrl => bitOf v 7 && calHeld d r.i
  | .tPgRam => (tambOf d r.i).active == 2
  | .tCoefData => (coefSel d r.i).1 == b2n (tambOf d r.i).bank || (tambOf d r.i).cal.state == .running
  | .bCtrl => (offlineAsk c d r.i (bitOf v 8)).isNone
  | .partCfg => !extentOk c d r.i (bitsOf v 2 0) (bitsOf v 7 4)
  | .unitReset => bitOf v 31 && !unitResetOk c d (bitsOf v 4 0)
  | .bBistCtrl => bitOf v 0 && !bistOk c d r.i
  | _ => false

/-- A write is refused for a state: lock, request or rule. -/
def conflictWrite (c : Units) (d : Dev) (r : RegAt) (a v : Nat) : Bool :=
  lockedWrite c d r a v || ruleRefuses c d r a v
    || (match enableUnit r with | some u => !enableOk c d u (bitOf v 0) | none => false)

/-! ### Effects -/

/-- W1C bits of the status registers (R11). -/
def clearBits (d : Dev) (r : RegAt) (v : Nat) : Dev :=
  match r.row.reg with
  | .clkStatus => { d with clk := { d.clk with refLost := w1c d d.clk.refLost d.clk.refAt (bitOf v 1) } }
  | .tStatus => setTamb d r.i (fun m => { m with
      stampFlt := w1c d m.stampFlt m.fltAt (bitOf v 3), encTmo := w1c d m.encTmo m.tmoAt (bitOf v 2)
      encErr := w1c d m.encErr m.errAt (bitOf v 1), trigMiss := w1c d m.trigMiss m.missAt (bitOf v 0) })
  | .oStatus => setTx d r.i (fun t => { t with tmo := w1c d t.tmo t.tmoAt (bitOf v 29) })
  | .summary => { d with health := { d.health with
      eccUe := w1c d d.health.eccUe d.health.ueAt (bitOf v 7), govDem := w1c d d.health.govDem d.health.demAt (bitOf v 4) } }
  | .therm => if bitOf v 31 then clearTrip d else d
  | _ => d

/-- The five counters of a Tambour are cleared (R121). -/
def clearTamb (d : Dev) (t : Nat) : Dev :=
  let n := fun (i v : Nat) => countNow d (atTamb t + i) v
  forgetCounts (setTamb d t (fun m => { m with
    nEncErr := n 0 m.nEncErr, nTrigMis := n 1 m.nTrigMis, nLost := n 2 m.nLost, nMissing := n 3 m.nMissing, nDisc := n 4 m.nDisc }))
    (atTamb t) 5

/-- Counters that a clear register names: each is left with what the cycle of the clear has counted. -/
def clearCounts (d : Dev) (r : RegAt) (v : Nat) : Dev :=
  let n := countNow d
  if r.row.reg == .tCountClr then
    let d := if bitOf v 1 then setTamb d r.i (fun m => { m with pos := 0 }) else d
    if bitOf v 0 then clearTamb d r.i else d
  else if !bitOf v 0 then d
  else match r.row.reg with
    | .rxCntClr => let p := atRx r.i; forgetCounts (setRx d r.i (fun x => { x with
        eccFixed := n p x.eccFixed, hdrBad := n (p + 1) x.hdrBad, crcBad := n (p + 2) x.crcBad, wcBad := n (p + 3) x.wcBad
        noJob := n (p + 4) x.noJob, inband := n (p + 5) x.inband })) p 6
    | .bPerfClr => let p := atPerf r.i; forgetCounts (setBob d r.i (fun b => { b with
        beats := n p b.beats, words := n (p + 2) b.words
        dummy := 0, settled := d.clk.mono, since := b2n (b.lastBeat == some d.clk.mono) })) p 3
    | .bNumClr => let p := atNum r.i; forgetCounts (setBob d r.i (fun b => { b with
        num := { sat := n p b.num.sat, uflow := n (p + 1) b.num.uflow, nan := n (p + 2) b.num.nan, zr := n (p + 3) b.num.zr
                 accOvf := n (p + 4) b.num.accOvf }
        replay := n (p + 5) b.replay })) p 6
    | .kCntClr => let p := atKvm; let k := d.kvm; forgetCounts { d with kvm := { k with
        preempt := n p k.preempt, resume := n (p + 1) k.resume, refused := n (p + 2) k.refused, stall := n (p + 3) k.stall
        cow := n (p + 4) k.cow, lenlim := n (p + 5) k.lenlim
        stats := { sat := n (p + 6) k.stats.sat, uflow := n (p + 7) k.stats.uflow, nan := n (p + 8) k.stats.nan
                   zr := n (p + 9) k.stats.zr, accOvf := n (p + 10) k.stats.accOvf } } } p 11
    | .xCntClr => let p := atTxt; let t := d.txt; forgetCounts { d with txt := { t with
        tokens := n p t.tokens, forced := n (p + 1) t.forced, blocked := n (p + 2) t.blocked, fend := n (p + 3) t.fend
        dead := n (p + 4) t.dead, stop := n (p + 5) t.stop, trunc := n (p + 6) t.trunc, nan := n (p + 7) t.nan
        dropped := n (p + 8) t.dropped } } p 9
    | .oCntClr => let p := atOut; forgetCounts { d with out := { d.out with
        bad := n p d.out.bad
        tx := d.out.tx.mapFinIdx (fun x t _ => { t with
          sent := n (p + 1 + 4 * x) t.sent, lost := n (p + 2 + 4 * x) t.lost, tmos := n (p + 3 + 4 * x) t.tmos
          holds := n (p + 4 + 4 * x) t.holds }) } } p 9
    | .aCntClr => forgetCounts { d with adapt := { d.adapt with
        skipped := n atAdapt d.adapt.skipped, empty := n (atAdapt + 1) d.adapt.empty } } atAdapt 2
    | .cmdCntClr => forgetCounts { d with i3c := { d.i3c with
        parity := n atCmd d.i3c.parity, crcBad := n (atCmd + 1) d.i3c.crcBad, refused := n (atCmd + 2) d.i3c.refused } } atCmd 3
    | .dCntClr => forgetCounts { d with ddr := { d.ddr with
        ce := n atDdr d.ddr.ce, ue := n (atDdr + 1) d.ddr.ue, range := n (atDdr + 2) d.ddr.range } } atDdr 3
    | .bHealthClr => let p := atHealth r.i; forgetCounts (setBob d r.i (fun b => { b with
        ueCnt := n p b.ueCnt, ceCnt := n (p + 1) b.ceCnt })) p 2
    | .seccClr => forgetCounts { d with health := { d.health with
        secc := d.health.secc.mapFinIdx (fun i x _ => (n (atSecc + 2 * i) x.1, n (atSecc + 2 * i + 1) x.2)) } } atSecc 12
    | _ => d

/-- What a write starts or stores at once: unit reset, self-test, pattern RAM, coefficients, index registers. -/
def actNow (c : Units) (d : Dev) (r : RegAt) (v : Nat) : Dev :=
  match r.row.reg with
  | .unitReset =>
    if bitOf v 31 then { d with pwr := { d.pwr with urBusy := true, urUnit := BitVec.ofNat 5 (bitsOf v 4 0) } } else d
  | .bBistCtrl => if bitOf v 0 then setBob d r.i (fun b => { b with bistBusy := true }) else d
  | .tPgRam => store c d whoCmd (key (40 + r.i) (4 * r.j)) (leBytes 4 v)
  | .tCoefData =>
    let (b, i) := coefSel d r.i
    coefNext (store c d whoCmd (coefKey r.i b i) (leBytes 4 v)) r.i
  | .winBase | .tCoefIndex | .kCtxSel => putCom d r.row.reg r.i r.j v
  | _ => d

/-- Requests that a shadow write makes. -/
def ask (c : Units) (d : Dev) (r : RegAt) (v : Nat) : Dev :=
  match enableUnit r with
  | some u => enableReq c d u (bitOf v 0)
  | none =>
    match r.row.reg with
    | .bCtrl => setReq d (8 + r.i) ((offlineAsk c d r.i (bitOf v 8)).getD none)
    | .partCfg => extentReq c d r.i (bitsOf v 7 4)
    | _ => d

/-- Bits of the stored fields of a row. -/
def storedBits (fs : List FieldDef) (v : Nat) : Nat :=
  fs.foldl (fun w f => if f.stored then putField w f.hi f.lo (bitsOf v f.hi f.lo) else w) 0

/-- The stored word of a write: OFFLINE is a request and is not stored. -/
def storedWord (r : RegAt) (v : Nat) : Nat :=
  if r.row.reg == .bCtrl then bitsOf v 6 0 else storedBits r.row.fields v

/-- An accepted write whose fields go to the shadow (R12, R430). -/
def shadowWrite (c : Units) (d : Dev) (r : RegAt) (a v : Nat) : Dev × Nat :=
  let w := storedWord r v
  let still : Bool := r.row.reg == .bCtrl && offlineAsk c d r.i (bitOf v 8) == some none && w == shaAt d r a
  (putSha (ask c d r v) r.row.reg r.i r.j w, if still then stOk else stDeferred)

/-- A register write: its effects and its status (R8, R10 to R13, R430). -/
def regWriteAt (c : Units) (d : Dev) (a v : Nat) : Dev × Nat :=
  let a := a / 4 * 4
  match regAt a with
  | none => (d, stOk)
  | some r =>
    if reservedWrite d r v then (d, stValue)
    else if conflictWrite c d r a v then (d, stConflict)
    else if r.row.fields.any FieldDef.shadowed then shadowWrite c d r a v
    else (clearCounts (clearBits (actNow c d r (if r.row.reg == .tCoefData || r.row.reg == .tPgRam then v else
        if r.row.fields.any FieldDef.stored then storedBits r.row.fields v else v)) r v) r v, stOk)

/-! ### Window writes (R35, R36) -/

/-- The unit that owns a target is committed DISABLED: for the page store all four receive ports. -/
def ownerOff (c : Units) (t : Nat) : Bool :=
  let off := fun (u : Nat) => ust c u == .disabled
  if t == 1 then off 0x14 && off 0x15 && off 0x16 && off 0x17
  else if t == 2 then off 0x1B else if t == 3 then off 0x1A else if t == 4 then off 0x1C else if t == 5 then off 0x1F
  else 8 ≤ t && off t

/-- A window write. -/
def winWrite (c : Units) (d : Dev) (a v : Nat) : Dev × Nat :=
  let (t, o) := winAt d a
  if t == 7 then (d, stConflict)
  else if t == 0 || winSize d t ≤ o then (d, stOk)
  else if !ownerOff c t then (d, stConflict)
  else if kvHole t o then (d, stOk)
  else
    let d := store c d whoCmd (key t o) (leBytes 4 v)
    if !openLayout t o then (d, stOk)
    else if t == 4 then ({ d with out := { d.out with wrote := o :: d.out.wrote } }, stOk)
    else ({ d with txt := { d.txt with wrote := o :: d.txt.wrote } }, stOk)

/-! ### REG_WRITE and PARTITION_SET (R46, R427, R430) -/

/-- A write of one word of the register space. -/
def doWrite (c : Units) (d : Dev) (a v : Nat) : Dev × Nat × List Byte :=
  let x := if 0x100000 ≤ a then winWrite c d a v else regWriteAt c (adaptGuard d) a v
  (x.1, x.2, [])

def rowRegWrite : CmdRow := ⟨0x0003, 8, 8, 0, false⟩

/-- Check 5 of REG_WRITE: the address lies in the register space, and no reserved encoding is placed (R13, R27). -/
def writeBody (d : Dev) (b : List Byte) : Bool :=
  fld b 0 4 < 0x200000 && (match regAt (fld b 0 4 / 4 * 4) with | some r => !reservedWrite d r (fld b 4 4) | none => true)

/-- A REG_WRITE packet. -/
def regWriteCmd (c : Units) (d : Dev) (w : HostWrite) : Dev :=
  hostCmd rowRegWrite writeBody d w (fun d b => doWrite c d (fld b 0 4) (fld b 4 4))

/-- REG_WRITE. -/
def execRegWrite (w : HostWrite) (s : State) : Host.Outcome State Fault Refusal := onDev (fun c d => regWriteCmd c d w) s

def rowPartSet : CmdRow := ⟨0x0012, 4, 4, 0, false⟩

/-- PARTITION is 0 to 7; FIRST and COUNT lie within SEQ_PARTn_CFG's fields and are judged with it. -/
def setBody (_ : Dev) (b : List Byte) : Bool :=
  fld b 0 1 < 8 && fld b 1 1 < 8 && fld b 2 1 < 9 && fld b 1 1 + fld b 2 1 < 9 && zeroAt b 3 1

/-- PARTITION_SET. -/
def execPartitionSet (w : HostWrite) (s : State) : Host.Outcome State Fault Refusal :=
  onDev (fun c d => hostCmd rowPartSet setBody d w (fun d b =>
    doWrite c d (addrOf .partCfg (fld b 0 1) 0) (fld b 1 1 + 16 * fld b 2 1))) s

/-! ### Writes with a row of their own -/

/-- A REG_WRITE of an address, as a packet. -/
def writePkt (b : Bus) (a v : Nat) : HostWrite := ⟨b.da, b.hdr, okPkt 0x0003 b.tag (leBytes 4 a ++ leBytes 4 v)⟩

/-- A REG_WRITE of a register by name. -/
def writeReg (c : Units) (d : Dev) (b : Bus) (r : Reg) (i v : Nat) : Dev := regWriteCmd c d (writePkt b (addrOf r i 0) v)

/-- GLOBAL_TIME_CTRL write (R25, R32). -/
def execTimeLoad (b : Bus) (value : Word) (s : State) : Host.Outcome State Fault Refusal :=
  onDev (fun c d => writeReg c d b .timeCtrl 0 value.toNat) s

/-- Table window write (R35, R36). -/
def execTableWindowWrite (b : Bus) (n : Fin 4) (a : BitVec 18) (value : Word) (s : State) : Host.Outcome State Fault Refusal :=
  onDev (fun c d => regWriteCmd c d (writePkt b (winAddr n a) value.toNat)) s

/-- TAMB_COEF_DATA read or write (R102, R120). -/
def execCoefDataAccess (b : Bus) (t : Fin 4) (write : Option Word) (s : State) : Host.Outcome State Fault Refusal :=
  onDev (fun c d => match write with
    | some v => writeReg c d b .tCoefData t v.toNat
    | none => regReadCmd c d (readPkt b (addrOf .tCoefData t 0))) s

/-- TAMB_CTRL write, ENABLE (R82, R84, R108). -/
def execTambEnable (b : Bus) (t : Fin 4) (value : Word) (s : State) : Host.Outcome State Fault Refusal :=
  onDev (fun c d => writeReg c d b .tCtrl t value.toNat) s

/-- TAMB_CTRL write, MODE (R84, R108). -/
def execTambMode (b : Bus) (t : Fin 4) (value : Word) (s : State) : Host.Outcome State Fault Refusal :=
  onDev (fun c d => writeReg c d b .tCtrl t value.toNat) s

/-- TAMB_CTRL write, COEF_SWAP (R102, R108). -/
def execCoefSwap (b : Bus) (t : Fin 4) (value : Word) (s : State) : Host.Outcome State Fault Refusal :=
  onDev (fun c d => writeReg c d b .tCtrl t value.toNat) s

/-- RXIN_Px_CFG write (R49, R146). -/
def execRxinEnable (b : Bus) (x : Fin 4) (value : Word) (s : State) : Host.Outcome State Fault Refusal :=
  onDev (fun c d => writeReg c d b .rxCfg x value.toNat) s

/-- OUT_Px_CFG write (R49, R384). -/
def execTxPortEnable (b : Bus) (x : Fin 2) (value : Word) (s : State) : Host.Outcome State Fault Refusal :=
  onDev (fun c d => writeReg c d b .oCfg x value.toNat) s

/-- OUT_CTRL write (R49, R383). -/
def execOutEnable (b : Bus) (value : Word) (s : State) : Host.Outcome State Fault Refusal :=
  onDev (fun c d => writeReg c d b .oCtrl 0 value.toNat) s

/-- TXT_CTRL write (R49, R343). -/
def execTxtEnable (b : Bus) (value : Word) (s : State) : Host.Outcome State Fault Refusal :=
  onDev (fun c d => writeReg c d b .xCtrl 0 value.toNat) s

/-- KVM_CTRL write (R49, R298). -/
def execKvmEnable (b : Bus) (value : Word) (s : State) : Host.Outcome State Fault Refusal :=
  onDev (fun c d => writeReg c d b .kCtrl 0 value.toNat) s

/-- ADAPT_CTRL write (R49, R390, R409). -/
def execAdaptEnable (b : Bus) (value : Word) (s : State) : Host.Outcome State Fault Refusal :=
  onDev (fun c d => writeReg c d b .aCtrl 0 value.toNat) s

/-- DDR_CTRL write (R49, R475, R487). -/
def execDdrEnable (b : Bus) (value : Word) (s : State) : Host.Outcome State Fault Refusal :=
  onDev (fun c d => writeReg c d b .dCtrl 0 value.toNat) s

/-- BOBn_CTRL write (R205, R207). -/
def execBobbinOffline (b : Bus) (n : Fin 8) (value : Word) (s : State) : Host.Outcome State Fault Refusal :=
  onDev (fun c d => writeReg c d b .bCtrl n value.toNat) s

/-- TAMB_COUNT_CLR.POS (R121). -/
def execEncPosClear (b : Bus) (t : Fin 4) (s : State) : Host.Outcome State Fault Refusal :=
  onDev (fun c d => writeReg c d b .tCountClr t 2) s

/-- TAMB_COUNT_CLR.COUNTS (R121). -/
def execTambCountsClear (b : Bus) (t : Fin 4) (s : State) : Host.Outcome State Fault Refusal :=
  onDev (fun c d => writeReg c d b .tCountClr t 1) s

/-- RXIN_Px_CNT_CLR (R147). -/
def execRxinCountsClear (b : Bus) (x : Fin 4) (s : State) : Host.Outcome State Fault Refusal :=
  onDev (fun c d => writeReg c d b .rxCntClr x 1) s

/-- BOBn_NUM_CLR (R180). -/
def execNumCountsClear (b : Bus) (n : Fin 8) (s : State) : Host.Outcome State Fault Refusal :=
  onDev (fun c d => writeReg c d b .bNumClr n 1) s

/-- BOBn_PERF_CLR (R211). -/
def execPerfCountsClear (b : Bus) (n : Fin 8) (s : State) : Host.Outcome State Fault Refusal :=
  onDev (fun c d => writeReg c d b .bPerfClr n 1) s

/-- KVM_CNT_CLR (R303). -/
def execKvmCountsClear (b : Bus) (s : State) : Host.Outcome State Fault Refusal :=
  onDev (fun c d => writeReg c d b .kCntClr 0 1) s

/-- TXT_CNT_CLR (R347). -/
def execTxtCountsClear (b : Bus) (s : State) : Host.Outcome State Fault Refusal :=
  onDev (fun c d => writeReg c d b .xCntClr 0 1) s

/-- OUT_CNT_CLR (R388). -/
def execOutCountsClear (b : Bus) (s : State) : Host.Outcome State Fault Refusal :=
  onDev (fun c d => writeReg c d b .oCntClr 0 1) s

/-- ADAPT_CNT_CLR (R413). -/
def execAdaptCountsClear (b : Bus) (s : State) : Host.Outcome State Fault Refusal :=
  onDev (fun c d => writeReg c d b .aCntClr 0 1) s

/-- CMD_CNT_CLR (R446). -/
def execCmdCountsClear (b : Bus) (s : State) : Host.Outcome State Fault Refusal :=
  onDev (fun c d => writeReg c d b .cmdCntClr 0 1) s

/-- DDR_CNT_CLR (R491). -/
def execDdrCountsClear (b : Bus) (s : State) : Host.Outcome State Fault Refusal :=
  onDev (fun c d => writeReg c d b .dCntClr 0 1) s

/-- BOBn_HEALTH_CLR (R512). -/
def execHealthCountsClear (b : Bus) (n : Fin 8) (s : State) : Host.Outcome State Fault Refusal :=
  onDev (fun c d => writeReg c d b .bHealthClr n 1) s

/-- BOB0_SECC_CLR (R512). -/
def execSeccCountsClear (b : Bus) (s : State) : Host.Outcome State Fault Refusal :=
  onDev (fun c d => writeReg c d b .seccClr 0 1) s

/-- PWR_UNIT_RESET with GO (R456, R467). -/
def execUnitReset (b : Bus) (unit : BitVec 5) (s : State) : Host.Outcome State Fault Refusal :=
  onDev (fun c d => writeReg c d b .unitReset 0 (2 ^ 31 + unit.toNat)) s

/-- BOBn_BIST_CTRL.GO (R499, R509). -/
def execBistStart (b : Bus) (n : Fin 8) (s : State) : Host.Outcome State Fault Refusal :=
  onDev (fun c d => writeReg c d b .bBistCtrl n 1) s

/-- BOB0_THERM.TRIP (R507, R516). -/
def execThermalTripClear (b : Bus) (s : State) : Host.Outcome State Fault Refusal :=
  onDev (fun c d => writeReg c d b .therm 0 (2 ^ 31)) s

end Sys2Proof.Machine
end

