-- ==== Sys2Proof/Machine/Loads.lean ====
section
/-!
DEFINITION. Load transfers and firmware (R54, R58, R64, R66, R313, R434 to R439, R460): fragments, staged images, and
what each opcode does with a whole image.
-/
namespace Sys2Proof.Machine

/-! ### The payload header (R434) -/

/-- FIRST, LAST and STAGED. -/
def ldFirst (b : List Byte) : Bool := bitOf (fld b 1 1) 0
def ldLast (b : List Byte) : Bool := bitOf (fld b 1 1) 1
def ldStaged (b : List Byte) : Bool := bitOf (fld b 1 1) 2
/-- TOTAL. -/
def ldTotal (b : List Byte) : Nat := fld b 4 4
/-- The fragment ends a load: LAST or STAGED. -/
def ldEnds (b : List Byte) : Bool := ldLast b || ldStaged b

/-- Ranges of the header for a greatest TARGET and a range of TOTAL. -/
def loadBody (targets lo hi : Nat) (_ : Dev) (b : List Byte) : Bool :=
  fld b 0 1 ≤ targets && fld b 1 1 < 8 && zeroAt b 2 2 && lo ≤ ldTotal b && ldTotal b ≤ hi
    && (if ldStaged b then fld b 1 1 == 7 && b.length == 16 && fld b 8 8 % 64 == 0
        else zeroAt b 12 4 && (!ldFirst b || fld b 8 4 == 0))

/-! ### Fragments (R435, R436) -/

/-- Reply of a load: DETAIL where the command ends a load. -/
def detailOf (ends : Bool) (code : Nat) : List Byte := if ends then leBytes 4 code else []

/-- What an opcode does with a whole image: the state, the status and DETAIL. -/
abbrev Finish := Units → Dev → List Byte → List Byte → Dev × Nat × Nat

/-- The image of a STAGED command: where it lies and whether it may be read (R434, R435). -/
def stagedStatus (d : Dev) (a n : Nat) : Option Nat :=
  if !stageReady d then some stConflict else if !inRegions d regsStage a n then some stValue else none

/-- A STAGED command. -/
def loadStaged (c : Units) (d : Dev) (b : List Byte) (finish : Finish) : Dev × Nat × List Byte :=
  let (a, n) := (fld b 8 8, ldTotal b)
  match stagedStatus d a n with
  | some st => (d, st, detailOf true 0)
  | none =>
    let (d, img, _) := ddrRead c d whoCmd regsStage a n
    let (d, st, code) := finish c d b img
    (d, st, detailOf true code)

/-- Store a fragment: in the command area, or in recovery in the command processor's memory. -/
def gather (c : Units) (d : Dev) (rom : Bool) (o : Nat) (bs : List Byte) : Dev :=
  if rom then store c d whoCmd (key 32 o) bs
  else ddrWrite c d whoCmd regsStage ((region d 4).1 + o) bs

/-- The bytes gathered. -/
def gathered (c : Units) (d : Dev) (x : Xfer) : Dev × List Byte :=
  if x.rom then ((eccRead c d whoCmd (key 32 0) x.total).1, peek d (key 32 0) x.total)
  else let (d, bs, _) := ddrRead c d whoCmd regsStage (region d 4).1 x.total; (d, bs)

/-- An inline fragment of the transfer in progress, whose header agrees with it. -/
def loadMore (c : Units) (d : Dev) (x : Xfer) (b : List Byte) (finish : Finish) : Dev × Nat × List Byte :=
  let d := { d with xfer := some x }
  let bs := b.drop 16
  let got := x.got + bs.length
  if x.total < got || (ldLast b && got != x.total) then (dropXfer d, stLength, detailOf (ldFirst b || ldLast b) 0)
  else
    let d := gather c d x.rom x.got bs
    if ldLast b then
      let (d, img) := gathered c d x
      let (d, st, code) := finish c { d with xfer := none } b img
      (d, st, detailOf true code)
    else ({ d with xfer := some { x with got, at_ := d.clk.mono } }, stOk, [])

/-- A load command: its own conditions at FIRST and STAGED, the transfer of R435, and the image at the end. A FIRST fragment that is
refused leaves everything as it is (R423), but that a refusal under R58 abandons the transfer in progress (R436). -/
def loadCmd (op : BitVec 16) (c : Units) (d : Dev) (b : List Byte) (refused : Dev → Bool) (start : Dev → Dev) (finish : Finish) :
    Dev × Nat × List Byte :=
  let rom : Bool := d.pwr.recovery && op == 0x70
  if ldFirst b then
    if refused d then (if op == 0x10 then dropXfer d else d, stConflict, detailOf true 0)
    else if (if rom then ldStaged b else !stageReady d) then (d, stConflict, detailOf true 0)
    else if ldStaged b && (stagedStatus d (fld b 8 8) (ldTotal b)).isSome then (d, stValue, detailOf true 0)
    else if !ldLast b && ldTotal b + 16 < b.length then (d, stLength, detailOf true 0)
    else
      let d := start { dropXfer d with xferLost := false }
      if ldStaged b then loadStaged c d b finish
      else loadMore c d { opcode := op, target := BitVec.ofNat 8 (fld b 0 1), total := ldTotal b, got := 0, rom } b finish
  else if d.xferLost then ({ d with xferLost := false }, stConflict, detailOf (ldLast b) 0)
  else match d.xfer with
    | none => (d, stValue, detailOf (ldLast b) 0)
    | some x =>
      if x.opcode == op && x.target.toNat == fld b 0 1 && x.total == ldTotal b && x.got == fld b 8 4 then
        loadMore c d x b finish
      else (dropXfer d, stValue, detailOf (ldLast b) 0)

/-! ### PRICKING_LOAD and PRICKING_VERIFY (R58, R64, R66, R436) -/

/-- The first granule of the lowest free run of n granules, other partitions' images excluded. -/
def firstFit (d : Dev) (p n : Nat) : Option Nat :=
  let used := sortBy (fun (a b : Nat × Nat) => a.1 < b.1)
    ((List.range 8).filterMap (fun q => if q == p || !hasImage d q then none else some ((partOf d q).base, (partOf d q).size)))
  let a := used.foldl (fun a u => if a + n ≤ u.1 then a else Nat.max a (u.1 + u.2)) 0
  if a + n ≤ 16384 then some a else none

/-- PRICKING_LOAD's state condition (R58). -/
def loadRefused (c : Units) (p : Nat) : Bool := !(ust c p == .idle || ust c p == .halted)

/-- A whole image of PRICKING_LOAD: state, image checks, placement. -/
def finishPricking : Finish := fun c d b img =>
  let p := fld b 0 1
  if loadRefused c p then (d, stConflict, 0)
  else
    let d := setPart d p (fun s => { s with detail := 0, check := 0, faultOp := 0 })
    let code := imageCheck img
    if code != 0 then (setPart d p (fun s => { s with detail := BitVec.ofNat 8 code }), stRejected, code)
    else
      let n := cdiv img.length 256
      match firstFit d p n with
      | none => (d, stExhausted, 0)
      | some a =>
        let first := (extent d p).1
        let dens := densities img (fun lb => cf d .bCtrl (physIn img first lb) 0 6 0)
        let d := store c d whoCmd (key 5 (a * 256)) img
        (adaptGuard (setPart d p (fun s => { s with base := a, size := n, bytes := img.length, dens })), stOk, 0)

def rowPrickingLoad : CmdRow := ⟨0x0010, 16, 4096, 0, false⟩

/-- PRICKING_LOAD. -/
def execPrickingLoad (w : HostWrite) (s : State) : Host.Outcome State Fault Refusal :=
  onDev (fun c d => hostCmd rowPrickingLoad (loadBody 7 16 4194304) d w (fun d b =>
    loadCmd 0x0010 c d b (fun _ => loadRefused c (fld b 0 1)) id finishPricking)) s

def rowVerify : CmdRow := ⟨0x0011, 16, 16, 2, false⟩

/-- Fields of PRICKING_VERIFY (R427). -/
def verifyBody (_ : Dev) (b : List Byte) : Bool :=
  fld b 0 1 < 8 && fld b 1 1 < 2 && zeroAt b 2 2
    && (if fld b 1 1 == 1 then zeroAt b 4 12 else 16 ≤ ldTotal b && ldTotal b ≤ 4194304 && fld b 8 8 % 64 == 0)

/-- Image checks, then binding checks as PARTITION_START would make them at receipt. -/
def verifyImage (c : Units) (d : Dev) (p : Nat) (img : List Byte) : Nat :=
  let code := imageCheck img
  if code != 0 then code else bindCheck d (viewNext c d p) img p

/-- PRICKING_VERIFY at receipt: it changes nothing but what reading the image reports. -/
def doVerify (c : Units) (d : Dev) (b : List Byte) : Dev × Nat × List Byte :=
  let p := fld b 0 1
  let judge := fun (d : Dev) (img : List Byte) =>
    let code := verifyImage c d p img
    (d, if code == 0 then stOk else stRejected, detailOf true code)
  if fld b 1 1 == 1 then
    if !hasImage d p then (d, stConflict, detailOf true 0)
    else judge (eccRead c d { unit := 0x1F, part := p } (key 5 ((partOf d p).base * 256)) (partOf d p).bytes).1 (imgSeen d p)
  else
    match stagedStatus d (fld b 8 8) (ldTotal b) with
    | some st => (d, st, detailOf true 0)
    | none => let (d, img, _) := ddrRead c d whoCmd regsStage (fld b 8 8) (ldTotal b); judge d img

/-- PRICKING_VERIFY. -/
def execPrickingVerify (w : HostWrite) (s : State) : Host.Outcome State Fault Refusal :=
  onDev (fun c d => hostCmd rowVerify verifyBody d w (doVerify c)) s

/-! ### TABLE_LOAD (R313) -/

/-- TABLE_LOAD's conditions. -/
def tableRefused (d : Dev) : Bool :=
  let st := bufSt d.txt (!d.txt.active)
  st == .loading || st == .draining || d.txt.swap

/-- A whole set of TABLE_LOAD: it is written to the standby buffer and checked there. -/
def finishTable : Finish := fun c d _ img =>
  if tableRefused d then (d, stConflict, 0)
  else
    let b := !d.txt.active
    let d := store c d whoCmd (key 3 (b2n b * 0x700000)) img
    let code := setCheck img
    if code != 0 then
      ({ d with txt := { putBuf d.txt b .empty 0 with detail := BitVec.ofNat 8 code } }, if code == 2 then stCrc else stValue, code)
    else ({ d with txt := putBuf d.txt b .valid (BitVec.ofNat 32 (fld img 16 4)) }, stOk, 0)

def rowTableLoad : CmdRow := ⟨0x0030, 16, 4096, 0, false⟩

/-- TABLE_LOAD. -/
def execTableLoad (w : HostWrite) (s : State) : Host.Outcome State Fault Refusal :=
  onDev (fun c d => hostCmd rowTableLoad (loadBody 0 256 7340032) d w (fun d b =>
    loadCmd 0x0030 c d b tableRefused id finishTable)) s

/-! ### FW_UPDATE and FW_SWITCH (R437 to R439, R460) -/

/-- First flash byte of a bank (R458). -/
def bankFlash (bank : Bool) : Nat := if bank then 0x300000 else 0x100000

/-- An accepted FIRST fragment: the standby bank is not READY. -/
def fwStart (d : Dev) : Dev :=
  { d with fw := { d.fw with state := .receiving, cause := 0 }, pwr := { d.pwr with check := false } }

/-- A whole firmware image: length and CRC as its header declares them, then programming. -/
def finishFw : Finish := fun _ d b img =>
  let fail := fun (cause : BitVec 3) => { d with fw := { d.fw with state := .failed, cause } }
  if bankSize img != some (ldTotal b) then (fail 2, stLength, 0)
  else if !bankValid img then (fail 1, stCrc, 0)
  else
    let f := setStandby d.fw 0
    ({ d with fw := { f with
        state := .programming, cause := 0, progRel := bankRelease img, flash := f.flash ++ [(bankFlash (!f.active), img)] } }, stOk, 0)

def rowFwUpdate : CmdRow := ⟨0x0070, 16, 4096, 0, false⟩

/-- FW_UPDATE. -/
def execFwUpdate (w : HostWrite) (s : State) : Host.Outcome State Fault Refusal :=
  onDev (fun c d => hostCmd rowFwUpdate (loadBody 0 4 2097152) d w (fun d b =>
    loadCmd 0x0070 c d b (fun d => d.fw.state == .programming) fwStart finishFw)) s

/-- The copy FW_SWITCH writes and the SEQ it writes there (R460). -/
def switchCopy (f : Fw) : Bool × Word :=
  let k : Bool := if f.sel0.valid && f.sel1.valid then f.sel1.seq ≤ f.sel0.seq else f.sel0.valid
  let top := if f.sel0.valid && f.sel1.valid then (if f.sel0.seq < f.sel1.seq then f.sel1.seq else f.sel0.seq)
    else if f.sel0.valid then f.sel0.seq else if f.sel1.valid then f.sel1.seq else 0
  (k, top + 1)

/-- An accepted FW_SWITCH: the selector names the standby bank and the command processor restarts, in recovery by a boot. -/
def doSwitch (d : Dev) (op tag : BitVec 16) : Dev :=
  let (k, seq) := switchCopy d.fw
  let bank := !d.fw.active
  let copy : SelCopy := { valid := true, seq, bank }
  let d := { d with
    fw := { d.fw with
      wrote := some k, wroteAt := d.clk.mono, sel0 := if k then d.fw.sel0 else copy, sel1 := if k then copy else d.fw.sel1
      flash := d.fw.flash ++ [(if k then 0x1000 else 0, selBytes seq bank)] }
    i3c := { d.i3c with busy := some (op, tag) } }
  let d := logReset d 6 0
  if d.pwr.recovery then { d with pwr := { d.pwr with booting := true, booted := false, bootKind := d.pwr.cause } } else d

def rowFwSwitch : CmdRow := ⟨0x0071, 0, 0, 0, false⟩

/-- FW_SWITCH: its reply is complete when the new firmware starts, or fails to. -/
def execFwSwitch (w : HostWrite) (s : State) : Host.Outcome State Fault Refusal :=
  onDev (fun _ d => takeCmd rowFwSwitch (fun _ _ => true) d w (fun d tag _ =>
    if d.fw.state == .ready && d.xfer.isNone then doSwitch d rowFwSwitch.op tag
    else giveReply d rowFwSwitch.op tag stConflict [])) s

end Sys2Proof.Machine
end

