-- ==== Sys2Proof/Machine/Dispatch.lean ====
section
/-!
DEFINITION. One arm per command: the direct call of its meaning.
-/
namespace Sys2Proof.Machine

def exec (i : Instr) (s : State) : Host.Outcome State Fault Refusal :=
  match i with
  | .hello w => Sys2Proof.Machine.execHello w s
  | .regRead w => Sys2Proof.Machine.execRegRead w s
  | .regWrite w => Sys2Proof.Machine.execRegWrite w s
  | .regReadBlock w => Sys2Proof.Machine.execRegReadBlock w s
  | .prickingLoad w => Sys2Proof.Machine.execPrickingLoad w s
  | .prickingVerify w => Sys2Proof.Machine.execPrickingVerify w s
  | .partitionSet w => Sys2Proof.Machine.execPartitionSet w s
  | .partitionStart w => Sys2Proof.Machine.execPartitionStart w s
  | .partitionHalt w => Sys2Proof.Machine.execPartitionHalt w s
  | .jobSubmitBegin w => Sys2Proof.Machine.execJobSubmitBegin w s
  | .jobSubmitEnd w => Sys2Proof.Machine.execJobSubmitEnd w s
  | .jobCancel w => Sys2Proof.Machine.execJobCancel w s
  | .jobBegin r pkt => Sys2Proof.Machine.execJobBegin r pkt s
  | .jobEnd r pkt => Sys2Proof.Machine.execJobEnd r pkt s
  | .pageMark r pkt => Sys2Proof.Machine.execPageMark r pkt s
  | .tableLoad w => Sys2Proof.Machine.execTableLoad w s
  | .tableSwap w => Sys2Proof.Machine.execTableSwap w s
  | .calibrate w => Sys2Proof.Machine.execCalibrate w s
  | .adaptRunStart w => Sys2Proof.Machine.execAdaptRunStart w s
  | .adaptRunStop w => Sys2Proof.Machine.execAdaptRunStop w s
  | .adaptRunCheckpoint w => Sys2Proof.Machine.execAdaptRunCheckpoint w s
  | .adaptRunResume w => Sys2Proof.Machine.execAdaptRunResume w s
  | .powerState w => Sys2Proof.Machine.execPowerState w s
  | .fwUpdate w => Sys2Proof.Machine.execFwUpdate w s
  | .fwSwitch w => Sys2Proof.Machine.execFwSwitch w s
  | .statusGet w => Sys2Proof.Machine.execStatusGet w s
  | .errorLogRead w => Sys2Proof.Machine.execErrorLogRead w s
  | .privateRead da hdr code count => Sys2Proof.Machine.execPrivateRead da hdr code count s
  | .privateWriteDiscarded da => Sys2Proof.Machine.execPrivateWriteDiscarded da s
  | .entdaa da => Sys2Proof.Machine.execEntdaa da s
  | .setdasa static da => Sys2Proof.Machine.execSetdasa static da s
  | .rstdaa => Sys2Proof.Machine.execRstdaa s
  | .getpid da => Sys2Proof.Machine.execGetpid da s
  | .getbcr da => Sys2Proof.Machine.execGetbcr da s
  | .getdcr da => Sys2Proof.Machine.execGetdcr da s
  | .getcaps da => Sys2Proof.Machine.execGetcaps da s
  | .getmxds da => Sys2Proof.Machine.execGetmxds da s
  | .getstatus da => Sys2Proof.Machine.execGetstatus da s
  | .enecDisec broadcast da enable events => Sys2Proof.Machine.execEnecDisec broadcast da enable events s
  | .enthdr0 => Sys2Proof.Machine.execEnthdr0 s
  | .rstact broadcast da action => Sys2Proof.Machine.execRstact broadcast da action s
  | .targetReset => Sys2Proof.Machine.execTargetReset s
  | .timeLoad b value => Sys2Proof.Machine.execTimeLoad b value s
  | .globalTimeLoRead b block => Sys2Proof.Machine.execGlobalTimeLoRead b block s
  | .stitchCountLoRead b block => Sys2Proof.Machine.execStitchCountLoRead b block s
  | .beatsLoRead b n block => Sys2Proof.Machine.execBeatsLoRead b n block s
  | .tableWindowRead b n a => Sys2Proof.Machine.execTableWindowRead b n a s
  | .tableWindowWrite b n a value => Sys2Proof.Machine.execTableWindowWrite b n a value s
  | .coefDataAccess b t write => Sys2Proof.Machine.execCoefDataAccess b t write s
  | .ctxDataRead b => Sys2Proof.Machine.execCtxDataRead b s
  | .tambEnable b t value => Sys2Proof.Machine.execTambEnable b t value s
  | .tambMode b t value => Sys2Proof.Machine.execTambMode b t value s
  | .coefSwap b t value => Sys2Proof.Machine.execCoefSwap b t value s
  | .rxinEnable b x value => Sys2Proof.Machine.execRxinEnable b x value s
  | .txPortEnable b x value => Sys2Proof.Machine.execTxPortEnable b x value s
  | .outEnable b value => Sys2Proof.Machine.execOutEnable b value s
  | .txtEnable b value => Sys2Proof.Machine.execTxtEnable b value s
  | .kvmEnable b value => Sys2Proof.Machine.execKvmEnable b value s
  | .adaptEnable b value => Sys2Proof.Machine.execAdaptEnable b value s
  | .ddrEnable b value => Sys2Proof.Machine.execDdrEnable b value s
  | .bobbinOffline b n value => Sys2Proof.Machine.execBobbinOffline b n value s
  | .encPosClear b t => Sys2Proof.Machine.execEncPosClear b t s
  | .tambCountsClear b t => Sys2Proof.Machine.execTambCountsClear b t s
  | .rxinCountsClear b x => Sys2Proof.Machine.execRxinCountsClear b x s
  | .numCountsClear b n => Sys2Proof.Machine.execNumCountsClear b n s
  | .perfCountsClear b n => Sys2Proof.Machine.execPerfCountsClear b n s
  | .kvmCountsClear b => Sys2Proof.Machine.execKvmCountsClear b s
  | .txtCountsClear b => Sys2Proof.Machine.execTxtCountsClear b s
  | .outCountsClear b => Sys2Proof.Machine.execOutCountsClear b s
  | .adaptCountsClear b => Sys2Proof.Machine.execAdaptCountsClear b s
  | .cmdCountsClear b => Sys2Proof.Machine.execCmdCountsClear b s
  | .ddrCountsClear b => Sys2Proof.Machine.execDdrCountsClear b s
  | .healthCountsClear b n => Sys2Proof.Machine.execHealthCountsClear b n s
  | .seccCountsClear b => Sys2Proof.Machine.execSeccCountsClear b s
  | .unitReset b unit => Sys2Proof.Machine.execUnitReset b unit s
  | .unitResetDone => Sys2Proof.Machine.execUnitResetDone s
  | .bistStart b n => Sys2Proof.Machine.execBistStart b n s
  | .bistDone n pass area loc => Sys2Proof.Machine.execBistDone n pass area loc s
  | .thermalTripClear b => Sys2Proof.Machine.execThermalTripClear b s
  | .powerOnReset => Sys2Proof.Machine.execPowerOnReset s
  | .pwrokRise sa testen => Sys2Proof.Machine.execPwrokRise sa testen s
  | .chipReset => Sys2Proof.Machine.execChipReset s
  | .resetNRelease => Sys2Proof.Machine.execResetNRelease s
  | .bootComplete flash micros => Sys2Proof.Machine.execBootComplete flash micros s
  | .standbyCheckDone bank => Sys2Proof.Machine.execStandbyCheckDone bank s
  | .fwProgramDone matched => Sys2Proof.Machine.execFwProgramDone matched s
  | .fwStartTimeout => Sys2Proof.Machine.execFwStartTimeout s
  | .loadTransferTimeout => Sys2Proof.Machine.execLoadTransferTimeout s
  | .refclkLost => Sys2Proof.Machine.execRefclkLost s
  | .pllRelock => Sys2Proof.Machine.execPllRelock s
  | .stitchBoundary => Sys2Proof.Machine.execStitchBoundary s
  | .modeEffect t => Sys2Proof.Machine.execModeEffect t s
  | .lineTrigger t => Sys2Proof.Machine.execLineTrigger t s
  | .encEdge t a b => Sys2Proof.Machine.execEncEdge t a b s
  | .encTimeout t => Sys2Proof.Machine.execEncTimeout t s
  | .stampCapture t => Sys2Proof.Machine.execStampCapture t s
  | .patternDone t => Sys2Proof.Machine.execPatternDone t s
  | .calComplete t => Sys2Proof.Machine.execCalComplete t s
  | .calTimeout t => Sys2Proof.Machine.execCalTimeout t s
  | .sensorSample now => Sys2Proof.Machine.execSensorSample now s
  | .frameStart r number => Sys2Proof.Machine.execFrameStart r number s
  | .frameEnd r number => Sys2Proof.Machine.execFrameEnd r number s
  | .lineStart r number => Sys2Proof.Machine.execLineStart r number s
  | .pixelLine r dt payload => Sys2Proof.Machine.execPixelLine r dt payload s
  | .embeddedData r payload => Sys2Proof.Machine.execEmbeddedData r payload s
  | .codedData r payload => Sys2Proof.Machine.execCodedData r payload s
  | .jobTimeout port vc => Sys2Proof.Machine.execJobTimeout port vc s
  | .textInput r payload => Sys2Proof.Machine.execTextInput r payload s
  | .tokenizeDone => Sys2Proof.Machine.execTokenizeDone s
  | .bulkLoad r payload => Sys2Proof.Machine.execBulkLoad r payload s
  | .nop p k => Sys2Proof.Machine.execNop p k s
  | .matmul p k => Sys2Proof.Machine.execMatmul p k s
  | .wload p k => Sys2Proof.Machine.execWload p k s
  | .add p k => Sys2Proof.Machine.execAdd p k s
  | .sub p k => Sys2Proof.Machine.execSub p k s
  | .mul p k => Sys2Proof.Machine.execMul p k s
  | .fma p k => Sys2Proof.Machine.execFma p k s
  | .max p k => Sys2Proof.Machine.execMax p k s
  | .min p k => Sys2Proof.Machine.execMin p k s
  | .convert p k => Sys2Proof.Machine.execConvert p k s
  | .exp p k => Sys2Proof.Machine.execExp p k s
  | .recip p k => Sys2Proof.Machine.execRecip p k s
  | .rsqrt p k => Sys2Proof.Machine.execRsqrt p k s
  | .maxabs p k => Sys2Proof.Machine.execMaxabs p k s
  | .rowstat p k => Sys2Proof.Machine.execRowstat p k s
  | .lsCopy p k => Sys2Proof.Machine.execLsCopy p k s
  | .psRead p k => Sys2Proof.Machine.execPsRead p k s
  | .psWrite p k => Sys2Proof.Machine.execPsWrite p k s
  | .ddrRead p k => Sys2Proof.Machine.execDdrRead p k s
  | .ddrWrite p k => Sys2Proof.Machine.execDdrWrite p k s
  | .ddrBcast p k => Sys2Proof.Machine.execDdrBcast p k s
  | .gather p k => Sys2Proof.Machine.execGather p k s
  | .depthwise p k => Sys2Proof.Machine.execDepthwise p k s
  | .maxpool p k => Sys2Proof.Machine.execMaxpool p k s
  | .avgpool p k => Sys2Proof.Machine.execAvgpool p k s
  | .resample p k => Sys2Proof.Machine.execResample p k s
  | .crop p k => Sys2Proof.Machine.execCrop p k s
  | .fwd p k => Sys2Proof.Machine.execFwd p k s
  | .decode p k d => Sys2Proof.Machine.execDecode p k d s
  | .bwd p k => Sys2Proof.Machine.execBwd p k s
  | .kvCreate p k => Sys2Proof.Machine.execKvCreate p k s
  | .kvAppend p k => Sys2Proof.Machine.execKvAppend p k s
  | .kvWrite p k d => Sys2Proof.Machine.execKvWrite p k d s
  | .kvFree p k => Sys2Proof.Machine.execKvFree p k s
  | .kvService p k => Sys2Proof.Machine.execKvService p k s
  | .txtFetch p k => Sys2Proof.Machine.execTxtFetch p k s
  | .decide p k d => Sys2Proof.Machine.execDecide p k d s
  | .emit p k => Sys2Proof.Machine.execEmit p k s
  | .jobDone p k => Sys2Proof.Machine.execJobDone p k s
  | .slab p k => Sys2Proof.Machine.execSlab p k s
  | .guard p k => Sys2Proof.Machine.execGuard p k s
  | .operationComplete => Sys2Proof.Machine.execOperationComplete s
  | .late => Sys2Proof.Machine.execLate s
  | .jobRelease p o => Sys2Proof.Machine.execJobRelease p o s
  | .pageEnd p o => Sys2Proof.Machine.execPageEnd p o s
  | .recordSend x => Sys2Proof.Machine.execRecordSend x s
  | .hsExit x => Sys2Proof.Machine.execHsExit x s
  | .outHold x => Sys2Proof.Machine.execOutHold x s
  | .outHoldRelease x => Sys2Proof.Machine.execOutHoldRelease x s
  | .holdTimeout x => Sys2Proof.Machine.execHoldTimeout x s
  | .stageFillDone => Sys2Proof.Machine.execStageFillDone s
  | .batchStaged => Sys2Proof.Machine.execBatchStaged s
  | .checkpointDone => Sys2Proof.Machine.execCheckpointDone s
  | .restoreDone => Sys2Proof.Machine.execRestoreDone s
  | .ddrTrainingEnd failed sub => Sys2Proof.Machine.execDdrTrainingEnd failed sub s
  | .selfRefreshReturn => Sys2Proof.Machine.execSelfRefreshReturn s
  | .dramTempRead hot => Sys2Proof.Machine.execDramTempRead hot s
  | .patrolScrub => Sys2Proof.Machine.execPatrolScrub s
  | .packetDiscarded r cause => Sys2Proof.Machine.execPacketDiscarded r cause s
  | .unknownOpcode da hdr bytes => Sys2Proof.Machine.execUnknownOpcode da hdr bytes s
  | .hdrExitPattern => Sys2Proof.Machine.execHdrExitPattern s
  | .newFirmwareStarted u => Sys2Proof.Machine.execNewFirmwareStarted u s
  | .feedPeriodEnd t k => Sys2Proof.Machine.execFeedPeriodEnd t k s
  | .patternStepEnd t => Sys2Proof.Machine.execPatternStepEnd t s
  | .jtagUpdateIr code => Sys2Proof.Machine.execJtagUpdateIr code s
  | .jtagUpdateDr value => Sys2Proof.Machine.execJtagUpdateDr value s
  | .jtagCaptureDr => Sys2Proof.Machine.execJtagCaptureDr s
  | .flashSpiTransferEnd captured => Sys2Proof.Machine.execFlashSpiTransferEnd captured s
  | .trstNLow => Sys2Proof.Machine.execTrstNLow s

end Sys2Proof.Machine
end

