-- ==== Sys2Proof/Safety.lean ====
section
/-!
DEFINITION. The terms in which claims are stated: legal unit states (R48), packets and words that are taken, which
command carries which packet, row or word, and the rational number that a value is with what it rounds to (R158).
-/
namespace Sys2Proof.Machine

/-! ### Unit states (R48, R51) -/

/-- The states that R48 gives unit u: partitions 0 to 7, Bobbins 8 to 15, every other unit. -/
def legalSt (u : Nat) (x : UnitSt) : Bool :=
  if u < 8 then x == .disabled || x == .idle || x == .run || x == .halted || x == .faulted
  else if u < 16 then x == .disabled || x == .run || x == .failed || x == .offline
  else x == .disabled || x == .run

/-- Every entry of the committed unit state table is a state of its kind of unit. -/
def LegalUnits (c : Units) : Prop := ∀ u, u < 32 → legalSt u (ust c u) = true

/-- The rows of R49 that a request commits: unit, committed state, requested state. -/
def requestRow (u : Nat) (a b : UnitSt) : Bool :=
  if u < 8 then
    (a == .disabled && b == .idle) || ((a == .idle || a == .halted) && (b == .disabled || b == .run))
      || ((a == .run || a == .faulted) && b == .halted)
  else if u < 16 then (a == .disabled && b == .offline) || (a == .offline && b == .disabled)
  else (a == .disabled && b == .run) || (a == .run && b == .disabled)

/-! ### Unit resets (R9, R456) -/

/-- The registers that return with unit u, by address. -/
def unitBlock (u a : Nat) : Bool :=
  let within := fun (lo n : Nat) => decide (lo ≤ a ∧ a < lo + n)
  if 0x08 ≤ u && u < 0x10 then within (0x40000 + 0x2000 * (u - 0x08)) 0x2000
  else if 0x10 ≤ u && u < 0x14 then within (0x20000 + 0x4000 * (u - 0x10)) 0x4000
  else if 0x14 ≤ u && u < 0x18 then within (0x30100 + 0x40 * (u - 0x14)) 0x40 || within (0x31000 + 0x400 * (u - 0x14)) 0x400
  else if u == 0x18 || u == 0x19 then within (0x70100 + 0x20 * (u - 0x18)) 0x20
  else if u == 0x1A then within 0x60000 0x10000
  else if u == 0x1B then within 0x50000 0x10000
  else if u == 0x1C then within 0x70000 0x100
  else u == 0x1D && within 0xB0000 0x10000

/-- The stores that return with unit u, by key: the three of a Bobbin; a Tambour's coefficient banks and pattern RAM. -/
def unitStore (u k : Nat) : Bool :=
  if 0x08 ≤ u && u < 0x10 then k / 2 ^ 44 == u || k / 2 ^ 44 == 8 + u || k / 2 ^ 44 == 16 + u
  else if 0x10 ≤ u && u < 0x14 then
    let coef := key 6 ((u - 0x10) * (coefBytes / 4))
    (coef ≤ k && k < coef + coefBytes / 4) || (key (40 + (u - 0x10)) 0 ≤ k && k < key (40 + (u - 0x10)) 0 + 8192)
  else false

/-- A virtual channel of a transmit port whose part of the output buffer has been emptied. -/
def emptied (v : TxVc) : TxVc := { v with free := [], q := [], stream := none, header := v.header || v.stream.isSome }

/-! ### Frames of events (R492, R496) -/

/-- Only the outputs and the error log differ: what raising an event may touch (R492). -/
def EventsOnly (d e : Dev) : Prop :=
  e = { d with out := e.out, health := { d.health with log := e.health.log, seq := e.health.seq, lost := e.health.lost } }

/-- Only outputs, health records, and the error counts of Bobbins and DDR5 differ: what a checked read may touch (R496). -/
def ReportsOnly (d e : Dev) : Prop := e = { d with out := e.out, health := e.health, bobs := e.bobs, ddr := e.ddr }

/-- Where the log has room (R495), e's log has gained one entry, stamped as d finds it, at the place that R494 gives it; the entry has
the property. -/
def Logged (d e : Dev) (is : LogEntry → Prop) : Prop :=
  d.health.log.length < 1024 → d.health.seq < 0xFFFFFFFF → ∃ x, is x ∧ x.seq = d.health.seq ∧ x.time = d.clk.time ∧ x.at_ = d.clk.mono
    ∧ e.health.log = insertLog d.health.log x ∧ e.health.seq = d.health.seq + 1

/-- Only Tambour t of the device, and the ticks at which Tambours have something to do, differ. -/
def TambOnly (t : Nat) (s u : State) : Prop :=
  u = { s with dev := { s.dev with tambs := u.dev.tambs, agenda := u.dev.agenda } } ∧ (∀ v, v ≠ t → tambOf u.dev v = tambOf s.dev v)
    ∧ u.dev.agenda.filter (fun e => e.act != .tambours) = s.dev.agenda.filter (fun e => e.act != .tambours)

/-! ### Numbers (R151, R158) -/

/-- Whether a value is finite. -/
def Xv.isFin : Xv → Bool
  | .fin _ _ _ => true
  | _ => false

/-- The rational number that a finite value is; 0 for the others. -/
def Xv.rat : Xv → ℚ
  | .fin s m e => (if s then -1 else 1) * (m * 2 ^ e)
  | _ => 0

/-- Code is what R158 rounds the exact value v to, among the finite codes of a format whose values are val: nearest, and of two
equally near the even code; toward zero, the largest that is no further from zero than v. -/
def RoundsTo (rtz : Bool) (v : ℚ) (val : Nat → Xv) (code : Nat) : Prop :=
  (val code).isFin = true ∧ ∀ k, (val k).isFin = true →
    let y := (val code).rat
    let z := (val k).rat
    (rtz = false → |v - y| ≤ |v - z| ∧ (|v - y| = |v - z| → z = y ∨ code % 2 = 0))
      ∧ (rtz = true → 0 ≤ v * y ∧ |y| ≤ |v| ∧ (0 ≤ v * z → |z| ≤ |v| → |z| ≤ |y|))

/-! ### Packets (R422, R423) -/

/-- The device has acknowledged a private write. -/
def heard (d : Dev) : Dev := answerBus d true []

/-- A packet of a row that is taken and passes checks 1 to 6. -/
def taken (d : Dev) (r : CmdRow) (ok : Dev → List Byte → Bool) (w : HostWrite) : Prop :=
  reaches d w.da w.hdr = true ∧ packetStatus (heard d) r ok w.pkt = none

/-- A register access of the bus side b is taken: the write reaches the device and the row is served. -/
def busTaken (d : Dev) (b : Bus) (r : CmdRow) : Prop := reaches d b.da b.hdr = true ∧ served d r = true

/-- The device as an accepted register command finds it: acknowledged, and the staging guard of R397 judged. -/
def atRegs (d : Dev) : Dev := adaptGuard (heard d)

/-- A register write of value v to address a is carried out: it is taken, places no reserved encoding and meets no lock,
request rule or state rule. -/
def writeTaken (c : Units) (d : Dev) (b : Bus) (a v : Nat) (r : RegAt) : Prop :=
  busTaken d b rowRegWrite ∧ regAt a = some r ∧ reservedWrite (atRegs d) r v = false ∧ conflictWrite c (atRegs d) r a v = false

/-- The outcome of a register write that a row spells: its reply, on the device that its effect leaves. -/
def wrote (s : State) (b : Bus) (st : Nat) (d : Dev) : Host.Outcome State Fault Refusal :=
  .next { s with dev := giveReply d 0x0003 b.tag st [] }

/-- The outcome of a register read that a row spells, of one word or of a block. -/
def readBack (s : State) (b : Bus) (block : Bool) (bytes : List Byte) (d : Dev) : Host.Outcome State Fault Refusal :=
  .next { s with dev := giveReply d (if block then 0x0004 else 0x0002) b.tag stOk bytes }

/-- The outcome of a packet command: its reply, on the device that its effect leaves. -/
def answered (s : State) (w : HostWrite) (op : BitVec 16) (st : Nat) (bytes : List Byte) (d : Dev) : Host.Outcome State Fault Refusal :=
  .next { s with dev := giveReply d op w.pkt.tag st bytes }

/-- A JOB_SUBMIT on port x, channel v, may be deferred: the channel is INBAND, its partition is committed RUN or has RUN
pending, and the job may open, or is the one that is open (R432). -/
def SubmitOk (c : Units) (d : Dev) (x v : Nat) (start : Bool) (seq : Word) : Prop :=
  ∃ p, binder d x v = some p ∧ sf d .vcCfg x v 31 30 = 2 ∧ (running c p = true ∨ reqOf d p = some .run)
    ∧ (start = true → (vcOf d x v).job = none ∧ heldJob d p seq = none)
    ∧ (start = false → ∃ j, openJobOf d x v = some j ∧ j.seq = seq)

/-- The load opcode that a command is: its row, TARGET and TOTAL ranges, and its own condition on the device. -/
def loadRow : Instr → Option (CmdRow × (Dev → List Byte → Bool) × HostWrite)
  | .prickingLoad w => some (rowPrickingLoad, loadBody 7 16 4194304, w)
  | .tableLoad w => some (rowTableLoad, loadBody 0 256 7340032, w)
  | .fwUpdate w => some (rowFwUpdate, loadBody 0 4 2097152, w)
  | _ => none

/-- The packet command, with its row and field checks, that a command is. -/
def hostPacket : Instr → Option (CmdRow × (Dev → List Byte → Bool) × HostWrite)
  | .hello w => some (rowHello, fun _ b => zeroAt b 2 2, w)
  | .regRead w => some (rowRegRead, readBody, w)
  | .regWrite w => some (rowRegWrite, writeBody, w)
  | .regReadBlock w => some (rowReadBlock, blockBody, w)
  | .prickingLoad w => some (rowPrickingLoad, loadBody 7 16 4194304, w)
  | .prickingVerify w => some (rowVerify, verifyBody, w)
  | .partitionSet w => some (rowPartSet, setBody, w)
  | .partitionStart w => some (rowStart, partBody, w)
  | .partitionHalt w => some (rowHalt, partBody, w)
  | .jobSubmitBegin w => some (rowSubmit, submitBody, w)
  | .jobSubmitEnd w => some (rowSubmit, submitBody, w)
  | .jobCancel w => some (rowCancel, partBody, w)
  | .tableLoad w => some (rowTableLoad, loadBody 0 256 7340032, w)
  | .tableSwap w => some (rowTableSwap, fun _ _ => true, w)
  | .calibrate w => some (rowCalibrate, fun _ b => fld b 0 1 < 4 && zeroAt b 1 3, w)
  | .adaptRunStart w => some (rowAdapt, adaptBody, w)
  | .adaptRunStop w => some (rowAdapt, adaptBody, w)
  | .adaptRunCheckpoint w => some (rowAdapt, adaptBody, w)
  | .adaptRunResume w => some (rowAdapt, adaptBody, w)
  | .powerState w => some (rowPower, fun _ b => fld b 0 1 < 3 && zeroAt b 1 3, w)
  | .fwUpdate w => some (rowFwUpdate, loadBody 0 4 2097152, w)
  | .fwSwitch w => some (rowFwSwitch, fun _ _ => true, w)
  | .statusGet w => some (rowStatus, fun _ _ => true, w)
  | .errorLogRead w => some (rowLog, logBody, w)
  | _ => none

/-- The load of a Pricking image, whole on device u, ends by R58, R64 and R66: refused for the partition's state, rejected with the code of
the first failed check, out of space, or placed first fit as the partition's image, its old DETAIL, CHECK and FAULT_OP cleared. No other
partition's image moves. -/
def PrickingEnds (s : State) (w : HostWrite) (u : Dev) (img : List Byte) : Prop :=
  let p := fld w.pkt.payload 0 1
  let n := cdiv img.length 256
  let ends := fun (st code : Nat) (v : Dev) => exec (.prickingLoad w) s = answered s w 0x0010 st (leBytes 4 code) v
  let others := fun (v : Dev) => ∀ q, q ≠ p → partOf v q = partOf u q
  (loadRefused s.committed p = true → ends stConflict 0 u)
  ∧ (loadRefused s.committed p = false → imageCheck img ≠ 0 → ∃ v, ends stRejected (imageCheck img) v ∧ v = { u with parts := v.parts } ∧ others v
      ∧ partOf v p = { partOf u p with detail := BitVec.ofNat 8 (imageCheck img), check := 0, faultOp := 0 })
  ∧ (loadRefused s.committed p = false → imageCheck img = 0 → firstFit u p n = none → ∃ v, ends stExhausted 0 v ∧ v = { u with parts := v.parts }
      ∧ others v ∧ partOf v p = { partOf u p with detail := 0, check := 0, faultOp := 0 })
  ∧ ∀ a, loadRefused s.committed p = false → imageCheck img = 0 → firstFit u p n = some a → u.ecc = [] → img ≠ [] → ∃ v, ends stOk 0 v
      ∧ v = { u with mem := Memory.setAll u.mem (key 5 (a * 256)) img, parts := v.parts, adapt := v.adapt } ∧ others v
      ∧ (partOf v p).base = a ∧ (partOf v p).size = n ∧ (partOf v p).bytes = img.length
      ∧ (partOf v p).detail = 0 ∧ (partOf v p).check = 0 ∧ (partOf v p).faultOp = 0

/-- The load of a table set, whole on device u, ends by R313: refused, or written to the standby buffer, which is VALID with the set's
identity, or EMPTY with the failed check in DETAIL. -/
def TableEnds (s : State) (w : HostWrite) (u : Dev) (img : List Byte) : Prop :=
  let ends := fun (st code : Nat) (v : Dev) => exec (.tableLoad w) s = answered s w 0x0030 st (leBytes 4 code) v
  let b := !u.txt.active
  let y := store s.committed u whoCmd (key 3 (if b then 0x700000 else 0)) img
  let code := setCheck img
  let others := fun (v : Dev) => bufSt v.txt (!b) = bufSt y.txt (!b) ∧ bufSet v.txt (!b) = bufSet y.txt (!b)
    ∧ v.txt = { y.txt with buf0 := v.txt.buf0, buf1 := v.txt.buf1, set0 := v.txt.set0, set1 := v.txt.set1, detail := v.txt.detail }
  (tableRefused u = true → ends stConflict 0 u)
  ∧ (tableRefused u = false → code ≠ 0 → ∃ v, ends (if code = 2 then stCrc else stValue) code v ∧ v = { y with txt := v.txt }
      ∧ others v ∧ bufSt v.txt b = .empty ∧ bufSet v.txt b = 0 ∧ v.txt.detail = BitVec.ofNat 8 code)
  ∧ (tableRefused u = false → code = 0 → ∃ v, ends stOk 0 v ∧ v = { y with txt := v.txt } ∧ others v
      ∧ bufSt v.txt b = .valid ∧ bufSet v.txt b = BitVec.ofNat 32 (fld img 16 4) ∧ v.txt.detail = y.txt.detail)

/-- The load of a firmware image, whole on device u, ends by R437: FAILED for its length or its CRC, or PROGRAMMING of the standby bank. -/
def FirmwareEnds (s : State) (w : HostWrite) (u : Dev) (img : List Byte) : Prop :=
  let ends := fun (st : Nat) (v : Dev) => exec (.fwUpdate w) s = answered s w 0x0070 st (leBytes 4 0) v
  let failed := fun (cause : BitVec 3) => { u with fw := { u.fw with state := .failed, cause } }
  let sized := bankSize img = some (ldTotal w.pkt.payload)
  (¬ sized → ends stLength (failed 2)) ∧ (sized → bankValid img = false → ends stCrc (failed 1))
  ∧ (sized → bankValid img = true → ∃ v, ends stOk v ∧ v = { u with fw := v.fw } ∧ v.fw.state = .programming ∧ v.fw.cause = 0
      ∧ v.fw.progRel = bankRelease img ∧ v.fw.active = u.fw.active ∧ (if u.fw.active then v.fw.release0 else v.fw.release1) = 0
      ∧ v.fw.flash = u.fw.flash ++ [(if u.fw.active then 0x100000 else 0x300000, img)])

/-- The load that a command carries out ends with a whole image on device u. -/
def LoadEnds (i : Instr) (s : State) (w : HostWrite) (u : Dev) (img : List Byte) : Prop :=
  (i = .prickingLoad w → PrickingEnds s w u img) ∧ (i = .tableLoad w → TableEnds s w u img) ∧ (i = .fwUpdate w → FirmwareEnds s w u img)

/-- The unit that a command's ENABLE write addresses: bus side, register, index, unit and value. -/
def enableWrite : Instr → Option (Bus × Reg × Nat × Nat × Word)
  | .tambEnable b t v => some (b, .tCtrl, t, 0x10 + t, v)
  | .tambMode b t v => some (b, .tCtrl, t, 0x10 + t, v)
  | .coefSwap b t v => some (b, .tCtrl, t, 0x10 + t, v)
  | .rxinEnable b x v => some (b, .rxCfg, x, 0x14 + x, v)
  | .txPortEnable b x v => some (b, .oCfg, x, 0x18 + x, v)
  | .outEnable b v => some (b, .oCtrl, 0, 0x1C, v)
  | .txtEnable b v => some (b, .xCtrl, 0, 0x1A, v)
  | .kvmEnable b v => some (b, .kCtrl, 0, 0x1B, v)
  | .adaptEnable b v => some (b, .aCtrl, 0, 0x1D, v)
  | .ddrEnable b v => some (b, .dCtrl, 0, 0x1E, v)
  | _ => none

/-! ### Pricking words (R61, R62) -/

/-- The OPS word that a command issues: partition, index, CLASS and OP. -/
def opsWord : Instr → Option (Nat × Nat × Nat × Nat)
  | .nop p i => some (p, i, 0, 0)
  | .matmul p i => some (p, i, 1, 0)
  | .wload p i => some (p, i, 1, 1)
  | .add p i => some (p, i, 2, 0)
  | .sub p i => some (p, i, 2, 1)
  | .mul p i => some (p, i, 2, 2)
  | .fma p i => some (p, i, 2, 3)
  | .max p i => some (p, i, 2, 4)
  | .min p i => some (p, i, 2, 5)
  | .convert p i => some (p, i, 2, 6)
  | .exp p i => some (p, i, 2, 7)
  | .recip p i => some (p, i, 2, 8)
  | .rsqrt p i => some (p, i, 2, 9)
  | .maxabs p i => some (p, i, 2, 10)
  | .rowstat p i => some (p, i, 2, 11)
  | .lsCopy p i => some (p, i, 3, 0)
  | .psRead p i => some (p, i, 3, 1)
  | .psWrite p i => some (p, i, 3, 2)
  | .ddrRead p i => some (p, i, 3, 3)
  | .ddrWrite p i => some (p, i, 3, 4)
  | .ddrBcast p i => some (p, i, 3, 5)
  | .gather p i => some (p, i, 4, 0)
  | .depthwise p i => some (p, i, 4, 1)
  | .maxpool p i => some (p, i, 4, 2)
  | .avgpool p i => some (p, i, 4, 3)
  | .resample p i => some (p, i, 4, 4)
  | .crop p i => some (p, i, 4, 5)
  | .fwd p i => some (p, i, 5, 0)
  | .bwd p i => some (p, i, 5, 2)
  | .kvCreate p i => some (p, i, 6, 0)
  | .kvAppend p i => some (p, i, 6, 1)
  | .kvFree p i => some (p, i, 6, 3)
  | .kvService p i => some (p, i, 6, 4)
  | .txtFetch p i => some (p, i, 7, 0)
  | .emit p i => some (p, i, 8, 0)
  | .jobDone p i => some (p, i, 8, 1)
  | .slab p i => some (p, i, 9, 0)
  | .guard p i => some (p, i, 10, 0)
  | _ => none

/-- The cycle of the Stitch in which a word is offered: its ISSUE, and the governor's delay of a SLACK word (R62, R503). -/
def offerAt (d : Dev) (p w : Nat) : Nat := wIssue w + slackDelay d (imgOf d p) p w

/-- The physical Bobbin that a word targets, if it targets one. -/
def bobOfWord (d : Dev) (p w : Nat) : Option Nat := if wTarget w < 8 then some (phys d (imgOf d p) p (wTarget w)) else none

/-- An operation that a slab step expands (R242, R294, R337): partition, index of the SLAB word, descriptor, word, OFFSET, SLAB_ID,
DURATION, and whether the descriptor passes its checks. -/
def slabRow (x : Dev) : Instr → Option (Nat × Nat × Nat × Nat × Nat × Nat × Nat × Bool)
  | .decode p i d =>
    let desc := descAt (imgOf x p) d
    let w := slabOp (imgOf x p) 5 d
    some (p, i, d, w, fld desc 40 4, fld desc 45 1, attnDur (fld (imgOf x p) 20 1) 1 desc [], attnOk (imgOf x p) w desc [])
  | .kvWrite p i d =>
    let desc := descAt (imgOf x p) d
    let w := slabOp (imgOf x p) 6 d
    some (p, i, d, w, fld desc 4 4, fld desc 0 1, kvDur w desc, kvOk (imgOf x p) w desc)
  | .decide p i d =>
    let desc := descAt (imgOf x p) d
    some (p, i, d, slabOp (imgOf x p) 7 d, fld desc 4 4, fld desc 0 1, textDur 1 desc, decideOk (imgOf x p) desc)
  | _ => none

/-- Cycles from issue to completion of a word whose time no other unit bears on (R174, R184, R189, R200, R201, R231). -/
def wordTime (w : Nat) (desc aux : List Byte) : Option Nat :=
  match wClass w with
  | 1 => if wOp w = 0 then some (maBeats w + (if maOut w then 57 else 35)) else some (22 + 16 * wlLines w)
  | 2 => some (vecGroups (vecD desc) + 5 + vecLat (wOp w))
  | 3 => if wOp w ≤ 2 then some (cdiv (moveD desc).size 512 + (if wOp w = 0 then 12 else 20)) else none
  | 4 => some (winDur desc aux (wOp w))
  | 10 => some 2
  | _ => none

/-- The class of the words that a slab operation's descriptors stand for. -/
def slabClass : Instr → Nat
  | .decode _ _ _ => 5
  | .kvWrite _ _ _ => 6
  | _ => 7

/-- What accepting a word of partition p may touch: its schedule, its slab steps and DDR5 cycles, the word counts and bank claims
of Bobbins. -/
def IssueOnly (p : Nat) (d e : Dev) : Prop :=
  e = { d with flights := e.flights, agenda := e.agenda, nextId := e.nextId, parts := e.parts, bobs := e.bobs }
    ∧ (∀ q, q ≠ p → partOf e q = partOf d q)
    ∧ partOf e p = { partOf d p with ddrLast := (partOf e p).ddrLast, steps := (partOf e p).steps }
    ∧ ∀ n, bobOf e n = { bobOf d n with words := (bobOf e n).words, bankA := (bobOf e n).bankA, bankB := (bobOf e n).bankB }

/-- Word w of partition p, index k, has been offered at the present cycle of e and accepted, leaving u: it is in flight with LATE
due after dur cycles; a NOP issues nothing. -/
def Accepted (e u : Dev) (p k w : Nat) (desc aux : List Byte) (dur : Nat) : Prop :=
  IssueOnly p e u ∧ (∀ n, bobOfWord e p w = some n → n < 8 → (bobOf u n).words = (bobOf e n).words + 1)
    ∧ (wClass w = 0 → u.flights = e.flights ∧ u.agenda = e.agenda ∧ u.nextId = e.nextId)
    ∧ (wClass w ≠ 0 → u.nextId = e.nextId + 1 ∧ (∀ g ∈ e.flights, g.id ≠ e.nextId → g ∈ u.flights)
        ∧ ∃ f, u.flights.getLast? = some f ∧ f.id = e.nextId ∧ f.part = p ∧ f.op = k ∧ f.word = BitVec.ofNat 128 w ∧ f.desc = desc
          ∧ f.bob = bobOfWord e p w ∧ f.issue = e.clk.offset ∧ f.limit = e.clk.offset + dur ∧ f.late = false
          ∧ ∀ n, wordTime w desc aux = some n → f.done = some (f.issue + n))

/-- The word's Bobbin accepts no word, or stops in this very cycle for an error that the cycle's other work meets (R204, R498). -/
def BobbinRefuses (c : Units) (e : Dev) (p w : Nat) : Prop :=
  ∃ n, bobOfWord e p w = some n ∧ ((bobOf e n).accepting = false
    ∨ e.ecc ≠ [] ∧ (bobOf (drainTo c (e.clk.offset + 1) fuel e) n).accepting = false)

/-! ### Packets on the receive ports (R123) -/

/-- The receive-port packet that a command is. -/
def rxPacket : Instr → Option RxHdr
  | .jobBegin r _ => some r
  | .jobEnd r _ => some r
  | .pageMark r _ => some r
  | .frameStart r _ => some r
  | .frameEnd r _ => some r
  | .lineStart r _ => some r
  | .pixelLine r _ _ => some r
  | .embeddedData r _ => some r
  | .codedData r _ => some r
  | .textInput r _ => some r
  | .bulkLoad r _ => some r
  | .packetDiscarded r _ => some r
  | _ => none

/-- The device once a corrected packet header has been counted (R125). -/
def rxSeen (d : Dev) (r : RxHdr) : Dev :=
  if r.eccFixed then setRx d r.port (fun q => { q with eccFixed := q.eccFixed + 1 }) else d

/-- A long packet of a channel that takes packets, past checks 1 to 4 of R125. -/
def longTaken (c : Units) (d : Dev) (r : RxHdr) : Prop :=
  rxOn c d r.port = true ∧ isBulk (rxSeen d r) r.port r.vc = false ∧ vcMode (rxSeen d r) r.port r.vc ≠ 0

/-- An in-band command packet that passes every check of R78 and R131 before job numbers are compared: its channel is bound by
partition p, which is committed RUN. -/
def inbandTaken (c : Units) (d : Dev) (r : RxHdr) (op len : Nat) (k : Pkt) (okFields : List Byte → Bool) (p : Nat) : Prop :=
  longTaken c d r ∧ r.crcBad = false ∧ pktLenOk k = true ∧ pktCrcOk op k = true ∧ k.payload.length = len ∧ k.rsvd = 0
    ∧ okFields k.payload = true ∧ binder (rxSeen d r) r.port r.vc = some p ∧ running c p = true

/-- A long packet of R124: its command and its header. -/
def longPacket : Instr → Option RxHdr
  | .jobBegin r _ => some r
  | .jobEnd r _ => some r
  | .pageMark r _ => some r
  | .pixelLine r _ _ => some r
  | .embeddedData r _ => some r
  | .codedData r _ => some r
  | .textInput r _ => some r
  | .packetDiscarded r (.inband _) => some r
  | _ => none

/-- Job j has just been opened on port x, channel v, as the next job of the device, and stands at its place in the order of R130. -/
def Opened (d e : Dev) (x v p : Nat) (seq : Word) (j : Job) : Prop :=
  e.jobs = submitJob d.jobs j ∧ j.openAt = d.clk.mono + (if vcMode d x v = 3 then 52 else 0) ∧ j.id = d.nextJob ∧ e.nextJob = d.nextJob + 1 ∧ (vcOf e x v).job = some j.id
    ∧ j.part = p ∧ j.port = x ∧ j.vc = v ∧ j.seq = seq ∧ j.isOpen = true ∧ j.verdict = none ∧ j.missing = [] ∧ j.next = 0
    ∧ e.mem = d.mem ∧ e.req = d.req ∧ e.shadow = d.shadow ∧ e.parts = d.parts ∧ e.bobs = d.bobs ∧ e.kvm = d.kvm

end Sys2Proof.Machine
end

