-- ==== Sys2Proof/Certificates/Slice0/Obligations.lean ====
section
/-!
DEFINITION. The statements for the provers. Each names the rule of spec/ that it formalises; a clause that rests on a
choice of the model says so.
-/
open Sys2Proof Sys2Proof.Machine

/-! ### The queue, the units and the boundary -/

/-- A step takes the command at the front of the queue and runs it on the state with the queue's rest. The queue is the
model's own (DESIGN CHOICE, log entry 1). -/
def Obligations.StepRunsTheFrontCommand : Prop :=
  ∀ (c : Instr) (rest : List Instr) (s : State), s.pending = c :: rest → step s = exec c { s with pending := rest }

/-- Every command answers a next state, whatever the state, and leaves the waiting commands alone. On an empty queue a step
answers too, keeps the queue empty, and in power-on reset changes nothing (DESIGN CHOICE, log entry 3: the model lets one clock cycle pass in
place of idling). -/
def Obligations.EveryCommandAndIdleStepAnswers : Prop :=
  (∀ (i : Instr) (s : State), ∃ t, exec i s = .next t ∧ t.pending = s.pending)
    ∧ ∀ s : State, s.pending = [] → ∃ t, step s = .next t ∧ t.pending = [] ∧ (s.dev.pwr.powered = false → t = s)

/-- R48 in the state after power-on reset, and R449's values: every unit DISABLED, nothing pending. -/
def Obligations.ResetLeavesEveryUnitDisabled : Prop :=
  LegalUnits State.reset.committed ∧ (∀ u, u < 32 → ust State.reset.committed u = .disabled)
    ∧ (∀ u, reqOf State.reset.dev u = none) ∧ State.reset.dev.shadow = []
    ∧ (∀ r a, comAt State.reset.dev r a = resetWord r.row.fields) ∧ Memory.wf State.reset.dev.mem = true

/-- R48 as an invariant of every step: each unit's committed state is one that R48 gives its kind of unit. -/
def Obligations.EveryStepKeepsLegalUnitStates : Prop :=
  ∀ s t : State, LegalUnits s.committed → step s = .next t → LegalUnits t.committed

/-- The canonical form of the memory as an invariant of every step: addresses strictly rising, and none listed at the value that it reads
unlisted (R102, R449 give that value: zero, and the reset gain in the coefficient banks). The form is the model's own (log entry 12). -/
def Obligations.EveryStepKeepsTheMemoryCanonical : Prop :=
  ∀ s t : State, Memory.wf s.dev.mem = true → step s = .next t → Memory.wf t.dev.mem = true

/-- R77: no command changes the committed unit state table, but for the resets, the wake from SLEEP and the Stitch
boundary itself. -/
def Obligations.OnlyResetsAndBoundariesWriteTheUnitTable : Prop :=
  ∀ (i : Instr) (s t : State), exec i s = .next t →
    i = .powerOnReset ∨ i = .chipReset ∨ i = .targetReset ∨ i = .stitchBoundary
      ∨ (∃ w, i = .powerState w ∧ s.dev.pwr.state = .sleep) ∨ t.committed = s.committed

/-- R49, R50: a pending request commits by a row of R49's table, or the unit keeps its state; no other unit moves, and the
request is used up. -/
def Obligations.RequestsCommitByTheTransitionTable : Prop :=
  ∀ (c : Units) (d : Dev) (u : Nat) (r : UnitSt), u < 31 → reqOf d u = some r →
    let x := commitReq (c, d) u
    (∀ v, v < 31 → v ≠ u → ust x.1 v = ust c v) ∧ reqOf x.2 u = none
      ∧ (requestRow u (ust c u) r = true → ust x.1 u = r) ∧ (requestRow u (ust c u) r = false → ust x.1 u = ust c u)

/-- R12: every pending shadow commits, each to its own register, together; registers with none pending keep their value. -/
def Obligations.PendingShadowsCommitTogether : Prop :=
  ∀ d : Dev, (d.shadow.map (·.1)).Nodup →
    (∀ e ∈ d.shadow, e.1 % 4 = 0 ∧ ∃ r, regAt e.1 = some r) →
    (commitShadows d).shadow = []
      ∧ (∀ e ∈ d.shadow, ∀ r, regAt e.1 = some r → comAt (commitShadows d) r e.1 = e.2.toNat)
      ∧ (∀ r a, a ∉ d.shadow.map (·.1) → comAt (commitShadows d) r a = comAt d r a)

/-- R12, R38 to R40, R45, R63, R432, R433: STITCH_BOUNDARY while the tick runs completes: the rest of the Stitch passes (the model's
choice: DESIGN CHOICE, log entry 8) and the boundary is carried out. The new Stitch begins at offset 0, the Stitch counter has advanced (from −1 it stands), no operation is in flight, every shadow
has committed, and no host command waits. While the tick does not run there is no boundary. The committed table is the one that the
boundary forms. -/
def Obligations.StitchBoundaryIsCarriedOut : Prop :=
  ∀ s : State,
    (s.dev.clk.ticking = true →
      let e := advanceTo s.committed s.dev (periodOf s.dev)
      ∃ t, exec .stitchBoundary s = .next t
        ∧ t = boundary { s with dev := e }
        ∧ t.committed = (boundaryZero s.committed e).1 ∧ t.pending = s.pending
        ∧ t.dev.clk.offset = 0 ∧ t.dev.clk.count = (if e.clk.count = -1 then -1 else e.clk.count + 1)
        ∧ t.dev.shadow = [] ∧ t.dev.flights = [] ∧ t.dev.submits = [] ∧ t.dev.cancels = [])
      ∧ (s.dev.clk.ticking = false → exec .stitchBoundary s = .next s)

/-! ### Packets and replies -/

/-- R415, R422, R423, R439, R454, R457: a command packet that is not taken (the address or the bus mode is another's, a reset, a
boot, a restart or a command is in progress) is not acknowledged and changes nothing else. One that is taken and fails one
of checks 1 to 6 ends with that check's reply and has no effect beside the bus and the count of CMD_CNT_ERR (R446). -/
def Obligations.UntakenAndRefusedPacketsHaveNoEffect : Prop :=
  ∀ (i : Instr) (r : CmdRow) (ok : Dev → List Byte → Bool) (w : HostWrite) (s : State), hostPacket i = some (r, ok, w) →
    (reaches s.dev w.da w.hdr = false → exec i s = .next { s with dev := answerBus s.dev false [] })
    ∧ (∀ st, reaches s.dev w.da w.hdr = true → packetStatus (heard s.dev) r ok w.pkt = some st →
      st ∈ [stOpcode, stLength, stCrc, stValue, stOffline] ∧
        exec i s = .next { s with dev := { s.dev with i3c := { s.dev.i3c with
          ack := true, out := []
          reply := { opcode := r.op, tag := w.pkt.tag, status := BitVec.ofNat 16 st, payload := [] }
          crcBad := (if st = stCrc then s.dev.i3c.crcBad + 1 else s.dev.i3c.crcBad)
          refused := (if st = stCrc then s.dev.i3c.refused else s.dev.i3c.refused + 1) } } })

/-- R423: the order of checks 1 to 6. A wrong length is judged before the CRC, the CRC before the opcode's version, that
before the opcode's own length, that before reserved bytes and fields, and SLEEP last. -/
def Obligations.ChecksRunInOrder : Prop :=
  ∀ (d : Dev) (r : CmdRow) (ok : Dev → List Byte → Bool) (k : Pkt),
    let n := k.payload.length
    (¬ (k.len.toNat = n ∧ n % 4 = 0 ∧ n ≤ 4096) → packetStatus d r ok k = some stLength)
      ∧ (k.len.toNat = n ∧ n % 4 = 0 ∧ n ≤ 4096 →
          (crc32c (pktHead r.op.toNat k) ≠ k.crc → packetStatus d r ok k = some stCrc)
          ∧ (crc32c (pktHead r.op.toNat k) = k.crc →
              (d.i3c.minor.toNat < r.minor → packetStatus d r ok k = some stOpcode)
              ∧ (r.minor ≤ d.i3c.minor.toNat →
                  ((n < r.least ∨ r.most < n) → packetStatus d r ok k = some stLength)
                  ∧ (r.least ≤ n ∧ n ≤ r.most →
                      ((k.rsvd ≠ 0 ∨ ok d k.payload = false) → packetStatus d r ok k = some stValue)
                      ∧ (k.rsvd = 0 ∧ ok d k.payload = true →
                          packetStatus d r ok k = if served d r then none else some stOffline)))))

/-- R428: HELLO with MAJOR at least 1 chooses version 1.min(MINOR, 3), or 1.3 above MAJOR 1 (1.0 from the mask ROM, whatever MINOR:
R459, DEDUCED, log entry 51), and answers its eight bytes; with MAJOR 0 the version stands. -/
def Obligations.HelloChoosesTheVersion : Prop :=
  ∀ (s : State) (w : HostWrite), taken s.dev rowHello (fun _ b => zeroAt b 2 2) w →
    let d := heard s.dev
    let b := w.pkt.payload
    let minor := if d.pwr.recovery then 0 else if fld b 0 1 = 1 then min (fld b 1 1) 3 else 3
    (fld b 0 1 ≠ 0 →
      exec (.hello w) s = .next { s with dev := (giveReply
        { d with i3c := { d.i3c with major := 1, minor := BitVec.ofNat 4 minor, hello := true } } 0x0001 w.pkt.tag stOk
        ([1, BitVec.ofNat 8 minor, 0xA1, BitVec.ofNat 8 (b2n d.fw.active)] ++ leBytes 2 0x8384 ++ leBytes 2 (fwRelease d))) })
      ∧ (fld b 0 1 = 0 → exec (.hello w) s = .next { s with dev := giveReply d 0x0001 w.pkt.tag stVersion [] })

/-! ### Register writes -/

/-- R10, R12: a REG_WRITE of a register with RWS or RWL fields, carried out, replies DEFERRED_TO_STITCH, changes no committed
value and no unit state, and leaves every other register's shadow alone; the stored fields wait in its own shadow. (The
one exception, a BOBn_CTRL write that asks nothing, is R205's and stands apart.) R10, R33, R120, R302: a REG_WRITE of an RW register stores
its fields at once, replies OK and leaves every other register alone; R95: one of a pattern RAM word stores it unless PATTERN is in
force, when it is a conflict. R10, R11: a REG_WRITE of a W1C bit clears it with a 1, unless an event set it in that very cycle, and leaves
it with a 0. -/
def Obligations.ShadowedWritesWaitForTheBoundary : Prop :=
  (∀ (s : State) (w : HostWrite) (r : RegAt),
    let d := atRegs s.dev
    let a := fld w.pkt.payload 0 4
    let v := fld w.pkt.payload 4 4
    taken s.dev rowRegWrite writeBody w → a < 0x100000 → regAt (a / 4 * 4) = some r →
      r.row.fields.any FieldDef.shadowed = true → r.row.reg ≠ .bCtrl →
      conflictWrite s.committed d r (a / 4 * 4) v = false →
      ∃ t, exec (.regWrite w) s = .next t ∧ t.committed = s.committed ∧ t.pending = s.pending
        ∧ t.dev.i3c.reply = { opcode := 0x0003, tag := w.pkt.tag, status := BitVec.ofNat 16 stDeferred, payload := [] }
        ∧ t.dev.regs = s.dev.regs ∧ t.dev.mem = s.dev.mem
        ∧ assoc t.dev.shadow (a / 4 * 4) = some (BitVec.ofNat 32 (storedBits r.row.fields v))
        ∧ ∀ x, x ≠ a / 4 * 4 → assoc t.dev.shadow x = assoc s.dev.shadow x)
  ∧ (∀ (s : State) (w : HostWrite), taken s.dev rowRegWrite writeBody w → fld w.pkt.payload 0 4 < 0x100000 →
    let d := atRegs s.dev
    let a := fld w.pkt.payload 0 4 / 4 * 4
    let v := fld w.pkt.payload 4 4
    let bit := fun (n : Nat) => bitOf v n
    let done := fun (e : Dev) => exec (.regWrite w) s = answered s w 0x0003 stOk [] e
    let stores := fun (r : Reg) (i : Nat) => a = addrOf r i 0 → ∃ e, done e ∧ e = { d with regs := e.regs }
      ∧ com e r i 0 = storedBits (rowOf r).fields v ∧ ∀ x, x ≠ a → assoc e.regs x = assoc d.regs x
    (∀ n, n < 4 → stores .winBase n) ∧ (∀ t, t < 4 → stores .tCoefIndex t) ∧ stores .kCtxSel 0
      ∧ (∀ t j, t < 4 → j < 2048 → a = addrOf .tPgRam t j →
          ((tambOf d t).active ≠ 2 → done (store s.committed d whoCmd (key (40 + t) (4 * j)) (leBytes 4 v)))
          ∧ ((tambOf d t).active = 2 → exec (.regWrite w) s = answered s w 0x0003 stConflict [] d))
      ∧ (∀ t, t < 4 → a = addrOf .tStatus t 0 → done (setTamb d t (fun m => { m with
          stampFlt := w1c d m.stampFlt m.fltAt (bit 3), encTmo := w1c d m.encTmo m.tmoAt (bit 2)
          encErr := w1c d m.encErr m.errAt (bit 1), trigMiss := w1c d m.trigMiss m.missAt (bit 0) })))
      ∧ (a = addrOf .clkStatus 0 0 → done { d with clk := { d.clk with refLost := w1c d d.clk.refLost d.clk.refAt (bit 1) } })
      ∧ (∀ x, x < 2 → a = addrOf .oStatus x 0 → done (setTx d x (fun t => { t with tmo := w1c d t.tmo t.tmoAt (bit 29) })))
      ∧ (a = addrOf .summary 0 0 → done { d with health := { d.health with
          eccUe := w1c d d.health.eccUe d.health.ueAt (bit 7), govDem := w1c d d.health.govDem d.health.demAt (bit 4) } })
      ∧ ∀ b at_ one, w1c d b at_ one = true ↔ b = true ∧ (one = true → at_ = some d.clk.mono))

/-- R12, R13, R423: a REG_WRITE that places a reserved encoding is refused with BAD_VALUE, by check 5 and so ahead of check 6; one
that meets a lock, request rule or state rule is refused with STATE_CONFLICT. Both leave every register, shadow, request and
store as it was. R12, R52: a write that would change an RWL field of a unit that is committed enabled is a conflict, whatever request is
pending; while the unit is committed disabled the lock does not apply. -/
def Obligations.RefusedWritesAreRefusedWhole : Prop :=
  (∀ (s : State) (w : HostWrite) (r : RegAt),
    let d := atRegs s.dev
    let a := fld w.pkt.payload 0 4
    let v := fld w.pkt.payload 4 4
    let h := heard s.dev
    reaches s.dev w.da w.hdr = true → pktLenOk w.pkt = true → pktCrcOk 0x0003 w.pkt = true → w.pkt.payload.length = 8 → w.pkt.rsvd = 0 →
      a < 0x100000 → regAt (a / 4 * 4) = some r →
      (reservedWrite h r v = true →
        exec (.regWrite w) s = .next { s with dev := giveReply h 0x0003 w.pkt.tag stValue [] })
      ∧ (reservedWrite h r v = false → served s.dev rowRegWrite = true → conflictWrite s.committed d r (a / 4 * 4) v = true →
        exec (.regWrite w) s = .next { s with dev := giveReply d 0x0003 w.pkt.tag stConflict [] }))
  ∧ ∀ (c : Units) (d : Dev) (r : RegAt) (a v u : Nat) (f : FieldDef),
    lockUnit r = some u → f ∈ r.row.fields → f.acc = .rwl → bitsOf v f.hi f.lo ≠ bitsOf (comAt d r a) f.hi f.lo →
      (unitOn c u = true → ∀ q, conflictWrite c (setReq d u q) r a v = true)
        ∧ (unitOn c u = false → lockedWrite c d r a v = false)

/-- R49, R77: the ten rows that write an ENABLE field. Carried out, each replies DEFERRED_TO_STITCH, requests RUN or DISABLED
where the value differs from the committed state and no request where it agrees, and changes no committed state. That a value which agrees
with the committed state is carried out, taking back a request that pends, is the model's reading (DEDUCED, log entry 60). -/
def Obligations.EnableWritesOnlyRequest : Prop :=
  ∀ (i : Instr) (b : Bus) (r : Reg) (k u : Nat) (v : Word) (s : State), enableWrite i = some (b, r, k, u, v) →
    ∀ q, writeTaken s.committed s.dev b (addrOf r k 0) v.toNat q →
      ∃ t, exec i s = .next t ∧ t.committed = s.committed ∧ t.dev.regs = s.dev.regs
        ∧ t.dev.i3c.reply = { opcode := 0x0003, tag := b.tag, status := BitVec.ofNat 16 stDeferred, payload := [] }
        ∧ reqOf t.dev u = (if v.getLsbD 0 = running s.committed u then none else some (if v.getLsbD 0 then .run else .disabled))
        ∧ (∀ x, x ≠ u → reqOf t.dev x = reqOf s.dev x)
        ∧ assoc t.dev.shadow (addrOf r k 0) = some (BitVec.ofNat 32 (storedBits (rowOf r).fields v.toNat))

/-- R205, R207: BOBn_CTRL.OFFLINE. From DISABLED a 1 requests OFFLINE, from OFFLINE a 0 requests DISABLED, a matching value
requests nothing; RAMP waits in the shadow. (That a matching value takes back a request that pends, and that the reply is OK where RAMP, too,
asks nothing, is the model's reading: DEDUCED, log entry 60.) -/
def Obligations.OfflineFieldRequestsItsTransition : Prop :=
  ∀ (b : Bus) (n : Fin 8) (v : Word) (s : State) (q : RegAt),
    writeTaken s.committed s.dev b (addrOf .bCtrl n 0) v.toNat q →
      ∃ t st, exec (.bobbinOffline b n v) s = .next t ∧ t.committed = s.committed ∧ t.dev.regs = s.dev.regs
        ∧ t.dev.i3c.reply = { opcode := 0x0003, tag := b.tag, status := BitVec.ofNat 16 st, payload := [] }
        ∧ (st = stOk ∨ st = stDeferred)
        ∧ (v.getLsbD 8 = true → ust s.committed (8 + n) = .disabled → reqOf t.dev (8 + n) = some .offline ∧ st = stDeferred)
        ∧ (v.getLsbD 8 = false → ust s.committed (8 + n) = .offline → reqOf t.dev (8 + n) = some .disabled ∧ st = stDeferred)
        ∧ ((v.getLsbD 8 = true ↔ ust s.committed (8 + n) = .offline) → reqOf t.dev (8 + n) = none)
        ∧ assoc t.dev.shadow (addrOf .bCtrl n 0) = some (BitVec.ofNat 32 (v.toNat % 128))

/-! ### Counters, reads, ports and windows -/

/-- R121, R147, R180, R211, R303, R347, R388, R413, R446, R491, R512: each clear of counters, carried out, replies OK and leaves each
counter that it names with what the present cycle has counted: 0, or 1 after events in the same cycle (for R121 and R147, which do not say
so, DESIGN CHOICE, log entry 99). Nothing else changes but
the note of what stood before the cycle. DUMMY counts anew from the present cycle. -/
def Obligations.CountersClear : Prop :=
  ∀ (b : Bus) (t : Fin 4) (k : Fin 8) (s : State), busTaken s.dev b rowRegWrite →
    let d := atRegs s.dev
    let n := countNow d
    exec (.encPosClear b t) s = wrote s b stOk (setTamb d t (fun m => { m with pos := 0 }))
      ∧ exec (.tambCountsClear b t) s = wrote s b stOk (forgetCounts (setTamb d t (fun m => { m with
          nEncErr := n (atTamb t) m.nEncErr, nTrigMis := n (atTamb t + 1) m.nTrigMis, nLost := n (atTamb t + 2) m.nLost
          nMissing := n (atTamb t + 3) m.nMissing, nDisc := n (atTamb t + 4) m.nDisc })) (atTamb t) 5)
      ∧ exec (.rxinCountsClear b t) s = wrote s b stOk (forgetCounts (setRx d t (fun x => { x with
          eccFixed := n (atRx t) x.eccFixed, hdrBad := n (atRx t + 1) x.hdrBad, crcBad := n (atRx t + 2) x.crcBad
          wcBad := n (atRx t + 3) x.wcBad, noJob := n (atRx t + 4) x.noJob, inband := n (atRx t + 5) x.inband })) (atRx t) 6)
      ∧ exec (.numCountsClear b k) s = wrote s b stOk (forgetCounts (setBob d k (fun x => { x with
          num := { sat := n (atNum k) x.num.sat, uflow := n (atNum k + 1) x.num.uflow, nan := n (atNum k + 2) x.num.nan
                   zr := n (atNum k + 3) x.num.zr, accOvf := n (atNum k + 4) x.num.accOvf }
          replay := n (atNum k + 5) x.replay })) (atNum k) 6)
      ∧ exec (.perfCountsClear b k) s = wrote s b stOk (forgetCounts (setBob d k (fun x => { x with
          beats := n (atPerf k) x.beats, words := n (atPerf k + 2) x.words
          dummy := 0, settled := d.clk.mono, since := b2n (x.lastBeat == some d.clk.mono) })) (atPerf k) 3)
      ∧ exec (.healthCountsClear b k) s = wrote s b stOk (forgetCounts (setBob d k (fun x => { x with
          ueCnt := n (atHealth k) x.ueCnt, ceCnt := n (atHealth k + 1) x.ceCnt })) (atHealth k) 2)
      ∧ exec (.seccCountsClear b) s = wrote s b stOk (forgetCounts { d with health := { d.health with
          secc := d.health.secc.mapFinIdx (fun i x _ => (n (atSecc + 2 * i) x.1, n (atSecc + 2 * i + 1) x.2)) } } atSecc 12)
      ∧ exec (.kvmCountsClear b) s = wrote s b stOk (forgetCounts { d with kvm := { d.kvm with
          preempt := n atKvm d.kvm.preempt, resume := n (atKvm + 1) d.kvm.resume, refused := n (atKvm + 2) d.kvm.refused
          stall := n (atKvm + 3) d.kvm.stall, cow := n (atKvm + 4) d.kvm.cow, lenlim := n (atKvm + 5) d.kvm.lenlim
          stats := { sat := n (atKvm + 6) d.kvm.stats.sat, uflow := n (atKvm + 7) d.kvm.stats.uflow, nan := n (atKvm + 8) d.kvm.stats.nan
                     zr := n (atKvm + 9) d.kvm.stats.zr, accOvf := n (atKvm + 10) d.kvm.stats.accOvf } } } atKvm 11)
      ∧ exec (.txtCountsClear b) s = wrote s b stOk (forgetCounts { d with txt := { d.txt with
          tokens := n atTxt d.txt.tokens, forced := n (atTxt + 1) d.txt.forced, blocked := n (atTxt + 2) d.txt.blocked
          fend := n (atTxt + 3) d.txt.fend, dead := n (atTxt + 4) d.txt.dead, stop := n (atTxt + 5) d.txt.stop
          trunc := n (atTxt + 6) d.txt.trunc, nan := n (atTxt + 7) d.txt.nan, dropped := n (atTxt + 8) d.txt.dropped } } atTxt 9)
      ∧ exec (.outCountsClear b) s = wrote s b stOk (forgetCounts { d with out := { d.out with
          bad := n atOut d.out.bad
          tx := d.out.tx.mapFinIdx (fun x t _ => { t with
            sent := n (atOut + 1 + 4 * x) t.sent, lost := n (atOut + 2 + 4 * x) t.lost, tmos := n (atOut + 3 + 4 * x) t.tmos
            holds := n (atOut + 4 + 4 * x) t.holds }) } } atOut 9)
      ∧ exec (.adaptCountsClear b) s = wrote s b stOk (forgetCounts { d with adapt := { d.adapt with
          skipped := n atAdapt d.adapt.skipped, empty := n (atAdapt + 1) d.adapt.empty } } atAdapt 2)
      ∧ exec (.cmdCountsClear b) s = wrote s b stOk (forgetCounts { d with i3c := { d.i3c with
          parity := n atCmd d.i3c.parity, crcBad := n (atCmd + 1) d.i3c.crcBad, refused := n (atCmd + 2) d.i3c.refused } } atCmd 3)
      ∧ exec (.ddrCountsClear b) s = wrote s b stOk (forgetCounts { d with ddr := { d.ddr with
          ce := n atDdr d.ddr.ce, ue := n (atDdr + 1) d.ddr.ue, range := n (atDdr + 2) d.ddr.range } } atDdr 3)
      ∧ ∀ i v, d.clk.was[i]? = some v → n i v = 0 ∧ ∀ w, v < w → n i w = 1

/-- R24, R45, R209: a read of the LO register of a 64-bit counter replies its low word and latches the upper one; a block of
two words from there replies the whole value. In SLEEP only the time counter is in reach (R426). -/
def Obligations.CountersReadConsistently : Prop :=
  ∀ (b : Bus) (n : Fin 8) (s : State), busTaken s.dev b rowRegRead →
    let d := atRegs s.dev
    let time := { d with clk := { d.clk with timeHi := BitVec.ofNat 32 (d.clk.time.toNat / 2 ^ 32) } }
    let count := { d with clk := { d.clk with countHi := BitVec.ofNat 32 (d.clk.count.toNat / 2 ^ 32) } }
    let beats := setBob d n (fun x => { x with beatsHi := BitVec.ofNat 32 (sat 64 x.beats / 2 ^ 32) })
    exec (.globalTimeLoRead b false) s = readBack s b false (leBytes 4 d.clk.time.toNat) time
      ∧ exec (.globalTimeLoRead b true) s = readBack s b true (leBytes 8 d.clk.time.toNat) time
      ∧ (s.dev.pwr.state ≠ .sleep →
          exec (.stitchCountLoRead b false) s = readBack s b false (leBytes 4 d.clk.count.toNat) count
          ∧ exec (.stitchCountLoRead b true) s = readBack s b true (leBytes 8 d.clk.count.toNat) count
          ∧ exec (.beatsLoRead b n false) s = readBack s b false (leBytes 4 (sat 64 (bobOf d n).beats)) beats
          ∧ exec (.beatsLoRead b n true) s = readBack s b true (leBytes 8 (sat 64 (bobOf d n).beats)) beats)

/-- R8, R14, R429: a REG_READ of a register whose fields are all stored replies its committed value, or with SHADOW its
pending value where one is pending; where no register lies it replies zero; neither changes anything else. Read-only registers show
what the machine holds: the identity (R29), the committed and pending state of a unit (R50), a partition's image and fault (R59, R66), the
encoder's position (R114), counts, saturated (R7, R121), the session (R445), reset cause and boot time (R465), and the free job pool
(R145). In SLEEP an address that R426 puts out of reach replies OFFLINE. -/
def Obligations.RegisterReadsReturnCommittedOrShadow : Prop :=
  ∀ (s : State) (w : HostWrite), taken s.dev rowRegRead readBody w →
    let d := atRegs s.dev
    let a := fld w.pkt.payload 0 4 / 4 * 4
    let e := exec (.regRead w) s
    let ok := fun (bytes : List Byte) => ({ s with dev := giveReply d 0x0002 w.pkt.tag stOk bytes } : State)
    a < 0x100000 →
      (sleepReach s.dev a 1 = false → e = .next { s with dev := giveReply (heard s.dev) 0x0002 w.pkt.tag stOffline [] })
      ∧ (sleepReach s.dev a 1 = true →
          (regAt a = none → e = .next (ok [0, 0, 0, 0]))
          ∧ (∀ r, regAt a = some r → r.row.fields.all FieldDef.stored = true → r.row.reg ∉ [.bCtrl, .tCoefData, .tPgRam] →
              e = .next (ok (leBytes 4
                (if fld w.pkt.payload 4 1 = 1 then ((assoc d.shadow a).map (·.toNat)).getD (comAt d r a) else comAt d r a))))
          ∧ (let shows := fun (at_ v : Nat) => a = at_ → e = .next (ok (leBytes 4 v))
            shows (addrOf .globalId 0 0) 0x8384A100
            ∧ (∀ u, u < 32 → shows (addrOf .unitState u 0)
                ((ust s.committed u).code + (match reqOf d u with | some r => 0x10000 + 0x100 * r.code | none => 0)))
            ∧ (∀ p, p < 8 → let x := partOf d p
                shows (addrOf .partStatus p 0) (x.detail.toNat * 2 ^ 24 + x.check.toNat * 2 ^ 20 + x.faultOp)
                ∧ shows (addrOf .partImage p 0) (x.size * 65536 + x.base))
            ∧ (∀ t, t < 4 → let m := tambOf d t
                shows (addrOf .tEncPos t 0) (m.pos % 2 ^ 32).toNat
                ∧ shows (addrOf .tCountTrig t 0) (Nat.min 65535 m.nEncErr * 65536 + Nat.min 65535 m.nTrigMis))
            ∧ shows (addrOf .session 0 0) (d.i3c.major.toNat * 2 ^ 20 + d.i3c.minor.toNat * 65536 + b2n d.i3c.hello * 32768 + d.i3c.da.toNat)
            ∧ shows (addrOf .resetCause 0 0) d.pwr.cause.toNat ∧ shows (addrOf .bootTime 0 0) d.pwr.micros.toNat
            ∧ shows (addrOf .pool 0 0) (poolFree d)))

/-- R429: a REG_READ_BLOCK replies COUNT words, from the lowest address on: each is the word that a read of its own address, with the same
SHADOW, finds on the device that the read before it has left. A read of one word gives that word and leaves that device. With SHADOW
nothing changes (but the model's own free-value counter). -/
def Obligations.BlockReadsReturnConsecutiveWords : Prop :=
  ∀ (s : State) (w : HostWrite), taken s.dev rowReadBlock blockBody w →
    let a := fld w.pkt.payload 0 4 / 4 * 4
    let n := fld w.pkt.payload 4 2
    let sh := fld w.pkt.payload 6 1 == 1
    sleepReach s.dev a n = true →
      ∃ (e : Nat → Dev) (bytes : List Byte), exec (.regReadBlock w) s = .next { s with dev := giveReply (e n) 0x0004 w.pkt.tag stOk bytes }
        ∧ bytes.length = 4 * n ∧ e 0 = atRegs s.dev
        ∧ (∀ k, k < n → e (k + 1) = (regWord s.committed (e k) (a + 4 * k) sh).1
            ∧ (bytes.drop (4 * k)).take 4 = leBytes 4 (regWord s.committed (e k) (a + 4 * k) sh).2)
        ∧ (sh = true → ∀ k, k ≤ n → e k = { atRegs s.dev with free := (e k).free })
        ∧ ∀ v, taken s.dev rowRegRead readBody v → sleepReach s.dev (fld v.pkt.payload 0 4 / 4 * 4) 1 = true →
            let x := regWord s.committed (atRegs s.dev) (fld v.pkt.payload 0 4 / 4 * 4) (fld v.pkt.payload 4 1 == 1)
            exec (.regRead v) s = .next { s with dev := giveReply x.1 0x0002 v.pkt.tag stOk (leBytes 4 x.2) }

/-- R120, R302: an access of TAMB_COEF_DATA acts on the entry that TAMB_COEF_INDEX names and advances INDEX, from 24,575 to 0,
in the same bank; a read of KVM_CTX_DATA replies the word that KVM_CTX_SEL names, of a SPILLED context from DDR5 (R277), and advances
WORD modulo 32. -/
def Obligations.IndexedPortsAdvance : Prop :=
  ∀ (b : Bus) (t : Fin 4) (v : Word) (s : State) (q : RegAt),
    let c := s.committed
    let d := atRegs s.dev
    let bank := (coefSel d t).1
    let i := (coefSel d t).2
    let k := coefKey t bank i
    let after := fun (e : Dev) => putCom e .tCoefIndex t 0 (bank * 32768 + (if i = 24575 then 0 else i + 1))
    (busTaken s.dev b rowRegRead → s.dev.pwr.state ≠ .sleep →
        exec (.coefDataAccess b t none) s = readBack s b false (leBytes 4 (peekNat d k 4)) (after (eccRead c d whoCmd k 4).1)
        ∧ (let e := (ctxWord c d).1
          exec (.ctxDataRead b) s = readBack s b false (leBytes 4 (ctxWord c d).2)
            (putCom e .kCtxSel 0 0 ((cf e .kCtxSel 0 0 20 16 + 1) % 32 * 65536 + cf e .kCtxSel 0 0 15 0)))
        ∧ (∀ x, ctxOf d (cf d .kCtxSel 0 0 15 0) = some x → x.state ≠ 6 →
            ctxWord c d = (d, fld (x.record ++ x.ringBytes) (4 * cf d .kCtxSel 0 0 20 16) 4)))
      ∧ (writeTaken c s.dev b (addrOf .tCoefData t 0) v.toNat q →
          exec (.coefDataAccess b t (some v)) s = wrote s b stOk (after (store c d whoCmd k (leBytes 4 v.toNat)))
          ∧ bank ≠ b2n (tambOf d t).bank ∧ (tambOf d t).cal.state ≠ .running)

/-- R35, R36, R269: a window write to DDR5, or to a target whose owner is not committed DISABLED, is refused with STATE_CONFLICT; one
beyond its target, or, its owner DISABLED, to the part of the KV store that reads as zero, replies OK and does nothing; any other stores its
word, and where no word of memory is in error every other byte of memory keeps its value. (That a write beyond the end is judged before the
owner, and which owner counts where its state is FAILED or OFFLINE, is the model's reading: DEDUCED, log entry 59.) -/
def Obligations.WindowWritesNeedADisabledOwner : Prop :=
  ∀ (b : Bus) (n : Fin 4) (a : BitVec 18) (v : Word) (s : State), busTaken s.dev b rowRegWrite →
    let d := heard s.dev
    let x := winAt d (winAddr n a)
    let e := exec (.tableWindowWrite b n a v) s
    (x.1 = 7 → e = wrote s b stConflict d)
      ∧ (x.1 ≠ 7 → x.1 = 0 ∨ winSize d x.1 ≤ x.2 → e = wrote s b stOk d)
      ∧ (x.1 ≠ 7 → x.1 ≠ 0 → x.2 < winSize d x.1 → ownerOff s.committed x.1 = false → e = wrote s b stConflict d)
      ∧ (x.1 ≠ 7 → x.1 ≠ 0 → x.2 < winSize d x.1 → ownerOff s.committed x.1 = true → kvHole x.1 x.2 = true → e = wrote s b stOk d)
      ∧ (x.1 ≠ 7 → x.1 ≠ 0 → x.2 < winSize d x.1 → kvHole x.1 x.2 = false → ownerOff s.committed x.1 = true → ∃ y,
          e = wrote s b stOk y ∧ y.mem = (store s.committed d whoCmd (key x.1 x.2) (leBytes 4 v.toNat)).mem
          ∧ (openLayout x.1 x.2 = false → y = store s.committed d whoCmd (key x.1 x.2) (leBytes 4 v.toNat))
          ∧ (s.dev.ecc = [] →
              (∀ i, i < 4 → some (Memory.get y.mem (key x.1 x.2 + i)) = (leBytes 4 v.toNat)[i]?)
              ∧ ∀ k, (k < key x.1 x.2 ∨ key x.1 x.2 + 4 ≤ k) → Memory.get y.mem k = Memory.get s.dev.mem k))

/-- R34, R35, R37, R269, R476: a window read beyond its target, in the part of the KV store that reads as zero, or of DDR5 that is not
READY, replies zero; elsewhere it replies the word that stands there and, where no word of memory is in error, changes nothing. (What
a unit's working storage holds is a free value of the model, log entry 13; what DDR5 holds where neither training nor a write has put it is
one, log entry 12.) -/
def Obligations.WindowReadsReturnTheStoredWord : Prop :=
  ∀ (b : Bus) (n : Fin 4) (a : BitVec 18) (s : State), busTaken s.dev b rowRegRead → s.dev.pwr.state ≠ .sleep →
    let d := atRegs s.dev
    let x := winAt d (winAddr n a)
    let e := exec (.tableWindowRead b n a) s
    (x.1 = 0 ∨ winSize d x.1 ≤ x.2 ∨ kvHole x.1 x.2 = true → e = readBack s b false [0, 0, 0, 0] d)
      ∧ (x.1 ≠ 0 → x.1 ≠ 7 → x.2 < winSize d x.1 → kvHole x.1 x.2 = false → openWord d x.1 x.2 = false → s.dev.ecc = [] →
          e = readBack s b false (leBytes 4 (leNat (Memory.getN s.dev.mem (key x.1 x.2) 4))) d)
      ∧ (x.1 = 7 → x.2 < winSize d x.1 → d.ddr.state ≠ .ready → e = readBack s b false [0, 0, 0, 0] d)
      ∧ (x.1 = 7 → x.2 < winSize d x.1 → d.ddr.state = .ready → s.dev.ecc = [] →
          e = readBack s b false (leBytes 4 (leNat (ddrPeek d x.2 4))) (ddrWake d)
          ∧ (covered d.ddr.known x.2 4 = true → ddrPeek d x.2 4 = Memory.getN s.dev.mem (key 7 x.2) 4))

/-- R25, R32: a write of GLOBAL_TIME_CTRL waits in the shadow and moves no clock. At the boundary, with LOAD committed 1, LOAD
returns to 0 and the counter takes the loaded value at once where a TCLK edge falls there, otherwise one CCLK later; with
LOAD 0 nothing happens. -/
def Obligations.TimeLoadsAtTheBoundary : Prop :=
  (∀ (b : Bus) (v : Word) (s : State) (q : RegAt), writeTaken s.committed s.dev b (addrOf .timeCtrl 0 0) v.toNat q →
    ∃ t, exec (.timeLoad b v) s = .next t ∧ t.committed = s.committed ∧ t.dev.clk = s.dev.clk ∧ t.dev.regs = s.dev.regs
      ∧ t.dev.i3c.reply = { opcode := 0x0003, tag := b.tag, status := BitVec.ofNat 16 stDeferred, payload := [] }
      ∧ assoc t.dev.shadow (addrOf .timeCtrl 0 0) = some (BitVec.ofNat 32 (v.toNat % 2)))
  ∧ (∀ d : Dev, cf d .timeCtrl 0 0 0 0 = 0 → commitTime d = d)
  ∧ (∀ d : Dev, cf d .timeCtrl 0 0 0 0 = 1 →
      let e := commitTime d
      let v := BitVec.ofNat 64 (com d .timeLoadLo 0 0 + 2 ^ 32 * com d .timeLoadHi 0 0)
      cf e .timeCtrl 0 0 0 0 = 0 ∧ (d.clk.phase = 0 → e.clk.time = v) ∧ (d.clk.phase ≠ 0 → e.clk.time = d.clk.time ∧ (elapse e 1).clk.time = v))

/-- R456, R467, R499: an accepted start of a unit reset or of a Bobbin's self-test replies OK, sets BUSY and changes nothing
else; one whose conditions fail is refused with STATE_CONFLICT, and a UNIT that R456 does not name with BAD_VALUE. -/
def Obligations.UnitResetsAndSelfTestsStart : Prop :=
  ∀ (b : Bus) (s : State), busTaken s.dev b rowRegWrite →
    let c := s.committed
    let d := atRegs s.dev
    (∀ u : BitVec 5,
        (resettable u.toNat = false → exec (.unitReset b u) s = wrote s b stValue (heard s.dev))
        ∧ (resettable u.toNat = true → unitResetOk c d u.toNat = false → exec (.unitReset b u) s = wrote s b stConflict d)
        ∧ (resettable u.toNat = true → unitResetOk c d u.toNat = true →
            exec (.unitReset b u) s = wrote s b stOk { d with pwr := { d.pwr with urBusy := true, urUnit := u } }))
      ∧ (∀ n : Fin 8,
        (bistOk c d n = false → exec (.bistStart b n) s = wrote s b stConflict d)
        ∧ (bistOk c d n = true → exec (.bistStart b n) s = wrote s b stOk (setBob d n (fun x => { x with bistBusy := true }))))

/-- R9, R450, R456, R499: a unit reset in progress ends: BUSY clears, every register of the unit's block and every record that the unit
keeps holds its reset values, no unit state or request changes, and a RESET entry is logged. A Bobbin's local store, weight banks and
accumulators, and a Tambour's coefficient banks and pattern RAM, then read as at reset, with valid check bits; every other byte keeps its
value (R467), and so do the jobs. A transmit port discards what the output buffer holds for it, OUT what it holds for both. What R456 does
not settle is the model's choice: BOB0 takes the shared registers of its block with it (DEDUCED, log entry 46), and a Bobbin keeps ACCEPTING
and what awaits the boundary, TRIP its reading (DEDUCED, log entry 90). A self-test in progress ends: BUSY clears, the result is recorded
and logged, every store of the Bobbin reads zero, and no other Bobbin's record changes. A Bobbin that fails accepts no word from then on,
and one that passes while FAILED commits at the next boundary (R204). -/
def Obligations.UnitResetsAndSelfTestsEnd : Prop :=
  (∀ s : State, alive s.dev = true → s.dev.pwr.urBusy = true →
    let d := s.dev
    let u := d.pwr.urUnit.toNat
    ∃ t, exec .unitResetDone s = .next t ∧ t.committed = s.committed ∧ t.dev.req = d.req ∧ t.dev.pwr = { d.pwr with urBusy := false }
      ∧ t.dev.jobs = d.jobs ∧ t.dev.parts = d.parts ∧ t.dev.i3c = d.i3c ∧ t.dev.ddr = d.ddr
      ∧ (∀ a, assoc t.dev.regs a = (if unitBlock u a then none else assoc d.regs a)
          ∧ assoc t.dev.shadow a = (if unitBlock u a then none else assoc d.shadow a))
      ∧ (∀ k, Memory.get t.dev.mem k = if unitStore u k then Memory.unlisted k else Memory.get d.mem k)
      ∧ t.dev.ecc = d.ecc.filter (fun e => !unitStore u (e.1 * 8))
      ∧ Logged d t.dev (fun e => e.code = 0x0101 ∧ e.unit = u ∧ e.detail = [4, u])
      ∧ (∀ n, bobOf t.dev n = if u = 0x08 + n ∧ n < 8
          then { accepting := (bobOf d n).accepting, passDue := (bobOf d n).passDue, failDue := (bobOf d n).failDue } else bobOf d n)
      ∧ (u = 0x08 → let h := t.dev.health
          h.sensors = Vector.replicate 12 {} ∧ h.secc = Vector.replicate 6 (0, 0) ∧ h.demand = false ∧ h.rateMin = 256 ∧ h.iEst = 0
          ∧ h.trip = d.health.trip ∧ (h.trip = false → h.tripSens = 0 ∧ h.tripTemp = 0))
      ∧ (∀ n, tambOf t.dev n = if u = 0x10 + n ∧ n < 4 then { encA := (tambOf d n).encA, encB := (tambOf d n).encB } else tambOf d n)
      ∧ (∀ n, rxOf t.dev n = if u = 0x14 + n ∧ n < 4 then { vcs := (rxOf d n).vcs.map (fun v => { job := v.job }) } else rxOf d n)
      ∧ (∀ n, n < 2 → (u = 0x18 + n → txOf t.dev n = { last := (txOf d n).last, wire := (txOf d n).wire, vcs := (txOf d n).vcs.map emptied })
          ∧ (u = 0x1C → txOf t.dev n = { txOf d n with used := 0, leaving := [], rest := none, vcs := (txOf d n).vcs.map emptied })
          ∧ (u ≠ 0x18 + n → u ≠ 0x1C → txOf t.dev n = txOf d n)
          ∧ (u = 0x18 + n ∨ u = 0x1C → ∀ y ∈ t.dev.out.jobs, y.port = n → y.evs = [] ∧ y.recs = []))
      ∧ (u = 0x1C → t.dev.out.bad = 0 ∧ t.dev.out.snap = [])
      ∧ t.dev.txt = (if u = 0x1A then { worked := d.txt.worked, wrote := d.txt.wrote } else d.txt)
      ∧ t.dev.kvm = (if u = 0x1B then {} else d.kvm) ∧ t.dev.adapt = (if u = 0x1D then {} else d.adapt))
  ∧ (∀ (n : Fin 8) (pass : Bool) (area : BitVec 4) (loc : Word) (s : State), alive s.dev = true → (bobOf s.dev n).bistBusy = true →
    ∃ t, exec (.bistDone n pass area loc) s = .next t ∧ t.committed = s.committed
      ∧ (bobOf t.dev n).bistBusy = false ∧ (bobOf t.dev n).result = (if pass then 1 else 2)
      ∧ (bobOf t.dev n).area = (if pass then 0 else area) ∧ (bobOf t.dev n).loc = (if pass then 0 else loc)
      ∧ (pass = true → ust s.committed (8 + n) = .failed → (bobOf t.dev n).passDue = true)
      ∧ (pass = false → (bobOf t.dev n).accepting = false ∧ (ust s.committed (8 + n) = .disabled → (bobOf t.dev n).failDue ≠ none))
      ∧ (∀ m, m ≠ n.val → bobOf t.dev m = bobOf s.dev m)
      ∧ Logged s.dev t.dev (fun e => e.code = 0x010D ∧ e.unit = 8 + n ∧ e.detail.take 2 = [n.val, if pass then 1 else 2])
      ∧ (∀ k, Memory.get t.dev.mem k =
          if k / 2 ^ 44 = 8 + n ∨ k / 2 ^ 44 = 16 + n ∨ k / 2 ^ 44 = 24 + n then Memory.unlisted k else Memory.get s.dev.mem k))

/-- R505, R506, R507: a sample, 10 µs after the one before it, is each sensor's NOW, and is hot at 115.0 °C (1840 sixteenths) and above;
the latch trips in the cycle of the second consecutive hot sample of one sensor, holds that sensor and its reading (of several, the
lowest-numbered: DESIGN CHOICE, log entry 103) and THERMAL_TRIP is logged; a latch that is set stands. A write of 1 to TRIP clears it only
when every sensor reads 100.0 °C or less; then THERMAL_CLEARED is logged and DDR5, put into self-refresh by the trip, is READY again. No
unit state changes at either. A sample that falls beyond the running Stitch is not taken yet (DESIGN CHOICE, log entry 91). -/
def Obligations.TripLatchesAndClears : Prop :=
  (∀ (now : List (BitVec 16)) (s : State), alive s.dev = true →
    let reach := passCycles s.committed s.dev (s.dev.health.sampleDue - s.dev.clk.mono)
    let hot := fun (i : Nat) => (now.getD i 0).slt 1840 = false
    (reach = none → exec (.sensorSample now) s = .next s)
    ∧ ∀ e, reach = some e → ∃ t, exec (.sensorSample now) s = .next t ∧ t.committed = s.committed ∧ t.pending = s.pending
      ∧ t.dev = { e with health := t.dev.health, out := t.dev.out } ∧ t.dev.health.sampleDue = e.clk.mono + 11000
      ∧ (∀ i : Fin 12, (t.dev.health.sensors[i]).now = now.getD i 0 ∧ ((t.dev.health.sensors[i]).hot = true ↔ hot i)
          ∧ (t.dev.health.sensors[i]).max_ = (e.health.sensors[i]).max_)
      ∧ (let twice := fun (i : Fin 12) => (e.health.sensors[i]).hot = true ∧ hot i
        ((∀ i, ¬ twice i) ∨ e.health.trip = true → t.dev.health.trip = e.health.trip ∧ t.dev.health.tripSens = e.health.tripSens
            ∧ t.dev.health.tripTemp = e.health.tripTemp ∧ t.dev.health.log = e.health.log ∧ t.dev.out = e.out)
        ∧ ∀ i, twice i → (∀ j, j < i → ¬ twice j) → e.health.trip = false →
            t.dev.health.trip = true ∧ t.dev.health.tripDue = true ∧ t.dev.health.tripSens = BitVec.ofNat 4 i ∧ t.dev.health.tripTemp = now.getD i 0
              ∧ Logged e t.dev (fun x => x.code = 0x0012 ∧ x.detail = [i.val, ((now.getD i 0).signExtend 32).toNat])))
  ∧ (∀ (b : Bus) (s : State), busTaken s.dev b rowRegWrite →
      let d := atRegs s.dev
      let cool := ∀ q ∈ d.health.sensors.toList, (1600 : BitVec 16).slt q.now = false
      ∃ t, exec (.thermalTripClear b) s = .next t ∧ t.committed = s.committed ∧ t.dev.i3c.reply.status = BitVec.ofNat 16 stOk
        ∧ (t.dev.health.trip = true ↔ d.health.trip = true ∧ ¬ cool)
        ∧ (d.health.trip = false ∨ ¬ cool → t = { s with dev := giveReply d 0x0003 b.tag stOk [] })
        ∧ (d.health.trip = true → cool → Logged d t.dev (fun x => x.code = 0x010F)
            ∧ (d.ddr.tripSr = true → d.ddr.state = .selfRefresh → t.dev.ddr.state = .ready)))

/-! ### Host commands -/

/-- R49, R64, R507: PARTITION_START requests RUN only from IDLE or HALTED, with an image, no trip, no power request in the way
and every binding check passed; a failed check is reported in DETAIL. PARTITION_HALT requests HALTED from RUN or FAULTED.
Each replies DEFERRED_TO_STITCH and changes no committed state. -/
def Obligations.PartitionsStartAndHaltByRequest : Prop :=
  ∀ (s : State) (w : HostWrite),
    let c := s.committed
    let d := heard s.dev
    let p := fld w.pkt.payload 0 1
    (taken s.dev rowStart partBody w →
      let ok := (ust c p = .idle ∨ ust c p = .halted) ∧ d.health.trip = false ∧ runBlocked d = false ∧ hasImage d p = true
      let code := bindCheck d (viewNext c d p) (imgOf d p) p
      (¬ ok → exec (.partitionStart w) s = answered s w 0x0013 stConflict [] d)
        ∧ (ok → code ≠ 0 → exec (.partitionStart w) s =
            answered s w 0x0013 stRejected [] (setPart d p (fun x => { x with detail := BitVec.ofNat 8 code })))
        ∧ (ok → code = 0 → exec (.partitionStart w) s = answered s w 0x0013 stDeferred [] (setReq d p (some .run))))
    ∧ (taken s.dev rowHalt partBody w →
      (ust c p = .run ∨ ust c p = .faulted → exec (.partitionHalt w) s = answered s w 0x0014 stDeferred [] (setReq d p (some .halted)))
        ∧ (¬ (ust c p = .run ∨ ust c p = .faulted) → exec (.partitionHalt w) s = answered s w 0x0014 stConflict [] d))

/-- R46, R47, R49: PARTITION_SET writes SEQ_PARTn_CFG. A field out of its range, an extent beyond Bobbin 7 or a reserved byte is
refused with BAD_VALUE (R423), a lock or a state with STATE_CONFLICT; neither changes anything. Accepted, it
replies DEFERRED_TO_STITCH, its extent waits in the shadow, and a COUNT of at least 1 requests IDLE from DISABLED, a COUNT of
0 DISABLED from IDLE or HALTED. -/
def Obligations.PartitionSetWaitsForTheBoundary : Prop :=
  ∀ (s : State) (w : HostWrite),
    let c := s.committed
    let d := atRegs s.dev
    let p := fld w.pkt.payload 0 1
    let first := fld w.pkt.payload 1 1
    let n := fld w.pkt.payload 2 1
    let v := first + 16 * n
    let r : RegAt := ⟨rowOf .partCfg, p, 0⟩
    (reaches s.dev w.da w.hdr = true → pktLenOk w.pkt = true → pktCrcOk 0x0012 w.pkt = true → w.pkt.payload.length = 4 → w.pkt.rsvd = 0 →
      8 ≤ p ∨ 8 ≤ first ∨ 8 < first + n ∨ fld w.pkt.payload 3 1 ≠ 0 →
        exec (.partitionSet w) s = answered s w 0x0012 stValue [] (heard s.dev))
      ∧ (taken s.dev rowPartSet setBody w → conflictWrite c d r (addrOf .partCfg p 0) v = true →
          exec (.partitionSet w) s = answered s w 0x0012 stConflict [] d)
      ∧ (taken s.dev rowPartSet setBody w → conflictWrite c d r (addrOf .partCfg p 0) v = false →
          ∃ e, exec (.partitionSet w) s = answered s w 0x0012 stDeferred [] e ∧ e.regs = s.dev.regs
            ∧ assoc e.shadow (addrOf .partCfg p 0) = some (BitVec.ofNat 32 v)
            ∧ (ust c p = .disabled → reqOf e p = if n = 0 then none else some .idle)
            ∧ (ust c p = .idle ∨ ust c p = .halted → n = 0 → reqOf e p = some .disabled)
            ∧ ∀ q, q ≠ p → reqOf e q = reqOf s.dev q)

/-- R432, R433: a JOB_SUBMIT or JOB_CANCEL that its conditions allow waits for the boundary and replies DEFERRED_TO_STITCH;
otherwise JOB_SUBMIT replies STATE_CONFLICT and JOB_CANCEL BAD_VALUE, and nothing changes. -/
def Obligations.JobCommandsWaitForTheBoundary : Prop :=
  ∀ (s : State) (w : HostWrite),
    let c := s.committed
    let d := heard s.dev
    let b := w.pkt.payload
    let x := fld b 0 1
    let v := fld b 1 1
    let start := fld b 2 1 == 0
    let seq := BitVec.ofNat 32 (fld b 4 4)
    (∀ i, i = Instr.jobSubmitBegin w ∨ i = Instr.jobSubmitEnd w → taken s.dev rowSubmit submitBody w →
      (SubmitOk c d x v start seq → exec i s =
          answered s w 0x0020 stDeferred [] { d with submits := d.submits ++ [{ port := x, vc := v, begin_ := start, body := b.drop 4 }] })
        ∧ (¬ SubmitOk c d x v start seq → exec i s = answered s w 0x0020 stConflict [] d))
    ∧ (taken s.dev rowCancel partBody w →
      (heldJob d x seq ≠ none → exec (.jobCancel w) s = answered s w 0x0021 stDeferred [] { d with cancels := d.cancels ++ [(x, seq)] })
        ∧ (heldJob d x seq = none → exec (.jobCancel w) s = answered s w 0x0021 stValue [] d))

/-- R435: a later fragment that agrees with the transfer in progress and stays within TOTAL is gathered; where it is not LAST it replies OK,
and a LAST one that completes TOTAL ends the load with the bytes gathered, by R58, R64, R66, R313 or R437. One beyond TOTAL, or LAST short
of it, is refused with BAD_LENGTH; one that disagrees is refused with BAD_VALUE: both abandon the transfer (R436). One that comes without a
transfer is BAD_VALUE, and behind one that was lost with the memory controller STATE_CONFLICT once (DEDUCED, log entry 62). -/
def Obligations.FragmentsFollowTheTransfer : Prop :=
  ∀ (i : Instr) (r : CmdRow) (ok : Dev → List Byte → Bool) (w : HostWrite) (s : State), loadRow i = some (r, ok, w) → taken s.dev r ok w →
    let c := s.committed
    let d := heard s.dev
    let b := w.pkt.payload
    let more := b.drop 16
    let agrees := fun (x : Xfer) => x.opcode = r.op ∧ x.target.toNat = fld b 0 1 ∧ x.total = ldTotal b ∧ x.got = fld b 8 4
    ldFirst b = false →
      (d.xferLost = true → exec i s = answered s w r.op stConflict (detailOf (ldLast b) 0) { d with xferLost := false })
      ∧ (d.xferLost = false →
      (∀ x, d.xfer = some x → agrees x →
        let e := gather c d x.rom x.got more
        let g := gathered c e x
        (ldLast b = false → x.got + more.length ≤ x.total →
          exec i s = answered s w r.op stOk [] { e with xfer := some { x with got := x.got + more.length, at_ := e.clk.mono } })
        ∧ (ldLast b = true → x.got + more.length = x.total → LoadEnds i s w { g.1 with xfer := none } g.2)
        ∧ (x.total < x.got + more.length ∨ (ldLast b = true ∧ x.got + more.length ≠ x.total) →
          exec i s = answered s w r.op stLength (detailOf (ldLast b) 0) (dropXfer d)))
      ∧ (∀ x, d.xfer = some x → ¬ agrees x →
        exec i s = answered s w r.op stValue (detailOf (ldLast b) 0) (dropXfer d))
      ∧ (d.xfer = none → exec i s = answered s w r.op stValue (detailOf (ldLast b) 0) d))

/-- R58, R313, R434, R435, R437: a FIRST fragment of inline data starts a transfer where the opcode's own condition holds and DDR5 is READY
with a STAGE region (R459: from the mask ROM, FW_UPDATE needs no DDR5); a transfer in progress is then abandoned. One that is LAST too ends the load. Where the condition
fails it is refused with STATE_CONFLICT, and with more data than TOTAL with BAD_LENGTH: it starts none and, by R423, leaves the transfer in
progress, but for a PRICKING_LOAD refused under R58, which abandons it (R436). Which of these comes first, and that a FIRST and LAST fragment
short of TOTAL has abandoned it, is the model's reading (DEDUCED, log entry 62). -/
def Obligations.FirstFragmentsStartATransfer : Prop :=
  ∀ (s : State) (w : HostWrite),
    let c := s.committed
    let h := heard s.dev
    let d := { dropXfer h with xferLost := false }
    let b := w.pkt.payload
    let more := b.drop 16
    let fresh := fun (op : BitVec 16) (rom : Bool) => ({ opcode := op, target := BitVec.ofNat 8 (fld b 0 1), total := ldTotal b, got := 0, rom } : Xfer)
    -- the three outcomes of a fragment that starts a transfer on device e
    let starts := fun (i : Instr) (op : BitVec 16) (rom : Bool) (e : Dev) =>
      let x := fresh op rom
      let g := gather c { e with xfer := some x } rom 0 more
      (ldLast b = false → more.length ≤ ldTotal b →
        exec i s = answered s w op stOk [] { g with xfer := some { x with got := more.length, at_ := g.clk.mono } })
      ∧ (ldLast b = true → more.length = ldTotal b → let y := gathered c g x; LoadEnds i s w { y.1 with xfer := none } y.2)
      ∧ (ldLast b = true → more.length ≠ ldTotal b →
        exec i s = answered s w op stLength (leBytes 4 0) (dropXfer { e with xfer := some x }))
      ∧ (ldLast b = false → ldTotal b < more.length → exec i s = answered s w op stLength (leBytes 4 0) h)
    let refused := fun (i : Instr) (op : BitVec 16) (e : Dev) => exec i s = answered s w op stConflict (leBytes 4 0) e
    ldFirst b = true → ldStaged b = false →
      (taken s.dev rowPrickingLoad (loadBody 7 16 4194304) w →
        (stageReady h = true → loadRefused c (fld b 0 1) = false → starts (.prickingLoad w) 0x0010 false d)
        ∧ (loadRefused c (fld b 0 1) = true → refused (.prickingLoad w) 0x0010 (dropXfer h))
        ∧ (stageReady h = false → loadRefused c (fld b 0 1) = false → refused (.prickingLoad w) 0x0010 h))
      ∧ (taken s.dev rowTableLoad (loadBody 0 256 7340032) w →
        (stageReady h = true → tableRefused h = false → starts (.tableLoad w) 0x0030 false d)
        ∧ (stageReady h = false ∨ tableRefused h = true → refused (.tableLoad w) 0x0030 h))
      ∧ (taken s.dev rowFwUpdate (loadBody 0 4 2097152) w →
        let ready := stageReady h = true ∨ h.pwr.recovery = true
        (ready → h.fw.state ≠ .programming → starts (.fwUpdate w) 0x0070 h.pwr.recovery (fwStart d))
        ∧ (¬ ready ∨ h.fw.state = .programming → refused (.fwUpdate w) 0x0070 h))

/-- R434, R435, R58, R64, R66, R313, R437: a STAGED load takes TOTAL bytes of the STAGE region of DDR5 as they stand (what nothing has put
there is a free value, log entry 12) and ends as its opcode's load does: a Pricking image is checked and placed first fit, a table set
checked and made VALID in the standby buffer, a firmware image checked and programmed. It is refused with STATE_CONFLICT where the opcode's
condition fails or DDR5 is not READY with a STAGE region, or from the mask ROM, and with BAD_VALUE where the bytes lie outside STAGE; by
R423 this changes nothing, but that a PRICKING_LOAD refused under R58 abandons the transfer in progress (R436). -/
def Obligations.StagedImagesAreCheckedAndPlaced : Prop :=
  ∀ (i : Instr) (r : CmdRow) (ok : Dev → List Byte → Bool) (w : HostWrite) (s : State), loadRow i = some (r, ok, w) → taken s.dev r ok w →
    let c := s.committed
    let h := heard s.dev
    let d := { dropXfer h with xferLost := false }
    let b := w.pkt.payload
    let a := fld b 8 8
    let n := ldTotal b
    let held := (i = .prickingLoad w ∧ loadRefused c (fld b 0 1) = true) ∨ (i = .tableLoad w ∧ tableRefused h = true)
      ∨ (i = .fwUpdate w ∧ h.fw.state = .programming)
    let ready := stageReady h = true ∧ ¬ (i = .fwUpdate w ∧ h.pwr.recovery = true)
    let e := if r.op = 0x0070 then fwStart d else d
    ldStaged b = true →
      (held → exec i s = answered s w r.op stConflict (leBytes 4 0) (if r.op = 0x0010 then dropXfer h else h))
      ∧ (¬ held → ¬ ready → exec i s = answered s w r.op stConflict (leBytes 4 0) h)
      ∧ (¬ held → ready → inRegions h regsStage a n = false → exec i s = answered s w r.op stValue (leBytes 4 0) h)
      ∧ (¬ held → ready → inRegions h regsStage a n = true → s.dev.ecc = [] → LoadEnds i s w (ddrWake e) (ddrPeek s.dev a n))
      ∧ (s.dev.ecc = [] → covered s.dev.ddr.known a n = true → ddrPeek s.dev a n = Memory.getN s.dev.mem (key 7 a) n)

/-- R64, R103, R314, R435, R436: PRICKING_VERIFY of a loaded image, or of one in the STAGE region of DDR5, carries the code of the first
failed check and changes nothing (beside the access to DDR5); a staged one is refused as a STAGED load is. TABLE_SWAP and CALIBRATE are
refused with STATE_CONFLICT where their conditions fail, and otherwise wait for the boundary. That CALIBRATE judges the state before its
windows, and that a second one while one is due stands for the first, is the model's reading (DEDUCED, log entry 53). -/
def Obligations.VerifySwapAndCalibrate : Prop :=
  ∀ (s : State) (w : HostWrite),
    let c := s.committed
    let d := heard s.dev
    let b := w.pkt.payload
    let p := fld b 0 1
    (taken s.dev rowVerify verifyBody w → fld b 1 1 = 1 →
      (hasImage d p = false → exec (.prickingVerify w) s = answered s w 0x0011 stConflict (leBytes 4 0) d)
      ∧ (hasImage d p = true → s.dev.ecc = [] →
          let code := verifyImage c d p (imgSeen d p)
          exec (.prickingVerify w) s = answered s w 0x0011 (if code = 0 then stOk else stRejected) (leBytes 4 code) d))
    ∧ (taken s.dev rowVerify verifyBody w → fld b 1 1 = 0 →
      (∀ st, stagedStatus d (fld b 8 8) (ldTotal b) = some st → exec (.prickingVerify w) s = answered s w 0x0011 st (leBytes 4 0) d)
      ∧ (stagedStatus d (fld b 8 8) (ldTotal b) = none → s.dev.ecc = [] →
          let code := verifyImage c (ddrWake d) p (ddrPeek d (fld b 8 8) (ldTotal b))
          exec (.prickingVerify w) s = answered s w 0x0011 (if code = 0 then stOk else stRejected) (leBytes 4 code) (ddrWake d)))
    ∧ (taken s.dev rowTableSwap (fun _ _ => true) w →
      (swapOk c d true = true → exec (.tableSwap w) s = answered s w 0x0031 stDeferred [] { d with txt := { d.txt with swap := true } })
      ∧ (swapOk c d true = false → exec (.tableSwap w) s = answered s w 0x0031 stConflict [] d))
    ∧ (taken s.dev rowCalibrate (fun _ b => fld b 0 1 < 4 && zeroAt b 1 3) w →
      let m := tambOf d p
      let win := calWin d p
      let free := running c (0x10 + p) = true ∧ m.cal.state ≠ .running ∧ m.active ≠ 2 ∧ cf d .tLineCfg p 0 27 24 ≠ 6
        ∧ ¬ (cf d .tCalCfg p 0 25 25 = 1 ∧ m.active = 0) ∧ sf d .tCtrl p 0 7 7 ≠ 1
      let meet := win.1 < win.2.2.1 + win.2.2.2 ∧ win.2.2.1 < win.1 + win.2.1
      (¬ free → exec (.calibrate w) s = answered s w 0x0040 stConflict [] d)
      ∧ (free → meet → exec (.calibrate w) s = answered s w 0x0040 stValue [] d)
      ∧ (free → ¬ meet → exec (.calibrate w) s =
          answered s w 0x0040 stDeferred [] (setTamb d p (fun m => { m with cal := { m.cal with due := true } }))))

/-- R391, R412: each action of ADAPT_RUN waits for the boundary where its row's conditions hold, a START and a RESUME clearing
RESTORE_FAIL; otherwise it replies as the row says and changes nothing. That a CHECKPOINT is judged for state, then range, then claims is the
model's reading (DEDUCED, log entry 54). -/
def Obligations.AdaptActionsWaitForTheBoundary : Prop :=
  ∀ (i : Instr) (s : State) (w : HostWrite),
    i = .adaptRunStart w ∨ i = .adaptRunStop w ∨ i = .adaptRunCheckpoint w ∨ i = .adaptRunResume w → taken s.dev rowAdapt adaptBody w →
    let c := s.committed
    let d := atRegs s.dev
    let x := fld w.pkt.payload 0 1
    let a := d.adapt
    let p := adaptPart d
    let accept := exec i s = answered s w 0x0050 stDeferred [] { d with adapt := { a with
      pend := a.pend ++ [x], fail := a.fail && x != 1 && x != 4 } }
    let refuse := fun st => exec i s = answered s w 0x0050 st [] d
    let n := 256 + (stateArea d).2
    let start := running c 0x1D = true ∧ a.ready = true ∧ a.run ≠ .active ∧ a.copy = 0 ∧ hasImage d p = true ∧ coversStage d (imgOf d p) = true
    let check := a.copy = 0 ∧ (a.run = .active ∨ a.clean = true)
    let resume := a.run ≠ .active ∧ a.copy = 0 ∧ (ust c p = .idle ∨ ust c p = .halted) ∧ reqOf d p ≠ some .run
    (x = 1 → (start → accept) ∧ (¬ start → refuse stConflict))
      ∧ (x = 2 → (a.run = .active → accept) ∧ (a.run ≠ .active → refuse stConflict))
      ∧ (x = 3 → (¬ check → refuse stConflict) ∧ (check → inRegions d regsAdapt (ckptAt d) n = false → refuse stValue)
          ∧ (check → inRegions d regsAdapt (ckptAt d) n = true → meetsClaims c d (ckptAt d) n = true → refuse stConflict)
          ∧ (check → inRegions d regsAdapt (ckptAt d) n = true → meetsClaims c d (ckptAt d) n = false → accept))
      ∧ (x = 4 → (¬ resume → refuse stConflict) ∧ (resume → ckptOk d = false → refuse stValue) ∧ (resume → ckptOk d = true → accept))

/-- R452, R453: POWER_STATE. A request for the committed state with none pending replies OK; one that R452 allows replies
DEFERRED_TO_STITCH and waits, the unit table as it was; any other replies STATE_CONFLICT. From SLEEP a request for RUN or
IDLE wakes the device at once, with every unit DISABLED, and one for SLEEP replies OK. That a request for the committed state while another
pends is a conflict, and that an allowed one replaces what pends, is the model's reading (DEDUCED, log entry 52). -/
def Obligations.PowerStatesFollowTheirTable : Prop :=
  ∀ (s : State) (w : HostWrite), taken s.dev rowPower (fun _ b => fld b 0 1 < 3 && zeroAt b 1 3) w → s.dev.pwr.waking = false →
    let c := s.committed
    let d := heard s.dev
    let dest := pstateOf (fld w.pkt.payload 0 1)
    let keep := fun (t : State) => t.committed = c ∧ t.pending = s.pending
    (s.dev.pwr.state = .sleep → fld w.pkt.payload 0 1 ≠ 2 →
        exec (.powerState w) s = .next { s with committed := allDisabled, dev := wake (giveReply d 0x0060 w.pkt.tag stOk []) })
      ∧ (dest = s.dev.pwr.state → s.dev.pwr.pend = none → (s.dev.pwr.state = .sleep → fld w.pkt.payload 0 1 = 2) →
          exec (.powerState w) s = answered s w 0x0060 stOk [] d)
      ∧ (s.dev.pwr.state ≠ .sleep → ¬ (dest = s.dev.pwr.state ∧ s.dev.pwr.pend = none) → powerOk c d s.dev.pwr.state dest = true →
          exec (.powerState w) s = answered s w 0x0060 stDeferred [] { d with pwr := { d.pwr with pend := some dest } })
      ∧ (s.dev.pwr.state ≠ .sleep → ¬ (dest = s.dev.pwr.state ∧ s.dev.pwr.pend = none) → powerOk c d s.dev.pwr.state dest = false →
          exec (.powerState w) s = answered s w 0x0060 stConflict [] d)
      ∧ (powerOk c d .run .idle = quiet c d) ∧ powerOk c d .idle .run = true ∧ powerOk c d .idle .sleep = sleepOk d
      ∧ powerOk c d .run .sleep = false ∧ (∀ t, exec (.powerState w) s = .next t → s.dev.pwr.state ≠ .sleep → keep t)

/-- R435, R437, R439, R446, R460, R540: FW_SWITCH from READY, with no transfer in progress, names the standby bank in one selector copy
and leaves the other, its restart is logged as a RESET (R450), and its reply waits; from the mask ROM the device boots. Otherwise
STATE_CONFLICT. The new firmware's start swaps the banks and replies the release that stood for the bank; its timeout after 250 ms erases
that copy, logs the restart from the former bank, and STATE is FAILED. A transfer without a fragment for 1,000 ms is abandoned. Programming
ends READY or FAILED; the standby check makes a valid bank READY. -/
def Obligations.FirmwareSwitchesAndPrograms : Prop :=
  ∀ (s : State) (w : HostWrite) (bank : List Byte),
    let d := heard s.dev
    let f := s.dev.fw
    let k := (switchCopy f).1
    let reach := fun (cycle : Nat) => passCycles s.committed s.dev (cycle - s.dev.clk.mono)
    (taken s.dev rowFwSwitch (fun _ _ => true) w →
      (f.state = .ready → s.dev.xfer = none → ∃ t, exec (.fwSwitch w) s = .next t ∧ t.committed = s.committed
          ∧ t.dev.i3c.busy = some (0x0071, w.pkt.tag) ∧ t.dev.fw.wrote = some k
          ∧ (if k then t.dev.fw.sel1 else t.dev.fw.sel0) = { valid := true, seq := (switchCopy f).2, bank := !f.active }
          ∧ (if k then t.dev.fw.sel0 = f.sel0 else t.dev.fw.sel1 = f.sel1) ∧ t.dev.fw.active = f.active
          ∧ t.dev.req = s.dev.req ∧ t.dev.regs = s.dev.regs ∧ t.dev.shadow = s.dev.shadow ∧ t.dev.mem = s.dev.mem
          ∧ Logged s.dev t.dev (fun e => e.code = 0x0101 ∧ e.detail = [6, 0])
          ∧ (s.dev.pwr.recovery = false → t.dev.pwr = s.dev.pwr)
          ∧ (s.dev.pwr.recovery = true → t.dev.pwr.booting = true ∧ t.dev.pwr.booted = false))
      ∧ (¬ (f.state = .ready ∧ s.dev.xfer = none) → exec (.fwSwitch w) s = answered s w 0x0071 stConflict [] d))
    ∧ (s.dev.pwr.booted = true → f.wrote ≠ none → ∀ op tag, s.dev.i3c.busy = some (op, tag) →
        let rel := (if f.active then f.release0 else f.release1).toNat
        ∃ t, exec (.newFirmwareStarted ()) s = .next t ∧ t.dev = { s.dev with fw := t.dev.fw, i3c := t.dev.i3c }
          ∧ t.dev.fw = { f with active := !f.active, state := .idle, cause := 0, wrote := none }
          ∧ fwRelease t.dev = rel ∧ t.dev.i3c.busy = none ∧ t.dev.i3c.hello = false ∧ t.dev.i3c.minor = 0
          ∧ t.dev.i3c.reply = ⟨op, tag, BitVec.ofNat 16 stOk, leBytes 2 rel ++ leBytes 1 (b2n (!f.active)) ++ [0]⟩)
    ∧ (s.dev.pwr.booted = false ∨ f.wrote = none → exec (.newFirmwareStarted ()) s = .next s)
    ∧ (s.dev.pwr.powered = true → ∀ j, f.wrote = some j →
        (reach (f.wroteAt + 250 * cyclesPerMs) = none → exec .fwStartTimeout s = .next s)
        ∧ ∀ e, reach (f.wroteAt + 250 * cyclesPerMs) = some e → e.fw.wrote = some j → ∀ op tag, e.i3c.busy = some (op, tag) →
          ∃ t, exec .fwStartTimeout s = .next t ∧ t.dev.fw.active = e.fw.active ∧ t.dev.fw.state = .failed ∧ t.dev.fw.cause = 4
            ∧ t.dev.fw.wrote = none ∧ (if j then t.dev.fw.sel1 else t.dev.fw.sel0) = {}
            ∧ (if j then t.dev.fw.sel0 = e.fw.sel0 else t.dev.fw.sel1 = e.fw.sel1)
            ∧ (e.pwr.booting = false → t.dev.pwr = e.pwr)
            ∧ (e.pwr.booting = true → t.dev.pwr.booting = false ∧ t.dev.pwr.booted = true ∧ t.dev.pwr.recovery = true)
            ∧ Logged e t.dev (fun x => x.code = 0x0101 ∧ x.detail = [6, 0])
            ∧ t.dev.i3c.busy = none ∧ t.dev.i3c.reply = ⟨op, tag, BitVec.ofNat 16 stFirmware, []⟩)
    ∧ (f.wrote = none → exec .fwStartTimeout s = .next s)
    ∧ (s.dev.pwr.powered = true → s.dev.pwr.booted = true → f.state = .programming →
        exec (.fwProgramDone true) s = .next { s with dev := { s.dev with fw := { setStandby f f.progRel with state := .ready, cause := 0 } } }
        ∧ exec (.fwProgramDone false) s = .next { s with dev := { s.dev with fw := { f with state := .failed, cause := 3 } } })
    ∧ (alive s.dev = true → s.dev.pwr.check = true →
        ∃ t, exec (.standbyCheckDone bank) s = .next t ∧ t.dev.pwr.check = false
          ∧ (bankValid bank = false → t.dev.fw = f ∧ t.dev.pwr.bankValid = s.dev.pwr.bankValid)
          ∧ (bankValid bank = true → t.dev.fw.state = .ready ∧ (if f.active then t.dev.fw.release0 else t.dev.fw.release1) = bankRelease bank
              ∧ t.dev.pwr.bankValid.getLsbD (if f.active then 0 else 1) = true))
    ∧ (s.dev.xfer = none → exec .loadTransferTimeout s = .next s)
    ∧ (∀ x, alive s.dev = true → s.dev.xfer = some x →
        (reach (x.at_ + 1000 * cyclesPerMs) = none → exec .loadTransferTimeout s = .next s)
        ∧ ∀ e, reach (x.at_ + 1000 * cyclesPerMs) = some e → exec .loadTransferTimeout s = .next { s with dev := dropXfer e } ∧ (dropXfer e).xfer = none)

/-- R440, R441, R495: STATUS_GET replies 68 bytes that begin with the time and changes nothing; ERROR_LOG_READ with ACK 0 replies
the entries from FROM, at most MAX and 63, and changes nothing; with ACK 1 every entry below FROM leaves the log first. -/
def Obligations.StatusAndLogReads : Prop :=
  ∀ (s : State) (w : HostWrite),
    let c := s.committed
    let d := heard s.dev
    let b := w.pkt.payload
    (taken s.dev rowStatus (fun _ _ => true) w →
      (s.dev.pwr.state ≠ .sleep → exec (.statusGet w) s = answered s w 0x00F0 stOk (statusPayload c d) d
        ∧ (statusPayload c d).take 8 = leBytes 8 s.dev.clk.time.toNat ∧ (statusPayload c d).length = 68)
      ∧ (s.dev.pwr.state = .sleep → exec (.statusGet w) s =
          answered s w 0x00F0 stOk (leBytes 8 s.dev.clk.time.toNat ++ s.dev.pwr.frozen.drop 8) d))
    ∧ (taken s.dev rowLog logBody w →
      let upto := fld b 0 4
      (fld b 5 1 = 0 →
        let es := logSlice d upto (fld b 4 1)
        exec (.errorLogRead w) s = answered s w 0x00F1 stOk (leBytes 4 es.length ++ leBytes 4 (match es.getLast? with | some e => e.seq + 1 | none => d.health.seq)
          ++ es.flatMap LogEntry.bytes) d ∧ es.length ≤ 63)
      ∧ (fld b 5 1 = 1 → s.dev.health.lost = 0 →
          ∃ t, exec (.errorLogRead w) s = .next t ∧ t.dev.health.log = s.dev.health.log.filter (fun e => decide (upto ≤ e.seq))
            ∧ t.committed = c ∧ t.dev.regs = s.dev.regs ∧ t.dev.mem = s.dev.mem))

/-! ### Numbers -/

/-- R151, R153, R154, R158 to R161: a conversion to a format other than PF4 forms input / scale exactly and writes the code that
R158 rounds it to; it counts an underflow where a non-zero input gives zero. Exactly a value that, rounded on the grid without bounds
(R159), lies beyond the largest finite code of its sign writes that code, or with NONSAT the infinity, and counts one saturation; for
UINT8 so does a negative one that does not round to 0. An infinite input saturates; a NaN gives the canonical NaN of its sign, or 0 in an integer format, and is
counted. RNE_FP32 of an operation rounds so too, to an infinity where it leaves the range (R170). A PF4 block takes the smallest
exponent from -127 to 127 with m at most 6 × 2^e, and each element is rounded on the grid of R155 (R165). -/
def Obligations.ConversionsRoundToTheNearestCode : Prop :=
  (∀ (fmt sn : Nat) (se : Int) (rtz nonsat : Bool), fmt < 7 → 0 < sn → (nonsat = true → fmt = 1 ∨ fmt = 3) →
    let pick := fun (s : Bool) (pos neg : List Nat) => (if s then neg else pos).getD fmt 0
    let largest := [0x7F7FFFFF, 0x7F7F, 0x7E, 0x7B, 127, 7, 255]
    let bound := fun (s : Bool) => if nonsat then pick s [0, 0x7F80, 0, 0x7C] [0, 0xFF80, 0, 0xFC]
      else pick s largest [0xFF7FFFFF, 0xFF7F, 0xFE, 0xFB, 0x81, 0x9, 0]
    -- the largest value, and the next of the grid without bounds; halfway between them the even code is the upper one, but in E4M3
    let last := (codeVal fmt (largest.getD fmt 0) 0).rat
    let above := ([2 ^ 128, 2 ^ 128, 480, 65536, 128, 8, 256] : List ℚ).getD fmt 0
    (∀ (s : Bool) (m : Nat) (e : Int),
        let v := (Xv.fin s m e).rat / (sn * 2 ^ se)
        let r := convert1 fmt rtz nonsat sn se (.fin s m e)
        r.nan = false
        ∧ (r.sat = false → RoundsTo rtz v (fun k => codeVal fmt k 0) r.code
            ∧ (r.uflow = true ↔ v ≠ 0 ∧ (codeVal fmt r.code 0).rat = 0))
        ∧ (r.sat = true → r.uflow = false ∧ r.code = bound s)
        ∧ (r.sat = true ↔ if fmt = 6 ∧ v < 0 then (if rtz then 1 ≤ |v| else 1 / 2 < |v|)
            else if rtz then above ≤ |v| else if fmt = 2 then (last + above) / 2 < |v| else (last + above) / 2 ≤ |v|))
    ∧ (∀ s, convert1 fmt rtz nonsat sn se (.inf s) = { code := bound s, sat := true })
    ∧ (∀ s, convert1 fmt rtz nonsat sn se (.nan s)
        = { code := pick s [0x7FC00000, 0x7FC0, 0x7F, 0x7F] [0xFFC00000, 0xFFC0, 0xFF, 0xFF], nan := true }))
  ∧ (∀ x, rne32 x = BitVec.ofNat 32 (convert1 0 false true 1 0 x).code)
  ∧ (∀ (rtz : Bool) (ex : Int), -127 ≤ ex → ex ≤ 127 →
      (∀ (s : Bool) (m : Nat) (e : Int),
        let v := (Xv.fin s m e).rat
        let r := pf4Elem rtz ex (.fin s m e)
        r.nan = false
        ∧ (r.sat = false → RoundsTo rtz v (fun k => codeVal 7 k (ex + 128).toNat) r.code
            ∧ (r.uflow = true ↔ v ≠ 0 ∧ (codeVal 7 r.code (ex + 128).toNat).rat = 0))
        ∧ (r.sat = true → r.uflow = false ∧ r.code = (if s then 15 else 7))
        ∧ (r.sat = true ↔ if rtz then 8 * 2 ^ ex ≤ |v| else 7 * 2 ^ ex ≤ |v|))
      ∧ (∀ s, pf4Elem rtz ex (.inf s) = { code := if s then 15 else 7, sat := true })
      ∧ (∀ s, pf4Elem rtz ex (.nan s) = { code := 0, nan := true }))
  ∧ (∀ (m : Nat) (e : Int), 0 < m →
      let v := (Xv.fin false m e).rat
      let ex := pf4Exp (.fin false m e)
      ex ≤ 127 ∧ -127 ≤ ex ∧ (ex < 127 → v ≤ 6 * 2 ^ ex) ∧ (-127 < ex → 6 * 2 ^ (ex - 1) < v))
  ∧ (∀ (s t : Bool) (m n : Nat) (e f : Int),
      let x := Xv.fin s m e
      let y := Xv.fin t n f
      (x.add y).isFin = true ∧ (x.add y).rat = x.rat + y.rat ∧ (x.sub y).rat = x.rat - y.rat ∧ (x.mul y).isFin = true ∧ (x.mul y).rat = x.rat * y.rat)

/-- R197, R198, R200: an elementwise VECTOR word of one row and at most 256 elements, with byte-wide operands and target and no
scales, writes for each element the conversion of the operation on the values that stand at its operands when its group enters
the unit, and counts what the conversions count. R168, R169, R170, R182: the beat of a MATMUL of one row and depth 1 updates, in
every DPU, the accumulator entry of its row once, 14 cycles after it arrives, from what the updates under way make of the entry: an
FP32 accumulator becomes RNE_FP32 of the exact sum of it and the products, an INT32 one the exact sum held at the ends of its range; without ACC the sum starts from zero. Nothing else of the memory, and
no other Bobbin, changes; the word is complete. -/
def Obligations.VectorAndArrayWordsCompute : Prop :=
  ∀ (s : State) (f : Flight) (a t pr n : Nat) (rest : List Ev),
    let d := s.dev
    let w := f.word.toNat
    let left := fun (e : Dev) => ({ s with dev := e } : State)
    -- what falls due at a Tambour meanwhile is its own affair (R81)
    let tambsDue := fun (u : Dev) => (∀ i, i < 4 → (tambOf d i).edge = none ∧ (tambOf d i).trigAt = none) → u.tambs = d.tambs
    let others := d.flights.filter (fun g => g.id != f.id)
    let later := rest.filter (fun v => v.fl != f.id)
    clocked d = true → d.clk.offset ≤ a → t < periodOf d → flightOf d f.id = some f → (∀ v ∈ rest, t < v.at_) →
    f.bob = some n → n < 8 → (bobOf d n).accepting = true → d.ecc = [] →
    (wClass w = 2 → wOp w ≤ 9 → d.agenda = ⟨a, 0, f.id, .group 0⟩ :: ⟨t, pr, f.id, .finish⟩ :: rest → a + 1 < t → t = f.issue + 6 + vecLat (wOp w) →
      let v := vecD f.desc
      let k := v.ccw
      let plain := fun (fmt addr : Nat) => fmt < 7 ∧ fmt ≠ 5 ∧ addr + fmtBytes fmt * v.n ≤ 20971520
      let rd := fun (fmt addr i : Nat) => codeVal fmt (leNat (Memory.getN d.mem (key (8 + n) (addr + fmtBytes fmt * i)) (fmtBytes fmt))) 0
      v.rows = 1 → 1 ≤ v.n → v.n ≤ 256 → v.aScale = 0 → k.src = 0 → k.guarded = false → plain v.fmtA v.srcA →
      (wOp w ≤ 5 → v.srcB ≠ 0xFFFFFFFF → plain v.fmtB v.srcB) → (wOp w = 3 → plain v.fmtC v.srcC) → plain k.fmt v.dst →
        let res := fun (i : Nat) => convert1 k.fmt k.rtz k.nonsat 1 0
          (vecFn (wOp w) (rd v.fmtA v.srcA i) (if v.srcB = 0xFFFFFFFF then f32 v.imm else rd v.fmtB v.srcB i) (rd v.fmtC v.srcC i))
        let many := fun (p : Cv → Bool) => ((List.range v.n).filter (fun i => p (res i))).length
        let bytes := (List.range v.n).flatMap (fun i => leBytes (fmtBytes k.fmt) (res i).code)
        ∃ u, exec .operationComplete s = .next (left u) ∧ u.clk.offset = t
          ∧ tambsDue u ∧ u = { d with clk := u.clk, tambs := u.tambs, flights := others, agenda := later, mem := Memory.setAll d.mem (key (8 + n) v.dst) bytes, bobs := u.bobs, free := d.free + 1 }
          ∧ bobOf u n = { bobOf d n with num := {
              sat := (bobOf d n).num.sat + (many (·.sat)), uflow := (bobOf d n).num.uflow + (many (·.uflow))
              nan := (bobOf d n).num.nan + (many (·.nan)), zr := (bobOf d n).num.zr + 0
              accOvf := (bobOf d n).num.accOvf + 0 } }
          ∧ ∀ m, m ≠ n → bobOf u m = bobOf d m)
    ∧ (wClass w = 1 → wOp w = 0 → d.agenda = ⟨a, 0, f.id, .beat 0 0⟩ :: ⟨t, pr, f.id, .finish⟩ :: rest → a + 14 ≤ t → pr = 100 →
      maRows w = 1 → maDepth w = 1 → maOut w = false →
      let act := fld f.desc 12 1
      let fmt := (if maBank w = 0 then (bobOf d n).bankA else (bobOf d n).bankB).fmt
      ∀ (e ab wb : Nat), pairOf act fmt = some (e, ab, wb) →
        let entry := fun (j : Nat) => accKey n j (maBase w)
        let old := fun (j : Nat) => accNow d n j (maBase w)
        let products := fun (j : Nat) => List.zipWith Xv.mul (actVals d n f.desc e 0 0) (weightVals d n j (maBank w) fmt e 0)
        ∃ u, exec .operationComplete s = .next (left u) ∧ u.clk.offset = t
          ∧ tambsDue u ∧ u = { d with clk := u.clk, tambs := u.tambs, flights := others, agenda := later, mem := u.mem, bobs := u.bobs }
          ∧ (bobOf u n).beats = (bobOf d n).beats + 1 ∧ (∀ m, m ≠ n → bobOf u m = bobOf d m)
          ∧ (∀ k, (∀ j, j < 128 → k < entry j ∨ entry j + 4 ≤ k) → Memory.get u.mem k = Memory.get d.mem k)
          ∧ ∀ j, j < 128 → ∃ r : Word, (∀ i, i < 4 → Memory.get u.mem (entry j + i) = (leBytes 4 r.toNat).getD i 0)
            ∧ (¬ (isInt act = true ∧ isInt fmt = true) → r = rne32 (Xv.sum (if maAcc w then f32 (old j) else Xv.zero) (products j)))
            ∧ (isInt act = true → isInt fmt = true → (r.toInt : ℚ) = max (-2147483648) (min 2147483647
                ((if maAcc w then ((old j).toInt : ℚ) else 0) + ((products j).map Xv.rat).sum))))

/-! ### The bus -/

/-- R415 to R418, R454: a direct common command to the dynamic address, in SDR, is answered with the bytes of R416's table, byte
0 first (DEDUCED from R5, log entry 40); GETSTATUS clears the protocol error and no other common command of these changes
anything; one to any other address, or without a dynamic address, is not acknowledged. ENTDAA and SETDASA give an address only to
a device without one, SETDASA only at the static address; RSTDAA clears it; ENTHDR0 and the HDR exit pattern change the bus mode;
RSTACT 0 to 2 chooses the next reset pattern's action, and another value is not acknowledged (DEDUCED, log entry 55). Each
changes that alone, beside its answer. -/
def Obligations.CommonCommandsAnswer : Prop :=
  (∀ (da : BitVec 7) (s : State),
    let mine := hears s.dev = true ∧ s.dev.i3c.da ≠ 0 ∧ s.dev.i3c.da = da
    let ans := fun (e : Dev) (bytes : List Byte) => ({ s with dev := answerBus e true bytes } : State)
    let nack : State := { s with dev := answerBus s.dev false [] }
    (mine →
      exec (.getpid da) s = .next (ans s.dev (leBytes 6 (0x0C5E * 2 ^ 33 + 0x8384 * 2 ^ 16 + s.dev.pwr.sa.toNat * 2 ^ 12 + 0x0A1)))
      ∧ exec (.getbcr da) s = .next (ans s.dev [0x01]) ∧ exec (.getdcr da) s = .next (ans s.dev [0x00]) ∧ exec (.getcaps da) s = .next (ans s.dev [0x01])
      ∧ exec (.getmxds da) s = .next (ans s.dev (if s.dev.pwr.state = .sleep then [0x04, 0x04] else [0x00, 0x00]))
      ∧ exec (.getstatus da) s = .next (ans { s.dev with i3c := { s.dev.i3c with protErr := false } } (leBytes 2 (statusBits s.dev)))
      ∧ (∀ on ev, exec (.enecDisec false da on ev) s = .next (ans s.dev [])))
    ∧ (¬ mine → ∀ i, i = Instr.getpid da ∨ i = .getbcr da ∨ i = .getdcr da ∨ i = .getcaps da ∨ i = .getmxds da ∨ i = .getstatus da
        ∨ (∃ on ev, i = .enecDisec false da on ev) → exec i s = .next nack))
  ∧ (∀ (da static : BitVec 7) (act : Byte) (s : State),
    let d := s.dev
    let said := fun (ack : Bool) (out : List Byte) (i : I3c) => ({ s with dev := { d with i3c := { i with ack := ack, out := out } } } : State)
    (hears d = true →
      (d.i3c.da = 0 → exec (.entdaa da) s = .next (said true (leBytes 6 (provId d) ++ [0x01, 0x00]) { d.i3c with da := da }))
      ∧ (d.i3c.da ≠ 0 → exec (.entdaa da) s = .next (said false [] d.i3c))
      ∧ (d.i3c.da = 0 → static = 0x2C + d.pwr.sa.zeroExtend 7 → exec (.setdasa static da) s = .next (said true [] { d.i3c with da := da }))
      ∧ (d.i3c.da ≠ 0 ∨ static ≠ 0x2C + d.pwr.sa.zeroExtend 7 → exec (.setdasa static da) s = .next (said false [] d.i3c))
      ∧ exec .rstdaa s = .next (said true [] { d.i3c with da := 0 })
      ∧ exec .enthdr0 s = .next (said true [] { d.i3c with hdr := true })
      ∧ (act.toNat ≤ 2 → exec (.rstact true da act) s = .next (said true [] { d.i3c with rstact := act }))
      ∧ (2 < act.toNat → exec (.rstact true da act) s = .next (said false [] d.i3c)))
    ∧ (d.pwr.powered = true → exec .hdrExitPattern s = .next { s with dev := { d with i3c := { d.i3c with hdr := false } } }))

/-- R419, R421, R422, R423: a private read to the device, in its bus mode and in HDR-DDR with the code 0x80, is answered with the reply that
stands, at most as many bytes as are read, and changes no reply; a write with a parity error is acknowledged, sets the protocol error, counts
once and leaves the reply; a packet that names no command is refused by checks 1 to 3. A write in HDR-DDR is taken with the code 0x00 only;
any other transfer is ignored. -/
def Obligations.PrivateTransfersAnswer : Prop :=
  ∀ (da : BitVec 7) (ddr : Bool) (code : Byte) (n : Nat) (bytes : List Byte) (s : State),
    let d := s.dev
    let hdr := if ddr then some code else none
    let withDev := fun (e : Dev) => ({ s with dev := e } : State)
    let nack := withDev (answerBus d false [])
    let mine := d.pwr.powered = true ∧ d.i3c.da ≠ 0 ∧ d.i3c.da = da ∧ d.i3c.hdr = hdr.isSome ∧ ¬ (hdr.isSome = true ∧ d.pwr.state = .sleep)
    let reads := mine ∧ (∀ x, hdr = some x → x = 0x80) ∧ d.pwr.resetLow = false
    (reads → exec (.privateRead da ddr code n) s = .next (withDev (answerBus d true ((replyNow d).bytes.take n))))
      ∧ (¬ reads → exec (.privateRead da ddr code n) s = .next nack)
      ∧ (reaches d da hdr = true → mine ∧ ∀ x, hdr = some x → x = 0x00)
      ∧ (reaches d da hdr = false → exec (.unknownOpcode da hdr bytes) s = .next nack)
      ∧ (reaches d da (if d.i3c.hdr then some 0x00 else none) = false → exec (.privateWriteDiscarded da) s = .next nack)
      ∧ (reaches d da (if d.i3c.hdr then some 0x00 else none) = true → exec (.privateWriteDiscarded da) s = .next { s with dev := { d with i3c := { d.i3c with
          ack := true, out := [], protErr := true, parity := d.i3c.parity + 1 } } })
      ∧ (reaches d da hdr = true → 4 ≤ bytes.length → exec (.unknownOpcode da hdr bytes) s = .next (withDev
          (refusePacket (heard d) (BitVec.ofNat 16 (fld bytes 0 2)) (BitVec.ofNat 16 (fld bytes 2 2)) (strayStatus bytes))))
      ∧ (d.pwr.booting = false → d.i3c.busy = none → d.fw.wrote = none → replyNow d = d.i3c.reply)
      ∧ (d.pwr.booting = true → d.pwr.waking = false → replyNow d = ⟨0xFFFF, 0, BitVec.ofNat 16 stProgress, []⟩)

/-! ### Resets, boot and clocks -/

/-- R417, R447, R449, R450: a power-on reset returns the whole device to reset, but for the level of RESET_N, which is the board's, and the
model's own free-value counter (log entry 10); in it, RESET_N only takes its level. A pin chip reset and a target chip reset leave every unit DISABLED with no image, no request, no register and
no store listed, and keep the time counter, which runs on through the 1 µs that a chip reset lasts (R448), and the error log, to which
one RESET entry is added; the pin reset keeps the
dynamic address and the target reset clears it. A session reset touches the session only, and is logged. -/
def Obligations.ResetsReachWhatTheyReach : Prop :=
  ∀ s : State,
    let keeps := fun (low : Bool) => ({ State.reset.dev.pwr with resetLow := low } : Pwr)
    exec .powerOnReset s = .next { State.reset with pending := s.pending, dev := { State.reset.dev with free := s.dev.free, pwr := keeps s.dev.pwr.resetLow } }
    ∧ (s.dev.pwr.resetLow = true → exec .chipReset s = .next s)
    ∧ (s.dev.pwr.resetLow = false → s.dev.pwr.powered = false →
        exec .chipReset s = .next { s with dev := { s.dev with pwr := { s.dev.pwr with resetLow := true } } })
    ∧ (∀ i, (i = Instr.chipReset ∧ s.dev.pwr.resetLow = false ∨ i = .targetReset ∧ s.dev.i3c.rstact = 2) → s.dev.pwr.powered = true →
        ∃ t, exec i s = .next t ∧ t.pending = s.pending ∧ (∀ u, u < 32 → ust t.committed u = .disabled)
          ∧ (∀ u, reqOf t.dev u = none) ∧ (∀ p, hasImage t.dev p = false) ∧ t.dev.regs = [] ∧ t.dev.shadow = [] ∧ t.dev.mem = [] ∧ t.dev.ecc = []
          ∧ (i = .chipReset ∨ s.dev.clk.pllLock = false → s.dev.pwr.booting = false → t.dev.clk.time = s.dev.clk.time)
          ∧ (i = .targetReset → s.dev.clk.pllLock = true → s.dev.pwr.booting = false → s.dev.pwr.resetLow = false → s.dev.clk.timeLoad = none →
              t.dev.clk.time = s.dev.clk.time + 1000)
          ∧ (s.dev.clk.pllLock = true ∨ s.dev.pwr.booting = false → t.dev.clk.pllLock = s.dev.clk.pllLock) ∧ t.dev.clk.ticking = false ∧ t.dev.pwr.booted = false
          ∧ (i = .chipReset → t.dev.i3c.da = s.dev.i3c.da ∧ t.dev.pwr.resetLow = true) ∧ (i = .targetReset → t.dev.i3c.da = 0)
          ∧ Logged { s.dev with clk := t.dev.clk } t.dev (fun e => e.code = 0x0101 ∧ e.detail = [if i = .chipReset then 1 else 2, 0]))
    ∧ (s.dev.pwr.powered = false → exec .targetReset s = .next s)
    ∧ (s.dev.pwr.powered = true → s.dev.i3c.rstact ≠ 1 → s.dev.i3c.rstact ≠ 2 →
        exec .targetReset s = .next { s with dev := { s.dev with i3c := { s.dev.i3c with rstact := 1 } } })
    ∧ (s.dev.pwr.powered = true → s.dev.i3c.rstact = 1 →
        ∃ t, exec .targetReset s = .next t ∧ t.committed = s.committed ∧ t.dev.i3c.da = 0 ∧ t.dev.i3c.hello = false ∧ t.dev.i3c.minor = 0
          ∧ t.dev.xfer = none ∧ t.dev.i3c.reply = {} ∧ t.dev.i3c.busy = none ∧ Logged s.dev t.dev (fun e => e.code = 0x0101 ∧ e.detail = [5, 0]) ∧ t.dev.req = s.dev.req ∧ t.dev.regs = s.dev.regs ∧ t.dev.shadow = s.dev.shadow
          ∧ t.dev.mem = s.dev.mem ∧ t.dev.parts = s.dev.parts ∧ t.dev.jobs = s.dev.jobs)

/-- R26, R39, R448, R457, R459, R525: a rise of PWROK samples the straps and begins boot, with RESET_N low once that rises, unless TESTEN
holds the device; a rising RESET_N begins boot 1 µs after the chip reset at the earliest, and in power-on reset none; boot takes the selected
bank where it is valid, otherwise the other, which sets FALLBACK and is logged, otherwise enters recovery; the tick starts with the firmware,
from count 0, and not in recovery. A FW_SWITCH from the mask ROM is answered with its boot (R439). A lost REFCLK is flagged and the PLL
holds over until it is back. -/
def Obligations.BootRunsTheChosenBank : Prop :=
  ∀ (sa : BitVec 2) (f : FlashRead) (us : Word) (s : State),
    let d := s.dev
    (d.pwr.pwrok = true → exec (.pwrokRise sa false) s = .next s ∧ exec (.pwrokRise sa true) s = .next s)
      ∧ (d.pwr.pwrok = false →
        exec (.pwrokRise sa false) s = .next { s with dev := { d with pwr := { d.pwr with
          pwrok := true, sa := sa, testen := false, powered := true, booting := !d.pwr.resetLow, bootKind := 0 } } }
        ∧ exec (.pwrokRise sa true) s = .next { s with dev := { d with pwr := { d.pwr with pwrok := true, sa := sa, testen := true } } })
      ∧ (d.pwr.resetLow = false → exec .resetNRelease s = .next s)
      ∧ (d.pwr.resetLow = true →
        let e := if d.pwr.powered = true ∧ d.clk.pllLock = true then elapse d (d.pwr.resetAt + cyclesPerUs - d.clk.mono) else d
        exec .resetNRelease s = .next { s with dev := { e with pwr := { d.pwr with resetLow := false, booting := d.pwr.powered }, jtag := flashOff d.jtag } })
      ∧ (d.pwr.powered = true → d.pwr.booting = true → d.pwr.resetLow = false →
        let sel := selected (selOf f.sel0) (selOf f.sel1)
        let good := fun (b : Bool) => bankValid (if b then f.bank1 else f.bank0)
        ∃ t, exec (.bootComplete f us) s = .next t ∧ t.committed = s.committed ∧ t.dev.pwr.booting = false ∧ t.dev.pwr.booted = true
          ∧ t.dev.clk.pllLock = true ∧ t.dev.pwr.cause = d.pwr.bootKind ∧ t.dev.pwr.micros = us ∧ t.dev.pwr.selected = sel
          ∧ t.dev.clk.offset = 0 ∧ t.dev.clk.count = 0 ∧ t.dev.req = d.req ∧ t.dev.mem = d.mem
          ∧ (good sel = true → t.dev.pwr.recovery = false ∧ t.dev.clk.ticking = true ∧ t.dev.pwr.fallback = false ∧ t.dev.fw.active = sel ∧ t.dev.pwr.check = true)
          ∧ (good sel = false → good (!sel) = true →
              t.dev.pwr.recovery = false ∧ t.dev.clk.ticking = true ∧ t.dev.pwr.fallback = true ∧ t.dev.fw.active = !sel ∧ t.dev.pwr.check = false
                ∧ Logged { d with clk := t.dev.clk } t.dev (fun e => e.code = 0x0102 ∧ e.detail.take 2 = [b2n sel, b2n !sel]))
          ∧ t.dev.i3c.busy = none
          ∧ (∀ op tag, d.i3c.busy = some (op, tag) → t.dev.i3c.reply =
              if t.dev.pwr.recovery then ⟨op, tag, BitVec.ofNat 16 stFirmware, []⟩
              else ⟨op, tag, BitVec.ofNat 16 stOk, leBytes 2 (fwRelease t.dev) ++ leBytes 1 (b2n t.dev.fw.active) ++ [0]⟩)
          ∧ (good sel = false → good (!sel) = false →
              t.dev.pwr.recovery = true ∧ t.dev.clk.ticking = false ∧ t.dev.fw.active = true ∧ fwRelease t.dev = 0 ∧ t.dev.pwr.check = false))
      ∧ (d.pwr.powered = true →
        exec .refclkLost s = .next { s with dev := { d with clk := { d.clk with refLost := true, holdover := true, refAt := some d.clk.mono, sleepLost := d.clk.sleepLost || (d.pwr.state == .sleep && !d.pwr.booting) } } }
        ∧ exec .pllRelock s = .next { s with dev := { d with clk := { d.clk with holdover := false } } })

/-! ### Tambours -/

/-- R86, R87, R88, R92: an input takes a level that is not its present one once ENC_FILT samples at it have followed its last change.
One input taken is an edge: it moves the position by one, saturating, in the sense that ENC_DIR gives; in LINE mode with the
encoder as source a forward count decrements C and at 0 makes a trigger fall at the tick ENC_FILT after the first sample, with C loaded
with D; a reverse count increments C up to its limit. When that tick has come in LINE mode, a trigger within the TICKS latched with the
line in progress counts as missed and exposes no line; any other latches the line. Both inputs at once count no edge, but an error.
Each changes that Tambour alone. (The command's tick is that of the last sample: DESIGN CHOICE, log entry 28; the values in force are
those of the last effect edge, R81.) -/
def Obligations.EncoderEdgesMoveAndTrigger : Prop :=
  ∀ (t : Fin 4) (a b : Bool) (s : State), clocked s.dev = true → (tambOf s.dev t).on = true →
    let d := s.dev
    let m := tambOf d t
    let v := seen d t
    let now := tick200 d
    let filt := cf v .tTrig t 0 7 0
    let newA := a ≠ m.encA ∧ (m.tookA = none ∨ m.tookA.getD 0 + filt ≤ now)
    let newB := b ≠ m.encB ∧ (m.tookB = none ∨ m.tookB.getD 0 + filt ≤ now)
    let taken := { m with
      encA := if newA then a else m.encA, encB := if newB then b else m.encB
      tookA := if newA then some now else m.tookA, tookB := if newB then some now else m.tookB }
    let forward := ((quadPos m.encA m.encB + 1) % 4 = quadPos taken.encA taken.encB) ≠ (cf v .tTrig t 0 8 8 = 1)
    let moved := { taken with pos := movePos m.pos (decide forward), edgeAt := now, gapDone := false }
    let counts := inLine d t now = true ∧ cf v .tTrig t 0 9 9 = 1
    let one := newA ∧ ¬ newB ∨ ¬ newA ∧ newB
    let falls := one ∧ counts ∧ forward ∧ m.remain ≤ 1
    (∃ u, exec (.encEdge t a b) s = .next u ∧ TambOnly t s u
      ∧ (let n := tambOf u.dev t
        (¬ newA → ¬ newB → n = m)
        ∧ (newA → newB → n = { taken with nEncErr := m.nEncErr + 1, encErr := true, errAt := some d.clk.mono })
        ∧ (one → ¬ counts → n = moved)
        ∧ (one → counts → ¬ forward → n = { moved with remain := Nat.min 16777215 (m.remain + 1) })
        ∧ (one → counts → forward → 1 < m.remain → n = { moved with remain := m.remain - 1 })
        ∧ (falls → n = { moved with remain := encD v t, trigAt := some (now + 1) }
            ∧ ⟨d.clk.offset + cyclesTo d (now + 1), prioRead, 0, .tambours⟩ ∈ u.dev.agenda)
        ∧ (¬ falls → u.dev.agenda = d.agenda)))
    ∧ (∀ at_, m.edge = none → m.trigAt = some at_ →
        let e := tambDue s.committed d t
        let n := tambOf e t
        let early := ∃ l, m.line = some l ∧ at_ < l.t0 + l.period
        (now < at_ → e = d)
        ∧ (at_ ≤ now → TambOnly t s { s with dev := e }
          ∧ (inLine d t at_ = false → n = { m with trigAt := none })
          ∧ (inLine d t at_ = true → early → n = { m with
              trigAt := none, nTrigMis := m.nTrigMis + 1, trigMiss := true, missAt := some d.clk.mono
              remain := if m.reload then encD v t else m.remain, reload := false })
          ∧ (inLine d t at_ = true → ¬ early → n.nTrigMis = m.nTrigMis ∧ n.pos = m.pos ∧ n.encA = m.encA ∧ n.encB = m.encB
              ∧ n.cal.state = m.cal.state ∧ (m.stampDue = false → n.stamps = m.stamps) ∧ n.trigAt = none
              ∧ n.remain = (if m.reload then encD v t else m.remain) ∧ n.lastTrig = some at_ ∧ n.stampDue = true ∧ n.outs = tgRegs v t
              ∧ ∃ l, n.line = some l ∧ l.t0 = at_ ∧ l.period = cf v .tPeriod t 0 23 0 ∧ l.start = cf v .tExposure t 0 15 0
                ∧ l.stop = cf v .tExposure t 0 31 16)))

/-- R84, R85, R89, R92 to R94, R96, R97: each event of a Tambour acts at the tick at which it is due, when that tick lies within the
running Stitch and the event is still due there; time passes to it, and the command completes. A timer trigger, TICKS after the one
before it, latches the line settings in force; a capture at t0 + END puts the time of that tick into the stamp queue, and a full queue
loses its oldest entry; a mode or a disable that has waited for the line or the step in progress takes effect and aborts a
calibration; a feed period ends into the one in force; a pattern step that has lasted its ticks gives way to the next, to LOOP_START, or
ends the last pass and is held. Each changes that Tambour alone. Beyond the running Stitch the event is not due yet (DESIGN CHOICE, log
entry 91). The values in force are those of the last effect edge (R81). -/
def Obligations.TambourEventsChangeTheirTambour : Prop :=
  ∀ (t : Fin 4) (k : Fin 8) (s : State), clocked s.dev = true →
    let c := s.committed
    let d := s.dev
    -- the device when a tick has come, and the state then
    let comes := fun (n : Nat) => (passCycles c d (cyclesTo d n)).isSome = true
    let at_ := fun (n : Nat) => (passCycles c d (cyclesTo d n)).getD d
    let then_ := fun (n : Nat) => ({ s with dev := at_ n } : State)
    -- a command whose event is due at a tick, if at all, and what it then makes of the Tambour
    let acts := fun (i : Instr) (due : Dev → Option Nat) (does : Nat → Dev → Tamb → Prop) =>
      (∀ n, due d = some n → comes n → due (at_ n) = some n →
          ∃ u, exec i s = .next u ∧ TambOnly t (then_ n) u ∧ does n (at_ n) (tambOf u.dev t))
      ∧ (∀ n, due d = some n → comes n → due (at_ n) ≠ some n → exec i s = .next (then_ n))
      ∧ (∀ n, due d = some n → ¬ comes n → exec i s = .next s)
      ∧ (due d = none → exec i s = .next s)
    let set := fun (e : Dev) (r : Reg) (hi lo : Nat) => cf (seen e t) r t 0 hi lo
    let triggered := fun (e : Dev) (now : Nat) (n : Tamb) => n.stampDue = true ∧ n.lastTrig = some now ∧ n.outs = tgRegs (seen e t) t
      ∧ ∃ l, n.line = some l ∧ l.t0 = now ∧ l.period = set e .tPeriod 23 0 ∧ l.start = set e .tExposure 15 0 ∧ l.stop = set e .tExposure 31 16
    let plain := fun (m n : Tamb) => n.pos = m.pos ∧ n.bank = m.bank ∧ n.encA = m.encA ∧ n.encB = m.encB
      ∧ (m.stampDue = false → n.stamps = m.stamps ∧ n.nLost = m.nLost)
    let plays := fun (e : Dev) => (tambOf e t).driving = true ∧ (tambOf e t).active = 2 ∧ (tambOf e t).pgDone = false
      ∧ stays e t ((tambOf e t).pgAt + (tambOf e t).pgLen) = true
    let stepEnd := fun (e : Dev) => if clocked e = true ∧ plays e then some ((tambOf e t).pgAt + (tambOf e t).pgLen) else none
    let passed := fun (m : Tamb) => Nat.min 65535 (m.pgPasses + 1)
    let finished := fun (m : Tamb) => ({ m with pgDone := true, pgPasses := passed m } : Tamb)
    acts (.lineTrigger t)
        (fun e => if inLine e t (nextTimer e t) = true ∧ set e .tTrig 9 9 = 0 then some (nextTimer e t) else none)
        (fun n e x => triggered e n x ∧ plain (tambOf e t) x ∧ x.active = (tambOf e t).active)
    ∧ acts (.encTimeout t)
        (fun e => if clocked e = true ∧ (tambOf e t).on = true ∧ set e .tTrig 9 9 = 1 ∧ set e .tEncTmo 23 0 ≠ 0 ∧ (tambOf e t).gapDone = false
          then some (Nat.max (tambOf e t).gapFrom ((tambOf e t).edgeAt + 200 * set e .tEncTmo 23 0)) else none)
        (fun n e x => x = { tambOf e t with encTmo := true, gapDone := true, tmoAt := some (cycleOf e n) })
    ∧ acts (.stampCapture t)
        (fun e => (tambOf e t).line.bind (fun l =>
          if clocked e = true ∧ (tambOf e t).driving = true ∧ (tambOf e t).active = 1 ∧ (tambOf e t).stampDue = true then some (l.t0 + l.stop) else none))
        (fun n e x => let m := tambOf e t
          ∀ l, m.line = some l → x.stampDue = false ∧ x.line = m.line ∧ x.pos = m.pos
            ∧ (m.stamps.length < 16 → x.stamps = m.stamps ++ [(timeAtTick e n, l.xavg)] ∧ x.nLost = m.nLost ∧ x.stampFlt = m.stampFlt)
            ∧ (16 ≤ m.stamps.length → x.stamps = m.stamps.drop 1 ++ [(timeAtTick e n, l.xavg)] ∧ x.nLost = m.nLost + 1 ∧ x.stampFlt = true))
    ∧ acts (.modeEffect t)
        (fun e => if clocked e = true then (tambOf e t).effAt.map (fun n => Nat.max n (busyEnd e t)) else none)
        (fun n e x => let m := tambOf e t
          let want := set e .tCtrl 5 4
          plain m x ∧ x.effAt = none ∧ x.active.toNat = want ∧ (m.cal.state = .running → x.cal.state = .fail ∧ x.cal.cause = 3)
            ∧ (m.on = false → x.driving = false ∧ x.line = none ∧ x.stampDue = false)
            ∧ (m.on = true → x.driving = m.driving
              ∧ (want = 1 → set e .tTrig 9 9 = 0 → triggered e n x)
              ∧ (want = 1 → set e .tTrig 9 9 = 1 → x.line = none ∧ x.remain = encD (seen e t) t)
              ∧ (want = 2 → x.line = none ∧ x.pgStep = 0 ∧ x.pgAt = n ∧ x.pgLen = patTicks (seen e t) t 0 ∧ x.pgPasses = 0 ∧ x.pgDone = false)))
    ∧ acts (.feedPeriodEnd t k)
        (fun e => let f := ((tambOf e t).feedF[(k : Nat)]?).getD 0
          if clocked e = true ∧ (tambOf e t).driving = true ∧ (tambOf e t).active ≠ 2 ∧ 2 ≤ f then some (((tambOf e t).feedAt[(k : Nat)]?).getD 0 + f) else none)
        (fun n e x => x = { tambOf e t with
          feedF := vmod (tambOf e t).feedF k (fun _ => feedPeriod (seen e t) t), feedAt := vmod (tambOf e t).feedAt k (fun _ => n) })
    ∧ acts (.patternDone t) (fun e => if patLast e t = true then stepEnd e else none) (fun _ e x => x = finished (tambOf e t))
    ∧ acts (.patternStepEnd t) stepEnd
        (fun n e x => let m := tambOf e t
          let last := set e .tPgLoop 27 16
          let begins := fun (m : Tamb) (j : Nat) => ({ m with pgStep := j, pgAt := n, pgLen := patTicks (seen e t) t j } : Tamb)
          (patLast e t = true → x = finished m)
            ∧ (patLast e t = false → m.pgStep = last → x = begins { m with pgPasses := passed m } (set e .tPgLoop 11 0))
            ∧ (patLast e t = false → m.pgStep ≠ last → x = begins m ((m.pgStep + 1) % 4096)))

/-- R104, R105, R106: a calibration whose lines are all readable by its time limit ends one cycle per entry after the last of them, and
passes when at most BAD_MAX entries fail: its bank is due to become active; otherwise it fails for BAD_PIXELS. One whose last line is
not readable by then fails for TIMEOUT at the limit, TIMEOUT_MS after its start. One that has been aborted meanwhile ends neither way.
Every entry that passes is stored in the inactive bank as O and G; no byte outside that bank changes. -/
def Obligations.CalibrationsEnd : Prop :=
  ∀ (t : Fin 4) (s : State), clocked s.dev = true → (tambOf s.dev t).cal.state = .running →
    let c := s.committed
    let d := s.dev
    let cal := (tambOf d t).cal
    let limit := cal.startAt + 1100000 * cf (seen d t) .tCalTarget t 0 31 16
    let last := calEnd (seen d t) t
    let reach := fun (cycle : Nat) => passCycles c d (cycle - d.clk.mono)
    let frame := fun (e : Dev) (u : State) => u.committed = c ∧ u.pending = s.pending ∧ u.dev.regs = e.regs ∧ u.dev.shadow = e.shadow
      ∧ u.dev.req = e.req ∧ (∀ v, v ≠ (t : Nat) → tambOf u.dev v = tambOf e v) ∧ (tambOf u.dev t).bank = (tambOf e t).bank
    (last ≤ cal.line → cal.lastAt ≤ limit → ∀ e, reach (cal.lastAt + calEntries d t) = some e →
        ((tambOf e t).cal.state ≠ .running → exec (.calComplete t) s = .next { s with dev := e })
        ∧ ((tambOf e t).cal.state = .running → e.ecc = [] →
          let m := tambOf e t
          let v := seen e t
          let w := calWin v t
          let es := List.zipWith (fun (b x : Nat) =>
              calEntry (cf v .tCalTarget t 0 15 0) (cf v .tCalBounds t 0 15 0) (cf v .tCalLimits t 0 15 0) (cf v .tCalLimits t 0 31 16)
                (rneDiv b w.2.1) (rneDiv x w.2.2.2)) m.cal.black m.cal.white
          let bad := (es.filter (·.isNone)).length
          let k := coefKey t (b2n !m.bank) 0
          es ≠ [] → ∃ u, exec (.calComplete t) s = .next u ∧ frame e u
            ∧ (bad ≤ cf v .tCalBounds t 0 31 16 → (tambOf u.dev t).cal.state = .pass ∧ (tambOf u.dev t).cal.swapDue = true)
            ∧ (cf v .tCalBounds t 0 31 16 < bad → (tambOf u.dev t).cal.state = .fail ∧ (tambOf u.dev t).cal.cause = 1
                ∧ (tambOf u.dev t).cal.swapDue = m.cal.swapDue)
            ∧ (tambOf u.dev t).cal.bad = bad
            ∧ (∀ a, a < k ∨ k + 4 * es.length ≤ a → Memory.get u.dev.mem a = Memory.get e.mem a)
            ∧ (∀ i o g, es[i]? = some (some (o, g)) → ∀ j, j < 4 →
                Memory.get u.dev.mem (k + 4 * i + j) = (leBytes 2 o ++ leBytes 2 g).getD j 0)))
      ∧ (last ≤ cal.line → cal.lastAt ≤ limit → reach (cal.lastAt + calEntries d t) = none → exec (.calComplete t) s = .next s)
      ∧ (last ≤ cal.line → cal.lastAt ≤ limit → exec (.calTimeout t) s = .next s)
      ∧ (cal.line < last ∨ limit < cal.lastAt → exec (.calComplete t) s = .next s
          ∧ (reach limit = none → exec (.calTimeout t) s = .next s)
          ∧ ∀ e, reach limit = some e →
            ((tambOf e t).cal.state ≠ .running → exec (.calTimeout t) s = .next { s with dev := e })
            ∧ ((tambOf e t).cal.state = .running → ∃ u, exec (.calTimeout t) s = .next u ∧ frame e u ∧ u.dev.mem = e.mem
                ∧ (tambOf u.dev t).cal.state = .fail ∧ (tambOf u.dev t).cal.cause = 2))

/-! ### Receive ports and jobs -/

/-- R123, R124, R125: a port that is not committed RUN ignores every packet and counts none. On a running port a packet that fails
sync or header ECC counts in HDR_BAD, one of an unlisted data type in NO_JOB; a long packet on a channel with MODE OFF,
or on the bulk channel, counts in NO_JOB and does nothing else but count a corrected header. -/
def Obligations.PortsTakeOnlyWhatTheyAccept : Prop :=
  ∀ (i : Instr) (r : RxHdr) (s : State),
    let left := fun (e : Dev) => ({ s with dev := e } : State)
    (rxPacket i = some r → rxOn s.committed s.dev r.port = false → exec i s = .next s)
    ∧ (rxOn s.committed s.dev r.port = true →
        (∀ cause, cause = DropCause.sync ∨ cause = .headerEcc → exec (.packetDiscarded r cause) s = .next (left
            (setRx s.dev r.port (fun q => { q with hdrBad := q.hdrBad + 1 }))))
        ∧ exec (.packetDiscarded r .dataType) s = .next { s with dev := countNoJob (rxSeen s.dev r) r.port 1 }
        ∧ (longPacket i = some r → isBulk s.dev r.port r.vc = true ∨ vcMode s.dev r.port r.vc = 0 →
            exec i s = .next { s with dev := countNoJob (rxSeen s.dev r) r.port 1 }))

/-- R78, R79, R127, R129, R131: an accepted JOB_BEGIN closes the open job of its channel and opens the descriptor's; one that names a held
number is refused, and the open job closes. JOB_END closes the open job and PAGE_MARK is kept with the next row's index when they name
it, otherwise they are refused. A refusal counts in INBAND_BAD and, with no job open, leaves every job as it was. In FRAME and STRIP
modes JOB_BEGIN and JOB_END are accepted and do nothing (DEDUCED, log entry 94). -/
def Obligations.InbandCommandsActOnTheirJob : Prop :=
  ∀ (r : RxHdr) (k : Pkt) (p : Nat) (s : State),
    let c := s.committed
    let d := rxSeen s.dev r
    let b := k.payload
    let seq := BitVec.ofNat 32 (fld b 0 4)
    let left := fun (e : Dev) => ({ s with dev := e } : State)
    let refused := fun (i : Instr) => ∃ u, exec i s = .next u ∧ u.committed = c ∧ u.dev.jobs = d.jobs ∧ u.dev.mem = d.mem ∧ u.dev.parts = d.parts
      ∧ (rxOf u.dev r.port).inband = (rxOf d r.port).inband + 1 ∧ (vcOf u.dev r.port r.vc).job = (vcOf d r.port r.vc).job
    (inbandTaken c s.dev r 0x0022 16 k beginOk p →
      let e := if (vcOf d r.port r.vc).job.isSome then closeJob c d r.port r.vc else d
      (vcMode d r.port r.vc ≠ 2 → exec (.jobBegin r k) s = .next (left d))
      ∧ (vcMode d r.port r.vc = 2 → heldJob d p seq = none → ∃ u j, exec (.jobBegin r k) s = .next u ∧ u.committed = c
          ∧ Opened e u.dev r.port r.vc p seq j ∧ j.kind = fld b 4 1 ∧ j.k = fld b 5 1 ∧ j.flags = fld b 6 1 ∧ j.height = fld b 12 4
          ∧ j.opened = (vcOf d r.port r.vc).frame.getD d.clk.time ∧ u.dev.regs = e.regs)
      ∧ (vcMode d r.port r.vc = 2 → heldJob d p seq ≠ none → (vcOf d r.port r.vc).job = none → refused (.jobBegin r k))
      ∧ (vcMode d r.port r.vc = 2 → heldJob d p seq ≠ none → (vcOf d r.port r.vc).job ≠ none →
          exec (.jobBegin r k) s = .next (left (closeJob c (refuseInband d r.port r.vc 0x0022 7 (fld b 0 4)) r.port r.vc))))
    ∧ (inbandTaken c s.dev r 0x0023 4 k (fun _ => true) p →
      (∀ j, openJobOf d r.port r.vc = some j →
          (j.seq.toNat = fld b 0 4 → exec (.jobEnd r k) s = .next (left (if vcMode d r.port r.vc = 2 then closeJob c d r.port r.vc else d)))
          ∧ (j.seq.toNat ≠ fld b 0 4 → refused (.jobEnd r k)))
      ∧ (openJobOf d r.port r.vc = none → refused (.jobEnd r k)))
    ∧ (inbandTaken c s.dev r 0x0024 8 k (fun _ => true) p →
      (∀ j, openJobOf d r.port r.vc = some j →
          let row := match j.coded with | some q => q.row | none => j.next
          (j.seq.toNat = fld b 0 4 → exec (.pageMark r k) s = .next (left
              (setJob (notePkt d j.id) j.id (fun j => { j with marks := j.marks ++ [(row, BitVec.ofNat 32 (fld b 4 4))] }))))
          ∧ (j.seq.toNat ≠ fld b 0 4 → refused (.pageMark r k)))
      ∧ (openJobOf d r.port r.vc = none → refused (.pageMark r k)))

/-- R127, R128, R129, R133, R140: a frame start stamps its channel and, in FRAME mode with a partition that may run, opens a job
with the number of VC_SEQ, which advances; a frame end and a timeout, at the time that stood when the job opened, close the open job.
Closing a job of pixel lines marks exactly the rows without a stored line as missing, decides the verdict by R140's two conditions, with the
MIN_ROWS_PCT of its opening, and leaves the channel without a job. A line start's number is kept with LSLN = 1. -/
def Obligations.FramesOpenAndCloseJobs : Prop :=
  ∀ (r : RxHdr) (n : BitVec 16) (s : State),
    let c := s.committed
    let d := rxSeen s.dev r
    let x : Nat := r.port
    let v : Nat := r.vc
    let left := fun (e : Dev) => ({ s with dev := e } : State)
    let closes := fun (i : Instr) (e : Dev) => ∀ j, openJobOf e x v = some j → j.coded = none →
      let rows := (List.range j.height).filter (fun q => j.missing.contains q || !j.stored.contains q)
      ∃ u w, exec i s = .next u ∧ u.committed = c ∧ (vcOf u.dev x v).job = none ∧ jobOf u.dev j.id = some w ∧ w.isOpen = false
        ∧ (j.dimBad = false → w.missing = rows) ∧ (j.dimBad = true → w.missing = [])
        ∧ (w.verdict = some true ↔
            j.dimBad = false ∧ j.pages ≠ [] ∧ j.minPct * j.height ≤ (j.height - rows.length) * 100)
        ∧ (∀ q, q ≠ j.id → jobOf u.dev q = jobOf e q) ∧ u.dev.regs = e.regs ∧ u.dev.nextJob = e.nextJob
    (rxOn c s.dev x = true → isBulk d x v = false →
      (∀ p, vcMode d x v = 1 → opener c d x v = some p → (vcOf d x v).job = none →
          ∃ u j, exec (.frameStart r n) s = .next u ∧ u.committed = c ∧ Opened d u.dev x v p (BitVec.ofNat 32 (com d .vcSeq x v)) j
            ∧ j.kind = 0 ∧ j.height = cf d .vcLines x v 15 0 ∧ j.minPct = cf d .jobCfg 0 0 6 0 ∧ j.opened = d.clk.time ∧ (vcOf u.dev x v).frame = some d.clk.time
            ∧ com u.dev .vcSeq x v = (com d .vcSeq x v + 1) % 2 ^ 32)
      ∧ (vcMode d x v = 2 ∨ vcMode d x v = 3 → ∃ u, exec (.frameStart r n) s = .next u ∧ u.committed = c ∧ u.dev.jobs = d.jobs
            ∧ (vcOf u.dev x v).frame = some d.clk.time ∧ (vcOf u.dev x v).job = (vcOf d x v).job ∧ u.dev.regs = d.regs ∧ u.dev.mem = d.mem)
      ∧ (vcMode d x v = 1 → closes (.frameEnd r n) d)
      ∧ (vcMode d x v ≠ 1 → exec (.frameEnd r n) s = .next { s with dev := d })
      ∧ (cf d .rxCfg x 0 12 12 = 1 → vcMode d x v ≠ 0 → exec (.lineStart r n) s = .next (left (setVc d x v (fun q =>
            { q with firstLn := match q.firstLn with | some m => some m | none => some n.toNat, curLn := some n.toNat }))))
      ∧ (cf d .rxCfg x 0 12 12 = 0 → exec (.lineStart r n) s = .next { s with dev := d }))
    ∧ (clocked s.dev = true → ∀ j, openJobOf s.dev x v = some j →
        let due := passCycles c s.dev (j.lastPkt + 1100000 * j.tmoMs - s.dev.clk.mono)
        (∀ e, due = some e → closes (.jobTimeout r.port r.vc) e) ∧ (due = none → exec (.jobTimeout r.port r.vc) s = .next s))

/-- R125, R132, R133, R136, R138, R139: on a channel that no Tambour processes, a pixel line that passes every check is written to
its row of the open job, the row counter advances by one, and no byte outside the job's granules changes; a line of the
wrong length or CRC counts, advances the row counter and stores nothing; a line of another data type, or without a job,
counts in NO_JOB. Embedded data fills what the 4,096 bytes leave and the rest counts in NO_JOB. What has arrived of coded data is
decoded. A Tambour in PATTERN mode discards its lines, and the row counter of the open job advances. What a line stores counts as
readable 52 cycles on (R15). Every packet accepted for the job renews its timeout (R127), also of a job without a space, of a stopped
decoder, or of a line that the Tambour discards. Only a row of the job that is lost makes it a link loss (R140). -/
def Obligations.PacketsFillTheOpenJob : Prop :=
  ∀ (r : RxHdr) (dt : BitVec 6) (payload : List Byte) (s : State), longTaken s.committed s.dev r →
    let c := s.committed
    let d := rxSeen s.dev r
    let x : Nat := r.port
    let v : Nat := r.vc
    let w := (lineFormat c d x v).1
    let fmt := (lineFormat c d x v).2
    let left := fun (e : Dev) => ({ s with dev := e } : State)
    let others := fun (u : State) (j : Job) => u.committed = c ∧ u.dev.regs = d.regs ∧ (∀ q, q ≠ j.id → jobOf u.dev q = jobOf d q)
      ∧ (vcOf u.dev x v).job = (vcOf d x v).job
      ∧ (d.ecc = [] → embAt j + (if j.emb then 4096 else 0) ≤ 4096 * j.pages.length →
          ∀ a, (∀ g ∈ j.pages, a < key 1 (g * 4096) ∨ key 1 (g * 4096) + 4096 ≤ a) → Memory.get u.dev.mem a = Memory.get d.mem a)
    let counted := exec (.pixelLine r dt payload) s = .next (left (countNoJob d x 1))
    (dt.toNat ≠ formatType fmt → counted)
    ∧ (dt.toNat = formatType fmt → payload.length = wordCount fmt w → r.crcBad = false → processed c d x v = false →
        openJobOf d x v = none → vcMode d x v ≠ 3 → counted)
    ∧ (∀ j, openJobOf d x v = some j → j.kind = 0 → j.dimBad = false → processed c d x v = false → cf d .rxCfg x 0 12 12 = 0 →
        (vcMode d x v ≠ 3 ∨ j.next + 1 < j.height) → dt.toNat = formatType fmt →
        (payload.length ≠ wordCount fmt w ∨ r.crcBad = true →
          ∃ u, exec (.pixelLine r dt payload) s = .next u ∧ others u j
            ∧ jobOf u.dev j.id = some { j with next := j.next + 1, linkLost := j.linkLost || decide (j.next < j.height) }
            ∧ (rxOf u.dev x).wcBad = (if payload.length = wordCount fmt w then (rxOf d x).wcBad else (rxOf d x).wcBad + 1)
            ∧ (rxOf u.dev x).crcBad = (if payload.length = wordCount fmt w then (rxOf d x).crcBad + 1 else (rxOf d x).crcBad))
        ∧ (payload.length = wordCount fmt w → r.crcBad = false → isStale d x 52 ((vcOf d x v).frame.getD d.clk.time) = false →
          (j.height ≤ j.next → ∃ u, exec (.pixelLine r dt payload) s = .next u ∧ others u j
              ∧ jobOf u.dev j.id = some { j with next := j.next + 1, lastPkt := d.clk.mono } ∧ (rxOf u.dev x).noJob = (rxOf d x).noJob + 1)
          ∧ (j.next < j.height → j.pages ≠ [] → ∃ u, exec (.pixelLine r dt payload) s = .next u ∧ others u j
              ∧ jobOf u.dev j.id = some { j with
                  next := j.next + 1, lastPkt := d.clk.mono, rowAt := j.rowAt ++ [(j.next, d.clk.mono + 52)]
                  stored := if j.stored.contains j.next then j.stored else j.stored ++ [j.next]
                  stamp0 := if j.next = 0 then some ((vcOf d x v).frame.getD d.clk.time) else j.stamp0 }
              ∧ (d.ecc = [] → u.dev.mem = (jobStore c d (whoRx j) j (j.next * j.rowBytes) ((plainLine fmt w payload).take j.rowBytes)).mem))))
    ∧ (∀ j, openJobOf d x v = some j → j.kind = 0 → j.dimBad = true → processed c d x v = false → dt.toNat = formatType fmt →
        payload.length = wordCount fmt w → r.crcBad = false → exec (.pixelLine r dt payload) s = .next (left (notePkt d j.id)))
    ∧ (processed c d x v = true → (tambOf d x).active = 2 → (tambOf d x).stampDue = false → dt.toNat = formatType fmt →
        payload.length = wordCount fmt w → r.crcBad = false →
        let e := setTamb d x (fun m => { m with nDisc := m.nDisc + 1 })
        (openJobOf d x v = none → exec (.pixelLine r dt payload) s = .next (left e))
        ∧ (∀ j, openJobOf d x v = some j → vcMode d x v ≠ 3 → cf d .rxCfg x 0 12 12 = 0 →
            ∃ u, exec (.pixelLine r dt payload) s = .next u ∧ others u j
              ∧ jobOf u.dev j.id = some { j with next := j.next + 1, lastPkt := d.clk.mono }
              ∧ (tambOf u.dev x).nDisc = (tambOf d x).nDisc + 1))
    ∧ (r.crcBad = false → cf d .vcCfg x v 29 29 = 0 → exec (.embeddedData r payload) s = .next (left d))
    ∧ (r.crcBad = false → cf d .vcCfg x v 29 29 = 1 →
        (openJobOf d x v = none → exec (.embeddedData r payload) s = .next (left (countNoJob d x payload.length)))
        ∧ (∀ j, openJobOf d x v = some j → j.dimBad = true ∨ j.emb = false → exec (.embeddedData r payload) s = .next (left (notePkt d j.id)))
        ∧ (∀ j, openJobOf d x v = some j → j.dimBad = false → j.emb = true →
            let n := Nat.min payload.length (4096 - j.embUsed)
            ∃ u, exec (.embeddedData r payload) s = .next u ∧ others u j
              ∧ jobOf u.dev j.id = some { j with embUsed := j.embUsed + n, lastPkt := d.clk.mono }
              ∧ (rxOf u.dev x).noJob = (rxOf d x).noJob + (payload.length - n)
              ∧ u.dev.mem = (if j.pages = [] then d.mem else (jobStore c d (whoRx j) j (embAt j + j.embUsed) (payload.take n)).mem)))
    ∧ (r.crcBad = true →
        let e := setRx d x (fun q => { q with crcBad := q.crcBad + 1 })
        (openJobOf d x v = none → exec (.codedData r payload) s = .next (left e))
        ∧ (∀ j, openJobOf d x v = some j → ∃ u, exec (.codedData r payload) s = .next (left u) ∧ u = { e with jobs := u.jobs }
            ∧ (∀ q, q ≠ j.id → jobOf u q = jobOf d q)
            ∧ jobOf u j.id = some { j with linkLost := j.linkLost || j.coded.any (fun k => !k.stopped) }))
    ∧ (r.crcBad = false →
        (openJobOf d x v = none → exec (.codedData r payload) s = .next (left (countNoJob d x 1)))
        ∧ (∀ j, openJobOf d x v = some j → j.kind = 0 → exec (.codedData r payload) s = .next (left (countNoJob d x 1)))
        ∧ (∀ j, openJobOf d x v = some j → j.kind ≠ 0 → j.coded = none → exec (.codedData r payload) s = .next (left (notePkt d j.id)))
        ∧ (∀ j k, openJobOf d x v = some j → j.kind ≠ 0 → j.coded = some k →
            (k.stopped = true → exec (.codedData r payload) s = .next (left (notePkt d j.id)))
            ∧ (k.stopped = false → exec (.codedData r payload) s = .next (left
                (decodeRows c j.id (2 * (j.height + 1)) (setCoded (notePkt d j.id) j.id (fun k => { k with bits := k.bits ++ bitsMsb payload, started := true })))))))

/-- R141, R317, R319: fragments of a string gather in order and LAST hands the string to the text unit, which queues it when its unit
runs with a valid set and has room; a fragment out of order discards the string and counts; a packet that names no held job
counts. The text unit's front string becomes an entry of the input queue, with the tokens and the SET_ID that its tokenization
started with (R315). -/
def Obligations.TextStringsGatherAndQueue : Prop :=
  ∀ (r : RxHdr) (payload : List Byte) (s : State),
    let c := s.committed
    let d := rxSeen s.dev r
    let x : Nat := r.port
    let v : Nat := r.vc
    let seq := fld payload 0 4
    let kind := fld payload 4 1
    let last := fld payload 5 1
    let frag := fld payload 6 2
    let text := payload.drop 8
    let held := ∃ p, binder d x v = some p ∧ heldJob d p (BitVec.ofNat 32 seq) ≠ none
    let refused := fun (q : Option Gather) => ∃ u, exec (.textInput r payload) s = .next u ∧ u.committed = c ∧ u.dev.txt = d.txt ∧ u.dev.jobs = d.jobs
      ∧ u.dev.mem = d.mem ∧ (vcOf u.dev x v).str = q ∧ (rxOf u.dev x).inband = (rxOf d x).inband + 1
    let taken := fun (g : Gather) =>
      (last = 0 → ∃ u, exec (.textInput r payload) s = .next u ∧ u.committed = c ∧ (vcOf u.dev x v).str = some g ∧ u.dev.txt = d.txt
        ∧ u.dev.jobs = d.jobs ∧ u.dev.mem = d.mem ∧ u.dev.regs = d.regs)
      ∧ (last = 1 → running c 0x1A = true → activeValid d.txt = true → queueUsed d.txt + 8256 ≤ 1048576 → g.excess = false →
          ∃ u, exec (.textInput r payload) s = .next u ∧ u.committed = c ∧ (vcOf u.dev x v).str = none ∧ u.dev.mem = d.mem ∧ u.dev.jobs = d.jobs
            ∧ u.dev.txt = { d.txt with strs := u.dev.txt.strs } ∧ u.dev.txt.strs.length = d.txt.strs.length + 1
            ∧ ∃ q, u.dev.txt.strs.getLast? = some q ∧ q.port = x ∧ q.vc = v ∧ q.job = g.job ∧ q.kind = g.kind ∧ q.text = g.text ∧ q.trunc = false)
    let start := addText { job := BitVec.ofNat 32 seq, kind, next := 0, text := [], excess := false } text
    (longTaken c s.dev r → r.crcBad = false → 8 ≤ payload.length → 1 ≤ kind → kind ≤ 3 → last ≤ 1 →
      (seq ≠ 0xFFFFFFFF → ¬ held → refused (vcOf d x v).str)
      ∧ (seq = 0xFFFFFFFF ∨ held →
          (frag = 0 → (vcOf d x v).str = none → taken start)
          ∧ (∀ g, (vcOf d x v).str = some g → frag ≠ 0 → (frag = g.next → taken (addText g text)) ∧ (frag ≠ g.next → refused none))
          ∧ (frag ≠ 0 → (vcOf d x v).str = none → (vcOf d x v).strBad = false → refused none)))
    ∧ (∀ f, start.text = text.take 8192 ∧ start.next = 1 ∧ (start.excess = true ↔ 8192 < text.length)
        ∧ (addText f text).text.length ≤ Nat.max f.text.length 8192)
    ∧ (clocked s.dev = true → running c 0x1A = true → ∀ q rest, s.dev.txt.strs = q :: rest → ∃ u e, exec .tokenizeDone s = .next u
        ∧ u.committed = c ∧ u.dev.txt.queue = s.dev.txt.queue ++ [e] ∧ e.port = q.port ∧ e.vc = q.vc ∧ e.job = q.job ∧ e.kind = q.kind
        ∧ (∀ ts set, q.toks = some (ts, set) → e.tokens = ts.take 2048 ∧ e.setId = set)
        ∧ e.tokens.length ≤ 2048 ∧ u.dev.txt.strs.length = rest.length ∧ u.dev.mem = s.dev.mem ∧ u.dev.jobs = s.dev.jobs)

/-- R142, R143: a FIRST packet of bulk load that passes checks 2 to 6 stores its data in the target, and STATE, NEXT and the byte count follow;
LAST with the right CRC is DONE, with a wrong CRC FAILED and not stored. A later packet whose identity or address does not
continue the transfer fails it; so do a payload CRC error and a full buffer, in the order of R142's table. A failed packet stores nothing and is logged. -/
def Obligations.BulkLoadsCheckAndStore : Prop :=
  ∀ (r : RxHdr) (payload : List Byte) (s : State), rxOn s.committed s.dev r.port = true →
    let c := s.committed
    let d := rxSeen s.dev r
    let x : Nat := r.port
    let target := fld payload 0 1
    let flags := fld payload 1 1
    let id := fld payload 2 2
    let a := fld payload 4 8
    let data := payload.drop 16
    let n := data.length
    let b := (rxOf d x).bulk
    let first := bitOf flags 0 = true
    let goes := first ∨ b.state = 1 ∧ b.id.toNat = id ∧ b.next = a
    let seed := if bitOf flags 0 then 0xFFFFFFFF else b.crc
    let already := if bitOf flags 0 then 0 else b.bytes
    let crc := crcFrom seed data
    let failed := fun (cause : BitVec 4) => ∃ u, exec (.bulkLoad r payload) s = .next u ∧ u.committed = c ∧ u.dev.mem = d.mem ∧ u.dev.regs = d.regs
      ∧ u.dev.jobs = d.jobs ∧ (rxOf u.dev x).bulk.state = 3 ∧ (rxOf u.dev x).bulk.cause = cause ∧ (rxOf u.dev x).bulk.bytes = already
      ∧ Logged d u.dev (fun e => e.code = 0x0105 ∧ e.unit = 0x14 + x ∧ e.detail = [x, id, cause.toNat, already])
    (isBulk d x r.vc = false → exec (.bulkLoad r payload) s = .next { s with dev := countNoJob d x 1 })
    ∧ (isBulk d x r.vc = true →
      (¬ first → b.state = 3 → exec (.bulkLoad r payload) s
          = .next { s with dev := if r.crcBad then setRx d x (fun q => { q with crcBad := q.crcBad + 1 }) else d })
      ∧ (¬ goes → b.state ≠ 3 → failed 3)
      ∧ (goes → (first ∨ b.state ≠ 3) → (bulkSize d target = none → failed 1)
          ∧ (∀ size, bulkSize d target = some size →
              (n % 4 ≠ 0 ∨ a % 4 ≠ 0 ∨ size < a + n → failed 1)
              ∧ (n % 4 = 0 → a % 4 = 0 → a + n ≤ size →
                  (bulkState c d target a n = false → failed 2)
                  ∧ (bulkState c d target a n = true →
                      let full := 11 * 262144 < d.bulkLevel - 40 * (d.clk.mono - d.bulkAt) + 11 * n
                      (r.crcBad = true → failed 6)
                      ∧ (r.crcBad = false → full → failed 5)
                      ∧ (r.crcBad = false → ¬ full → bitOf flags 1 = true → ~~~ crc ≠ BitVec.ofNat 32 (fld payload 12 4) → failed 4)
                      ∧ (r.crcBad = false → ¬ full → (bitOf flags 1 = true → ~~~ crc = BitVec.ofNat 32 (fld payload 12 4)) → d.ecc = [] → n ≠ 0 →
                          ∃ u, exec (.bulkLoad r payload) s = .next u ∧ u.committed = c ∧ u.dev.mem = Memory.setAll d.mem (key target a) data
                            ∧ u.dev.regs = d.regs ∧ u.dev.jobs = d.jobs ∧ (rxOf u.dev x).bulk.state = (if bitOf flags 1 then 2 else 1)
                            ∧ (rxOf u.dev x).bulk.next = a + n ∧ (rxOf u.dev x).bulk.bytes = satAdd 32 already n ∧ (rxOf u.dev x).bulk.crc = crc))))))

/-- R62, R63, R71, R204, R242, R294, R337: every Pricking word is offered at its issue cycle, a SLACK word after the governor's delay. The word that is
accepted is in flight from that cycle; a Bobbin that accepts no word makes it ISSUE_MISS, and so does an uncorrectable error in
its read; a Bobbin that stops in the very cycle refuses it. A replay word whose guard has not tripped is not offered, and a DDR5 move
then leaves the cycles that it would take idle. The sequencer reads the descriptors of a word that it offers (log entry 101). The operations that a slab step expands are offered at the
step's issue plus OFFSET, each from a descriptor of its class (R65; how the class shows is DEDUCED, log entry 75). Words wait for the cycle only of a partition that is committed RUN. -/
def Obligations.WordsIssueAtTheirCycle : Prop :=
  ∀ (i : Instr) (s : State),
    let c := s.committed
    let d := s.dev
    let left := fun (e : Dev) => ({ s with dev := e } : State)
    (∀ p k cls op, opsWord i = some (p, k, cls, op) →
      (issuing c d p = false ∨ opAt (imgOf d p) k = none → exec i s = .next s)
      ∧ (∀ w, issuing c d p = true → opAt (imgOf d p) k = some w →
          let at_ := offerAt d p w
          let due := wClass w = cls ∧ wOp w = op ∧ (partOf d p).issued.contains (k, none) = false ∧ d.clk.offset ≤ at_
          let m := markIssued (reachIssue c d at_) p k none
          let r := (readWord c m (imgOf d p) p k).1
          let bad := (readWord c m (imgOf d p) p k).2 = true
          let idle := wReplay w = true ∧ replayDue r (imgOf d p) p w = false
          let e := readDescs c r (imgOf d p) p (wDescs w)
          let cycles := (takeDdr r p r.clk.offset (moveD (descAt (imgOf d p) (wDesc w))).size).1
          (¬ due → exec i s = .next s)
          ∧ (due → idle → exec i s = .next (left (if wClass w = 3 ∧ 3 ≤ wOp w then cycles else r)))
          ∧ (due → ¬ idle → bad → exec i s = .next (left (fault r p at_ 1 k)))
          ∧ (due → ¬ idle → ¬ bad →
              (BobbinRefuses c e p w → exec i s = .next (left (fault e p e.clk.offset 1 k)))
              ∧ (¬ BobbinRefuses c e p w → ∃ u, exec i s = .next (left u) ∧ Accepted e u p k w (descAt (imgOf d p) (wDesc w)) (auxOf (imgOf d p) w) (wDur w)))
          ∧ ((∀ v ∈ d.agenda, at_ < v.at_) → due → r.clk.offset = at_ ∧ e.clk.offset = at_)))
    ∧ (∀ p k di w offset slab dur ok, slabRow d i = some (p, k, di, w, offset, slab, dur, ok) →
        let step := (partOf d p).steps.find? (fun t => t.op == k)
        (issuing c d p = false ∨ step = none → exec i s = .next s)
        ∧ (∀ t, issuing c d p = true → step = some t →
            let at_ := t.issue + offset
            let due := t.slab = slab ∧ slabKind (imgOf d p) di = some (slabClass i) ∧ ok = true ∧ (partOf d p).issued.contains (k, some di) = false ∧ d.clk.offset ≤ at_ ∧ at_ < periodOf d
            let e := readDescs c (markIssued (reachIssue c d at_) p k (some di)) (imgOf d p) p [di]
            (¬ due → exec i s = .next s)
            ∧ (due → BobbinRefuses c e p w → exec i s = .next (left (fault e p e.clk.offset 1 k)))
            ∧ (due → ¬ BobbinRefuses c e p w → ∃ u, exec i s = .next (left u) ∧ Accepted e u p k w (descAt (imgOf d p) di) [] dur)))

/-- R63, R174, R201: an operation is complete at the cycle in which its last result is readable, and leaves the machine; its results are stored
the cycle before. An operation that has not completed by its limit is recorded LATE in the cycle after, and is not stopped. A GUARD
word trips exactly when its count is above SAT_LIMIT. A one-row LS_COPY of at most 512 bytes copies them. -/
def Obligations.OperationsCompleteOrRunLate : Prop :=
  ∀ (s : State),
    let d := s.dev
    let left := fun (e : Dev) => ({ s with dev := e } : State)
    -- what falls due at a Tambour meanwhile is its own affair (R81)
    let tambsDue := fun (u : Dev) => (∀ i, i < 4 → (tambOf d i).edge = none ∧ (tambOf d i).trigAt = none) → u.tambs = d.tambs
    (clocked d = false ∨ d.agenda.all (fun v => v.act != .finish) = true → exec .operationComplete s = .next s)
    ∧ (clocked d = false ∨ d.agenda.all (fun v => v.act != .late) = true → exec .late s = .next s)
    ∧ (∀ (f : Flight) (t pr : Nat) (rest : List Ev), clocked d = true → d.clk.offset ≤ t → t < periodOf d → flightOf d f.id = some f →
        (∀ v ∈ rest, t < v.at_) →
        let e := tamboursDue s.committed (elapse d (t - d.clk.offset))
        let others := d.flights.filter (fun g => g.id != f.id)
        let later := rest.filter (fun v => v.fl != f.id)
        let runs := ∀ n, f.bob = some n → (bobOf d n).accepting = true
        (d.agenda = ⟨t, pr, f.id, .finish⟩ :: rest → exec .operationComplete s = .next (left { e with flights := others, agenda := later }))
        ∧ (d.agenda = ⟨t, pr, f.id, .late⟩ :: rest → f.late = false → f.part < 8 →
            ∃ u, exec .late s = .next (left u) ∧ u = { e with agenda := rest, flights := u.flights, parts := u.parts }
              ∧ flightOf u f.id = some { f with late := true } ∧ (∀ q, q ≠ f.part → partOf u q = partOf d q)
              ∧ partOf u f.part = { partOf d f.part with faults := (partOf d f.part).faults ++ [⟨f.limit + 1, 2, f.op⟩] })
        ∧ (∀ a k bytes, d.agenda = ⟨a, 11, f.id, .put [(k, bytes)]⟩ :: ⟨t, pr, f.id, .finish⟩ :: rest → d.clk.offset ≤ a → a < t → runs →
            d.ecc = [] → bytes ≠ [] →
            ∃ u, exec .operationComplete s = .next (left u)
              ∧ tambsDue u ∧ u = { d with clk := u.clk, tambs := u.tambs, flights := others, agenda := later, mem := Memory.setAll d.mem k bytes } ∧ u.clk.offset = t)
        ∧ (∀ a ord n x r lim, d.agenda = ⟨a, ord, f.id, .whole⟩ :: ⟨t, pr, f.id, .finish⟩ :: rest → d.clk.offset ≤ a → a < t → runs →
            wClass f.word.toNat = 10 → f.bob = some n → n < 8 → f.part < 8 → guardEntry (imgOf d f.part) (bitsOf f.word.toNat 5 0) = some (x, r, lim) →
            let g := bitsOf f.word.toNat 5 0
            let count := (assoc (bobOf d n).guards g).getD 0
            ∃ u, exec .operationComplete s = .next (left u)
              ∧ tambsDue u ∧ u = { d with clk := u.clk, tambs := u.tambs, flights := others, agenda := later, parts := u.parts, bobs := u.bobs } ∧ u.clk.offset = t
              ∧ (count ≤ lim → u.parts = d.parts ∧ u.bobs = d.bobs)
              ∧ (lim < count → bobOf u n = { bobOf d n with tripNow := (bobOf d n).tripNow ||| BitVec.ofNat 64 (2 ^ g), replay := (bobOf d n).replay + 1 }
                  ∧ partOf u f.part = { partOf d f.part with trips := (partOf d f.part).trips ++ [(g, count)] }))
        ∧ (∀ a n from_ dest, d.agenda = ⟨a, 0, f.id, .chunk 0⟩ :: ⟨t, pr, f.id, .finish⟩ :: rest → d.clk.offset ≤ a → a + 1 < t → runs → d.ecc = [] →
            wClass f.word.toNat = 3 → wOp f.word.toNat = 0 → f.bob = some n → n < 8 → f.done = some t →
            placeOf (moveD f.desc).src = .localStore from_ → placeOf (moveD f.desc).dst = .localStore dest → (moveD f.desc).rows = 1 →
            let m := (moveD f.desc).rowBytes
            1 ≤ m → m ≤ 512 → from_ + m ≤ 20971520 → dest + m ≤ 20971520 →
            ∃ u, exec .operationComplete s = .next (left u) ∧ u.clk.offset = t
              ∧ tambsDue u ∧ u = { d with clk := u.clk, tambs := u.tambs, flights := others, agenda := later, mem := Memory.setAll d.mem (key (8 + n) dest) (Memory.getN d.mem (key (8 + n) from_) m) }))

/-- R350, R351, R355, R368, R369, R372, R373, R374, R376: a job whose verdict is published is released in order on its binding: a frame
start, PAGE_BEGIN, its events and, of a read job, its records. PAGE_END follows once JOB_DONE has named a read job and its contexts are
done, with its frame end, and with a GAP before it when a record was lost. A STREAM_HEADER that is due is written with the first record that
comes to wait, where it fits (log entry 100). A port that runs and is not held sends the packets of the next channel that has one ready, 70
cycles after its record came to wait (R15, R16), behind the packet in progress and the entry into HS, the STREAM_HEADER before the channel's
first record, and first the crop lines that a hold has cut off. Each packet takes its byte clocks, and its quota returns with its last byte. -/
def Obligations.OutputsReleaseEndAndSend : Prop :=
  ∀ (s : State),
    let c := s.committed
    let d := s.dev
    let left := fun (e : Dev) => ({ s with dev := e } : State)
    let chan := fun (e : Dev) (x v : Nat) => ((txOf e x).vcs[v]?).getD {}
    let elsewhere := fun (e u : Dev) (x v : Nat) => u = { e with out := u.out, health := u.health, jobs := u.jobs, txt := u.txt, gone := u.gone }
      ∧ (∀ y, y ≠ x → txOf u y = txOf e y) ∧ ∀ w, w ≠ v → chan u x w = chan e x w
    -- a record as it comes to wait, at an address of the output buffer that is open
    let lies := fun (bytes : List Byte) (a : Nat) => ({ bytes := bytes, at_ := d.clk.mono, addr := a } : Rec)
    -- elements come to wait on a channel once some quota is taken; they bring the STREAM_HEADER that is due
    let queued := fun (u : Dev) (x v : Nat) (items : List OutItem) (used : Nat) =>
      let q : TxVc := { chan d x v with q := (chan d x v).q ++ items }
      let opens := q.hasRec = true ∧ q.header = true ∧ 48 + reserveBytes d x ≤ quotaBytes d x - (used + leavingBytes d x)
      (txOf u x).used = (if opens then used + 48 else used) ∧ (¬ opens → chan u x v = q)
        ∧ (opens → ∃ a, chan u x v = { q with header := false, stream := some (lies (recStream d x v) a) })
    (∀ (p : Fin 8) (o : Nat), clocked d = false ∨ hasImage d p = false → exec (.jobRelease p o) s = .next s ∧ exec (.pageEnd p o) s = .next s)
    ∧ (∀ (p : Fin 8) (o : Nat) (x : OutJob) (j : Job), clocked d = true → hasImage d p = true → firstOn d p o = some x → jobOf d x.job = some j →
        x.port < 2 → x.vc < 16 →
        (x.released = true ∨ j.pubVer = false → exec (.jobRelease p o) s = .next s)
        ∧ (x.released = false → j.pubVer = true → x.admitted = some true → (chan d x.port x.vc).drop = none →
            let read := j.verdict = some true
            let recs := if read then x.recs else []
            let gone := if read then 0 else x.recs.foldl (fun n r => n + r.size) 0
            -- a PAGE_BEGIN that did not fit is the record of index 0 that was lost
            let begun := (outNow d x).firstLost ≠ some 0
            ∃ u a, exec (.jobRelease p o) s = .next (left u) ∧ elsewhere d u x.port x.vc ∧ u.health = d.health ∧ u.jobs = d.jobs ∧ u.txt = d.txt
              ∧ u.gone = d.gone
              ∧ queued u x.port x.vc (OutItem.frameStart (frameNo j.seq) :: (if begun then [OutItem.item (lies (recPageBegin j x.reread) a)] else [])
                  ++ (x.evs ++ recs).map (fun r => OutItem.item { r with at_ := d.clk.mono, early := true })) ((txOf d x.port).used - gone)
              ∧ ∀ y ∈ u.out.jobs, y.job = x.job → y.out = x.out → y.released = true ∧ y.evs = [] ∧ y.recs = []
                ∧ y.count = (if begun then 1 else 0) + x.evs.length + recs.length)
        ∧ (x.released = false ∨ (j.verdict = some true ∧ ¬ (j.doneNamed = true ∧ contextsDone d j = true)) → exec (.pageEnd p o) s = .next s)
        ∧ (x.released = true → (j.verdict = some true → j.doneNamed = true ∧ contextsDone d j = true) → x.admitted = some true →
            ∃ u k more g a, exec (.pageEnd p o) s = .next (left u) ∧ elsewhere d u x.port x.vc
              ∧ (x.firstLost = none → u.health = d.health ∧ k = 0 ∧ more = 40 ∧ g = [])
              ∧ (∀ i, x.firstLost = some i → k = 1 ∧ more = 72 ∧ (∃ a, g = [OutItem.item (lies (recGap x.reread j.seq x.lost x.lostB false i) a)])
                  ∧ Logged d u (fun e => e.code = 0x000D ∧ e.unit = 0x1C ∧ e.job = j.seq))
              ∧ queued u x.port x.vc (g ++ [.item (lies (recPageEnd d j x.reread (x.count + k) x.crops x.firstLost.isSome false) a), .frameEnd (frameNo j.seq)])
                  ((txOf d x.port).used + more)
              ∧ ((∀ y ∈ d.out.jobs, y.job = x.job → y.out ≠ x.out → y.ended = true) → u.jobs = d.jobs.filter (fun q => q.id != x.job)
                  ∧ (d.clk.mono, j) ∈ u.gone ∧ ∀ y ∈ u.out.jobs, y.job ≠ x.job)))
    ∧ (∀ (x : Fin 2),
        let due := fun (n : Nat) => passCycles c d (Nat.max n (txOf d x).laneAt + (if (txOf d x).hs then 0 else hsEntry d x) - d.clk.mono)
        (clocked d = false ∨ portDue (txOf d x) = none → exec (.recordSend x) s = .next s)
        ∧ (∀ n, portDue (txOf d x) = some n → due n = none → exec (.recordSend x) s = .next s)
        ∧ (∀ n e, clocked d = true → portDue (txOf d x) = some n → due n = some e →
            let t := txOf e x
            let sends := running c (0x18 + x) = true ∧ t.held = false
            -- packets go on the lanes without gap, each with the quota that returns as it ends
            let go := fun (u : Dev) (v : Nat) (ps : List (Packet × Nat)) => (txOf u x).hs = true ∧ (txOf u x).last = v ∧ (txOf u x).wire = ps.map (·.1)
              ∧ (txOf u x).used = t.used - (ps.map (·.2)).sum
              ∧ (∀ i, i < ps.length → (txOf u x).leaving[i]? = some
                  (e.clk.mono + byteCycles e x ((ps.take (i + 1)).map (fun p => p.1.clocks)).sum, ((ps.map (·.2))[i]?).getD 0))
              ∧ (ps ≠ [] → (txOf u x).laneAt = e.clk.mono + byteCycles e x (ps.map (fun p => p.1.clocks)).sum)
            (¬ sends ∨ t.rest = none ∧ nextVc t e.clk.mono = none → exec (.recordSend x) s = .next (left e))
            ∧ (∀ v ls, sends → t.rest = some (v, ls) → ∃ u, exec (.recordSend x) s = .next (left u) ∧ u = { e with out := u.out }
                ∧ go u v (linePackets v ls) ∧ (txOf u x).rest = none ∧ (txOf u x).vcs = t.vcs ∧ (txOf u x).sent = t.sent)
            ∧ (∀ v, sends → t.rest = none → nextVc t e.clk.mono = some v →
                let q := chan e x v
                ∃ u, exec (.recordSend x) s = .next (left u)
                  ∧ (let sent := fun (r : Rec) (after : TxVc) =>
                        (txOf u x).wire = .record v (readRec e r).bytes :: (readRec e r).lines.map (fun l => Packet.cropLine v l)
                        ∧ (e.ecc = [] → elsewhere e u x v ∧ u.health = e.health ∧ u.jobs = e.jobs ∧ u.txt = e.txt ∧ u.gone = e.gone
                          ∧ chan u x v = after ∧ (txOf u x).sent = t.sent + 1 ∧ go u v ((.record v r.bytes, r.bytes.length) :: linePackets v r.lines))
                    let frame := fun (k : Packet) (rest : List OutItem) => elsewhere e u x v ∧ u.health = e.health ∧ u.jobs = e.jobs ∧ u.txt = e.txt
                      ∧ u.gone = e.gone ∧ chan u x v = { q with q := rest } ∧ (txOf u x).sent = t.sent ∧ go u v [(k, 0)]
                    (∀ h, q.nextIsRec = true → q.stream = some h → sent h { q with stream := none })
                    ∧ (∀ r rest, q.stream = none → q.free = r :: rest → sent r { q with free := rest })
                    ∧ (∀ r rest, q.stream = none → q.free = [] → q.q = .item r :: rest → sent r { q with q := rest })
                    ∧ (∀ n rest, q.free = [] → q.q = .frameStart n :: rest → frame (.frameStart v n) rest)
                    ∧ (∀ n rest, q.free = [] → q.q = .frameEnd n :: rest → frame (.frameEnd v n) rest)))))

/-- R351, R376, R377: a port with nothing ready to send leaves HS once the linger has passed behind its last packet; a hold that counts cuts
the unit off behind the packet, or the crop line, in progress and makes the port leave HS and hold; release enters HS again; a hold
that has lasted HOLD_TIMEOUT_MS raises one HOLD_TIMEOUT event in that hold, and none with HOLD_TIMEOUT_MS = 0. -/
def Obligations.HoldsStopAndResumeThePort : Prop :=
  ∀ (x : Fin 2) (s : State),
    let c := s.committed
    let d := s.dev
    let left := fun (e : Dev) => ({ s with dev := e } : State)
    let t := txOf d x
    let ms := cf d .oTiming x 0 31 16
    let on := clocked d = true ∧ running c (0x18 + x) = true
    let due := passCycles c d (t.heldAt + 1100000 * ms - d.clk.mono)
    let linger := passCycles c d (t.laneAt + byteCycles d x (16 * cf d .oTiming x 0 15 8) - d.clk.mono)
    let keeps := fun (e u : Dev) => u = { e with out := u.out } ∧ u.out = { e.out with tx := u.out.tx } ∧ ∀ y, y ≠ x.val → txOf u y = txOf e y
    -- out of HS behind the packet that ends in a cycle: 32 byte clocks of exit
    let leaves := fun (e : Dev) (t : TxPort) (end_ : Nat) => ({ t with hs := false, hsEnd := end_, laneAt := end_ + byteCycles e x 32 } : TxPort)
    (¬ on → exec (.hsExit x) s = .next s ∧ exec (.outHold x) s = .next s ∧ exec (.outHoldRelease x) s = .next s ∧ exec (.holdTimeout x) s = .next s)
    ∧ (on → t.hs = false ∨ linger = none → exec (.hsExit x) s = .next s)
    ∧ (∀ e, on → t.hs = true → linger = some e → (txOf e x).hs = true →
        ((∃ n, portDue (txOf e x) = some n ∧ n ≤ e.clk.mono) → exec (.hsExit x) s = .next (left e))
        ∧ ((∀ n, portDue (txOf e x) = some n → e.clk.mono < n) → ∃ u, exec (.hsExit x) s = .next (left u) ∧ keeps e u
            ∧ txOf u x = leaves e (txOf e x) (Nat.max e.clk.mono (txOf e x).laneAt)))
    ∧ (on → t.held = false → ∃ u, exec (.outHold x) s = .next (left u) ∧ keeps d u
        ∧ (let v := txOf u x
          let k := (t.leaving.takeWhile (fun p => decide (p.1 ≤ d.clk.mono))).length + 1
          let cut := (t.wire.drop k).filterMap (fun p => match p with | .cropLine w l => some (w, l) | _ => none)
          v.held = true ∧ v.heldAt = d.clk.mono ∧ v.hs = false ∧ v.tmoDone = false ∧ v.holds = t.holds + 1 ∧ v.vcs = t.vcs
            ∧ v.wire = t.wire.take k ∧ v.leaving = t.leaving.take k ∧ v.used = t.used + ((t.leaving.drop k).map (·.2)).sum
            ∧ (cut = [] → v.rest = t.rest) ∧ (∀ w l more, cut = (w, l) :: more → v.rest = some (w, cut.map (·.2)))
            ∧ (t.hs = true → ∃ n, v = leaves d v n ∧ d.clk.mono ≤ n ∧ (∀ p, (t.leaving.take k).getLast? = some p → n = Nat.max d.clk.mono p.1))))
    ∧ (on → t.held = true → exec (.outHold x) s = .next s ∧ ∃ u, exec (.outHoldRelease x) s = .next (left u) ∧ keeps d u
        ∧ txOf u x = { t with held := false, hs := true, laneAt := Nat.max d.clk.mono t.laneAt + hsEntry d x })
    ∧ (on → t.held = false → exec (.outHoldRelease x) s = .next s)
    ∧ (t.held = false ∨ t.tmoDone = true ∨ ms = 0 ∨ due = none → exec (.holdTimeout x) s = .next s)
    ∧ (on → t.held = true → t.tmoDone = false → ms ≠ 0 → ∀ e, due = some e →
        let counted := setTx e x (fun t => { t with tmo := true, tmoDone := true, tmos := t.tmos + 1, tmoAt := some e.clk.mono })
        let reported := cf e .oSnap 0 0 9 9 = 1
        ∃ u, exec (.holdTimeout x) s = .next (left u) ∧ u = { e with out := u.out, health := u.health }
          ∧ (¬ reported → u.out = counted.out)
          ∧ (reported → u.out = (handSnap c counted { bytes := recEvent false noWord noWord 0x000C (0x18 + x) 255 e.clk.time [x.val, ms] }).out)
          ∧ Logged e u (fun g => g.code = 0x000C ∧ g.unit = 0x18 + x.val ∧ g.detail = [x.val, ms]))

/-! ### Adaptation, the memory controller and the TAP -/

/-- R391, R393, R395, R397, R398, R399, R403, R404: a fill zeroes the guarded staging range and nothing else, and sets STAGE_READY; a batch
that was staged and not published is built anew (DESIGN CHOICE, log entry 82). Staging begins at offset 64 after a START or a swap, and a
checkpoint's copy there while its partition runs. A batch is staged of the next samples of the permutation that pass R393's checks, at most B:
the unpublished half then holds its header, with the scalars of its step, and for every filled slot the sample's entry and data; its step
and decay products follow the last applied batch, and nothing else of memory changes. A checkpoint copies the state area behind a header with
its CRC, once no running image claims its place (DESIGN CHOICE, log entry 102); a restore copies it back and makes the run ACTIVE when
the CRC matches and the partition has not run, and else fails. Without such work due, the events change nothing. -/
def Obligations.AdaptationStagesCheckpointsAndRestores : Prop :=
  ∀ (s : State),
    let c := s.committed
    let d := s.dev
    let a := d.adapt
    let left := fun (e : Dev) => ({ s with dev := e } : State)
    let on := alive d = true ∧ running c 0x1D = true
    let kept0 := if a.staged = none ∨ a.run ≠ .active then a else { a with
      staged := none, spos := a.pos, sIdx := a.done, batch := if a.pos = 0 then 0 else a.batch - 1
      perm := adaptPerm a.seed a.epoch.toNat (setCount d) }
    let takes := on ∧ a.stageAt ≤ d.clk.mono ∧ (adaptGuard d).adapt.run = .active ∧ (adaptGuard d).adapt.ready = true ∧ (adaptGuard d).adapt.staged = none
    let ends := setCount d ≤ a.spos ∧ a.epochs ≤ a.sIdx + 1
    -- the epoch that is staged from, and the samples taken
    let e0 := if setCount d ≤ a.spos ∧ a.sIdx + 1 < a.epochs then nextEpoch d else d
    let xs := (fillSlots c (batchSize d) (setCount d) e0 []).2
    let spos := (fillSlots c (batchSize d) (setCount d) e0 []).1.adapt.spos
    let base := ((a.shown.filter (·.apply)).map (fun q => (q.p1, q.p2, q.step))).getD (a.p1, a.p2, a.step.toNat)
    let slot := cf d .aStage 0 0 28 16 * 1024
    let area := (stateArea d).1
    let n := (stateArea d).2
    let within := d.ddr.state = .ready ∧ d.ecc = [] ∧ n ≠ 0 ∧ inRegions d regsAdapt area n = true ∧ inRegions d regsAdapt (ckptAt d) 256 = true
      ∧ inRegions d regsAdapt (ckptAt d) 64 = true ∧ inRegions d regsAdapt (ckptAt d + 256) n = true
    let copies := alive d = true ∧ a.copy = 1 ∧ a.copyAt ≤ d.clk.mono ∧ meetsClaims c d (ckptAt d) (256 + n) = false
    let kept := ddrPeek d (ckptAt d + 256) n
    let h := ddrPeek d (ckptAt d) 64
    (¬ (on ∧ (adaptGuard d).adapt.filling = true) → exec .stageFillDone s = .next (left (adaptGuard d)))
    ∧ (on → (adaptGuard d).adapt.filling = true → ∃ u, exec .stageFillDone s = .next (left u)
        ∧ u = { d with mem := u.mem, ecc := u.ecc, adapt := { kept0 with filling := false, ready := true } }
        ∧ ∀ k, Memory.get u.mem k =
            if key 1 (stageBase d) ≤ k ∧ k < key 1 (stageBase d) + 2 * halfSize d then Memory.unlisted k else Memory.get d.mem k)
    ∧ ((adaptAction c d 1).adapt.stageAt = d.clk.mono + 64)
    ∧ (running c (adaptPart d) = true → a.run = .active → a.copy = 0 → a.ready = true → ∀ b, a.staged = some b →
        swapHalf c d = { d with adapt := { a with half := !a.half, shown := some b, staged := none, stageAt := d.clk.mono - d.clk.offset + 64 } })
    ∧ ((adaptAction c d 3).adapt.copy = 1 ∧ (adaptAction c d 3).adapt.copyAt = (if running c (adaptPart d) then d.clk.mono + 64 else d.clk.mono))
    ∧ (¬ takes → exec .batchStaged s = .next (left (adaptGuard d)))
    ∧ (takes → ends → exec .batchStaged s = .next s)
    ∧ (takes → ¬ ends → d.ecc = [] → Memory.wf d.mem = true → ∃ u, exec .batchStaged s = .next (left u)
        ∧ u = { d with mem := u.mem, health := u.health, ddr := u.ddr, adapt := u.adapt }
        ∧ u.adapt = { a with staged := u.adapt.staged, shown := u.adapt.shown, skipped := u.adapt.skipped, rSkip := u.adapt.rSkip, rList := u.adapt.rList
                             spos := u.adapt.spos, tail := u.adapt.tail, batch := u.adapt.batch, sIdx := u.adapt.sIdx, perm := u.adapt.perm }
        ∧ (xs = [] → u.adapt.staged = none ∧ u.mem = d.mem)
        ∧ (xs ≠ [] → ∃ b, u.adapt.staged = some b ∧ b.apply = true ∧ b.count = xs.length ∧ xs.length ≤ batchSize d ∧ b.spos = spos
            ∧ u.adapt.spos = spos ∧ (b.last = true ↔ setCount d ≤ spos) ∧ u.adapt.batch = e0.adapt.batch + 1
            ∧ b.p1 = mul32 base.1 (param d .aBeta1) ∧ b.p2 = mul32 base.2.1 (param d .aBeta2) ∧ b.step = Nat.min 0xFFFFFFFF (base.2.2 + 1)
            ∧ (let half := key 1 (halfAt d (!a.half))
              let word := fun (o : Nat) => leNat (Memory.getN u.mem (half + o) 4)
              let entry := fun (i : Nat) => (word (256 + 16 * i), word (260 + 16 * i), word (264 + 16 * i), word (268 + 16 * i))
              word 0 = b.step ∧ word 4 = (e0.adapt.first + BitVec.ofNat 32 e0.adapt.sIdx).toNat ∧ word 8 = e0.adapt.batch % 2 ^ 32
                ∧ word 12 = xs.length ∧ word 16 = 0x3F800000 ∧ word 20 = 0 ∧ word 24 = b2n (e0.adapt.batch == 0) + 2 * b2n b.last ∧ word 28 = 0
                ∧ (∀ i w, (stepScalars d b.p1 b.p2)[i]? = some w → word (32 + 4 * i) = w.toNat)
                ∧ Memory.getN u.mem (half + 60) 196 = List.replicate 196 0
                ∧ (∀ i x, xs[i]? = some x → entry i = (x.idx % 2 ^ 32, x.len, x.tag, (rneQuot false 1 xs.length 0).toNat)
                    ∧ Memory.getN u.mem (half + 4096 + i * slot) x.len = x.data)
                ∧ (∀ i, xs.length ≤ i → i < batchSize d → entry i = (0xFFFFFFFF, 0, 0, 0))
                ∧ ∀ k, k < half ∨ half + halfSize d ≤ k → Memory.get u.mem k = Memory.get d.mem k)))
    ∧ (∀ x ∈ xs, (∃ i, e0.adapt.spos ≤ i ∧ i < spos ∧ x.idx = e0.adapt.perm.getD i 0)
        ∧ (let e := ddrPeek d (com d .aSetBase 0 0 * 256 + 32 * x.idx) 32
          fld e 0 8 % 64 = 0 ∧ x.len = fld e 8 4 ∧ x.len ≠ 0 ∧ x.len ≤ slot ∧ x.tag = fld e 16 4 ∧ x.data = ddrPeek d (fld e 0 8) x.len
            ∧ (crc32c x.data).toNat = fld e 12 4))
    ∧ (¬ copies → exec .checkpointDone s = .next s)
    ∧ (copies → within →
        let bytes := ddrPeek d area n
        ∃ u, exec .checkpointDone s = .next (left u) ∧ u = { d with ddr := u.ddr, mem := u.mem, adapt := { a with copy := 0, rFlags := a.rFlags ||| 0x08 } }
          ∧ u.ddr = { (ddrWake d).ddr with known := u.ddr.known }
          ∧ u.mem = Memory.setAll (Memory.setAll d.mem (key 7 (ckptAt d + 256)) bytes) (key 7 (ckptAt d)) (ckptHead d (crc32c bytes) a.clean false))
    ∧ (¬ (alive d = true ∧ a.copy = 2) → exec .restoreDone s = .next s)
    ∧ (alive d = true → a.copy = 2 → within → ∃ u, exec .restoreDone s = .next (left u)
        ∧ u = { d with mem := Memory.setAll d.mem (key 7 area) kept, ddr := u.ddr, health := u.health, adapt := u.adapt } ∧ u.adapt.copy = 0
        ∧ (a.broken = true ∨ running c (adaptPart d) = true ∨ (crc32c kept).toNat ≠ fld h 4 4 →
            u.adapt = { a with copy := 0, run := .idle, clean := false, fail := true, broken := false, rFlags := a.rFlags ||| 0x100 }
            ∧ Logged d u (fun e => e.code = 0x010A))
        ∧ (a.broken = false → running c (adaptPart d) = false → (crc32c kept).toNat = fld h 4 4 →
            u.health = d.health ∧ u.adapt.run = .active ∧ u.adapt.clean = true ∧ u.adapt.seed = BitVec.ofNat 64 (fld h 8 8)
            ∧ u.adapt.first = BitVec.ofNat 32 (fld h 16 4) ∧ u.adapt.epochs = fld h 20 4 ∧ u.adapt.epoch = BitVec.ofNat 32 (fld h 24 4)
            ∧ u.adapt.pos = fld h 28 4 ∧ u.adapt.spos = fld h 28 4 ∧ u.adapt.step = BitVec.ofNat 32 (fld h 32 4)
            ∧ u.adapt.p1 = BitVec.ofNat 32 (fld h 36 4) ∧ u.adapt.p2 = BitVec.ofNat 32 (fld h 40 4) ∧ u.adapt.rList = []
            ∧ u.adapt.perm = adaptPerm (BitVec.ofNat 64 (fld h 8 8)) (fld h 24 4) (setCount d)))

/-- R472, R473, R474, R477, R484, R485, R488, R490: training ends READY, with every byte of the present regions zero after a full training
and every byte kept after the other courses, but for the training area after a retraining (the rest is open, log entry 12), or FAILED at a
step that the course runs, logged; MICROS is the time from the commit of the enable, and in IDLE the DRAM goes into self-refresh. Self-refresh
returns in IDLE 1 µs after the last access; the refresh rate follows the DRAM's temperature, read every 1 ms. Patrol scrub goes on to the next
burst, and from the end of the regions to their start: a corrected word is written back, an uncorrectable one left and counted. -/
def Obligations.MemoryControllerTrainsAndScrubs : Prop :=
  ∀ (s : State),
    let d := s.dev
    let left := fun (e : Dev) => ({ s with dev := e } : State)
    let due := alive d = true ∧ d.pwr.state = .run ∧ d.ddr.state = .ready ∧ cf d .dScrub 0 0 7 0 ≠ 0
    let reach := fun (cycle : Nat) => passCycles s.committed d (cycle - d.clk.mono)
    let nextBurst := match nextScrub d d.ddr.scrubPos.toNat with | some b => some b | none => nextScrub d 0
    let ready : Ddr := { d.ddr with
      state := .ready, micros := BitVec.ofNat 32 ((d.clk.mono - d.ddr.enabledAt) / 1100), idleSr := d.pwr.state == .idle }
    (∀ f sub, alive d = false ∨ d.ddr.state ≠ .training → exec (.ddrTrainingEnd f sub) s = .next s)
    ∧ (alive d = true → d.ddr.state = .training →
        (∀ st sub, courseRuns d.ddr.course st.toNat = false → exec (.ddrTrainingEnd (some st) sub) s = .next s)
        ∧ (∀ st sub, courseRuns d.ddr.course st.toNat = true → ∃ u, exec (.ddrTrainingEnd (some st) sub) s = .next (left u)
            ∧ u = { d with ddr := { d.ddr with state := .failed, failStep := st, failSub := sub }, health := u.health }
            ∧ Logged d u (fun e => e.code = 0x010B ∧ e.unit = 0x1E ∧ e.detail = [st.toNat, sub.toNat]))
        ∧ (∀ sub, d.ddr.course ≠ 1 → d.ddr.course ≠ 2 → exec (.ddrTrainingEnd none sub) s = .next (left { d with ddr := ready }))
        ∧ (∀ sub, d.ddr.course = 1 → ∃ tok, exec (.ddrTrainingEnd none sub) s = .next (left { d with ddr := { ready with trainTok := tok }, free := d.free + 1 }))
        ∧ (∀ sub, d.ddr.course = 2 → ∃ u, exec (.ddrTrainingEnd none sub) s = .next (left u)
            ∧ u = { d with mem := u.mem, ecc := u.ecc, free := d.free + 1
                           ddr := { ready with known := u.ddr.known, trainTok := u.ddr.trainTok, lostTok := u.ddr.lostTok } }
            ∧ (∀ k, Memory.get u.mem k = if key 7 0 ≤ k ∧ k < key 7 0 + storeSize 7 then Memory.unlisted k else Memory.get d.mem k)
            ∧ (∀ i a, i < 5 → (region d i).1 ≤ a → a < (region d i).1 + (region d i).2 → a < storeSize 7 → ddrByte u a = 0)))
    ∧ (let waits := alive d = true ∧ d.pwr.state = .idle ∧ d.ddr.state = .ready ∧ d.ddr.idleSr = false
      let back := reach (d.ddr.lastAt + 1100)
      (∀ e, waits → back = some e → exec .selfRefreshReturn s = .next (left { e with ddr := { e.ddr with idleSr := true } }))
        ∧ (¬ waits ∨ back = none → exec .selfRefreshReturn s = .next s))
    ∧ (∀ hot,
        let reads := alive d = true ∧ d.ddr.state = .ready
        (∀ e, reads → reach d.ddr.hotDue = some e →
            exec (.dramTempRead hot) s = .next (left { e with ddr := { e.ddr with hot := hot, hotDue := e.clk.mono + 1100000 } }))
        ∧ (¬ reads ∨ reach d.ddr.hotDue = none → exec (.dramTempRead hot) s = .next s))
    ∧ (¬ due ∨ nextBurst = none → exec .patrolScrub s = .next s)
    ∧ (∀ b, due → nextBurst = some b →
        (eccIn d (key 7 (b * 64)) 64 = [] → exec .patrolScrub s = .next (left { d with ddr := { d.ddr with scrubPos := BitVec.ofNat 32 (b + 1) } }))
        ∧ (∀ w, eccIn d (key 7 (b * 64)) 64 = [w] → w.1 * 8 / 2 ^ 44 = 7 →
            ((eccJudge w.2).2 = 1 → ∃ u, exec .patrolScrub s = .next (left u) ∧ u.ddr = { d.ddr with ce := d.ddr.ce + 1, scrubPos := BitVec.ofNat 32 (b + 1) }
                ∧ u = { d with mem := Memory.setAll d.mem (w.1 * 8) (peek d (w.1 * 8) 8), ecc := d.ecc.filter (fun x => x.1 != w.1), ddr := u.ddr, health := u.health })
            ∧ ((eccJudge w.2).2 = 2 → ∃ u, exec .patrolScrub s = .next (left u) ∧ u.ddr = { d.ddr with ue := d.ddr.ue + 1, scrubPos := BitVec.ofNat 32 (b + 1) }
                ∧ u = { d with out := u.out, ddr := u.ddr, health := u.health })))

/-- R535, R536: an update of the instruction register selects the code's instruction, or BYPASS for a code without one; leaving FLASH_SPI drives
QSPI_CS_N high. FLASH_SPI is accepted while RESET_N counts low and PWROK is high. Under it, Update-DR drives QSPI_CS_N and starts a
transfer with SEND, after the one that runs; Capture-DR loads the captured byte and whether the last transfer has ended, and QSPI_IO[2] and
QSPI_IO[3] are high. Under SAMPLE/PRELOAD, and under EXTEST, which acts while RESET_N counts low, Update-DR loads the boundary-scan register.
Capture-DR loads the code of R535 under IDCODE, and zero where the bypass register is selected (log entry 9). EXTEST and CLAMP give the pins
that the register covers to it, HIGHZ releases them. -/
def Obligations.TapInstructionsAndFlashTransfers : Prop :=
  ∀ (s : State),
    let d := s.dev
    let j := d.jtag
    let leaves := fun (i : Instr) (k : Jtag) => exec i s = .next { s with dev := { d with jtag := k } }
    let go := fun (k : Jtag) (v : BitVec 10) =>
      if v.getLsbD 8 then { k with csN := !v.getLsbD 9, busy := true, ended := false, spi := k.spi ++ [v.truncate 8] } else { k with csN := !v.getLsbD 9 }
    let off := { j with flash := false, csN := true, busy := false, next := none }
    (∀ code, code ≠ 0x3A → leaves (.jtagUpdateIr code) { off with ir := if code.toNat ≤ 4 then code else 0xFF })
    ∧ leaves (.jtagUpdateIr 0x3A) { j with ir := 0x3A, flash := j.flash || (d.pwr.pwrok && d.pwr.resetLow) }
    ∧ leaves .trstNLow { off with ir := 0x02 }
    ∧ (∀ v, (j.flash = false → j.ir = 0x01 ∨ j.ir = 0x00 ∧ d.pwr.resetLow = true → leaves (.jtagUpdateDr v) { j with bsr := v })
        ∧ (j.flash = false → j.ir ≠ 0x01 → j.ir ≠ 0x00 ∨ d.pwr.resetLow = false → exec (.jtagUpdateDr v) s = .next s)
        ∧ (j.flash = true → j.busy = true → leaves (.jtagUpdateDr v) { j with next := some v })
        ∧ (j.flash = true → j.busy = false → leaves (.jtagUpdateDr v) (go j v)))
    ∧ (j.flash = false → ∃ r, exec .jtagCaptureDr s = .next { s with dev := { d with jtag := { j with dr := r }, free := d.free + 1 } }
        ∧ (j.ir = 0x02 → r = 0x18384BCF) ∧ (2 < j.ir.toNat ∨ j.ir = 0x00 ∧ d.pwr.resetLow = false → r = 0))
    ∧ (flashLevel d = if j.flash then some (j.csN, true, true) else none)
    ∧ (d.pwr.resetLow = true → (j.ir = 0x00 ∨ j.ir = 0x04 → tapTakes d = some .scanned) ∧ (j.ir = 0x03 → tapTakes d = some .hiZ))
    ∧ (d.pwr.resetLow = false ∨ j.ir ≠ 0x00 ∧ j.ir ≠ 0x03 ∧ j.ir ≠ 0x04 → tapTakes d = none)
    ∧ (j.flash = true → ∃ r, leaves .jtagCaptureDr { j with dr := r } ∧ r.truncate 8 = j.byte ∧ r.getLsbD 8 = j.ended ∧ r.getLsbD 9 = false)
    ∧ (∀ byte, (¬ (j.flash = true ∧ j.busy = true) → exec (.flashSpiTransferEnd byte) s = .next s)
        ∧ (j.flash = true → j.busy = true →
            let k := { j with byte := byte, busy := false, ended := true, next := none }
            (j.next = none → leaves (.flashSpiTransferEnd byte) k) ∧ ∀ v, j.next = some v → leaves (.flashSpiTransferEnd byte) (go k v)))
end

