-- ==== Sys2Proof/Laws/State.lean ====
section
/-!
SUPPORT. What each named update of the device leaves alone: one lemma per update and field, so that no proof unfolds a
record update.
-/
namespace Sys2Proof.Machine
set_option Elab.async false

section
variable (d : Dev) (ack : Bool) (out : List Byte)
@[simp] theorem answerBus_clk : (answerBus d ack out).clk = d.clk := rfl
@[simp] theorem answerBus_pwr : (answerBus d ack out).pwr = d.pwr := rfl
@[simp] theorem answerBus_fw : (answerBus d ack out).fw = d.fw := rfl
@[simp] theorem answerBus_xfer : (answerBus d ack out).xfer = d.xfer := rfl
@[simp] theorem answerBus_xferLost : (answerBus d ack out).xferLost = d.xferLost := rfl
@[simp] theorem answerBus_req : (answerBus d ack out).req = d.req := rfl
@[simp] theorem answerBus_regs : (answerBus d ack out).regs = d.regs := rfl
@[simp] theorem answerBus_shadow : (answerBus d ack out).shadow = d.shadow := rfl
@[simp] theorem answerBus_mem : (answerBus d ack out).mem = d.mem := rfl
@[simp] theorem answerBus_ecc : (answerBus d ack out).ecc = d.ecc := rfl
@[simp] theorem answerBus_parts : (answerBus d ack out).parts = d.parts := rfl
@[simp] theorem answerBus_flights : (answerBus d ack out).flights = d.flights := rfl
@[simp] theorem answerBus_agenda : (answerBus d ack out).agenda = d.agenda := rfl
@[simp] theorem answerBus_nextId : (answerBus d ack out).nextId = d.nextId := rfl
@[simp] theorem answerBus_bobs : (answerBus d ack out).bobs = d.bobs := rfl
@[simp] theorem answerBus_tambs : (answerBus d ack out).tambs = d.tambs := rfl
@[simp] theorem answerBus_rx : (answerBus d ack out).rx = d.rx := rfl
@[simp] theorem answerBus_jobs : (answerBus d ack out).jobs = d.jobs := rfl
@[simp] theorem answerBus_nextJob : (answerBus d ack out).nextJob = d.nextJob := rfl
@[simp] theorem answerBus_gone : (answerBus d ack out).gone = d.gone := rfl
@[simp] theorem answerBus_bulkLevel : (answerBus d ack out).bulkLevel = d.bulkLevel := rfl
@[simp] theorem answerBus_bulkAt : (answerBus d ack out).bulkAt = d.bulkAt := rfl
@[simp] theorem answerBus_submits : (answerBus d ack out).submits = d.submits := rfl
@[simp] theorem answerBus_cancels : (answerBus d ack out).cancels = d.cancels := rfl
@[simp] theorem answerBus_kvm : (answerBus d ack out).kvm = d.kvm := rfl
@[simp] theorem answerBus_txt : (answerBus d ack out).txt = d.txt := rfl
@[simp] theorem answerBus_out : (answerBus d ack out).out = d.out := rfl
@[simp] theorem answerBus_adapt : (answerBus d ack out).adapt = d.adapt := rfl
@[simp] theorem answerBus_ddr : (answerBus d ack out).ddr = d.ddr := rfl
@[simp] theorem answerBus_health : (answerBus d ack out).health = d.health := rfl
@[simp] theorem answerBus_jtag : (answerBus d ack out).jtag = d.jtag := rfl
@[simp] theorem answerBus_free : (answerBus d ack out).free = d.free := rfl
end

section
variable (d : Dev) (op tag : BitVec 16) (st : Nat) (b : List Byte)
@[simp] theorem giveReply_clk : (giveReply d op tag st b).clk = d.clk := rfl
@[simp] theorem giveReply_pwr : (giveReply d op tag st b).pwr = d.pwr := rfl
@[simp] theorem giveReply_fw : (giveReply d op tag st b).fw = d.fw := rfl
@[simp] theorem giveReply_xfer : (giveReply d op tag st b).xfer = d.xfer := rfl
@[simp] theorem giveReply_xferLost : (giveReply d op tag st b).xferLost = d.xferLost := rfl
@[simp] theorem giveReply_req : (giveReply d op tag st b).req = d.req := rfl
@[simp] theorem giveReply_regs : (giveReply d op tag st b).regs = d.regs := rfl
@[simp] theorem giveReply_shadow : (giveReply d op tag st b).shadow = d.shadow := rfl
@[simp] theorem giveReply_mem : (giveReply d op tag st b).mem = d.mem := rfl
@[simp] theorem giveReply_ecc : (giveReply d op tag st b).ecc = d.ecc := rfl
@[simp] theorem giveReply_parts : (giveReply d op tag st b).parts = d.parts := rfl
@[simp] theorem giveReply_flights : (giveReply d op tag st b).flights = d.flights := rfl
@[simp] theorem giveReply_agenda : (giveReply d op tag st b).agenda = d.agenda := rfl
@[simp] theorem giveReply_nextId : (giveReply d op tag st b).nextId = d.nextId := rfl
@[simp] theorem giveReply_bobs : (giveReply d op tag st b).bobs = d.bobs := rfl
@[simp] theorem giveReply_tambs : (giveReply d op tag st b).tambs = d.tambs := rfl
@[simp] theorem giveReply_rx : (giveReply d op tag st b).rx = d.rx := rfl
@[simp] theorem giveReply_jobs : (giveReply d op tag st b).jobs = d.jobs := rfl
@[simp] theorem giveReply_nextJob : (giveReply d op tag st b).nextJob = d.nextJob := rfl
@[simp] theorem giveReply_gone : (giveReply d op tag st b).gone = d.gone := rfl
@[simp] theorem giveReply_bulkLevel : (giveReply d op tag st b).bulkLevel = d.bulkLevel := rfl
@[simp] theorem giveReply_bulkAt : (giveReply d op tag st b).bulkAt = d.bulkAt := rfl
@[simp] theorem giveReply_submits : (giveReply d op tag st b).submits = d.submits := rfl
@[simp] theorem giveReply_cancels : (giveReply d op tag st b).cancels = d.cancels := rfl
@[simp] theorem giveReply_kvm : (giveReply d op tag st b).kvm = d.kvm := rfl
@[simp] theorem giveReply_txt : (giveReply d op tag st b).txt = d.txt := rfl
@[simp] theorem giveReply_out : (giveReply d op tag st b).out = d.out := rfl
@[simp] theorem giveReply_adapt : (giveReply d op tag st b).adapt = d.adapt := rfl
@[simp] theorem giveReply_ddr : (giveReply d op tag st b).ddr = d.ddr := rfl
@[simp] theorem giveReply_health : (giveReply d op tag st b).health = d.health := rfl
@[simp] theorem giveReply_jtag : (giveReply d op tag st b).jtag = d.jtag := rfl
@[simp] theorem giveReply_free : (giveReply d op tag st b).free = d.free := rfl
end

section
variable (d : Dev) (p : Nat) (f : Part → Part)
@[simp] theorem setPart_clk : (setPart d p f).clk = d.clk := rfl
@[simp] theorem setPart_pwr : (setPart d p f).pwr = d.pwr := rfl
@[simp] theorem setPart_i3c : (setPart d p f).i3c = d.i3c := rfl
@[simp] theorem setPart_fw : (setPart d p f).fw = d.fw := rfl
@[simp] theorem setPart_xfer : (setPart d p f).xfer = d.xfer := rfl
@[simp] theorem setPart_xferLost : (setPart d p f).xferLost = d.xferLost := rfl
@[simp] theorem setPart_req : (setPart d p f).req = d.req := rfl
@[simp] theorem setPart_regs : (setPart d p f).regs = d.regs := rfl
@[simp] theorem setPart_shadow : (setPart d p f).shadow = d.shadow := rfl
@[simp] theorem setPart_mem : (setPart d p f).mem = d.mem := rfl
@[simp] theorem setPart_ecc : (setPart d p f).ecc = d.ecc := rfl
@[simp] theorem setPart_flights : (setPart d p f).flights = d.flights := rfl
@[simp] theorem setPart_agenda : (setPart d p f).agenda = d.agenda := rfl
@[simp] theorem setPart_nextId : (setPart d p f).nextId = d.nextId := rfl
@[simp] theorem setPart_bobs : (setPart d p f).bobs = d.bobs := rfl
@[simp] theorem setPart_tambs : (setPart d p f).tambs = d.tambs := rfl
@[simp] theorem setPart_rx : (setPart d p f).rx = d.rx := rfl
@[simp] theorem setPart_jobs : (setPart d p f).jobs = d.jobs := rfl
@[simp] theorem setPart_nextJob : (setPart d p f).nextJob = d.nextJob := rfl
@[simp] theorem setPart_gone : (setPart d p f).gone = d.gone := rfl
@[simp] theorem setPart_bulkLevel : (setPart d p f).bulkLevel = d.bulkLevel := rfl
@[simp] theorem setPart_bulkAt : (setPart d p f).bulkAt = d.bulkAt := rfl
@[simp] theorem setPart_submits : (setPart d p f).submits = d.submits := rfl
@[simp] theorem setPart_cancels : (setPart d p f).cancels = d.cancels := rfl
@[simp] theorem setPart_kvm : (setPart d p f).kvm = d.kvm := rfl
@[simp] theorem setPart_txt : (setPart d p f).txt = d.txt := rfl
@[simp] theorem setPart_out : (setPart d p f).out = d.out := rfl
@[simp] theorem setPart_adapt : (setPart d p f).adapt = d.adapt := rfl
@[simp] theorem setPart_ddr : (setPart d p f).ddr = d.ddr := rfl
@[simp] theorem setPart_health : (setPart d p f).health = d.health := rfl
@[simp] theorem setPart_jtag : (setPart d p f).jtag = d.jtag := rfl
@[simp] theorem setPart_free : (setPart d p f).free = d.free := rfl
end

section
variable (d : Dev) (n : Nat) (f : Bob → Bob)
@[simp] theorem setBob_clk : (setBob d n f).clk = d.clk := rfl
@[simp] theorem setBob_pwr : (setBob d n f).pwr = d.pwr := rfl
@[simp] theorem setBob_i3c : (setBob d n f).i3c = d.i3c := rfl
@[simp] theorem setBob_fw : (setBob d n f).fw = d.fw := rfl
@[simp] theorem setBob_xfer : (setBob d n f).xfer = d.xfer := rfl
@[simp] theorem setBob_xferLost : (setBob d n f).xferLost = d.xferLost := rfl
@[simp] theorem setBob_req : (setBob d n f).req = d.req := rfl
@[simp] theorem setBob_regs : (setBob d n f).regs = d.regs := rfl
@[simp] theorem setBob_shadow : (setBob d n f).shadow = d.shadow := rfl
@[simp] theorem setBob_mem : (setBob d n f).mem = d.mem := rfl
@[simp] theorem setBob_ecc : (setBob d n f).ecc = d.ecc := rfl
@[simp] theorem setBob_parts : (setBob d n f).parts = d.parts := rfl
@[simp] theorem setBob_flights : (setBob d n f).flights = d.flights := rfl
@[simp] theorem setBob_agenda : (setBob d n f).agenda = d.agenda := rfl
@[simp] theorem setBob_nextId : (setBob d n f).nextId = d.nextId := rfl
@[simp] theorem setBob_tambs : (setBob d n f).tambs = d.tambs := rfl
@[simp] theorem setBob_rx : (setBob d n f).rx = d.rx := rfl
@[simp] theorem setBob_jobs : (setBob d n f).jobs = d.jobs := rfl
@[simp] theorem setBob_nextJob : (setBob d n f).nextJob = d.nextJob := rfl
@[simp] theorem setBob_gone : (setBob d n f).gone = d.gone := rfl
@[simp] theorem setBob_bulkLevel : (setBob d n f).bulkLevel = d.bulkLevel := rfl
@[simp] theorem setBob_bulkAt : (setBob d n f).bulkAt = d.bulkAt := rfl
@[simp] theorem setBob_submits : (setBob d n f).submits = d.submits := rfl
@[simp] theorem setBob_cancels : (setBob d n f).cancels = d.cancels := rfl
@[simp] theorem setBob_kvm : (setBob d n f).kvm = d.kvm := rfl
@[simp] theorem setBob_txt : (setBob d n f).txt = d.txt := rfl
@[simp] theorem setBob_out : (setBob d n f).out = d.out := rfl
@[simp] theorem setBob_adapt : (setBob d n f).adapt = d.adapt := rfl
@[simp] theorem setBob_ddr : (setBob d n f).ddr = d.ddr := rfl
@[simp] theorem setBob_health : (setBob d n f).health = d.health := rfl
@[simp] theorem setBob_jtag : (setBob d n f).jtag = d.jtag := rfl
@[simp] theorem setBob_free : (setBob d n f).free = d.free := rfl
end

section
variable (d : Dev) (t : Nat) (f : Tamb → Tamb)
@[simp] theorem setTamb_clk : (setTamb d t f).clk = d.clk := rfl
@[simp] theorem setTamb_pwr : (setTamb d t f).pwr = d.pwr := rfl
@[simp] theorem setTamb_i3c : (setTamb d t f).i3c = d.i3c := rfl
@[simp] theorem setTamb_fw : (setTamb d t f).fw = d.fw := rfl
@[simp] theorem setTamb_xfer : (setTamb d t f).xfer = d.xfer := rfl
@[simp] theorem setTamb_xferLost : (setTamb d t f).xferLost = d.xferLost := rfl
@[simp] theorem setTamb_req : (setTamb d t f).req = d.req := rfl
@[simp] theorem setTamb_regs : (setTamb d t f).regs = d.regs := rfl
@[simp] theorem setTamb_shadow : (setTamb d t f).shadow = d.shadow := rfl
@[simp] theorem setTamb_mem : (setTamb d t f).mem = d.mem := rfl
@[simp] theorem setTamb_ecc : (setTamb d t f).ecc = d.ecc := rfl
@[simp] theorem setTamb_parts : (setTamb d t f).parts = d.parts := rfl
@[simp] theorem setTamb_flights : (setTamb d t f).flights = d.flights := rfl
@[simp] theorem setTamb_agenda : (setTamb d t f).agenda = d.agenda := rfl
@[simp] theorem setTamb_nextId : (setTamb d t f).nextId = d.nextId := rfl
@[simp] theorem setTamb_bobs : (setTamb d t f).bobs = d.bobs := rfl
@[simp] theorem setTamb_rx : (setTamb d t f).rx = d.rx := rfl
@[simp] theorem setTamb_jobs : (setTamb d t f).jobs = d.jobs := rfl
@[simp] theorem setTamb_nextJob : (setTamb d t f).nextJob = d.nextJob := rfl
@[simp] theorem setTamb_gone : (setTamb d t f).gone = d.gone := rfl
@[simp] theorem setTamb_bulkLevel : (setTamb d t f).bulkLevel = d.bulkLevel := rfl
@[simp] theorem setTamb_bulkAt : (setTamb d t f).bulkAt = d.bulkAt := rfl
@[simp] theorem setTamb_submits : (setTamb d t f).submits = d.submits := rfl
@[simp] theorem setTamb_cancels : (setTamb d t f).cancels = d.cancels := rfl
@[simp] theorem setTamb_kvm : (setTamb d t f).kvm = d.kvm := rfl
@[simp] theorem setTamb_txt : (setTamb d t f).txt = d.txt := rfl
@[simp] theorem setTamb_out : (setTamb d t f).out = d.out := rfl
@[simp] theorem setTamb_adapt : (setTamb d t f).adapt = d.adapt := rfl
@[simp] theorem setTamb_ddr : (setTamb d t f).ddr = d.ddr := rfl
@[simp] theorem setTamb_health : (setTamb d t f).health = d.health := rfl
@[simp] theorem setTamb_jtag : (setTamb d t f).jtag = d.jtag := rfl
@[simp] theorem setTamb_free : (setTamb d t f).free = d.free := rfl
end

section
variable (d : Dev) (x : Nat) (f : RxPort → RxPort)
@[simp] theorem setRx_clk : (setRx d x f).clk = d.clk := rfl
@[simp] theorem setRx_pwr : (setRx d x f).pwr = d.pwr := rfl
@[simp] theorem setRx_i3c : (setRx d x f).i3c = d.i3c := rfl
@[simp] theorem setRx_fw : (setRx d x f).fw = d.fw := rfl
@[simp] theorem setRx_xfer : (setRx d x f).xfer = d.xfer := rfl
@[simp] theorem setRx_xferLost : (setRx d x f).xferLost = d.xferLost := rfl
@[simp] theorem setRx_req : (setRx d x f).req = d.req := rfl
@[simp] theorem setRx_regs : (setRx d x f).regs = d.regs := rfl
@[simp] theorem setRx_shadow : (setRx d x f).shadow = d.shadow := rfl
@[simp] theorem setRx_mem : (setRx d x f).mem = d.mem := rfl
@[simp] theorem setRx_ecc : (setRx d x f).ecc = d.ecc := rfl
@[simp] theorem setRx_parts : (setRx d x f).parts = d.parts := rfl
@[simp] theorem setRx_flights : (setRx d x f).flights = d.flights := rfl
@[simp] theorem setRx_agenda : (setRx d x f).agenda = d.agenda := rfl
@[simp] theorem setRx_nextId : (setRx d x f).nextId = d.nextId := rfl
@[simp] theorem setRx_bobs : (setRx d x f).bobs = d.bobs := rfl
@[simp] theorem setRx_tambs : (setRx d x f).tambs = d.tambs := rfl
@[simp] theorem setRx_jobs : (setRx d x f).jobs = d.jobs := rfl
@[simp] theorem setRx_nextJob : (setRx d x f).nextJob = d.nextJob := rfl
@[simp] theorem setRx_gone : (setRx d x f).gone = d.gone := rfl
@[simp] theorem setRx_bulkLevel : (setRx d x f).bulkLevel = d.bulkLevel := rfl
@[simp] theorem setRx_bulkAt : (setRx d x f).bulkAt = d.bulkAt := rfl
@[simp] theorem setRx_submits : (setRx d x f).submits = d.submits := rfl
@[simp] theorem setRx_cancels : (setRx d x f).cancels = d.cancels := rfl
@[simp] theorem setRx_kvm : (setRx d x f).kvm = d.kvm := rfl
@[simp] theorem setRx_txt : (setRx d x f).txt = d.txt := rfl
@[simp] theorem setRx_out : (setRx d x f).out = d.out := rfl
@[simp] theorem setRx_adapt : (setRx d x f).adapt = d.adapt := rfl
@[simp] theorem setRx_ddr : (setRx d x f).ddr = d.ddr := rfl
@[simp] theorem setRx_health : (setRx d x f).health = d.health := rfl
@[simp] theorem setRx_jtag : (setRx d x f).jtag = d.jtag := rfl
@[simp] theorem setRx_free : (setRx d x f).free = d.free := rfl
end

section
variable (d : Dev) (x v : Nat) (f : Vc → Vc)
@[simp] theorem setVc_clk : (setVc d x v f).clk = d.clk := rfl
@[simp] theorem setVc_pwr : (setVc d x v f).pwr = d.pwr := rfl
@[simp] theorem setVc_i3c : (setVc d x v f).i3c = d.i3c := rfl
@[simp] theorem setVc_fw : (setVc d x v f).fw = d.fw := rfl
@[simp] theorem setVc_xfer : (setVc d x v f).xfer = d.xfer := rfl
@[simp] theorem setVc_xferLost : (setVc d x v f).xferLost = d.xferLost := rfl
@[simp] theorem setVc_req : (setVc d x v f).req = d.req := rfl
@[simp] theorem setVc_regs : (setVc d x v f).regs = d.regs := rfl
@[simp] theorem setVc_shadow : (setVc d x v f).shadow = d.shadow := rfl
@[simp] theorem setVc_mem : (setVc d x v f).mem = d.mem := rfl
@[simp] theorem setVc_ecc : (setVc d x v f).ecc = d.ecc := rfl
@[simp] theorem setVc_parts : (setVc d x v f).parts = d.parts := rfl
@[simp] theorem setVc_flights : (setVc d x v f).flights = d.flights := rfl
@[simp] theorem setVc_agenda : (setVc d x v f).agenda = d.agenda := rfl
@[simp] theorem setVc_nextId : (setVc d x v f).nextId = d.nextId := rfl
@[simp] theorem setVc_bobs : (setVc d x v f).bobs = d.bobs := rfl
@[simp] theorem setVc_tambs : (setVc d x v f).tambs = d.tambs := rfl
@[simp] theorem setVc_jobs : (setVc d x v f).jobs = d.jobs := rfl
@[simp] theorem setVc_nextJob : (setVc d x v f).nextJob = d.nextJob := rfl
@[simp] theorem setVc_gone : (setVc d x v f).gone = d.gone := rfl
@[simp] theorem setVc_bulkLevel : (setVc d x v f).bulkLevel = d.bulkLevel := rfl
@[simp] theorem setVc_bulkAt : (setVc d x v f).bulkAt = d.bulkAt := rfl
@[simp] theorem setVc_submits : (setVc d x v f).submits = d.submits := rfl
@[simp] theorem setVc_cancels : (setVc d x v f).cancels = d.cancels := rfl
@[simp] theorem setVc_kvm : (setVc d x v f).kvm = d.kvm := rfl
@[simp] theorem setVc_txt : (setVc d x v f).txt = d.txt := rfl
@[simp] theorem setVc_out : (setVc d x v f).out = d.out := rfl
@[simp] theorem setVc_adapt : (setVc d x v f).adapt = d.adapt := rfl
@[simp] theorem setVc_ddr : (setVc d x v f).ddr = d.ddr := rfl
@[simp] theorem setVc_health : (setVc d x v f).health = d.health := rfl
@[simp] theorem setVc_jtag : (setVc d x v f).jtag = d.jtag := rfl
@[simp] theorem setVc_free : (setVc d x v f).free = d.free := rfl
end

section
variable (d : Dev) (x : Nat) (f : TxPort → TxPort)
@[simp] theorem setTx_clk : (setTx d x f).clk = d.clk := rfl
@[simp] theorem setTx_pwr : (setTx d x f).pwr = d.pwr := rfl
@[simp] theorem setTx_i3c : (setTx d x f).i3c = d.i3c := rfl
@[simp] theorem setTx_fw : (setTx d x f).fw = d.fw := rfl
@[simp] theorem setTx_xfer : (setTx d x f).xfer = d.xfer := rfl
@[simp] theorem setTx_xferLost : (setTx d x f).xferLost = d.xferLost := rfl
@[simp] theorem setTx_req : (setTx d x f).req = d.req := rfl
@[simp] theorem setTx_regs : (setTx d x f).regs = d.regs := rfl
@[simp] theorem setTx_shadow : (setTx d x f).shadow = d.shadow := rfl
@[simp] theorem setTx_mem : (setTx d x f).mem = d.mem := rfl
@[simp] theorem setTx_ecc : (setTx d x f).ecc = d.ecc := rfl
@[simp] theorem setTx_parts : (setTx d x f).parts = d.parts := rfl
@[simp] theorem setTx_flights : (setTx d x f).flights = d.flights := rfl
@[simp] theorem setTx_agenda : (setTx d x f).agenda = d.agenda := rfl
@[simp] theorem setTx_nextId : (setTx d x f).nextId = d.nextId := rfl
@[simp] theorem setTx_bobs : (setTx d x f).bobs = d.bobs := rfl
@[simp] theorem setTx_tambs : (setTx d x f).tambs = d.tambs := rfl
@[simp] theorem setTx_rx : (setTx d x f).rx = d.rx := rfl
@[simp] theorem setTx_jobs : (setTx d x f).jobs = d.jobs := rfl
@[simp] theorem setTx_nextJob : (setTx d x f).nextJob = d.nextJob := rfl
@[simp] theorem setTx_gone : (setTx d x f).gone = d.gone := rfl
@[simp] theorem setTx_bulkLevel : (setTx d x f).bulkLevel = d.bulkLevel := rfl
@[simp] theorem setTx_bulkAt : (setTx d x f).bulkAt = d.bulkAt := rfl
@[simp] theorem setTx_submits : (setTx d x f).submits = d.submits := rfl
@[simp] theorem setTx_cancels : (setTx d x f).cancels = d.cancels := rfl
@[simp] theorem setTx_kvm : (setTx d x f).kvm = d.kvm := rfl
@[simp] theorem setTx_txt : (setTx d x f).txt = d.txt := rfl
@[simp] theorem setTx_adapt : (setTx d x f).adapt = d.adapt := rfl
@[simp] theorem setTx_ddr : (setTx d x f).ddr = d.ddr := rfl
@[simp] theorem setTx_health : (setTx d x f).health = d.health := rfl
@[simp] theorem setTx_jtag : (setTx d x f).jtag = d.jtag := rfl
@[simp] theorem setTx_free : (setTx d x f).free = d.free := rfl
end

section
variable (d : Dev) (x v : Nat) (f : TxVc → TxVc)
@[simp] theorem setTxVc_clk : (setTxVc d x v f).clk = d.clk := rfl
@[simp] theorem setTxVc_pwr : (setTxVc d x v f).pwr = d.pwr := rfl
@[simp] theorem setTxVc_i3c : (setTxVc d x v f).i3c = d.i3c := rfl
@[simp] theorem setTxVc_fw : (setTxVc d x v f).fw = d.fw := rfl
@[simp] theorem setTxVc_xfer : (setTxVc d x v f).xfer = d.xfer := rfl
@[simp] theorem setTxVc_xferLost : (setTxVc d x v f).xferLost = d.xferLost := rfl
@[simp] theorem setTxVc_req : (setTxVc d x v f).req = d.req := rfl
@[simp] theorem setTxVc_regs : (setTxVc d x v f).regs = d.regs := rfl
@[simp] theorem setTxVc_shadow : (setTxVc d x v f).shadow = d.shadow := rfl
@[simp] theorem setTxVc_mem : (setTxVc d x v f).mem = d.mem := rfl
@[simp] theorem setTxVc_ecc : (setTxVc d x v f).ecc = d.ecc := rfl
@[simp] theorem setTxVc_parts : (setTxVc d x v f).parts = d.parts := rfl
@[simp] theorem setTxVc_flights : (setTxVc d x v f).flights = d.flights := rfl
@[simp] theorem setTxVc_agenda : (setTxVc d x v f).agenda = d.agenda := rfl
@[simp] theorem setTxVc_nextId : (setTxVc d x v f).nextId = d.nextId := rfl
@[simp] theorem setTxVc_bobs : (setTxVc d x v f).bobs = d.bobs := rfl
@[simp] theorem setTxVc_tambs : (setTxVc d x v f).tambs = d.tambs := rfl
@[simp] theorem setTxVc_rx : (setTxVc d x v f).rx = d.rx := rfl
@[simp] theorem setTxVc_jobs : (setTxVc d x v f).jobs = d.jobs := rfl
@[simp] theorem setTxVc_nextJob : (setTxVc d x v f).nextJob = d.nextJob := rfl
@[simp] theorem setTxVc_gone : (setTxVc d x v f).gone = d.gone := rfl
@[simp] theorem setTxVc_bulkLevel : (setTxVc d x v f).bulkLevel = d.bulkLevel := rfl
@[simp] theorem setTxVc_bulkAt : (setTxVc d x v f).bulkAt = d.bulkAt := rfl
@[simp] theorem setTxVc_submits : (setTxVc d x v f).submits = d.submits := rfl
@[simp] theorem setTxVc_cancels : (setTxVc d x v f).cancels = d.cancels := rfl
@[simp] theorem setTxVc_kvm : (setTxVc d x v f).kvm = d.kvm := rfl
@[simp] theorem setTxVc_txt : (setTxVc d x v f).txt = d.txt := rfl
@[simp] theorem setTxVc_adapt : (setTxVc d x v f).adapt = d.adapt := rfl
@[simp] theorem setTxVc_ddr : (setTxVc d x v f).ddr = d.ddr := rfl
@[simp] theorem setTxVc_health : (setTxVc d x v f).health = d.health := rfl
@[simp] theorem setTxVc_jtag : (setTxVc d x v f).jtag = d.jtag := rfl
@[simp] theorem setTxVc_free : (setTxVc d x v f).free = d.free := rfl
end

section
variable (d : Dev) (u : Nat) (r : Option UnitSt)
@[simp] theorem setReq_clk : (setReq d u r).clk = d.clk := rfl
@[simp] theorem setReq_pwr : (setReq d u r).pwr = d.pwr := rfl
@[simp] theorem setReq_i3c : (setReq d u r).i3c = d.i3c := rfl
@[simp] theorem setReq_fw : (setReq d u r).fw = d.fw := rfl
@[simp] theorem setReq_xfer : (setReq d u r).xfer = d.xfer := rfl
@[simp] theorem setReq_xferLost : (setReq d u r).xferLost = d.xferLost := rfl
@[simp] theorem setReq_regs : (setReq d u r).regs = d.regs := rfl
@[simp] theorem setReq_shadow : (setReq d u r).shadow = d.shadow := rfl
@[simp] theorem setReq_mem : (setReq d u r).mem = d.mem := rfl
@[simp] theorem setReq_ecc : (setReq d u r).ecc = d.ecc := rfl
@[simp] theorem setReq_parts : (setReq d u r).parts = d.parts := rfl
@[simp] theorem setReq_flights : (setReq d u r).flights = d.flights := rfl
@[simp] theorem setReq_agenda : (setReq d u r).agenda = d.agenda := rfl
@[simp] theorem setReq_nextId : (setReq d u r).nextId = d.nextId := rfl
@[simp] theorem setReq_bobs : (setReq d u r).bobs = d.bobs := rfl
@[simp] theorem setReq_tambs : (setReq d u r).tambs = d.tambs := rfl
@[simp] theorem setReq_rx : (setReq d u r).rx = d.rx := rfl
@[simp] theorem setReq_jobs : (setReq d u r).jobs = d.jobs := rfl
@[simp] theorem setReq_nextJob : (setReq d u r).nextJob = d.nextJob := rfl
@[simp] theorem setReq_gone : (setReq d u r).gone = d.gone := rfl
@[simp] theorem setReq_bulkLevel : (setReq d u r).bulkLevel = d.bulkLevel := rfl
@[simp] theorem setReq_bulkAt : (setReq d u r).bulkAt = d.bulkAt := rfl
@[simp] theorem setReq_submits : (setReq d u r).submits = d.submits := rfl
@[simp] theorem setReq_cancels : (setReq d u r).cancels = d.cancels := rfl
@[simp] theorem setReq_kvm : (setReq d u r).kvm = d.kvm := rfl
@[simp] theorem setReq_txt : (setReq d u r).txt = d.txt := rfl
@[simp] theorem setReq_out : (setReq d u r).out = d.out := rfl
@[simp] theorem setReq_adapt : (setReq d u r).adapt = d.adapt := rfl
@[simp] theorem setReq_ddr : (setReq d u r).ddr = d.ddr := rfl
@[simp] theorem setReq_health : (setReq d u r).health = d.health := rfl
@[simp] theorem setReq_jtag : (setReq d u r).jtag = d.jtag := rfl
@[simp] theorem setReq_free : (setReq d u r).free = d.free := rfl
end

section
variable (d : Dev) (r : Reg) (i j v : Nat)
@[simp] theorem putCom_clk : (putCom d r i j v).clk = d.clk := rfl
@[simp] theorem putCom_pwr : (putCom d r i j v).pwr = d.pwr := rfl
@[simp] theorem putCom_i3c : (putCom d r i j v).i3c = d.i3c := rfl
@[simp] theorem putCom_fw : (putCom d r i j v).fw = d.fw := rfl
@[simp] theorem putCom_xfer : (putCom d r i j v).xfer = d.xfer := rfl
@[simp] theorem putCom_xferLost : (putCom d r i j v).xferLost = d.xferLost := rfl
@[simp] theorem putCom_req : (putCom d r i j v).req = d.req := rfl
@[simp] theorem putCom_shadow : (putCom d r i j v).shadow = d.shadow := rfl
@[simp] theorem putCom_mem : (putCom d r i j v).mem = d.mem := rfl
@[simp] theorem putCom_ecc : (putCom d r i j v).ecc = d.ecc := rfl
@[simp] theorem putCom_parts : (putCom d r i j v).parts = d.parts := rfl
@[simp] theorem putCom_flights : (putCom d r i j v).flights = d.flights := rfl
@[simp] theorem putCom_agenda : (putCom d r i j v).agenda = d.agenda := rfl
@[simp] theorem putCom_nextId : (putCom d r i j v).nextId = d.nextId := rfl
@[simp] theorem putCom_bobs : (putCom d r i j v).bobs = d.bobs := rfl
@[simp] theorem putCom_tambs : (putCom d r i j v).tambs = d.tambs := rfl
@[simp] theorem putCom_rx : (putCom d r i j v).rx = d.rx := rfl
@[simp] theorem putCom_jobs : (putCom d r i j v).jobs = d.jobs := rfl
@[simp] theorem putCom_nextJob : (putCom d r i j v).nextJob = d.nextJob := rfl
@[simp] theorem putCom_gone : (putCom d r i j v).gone = d.gone := rfl
@[simp] theorem putCom_bulkLevel : (putCom d r i j v).bulkLevel = d.bulkLevel := rfl
@[simp] theorem putCom_bulkAt : (putCom d r i j v).bulkAt = d.bulkAt := rfl
@[simp] theorem putCom_submits : (putCom d r i j v).submits = d.submits := rfl
@[simp] theorem putCom_cancels : (putCom d r i j v).cancels = d.cancels := rfl
@[simp] theorem putCom_kvm : (putCom d r i j v).kvm = d.kvm := rfl
@[simp] theorem putCom_txt : (putCom d r i j v).txt = d.txt := rfl
@[simp] theorem putCom_out : (putCom d r i j v).out = d.out := rfl
@[simp] theorem putCom_adapt : (putCom d r i j v).adapt = d.adapt := rfl
@[simp] theorem putCom_ddr : (putCom d r i j v).ddr = d.ddr := rfl
@[simp] theorem putCom_health : (putCom d r i j v).health = d.health := rfl
@[simp] theorem putCom_jtag : (putCom d r i j v).jtag = d.jtag := rfl
@[simp] theorem putCom_free : (putCom d r i j v).free = d.free := rfl
end

section
variable (d : Dev) (r : Reg) (i j v : Nat)
@[simp] theorem putSha_clk : (putSha d r i j v).clk = d.clk := rfl
@[simp] theorem putSha_pwr : (putSha d r i j v).pwr = d.pwr := rfl
@[simp] theorem putSha_i3c : (putSha d r i j v).i3c = d.i3c := rfl
@[simp] theorem putSha_fw : (putSha d r i j v).fw = d.fw := rfl
@[simp] theorem putSha_xfer : (putSha d r i j v).xfer = d.xfer := rfl
@[simp] theorem putSha_xferLost : (putSha d r i j v).xferLost = d.xferLost := rfl
@[simp] theorem putSha_req : (putSha d r i j v).req = d.req := rfl
@[simp] theorem putSha_regs : (putSha d r i j v).regs = d.regs := rfl
@[simp] theorem putSha_mem : (putSha d r i j v).mem = d.mem := rfl
@[simp] theorem putSha_ecc : (putSha d r i j v).ecc = d.ecc := rfl
@[simp] theorem putSha_parts : (putSha d r i j v).parts = d.parts := rfl
@[simp] theorem putSha_flights : (putSha d r i j v).flights = d.flights := rfl
@[simp] theorem putSha_agenda : (putSha d r i j v).agenda = d.agenda := rfl
@[simp] theorem putSha_nextId : (putSha d r i j v).nextId = d.nextId := rfl
@[simp] theorem putSha_bobs : (putSha d r i j v).bobs = d.bobs := rfl
@[simp] theorem putSha_tambs : (putSha d r i j v).tambs = d.tambs := rfl
@[simp] theorem putSha_rx : (putSha d r i j v).rx = d.rx := rfl
@[simp] theorem putSha_jobs : (putSha d r i j v).jobs = d.jobs := rfl
@[simp] theorem putSha_nextJob : (putSha d r i j v).nextJob = d.nextJob := rfl
@[simp] theorem putSha_gone : (putSha d r i j v).gone = d.gone := rfl
@[simp] theorem putSha_bulkLevel : (putSha d r i j v).bulkLevel = d.bulkLevel := rfl
@[simp] theorem putSha_bulkAt : (putSha d r i j v).bulkAt = d.bulkAt := rfl
@[simp] theorem putSha_submits : (putSha d r i j v).submits = d.submits := rfl
@[simp] theorem putSha_cancels : (putSha d r i j v).cancels = d.cancels := rfl
@[simp] theorem putSha_kvm : (putSha d r i j v).kvm = d.kvm := rfl
@[simp] theorem putSha_txt : (putSha d r i j v).txt = d.txt := rfl
@[simp] theorem putSha_out : (putSha d r i j v).out = d.out := rfl
@[simp] theorem putSha_adapt : (putSha d r i j v).adapt = d.adapt := rfl
@[simp] theorem putSha_ddr : (putSha d r i j v).ddr = d.ddr := rfl
@[simp] theorem putSha_health : (putSha d r i j v).health = d.health := rfl
@[simp] theorem putSha_jtag : (putSha d r i j v).jtag = d.jtag := rfl
@[simp] theorem putSha_free : (putSha d r i j v).free = d.free := rfl
end

section
variable (d : Dev) (id : Nat) (f : Job → Job)
@[simp] theorem setJob_clk : (setJob d id f).clk = d.clk := rfl
@[simp] theorem setJob_pwr : (setJob d id f).pwr = d.pwr := rfl
@[simp] theorem setJob_i3c : (setJob d id f).i3c = d.i3c := rfl
@[simp] theorem setJob_fw : (setJob d id f).fw = d.fw := rfl
@[simp] theorem setJob_xfer : (setJob d id f).xfer = d.xfer := rfl
@[simp] theorem setJob_xferLost : (setJob d id f).xferLost = d.xferLost := rfl
@[simp] theorem setJob_req : (setJob d id f).req = d.req := rfl
@[simp] theorem setJob_regs : (setJob d id f).regs = d.regs := rfl
@[simp] theorem setJob_shadow : (setJob d id f).shadow = d.shadow := rfl
@[simp] theorem setJob_mem : (setJob d id f).mem = d.mem := rfl
@[simp] theorem setJob_ecc : (setJob d id f).ecc = d.ecc := rfl
@[simp] theorem setJob_parts : (setJob d id f).parts = d.parts := rfl
@[simp] theorem setJob_flights : (setJob d id f).flights = d.flights := rfl
@[simp] theorem setJob_agenda : (setJob d id f).agenda = d.agenda := rfl
@[simp] theorem setJob_nextId : (setJob d id f).nextId = d.nextId := rfl
@[simp] theorem setJob_bobs : (setJob d id f).bobs = d.bobs := rfl
@[simp] theorem setJob_tambs : (setJob d id f).tambs = d.tambs := rfl
@[simp] theorem setJob_rx : (setJob d id f).rx = d.rx := rfl
@[simp] theorem setJob_nextJob : (setJob d id f).nextJob = d.nextJob := rfl
@[simp] theorem setJob_gone : (setJob d id f).gone = d.gone := rfl
@[simp] theorem setJob_bulkLevel : (setJob d id f).bulkLevel = d.bulkLevel := rfl
@[simp] theorem setJob_bulkAt : (setJob d id f).bulkAt = d.bulkAt := rfl
@[simp] theorem setJob_submits : (setJob d id f).submits = d.submits := rfl
@[simp] theorem setJob_cancels : (setJob d id f).cancels = d.cancels := rfl
@[simp] theorem setJob_kvm : (setJob d id f).kvm = d.kvm := rfl
@[simp] theorem setJob_txt : (setJob d id f).txt = d.txt := rfl
@[simp] theorem setJob_out : (setJob d id f).out = d.out := rfl
@[simp] theorem setJob_adapt : (setJob d id f).adapt = d.adapt := rfl
@[simp] theorem setJob_ddr : (setJob d id f).ddr = d.ddr := rfl
@[simp] theorem setJob_health : (setJob d id f).health = d.health := rfl
@[simp] theorem setJob_jtag : (setJob d id f).jtag = d.jtag := rfl
@[simp] theorem setJob_free : (setJob d id f).free = d.free := rfl
end

section
variable (d : Dev) (job o : Nat) (f : OutJob → OutJob)
@[simp] theorem setOut_clk : (setOut d job o f).clk = d.clk := rfl
@[simp] theorem setOut_pwr : (setOut d job o f).pwr = d.pwr := rfl
@[simp] theorem setOut_i3c : (setOut d job o f).i3c = d.i3c := rfl
@[simp] theorem setOut_fw : (setOut d job o f).fw = d.fw := rfl
@[simp] theorem setOut_xfer : (setOut d job o f).xfer = d.xfer := rfl
@[simp] theorem setOut_xferLost : (setOut d job o f).xferLost = d.xferLost := rfl
@[simp] theorem setOut_req : (setOut d job o f).req = d.req := rfl
@[simp] theorem setOut_regs : (setOut d job o f).regs = d.regs := rfl
@[simp] theorem setOut_shadow : (setOut d job o f).shadow = d.shadow := rfl
@[simp] theorem setOut_mem : (setOut d job o f).mem = d.mem := rfl
@[simp] theorem setOut_ecc : (setOut d job o f).ecc = d.ecc := rfl
@[simp] theorem setOut_parts : (setOut d job o f).parts = d.parts := rfl
@[simp] theorem setOut_flights : (setOut d job o f).flights = d.flights := rfl
@[simp] theorem setOut_agenda : (setOut d job o f).agenda = d.agenda := rfl
@[simp] theorem setOut_nextId : (setOut d job o f).nextId = d.nextId := rfl
@[simp] theorem setOut_bobs : (setOut d job o f).bobs = d.bobs := rfl
@[simp] theorem setOut_tambs : (setOut d job o f).tambs = d.tambs := rfl
@[simp] theorem setOut_rx : (setOut d job o f).rx = d.rx := rfl
@[simp] theorem setOut_jobs : (setOut d job o f).jobs = d.jobs := rfl
@[simp] theorem setOut_nextJob : (setOut d job o f).nextJob = d.nextJob := rfl
@[simp] theorem setOut_gone : (setOut d job o f).gone = d.gone := rfl
@[simp] theorem setOut_bulkLevel : (setOut d job o f).bulkLevel = d.bulkLevel := rfl
@[simp] theorem setOut_bulkAt : (setOut d job o f).bulkAt = d.bulkAt := rfl
@[simp] theorem setOut_submits : (setOut d job o f).submits = d.submits := rfl
@[simp] theorem setOut_cancels : (setOut d job o f).cancels = d.cancels := rfl
@[simp] theorem setOut_kvm : (setOut d job o f).kvm = d.kvm := rfl
@[simp] theorem setOut_txt : (setOut d job o f).txt = d.txt := rfl
@[simp] theorem setOut_adapt : (setOut d job o f).adapt = d.adapt := rfl
@[simp] theorem setOut_ddr : (setOut d job o f).ddr = d.ddr := rfl
@[simp] theorem setOut_health : (setOut d job o f).health = d.health := rfl
@[simp] theorem setOut_jtag : (setOut d job o f).jtag = d.jtag := rfl
@[simp] theorem setOut_free : (setOut d job o f).free = d.free := rfl
end

section
variable (d : Dev) (id : Nat) (f : Flight → Flight)
@[simp] theorem setFlight_clk : (setFlight d id f).clk = d.clk := rfl
@[simp] theorem setFlight_pwr : (setFlight d id f).pwr = d.pwr := rfl
@[simp] theorem setFlight_i3c : (setFlight d id f).i3c = d.i3c := rfl
@[simp] theorem setFlight_fw : (setFlight d id f).fw = d.fw := rfl
@[simp] theorem setFlight_xfer : (setFlight d id f).xfer = d.xfer := rfl
@[simp] theorem setFlight_xferLost : (setFlight d id f).xferLost = d.xferLost := rfl
@[simp] theorem setFlight_req : (setFlight d id f).req = d.req := rfl
@[simp] theorem setFlight_regs : (setFlight d id f).regs = d.regs := rfl
@[simp] theorem setFlight_shadow : (setFlight d id f).shadow = d.shadow := rfl
@[simp] theorem setFlight_mem : (setFlight d id f).mem = d.mem := rfl
@[simp] theorem setFlight_ecc : (setFlight d id f).ecc = d.ecc := rfl
@[simp] theorem setFlight_parts : (setFlight d id f).parts = d.parts := rfl
@[simp] theorem setFlight_agenda : (setFlight d id f).agenda = d.agenda := rfl
@[simp] theorem setFlight_nextId : (setFlight d id f).nextId = d.nextId := rfl
@[simp] theorem setFlight_bobs : (setFlight d id f).bobs = d.bobs := rfl
@[simp] theorem setFlight_tambs : (setFlight d id f).tambs = d.tambs := rfl
@[simp] theorem setFlight_rx : (setFlight d id f).rx = d.rx := rfl
@[simp] theorem setFlight_jobs : (setFlight d id f).jobs = d.jobs := rfl
@[simp] theorem setFlight_nextJob : (setFlight d id f).nextJob = d.nextJob := rfl
@[simp] theorem setFlight_gone : (setFlight d id f).gone = d.gone := rfl
@[simp] theorem setFlight_bulkLevel : (setFlight d id f).bulkLevel = d.bulkLevel := rfl
@[simp] theorem setFlight_bulkAt : (setFlight d id f).bulkAt = d.bulkAt := rfl
@[simp] theorem setFlight_submits : (setFlight d id f).submits = d.submits := rfl
@[simp] theorem setFlight_cancels : (setFlight d id f).cancels = d.cancels := rfl
@[simp] theorem setFlight_kvm : (setFlight d id f).kvm = d.kvm := rfl
@[simp] theorem setFlight_txt : (setFlight d id f).txt = d.txt := rfl
@[simp] theorem setFlight_out : (setFlight d id f).out = d.out := rfl
@[simp] theorem setFlight_adapt : (setFlight d id f).adapt = d.adapt := rfl
@[simp] theorem setFlight_ddr : (setFlight d id f).ddr = d.ddr := rfl
@[simp] theorem setFlight_health : (setFlight d id f).health = d.health := rfl
@[simp] theorem setFlight_jtag : (setFlight d id f).jtag = d.jtag := rfl
@[simp] theorem setFlight_free : (setFlight d id f).free = d.free := rfl
end

section
variable (d : Dev) (a b fl : Nat) (act : Act)
@[simp] theorem addEv_clk : (addEv d a b fl act).clk = d.clk := rfl
@[simp] theorem addEv_pwr : (addEv d a b fl act).pwr = d.pwr := rfl
@[simp] theorem addEv_i3c : (addEv d a b fl act).i3c = d.i3c := rfl
@[simp] theorem addEv_fw : (addEv d a b fl act).fw = d.fw := rfl
@[simp] theorem addEv_xfer : (addEv d a b fl act).xfer = d.xfer := rfl
@[simp] theorem addEv_xferLost : (addEv d a b fl act).xferLost = d.xferLost := rfl
@[simp] theorem addEv_req : (addEv d a b fl act).req = d.req := rfl
@[simp] theorem addEv_regs : (addEv d a b fl act).regs = d.regs := rfl
@[simp] theorem addEv_shadow : (addEv d a b fl act).shadow = d.shadow := rfl
@[simp] theorem addEv_mem : (addEv d a b fl act).mem = d.mem := rfl
@[simp] theorem addEv_ecc : (addEv d a b fl act).ecc = d.ecc := rfl
@[simp] theorem addEv_parts : (addEv d a b fl act).parts = d.parts := rfl
@[simp] theorem addEv_flights : (addEv d a b fl act).flights = d.flights := rfl
@[simp] theorem addEv_nextId : (addEv d a b fl act).nextId = d.nextId := rfl
@[simp] theorem addEv_bobs : (addEv d a b fl act).bobs = d.bobs := rfl
@[simp] theorem addEv_tambs : (addEv d a b fl act).tambs = d.tambs := rfl
@[simp] theorem addEv_rx : (addEv d a b fl act).rx = d.rx := rfl
@[simp] theorem addEv_jobs : (addEv d a b fl act).jobs = d.jobs := rfl
@[simp] theorem addEv_nextJob : (addEv d a b fl act).nextJob = d.nextJob := rfl
@[simp] theorem addEv_gone : (addEv d a b fl act).gone = d.gone := rfl
@[simp] theorem addEv_bulkLevel : (addEv d a b fl act).bulkLevel = d.bulkLevel := rfl
@[simp] theorem addEv_bulkAt : (addEv d a b fl act).bulkAt = d.bulkAt := rfl
@[simp] theorem addEv_submits : (addEv d a b fl act).submits = d.submits := rfl
@[simp] theorem addEv_cancels : (addEv d a b fl act).cancels = d.cancels := rfl
@[simp] theorem addEv_kvm : (addEv d a b fl act).kvm = d.kvm := rfl
@[simp] theorem addEv_txt : (addEv d a b fl act).txt = d.txt := rfl
@[simp] theorem addEv_out : (addEv d a b fl act).out = d.out := rfl
@[simp] theorem addEv_adapt : (addEv d a b fl act).adapt = d.adapt := rfl
@[simp] theorem addEv_ddr : (addEv d a b fl act).ddr = d.ddr := rfl
@[simp] theorem addEv_health : (addEv d a b fl act).health = d.health := rfl
@[simp] theorem addEv_jtag : (addEv d a b fl act).jtag = d.jtag := rfl
@[simp] theorem addEv_free : (addEv d a b fl act).free = d.free := rfl
end

end Sys2Proof.Machine
end

