-- ==== Sys2Proof/Laws/Memory.lean ====
section
/-!
SUPPORT. Memory: reads after writes, and the canonical form that every memory operation keeps.
-/
namespace Sys2Proof.Machine
set_option Elab.async false

/-- A byte of freshly formed cells reads as it was given; outside them nothing is listed. -/
theorem find_cells (a : Nat) (bs : List Byte) (k : Nat) :
    (Memory.cells a bs).find? (fun c => c.1 == k) =
      if a ≤ k ∧ k < a + bs.length then
        (if bs.getD (k - a) 0 = Memory.unlisted k then none else some (k, bs.getD (k - a) 0))
      else none := by
  induction bs generalizing a with
  | nil => simp [Memory.cells]
  | cons b bs ih =>
    unfold Memory.cells
    by_cases hk : k = a
    · subst hk
      have hn : (Memory.cells (k + 1) bs).find? (fun c => c.1 == k) = none := by rw [ih, if_neg (by omega)]
      have hin : k ≤ k ∧ k < k + (b :: bs).length := by simp
      rw [if_pos hin]
      simp only [Nat.sub_self, List.getD_cons_zero]
      by_cases h : b = Memory.unlisted k
      · rw [if_pos h, if_pos h]; exact hn
      · rw [if_neg h, if_neg h]; simp
    · have hrec := ih (a + 1)
      have e : (if b = Memory.unlisted a then Memory.cells (a + 1) bs else (a, b) :: Memory.cells (a + 1) bs).find? (fun c => c.1 == k)
          = (Memory.cells (a + 1) bs).find? (fun c => c.1 == k) := by
        split
        · rfl
        · rw [List.find?_cons_of_neg]; simpa using Ne.symm hk
      rw [e, hrec]
      by_cases hr : a ≤ k ∧ k < a + (b :: bs).length
      · have h2 : a + 1 ≤ k ∧ k < a + 1 + bs.length := by simp only [List.length_cons] at hr; omega
        rw [if_pos hr, if_pos h2]
        have : k - a = (k - (a + 1)) + 1 := by omega
        rw [this, List.getD_cons_succ]
      · have h2 : ¬ (a + 1 ≤ k ∧ k < a + 1 + bs.length) := by simp only [List.length_cons] at hr; omega
        rw [if_neg hr, if_neg h2]

theorem find_filter_pos (m : List Host.Cell) (p : Nat → Bool) (k : Nat) (h : p k = true) :
    (m.filter (fun c => p c.1)).find? (fun c => c.1 == k) = m.find? (fun c => c.1 == k) := by
  induction m with
  | nil => rfl
  | cons x m ih =>
    by_cases hx : x.1 = k
    · have : p x.1 = true := by rw [hx]; exact h
      rw [List.filter_cons_of_pos (by simpa using this)]; simp [hx]
    · by_cases hp : p x.1 = true
      · rw [List.filter_cons_of_pos (by simpa using hp), List.find?_cons_of_neg (by simpa using hx),
          List.find?_cons_of_neg (by simpa using hx), ih]
      · rw [List.filter_cons_of_neg (by simpa using hp), List.find?_cons_of_neg (by simpa using hx), ih]

theorem find_filter_neg (m : List Host.Cell) (p : Nat → Bool) (k : Nat) (h : p k = false) :
    (m.filter (fun c => p c.1)).find? (fun c => c.1 == k) = none := by
  rw [List.find?_eq_none]
  intro x hx
  rw [List.mem_filter] at hx
  intro h2
  have : x.1 = k := by simpa using h2
  rw [this] at hx; rw [h] at hx; simp at hx

/-- A read after a write: the bytes written, and every other byte as it was. -/
theorem get_setAll (m : List Host.Cell) (a : Nat) (bs : List Byte) (k : Nat) :
    Memory.get (Memory.setAll m a bs) k = if a ≤ k ∧ k < a + bs.length then bs.getD (k - a) 0 else Memory.get m k := by
  unfold Memory.get Memory.setAll
  rw [List.find?_append, List.find?_append, find_cells]
  by_cases h1 : k < a
  · rw [find_filter_pos m (fun x => decide (x < a)) k (by simpa using h1), find_filter_neg m (fun x => decide (a + bs.length ≤ x)) k (by simp; omega),
      if_neg (by omega), if_neg (by omega)]
    simp
  · rw [find_filter_neg m (fun x => decide (x < a)) k (by simpa using h1)]
    by_cases h2 : k < a + bs.length
    · have hr : a ≤ k ∧ k < a + bs.length := ⟨by omega, h2⟩
      rw [if_pos hr, if_pos hr, find_filter_neg m (fun x => decide (a + bs.length ≤ x)) k (by simp; omega)]
      by_cases h : bs.getD (k - a) 0 = Memory.unlisted k
      · rw [if_pos h]; simp only [Option.or_none]; exact h.symm
      · rw [if_neg h]; simp
    · rw [if_neg (by omega), if_neg (by omega), find_filter_pos m (fun x => decide (a + bs.length ≤ x)) k (by simp; omega)]
      simp

/-- Keeping some keys: they read as before, the others as unlisted. -/
theorem get_keep (m : List Host.Cell) (p : Nat → Bool) (k : Nat) :
    Memory.get (Memory.keep m p) k = if p k then Memory.get m k else Memory.unlisted k := by
  unfold Memory.get Memory.keep
  cases h : p k
  · rw [find_filter_neg m p k h]; rfl
  · rw [find_filter_pos m p k h]; rfl

/-! ### The canonical form -/

theorem wfFrom_mono (m : List Host.Cell) (lo hi : Nat) (h : lo ≤ hi) (hw : Memory.wfFrom hi m = true) : Memory.wfFrom lo m = true := by
  cases m with
  | nil => rfl
  | cons x m =>
    obtain ⟨k, v⟩ := x
    simp only [Memory.wfFrom, Bool.and_eq_true, decide_eq_true_eq] at hw ⊢
    exact ⟨⟨by omega, hw.1.2⟩, hw.2⟩

theorem wfFrom_filter (m : List Host.Cell) (p : Nat → Bool) (lo : Nat) (hw : Memory.wfFrom lo m = true) :
    Memory.wfFrom lo (m.filter (fun c => p c.1)) = true := by
  induction m generalizing lo with
  | nil => rfl
  | cons x m ih =>
    obtain ⟨k, v⟩ := x
    simp only [Memory.wfFrom, Bool.and_eq_true, decide_eq_true_eq] at hw
    by_cases hp : p k = true
    · rw [List.filter_cons_of_pos (by simpa using hp)]
      simp only [Memory.wfFrom, Bool.and_eq_true, decide_eq_true_eq]
      exact ⟨hw.1, ih _ hw.2⟩
    · rw [List.filter_cons_of_neg (by simpa using hp)]
      exact ih _ (wfFrom_mono _ _ _ (by omega) hw.2)

theorem wfFrom_cells (a : Nat) (bs : List Byte) (rest : List Host.Cell) (h : Memory.wfFrom (a + bs.length) rest = true) :
    Memory.wfFrom a (Memory.cells a bs ++ rest) = true := by
  induction bs generalizing a with
  | nil => simpa [Memory.cells] using h
  | cons b bs ih =>
    have h2 := ih (a + 1) (by simp only [List.length_cons] at h; rw [show a + 1 + bs.length = a + (bs.length + 1) by omega]; exact h)
    unfold Memory.cells
    split
    · exact wfFrom_mono _ _ _ (by omega) h2
    · rename_i hb
      simp only [List.cons_append, Memory.wfFrom, Bool.and_eq_true, decide_eq_true_eq, bne_iff_ne]
      exact ⟨⟨by omega, hb⟩, h2⟩

theorem wfFrom_low (m : List Host.Cell) (lo a : Nat) (rest : List Host.Cell) (hlo : lo ≤ a) (hw : Memory.wfFrom lo m = true)
    (h : Memory.wfFrom a rest = true) : Memory.wfFrom lo (m.filter (fun c => decide (c.1 < a)) ++ rest) = true := by
  induction m generalizing lo with
  | nil => exact wfFrom_mono _ _ _ hlo h
  | cons x m ih =>
    obtain ⟨k, v⟩ := x
    simp only [Memory.wfFrom, Bool.and_eq_true, decide_eq_true_eq] at hw
    by_cases hp : k < a
    · rw [List.filter_cons_of_pos (by simpa using hp)]
      simp only [List.cons_append, Memory.wfFrom, Bool.and_eq_true, decide_eq_true_eq]
      exact ⟨hw.1, ih _ (by omega) hw.2⟩
    · rw [List.filter_cons_of_neg (by simpa using hp)]
      exact ih _ hlo (wfFrom_mono _ _ _ (by omega) hw.2)

theorem wfFrom_high (m : List Host.Cell) (lo b : Nat) (hw : Memory.wfFrom lo m = true) :
    Memory.wfFrom b (m.filter (fun c => decide (b ≤ c.1))) = true := by
  induction m generalizing lo with
  | nil => rfl
  | cons x m ih =>
    obtain ⟨k, v⟩ := x
    simp only [Memory.wfFrom, Bool.and_eq_true, decide_eq_true_eq] at hw
    by_cases hp : b ≤ k
    · rw [List.filter_cons_of_pos (by simpa using hp)]
      simp only [Memory.wfFrom, Bool.and_eq_true, decide_eq_true_eq]
      refine ⟨⟨hp, hw.1.2⟩, ?_⟩
      exact wfFrom_filter m (fun x => decide (b ≤ x)) (k + 1) hw.2
    · rw [List.filter_cons_of_neg (by simpa using hp)]
      exact ih _ hw.2

/-- A write keeps the canonical form. -/
theorem wf_setAll (m : List Host.Cell) (a : Nat) (bs : List Byte) (hw : Memory.wf m = true) : Memory.wf (Memory.setAll m a bs) = true := by
  unfold Memory.wf Memory.setAll at *
  rw [List.append_assoc]
  exact wfFrom_low m 0 a _ (by omega) hw (wfFrom_cells a bs _ (wfFrom_high m 0 _ hw))

/-- Keeping some keys keeps the canonical form. -/
theorem wf_keep (m : List Host.Cell) (p : Nat → Bool) (hw : Memory.wf m = true) : Memory.wf (Memory.keep m p) = true :=
  wfFrom_filter m p 0 hw

/-- Erasing a range keeps the canonical form. -/
theorem wf_erase (m : List Host.Cell) (a n : Nat) (hw : Memory.wf m = true) : Memory.wf (Memory.erase m a n) = true :=
  wf_keep m _ hw

/-- Reset memory, which lists nothing, has the canonical form. -/
theorem wf_reset : Memory.wf State.reset.dev.mem = true := rfl

/-- Without words in error a store of bytes is a plain write, and a read is a plain read. -/
theorem store_plain (c : Units) (d : Dev) (w : Who) (k : Nat) (bs : List Byte) (h : d.ecc = []) (hb : bs ≠ []) :
    store c d w k bs = { d with mem := Memory.setAll d.mem k bs } := by
  have h1 : bs.isEmpty = false := by cases bs <;> simp_all
  unfold store; simp [h1, h]

theorem eccRead_plain (c : Units) (d : Dev) (w : Who) (k n : Nat) (h : d.ecc = []) : eccRead c d w k n = (d, false) := by
  unfold eccRead; simp [h]

theorem peek_plain (d : Dev) (k n : Nat) (h : d.ecc = []) : peek d k n = Memory.getN d.mem k n := by
  unfold peek; simp [h]

end Sys2Proof.Machine
end

