-- ==== Sys2Proof/Laws/Registers.lean ====
section
/-!
SUPPORT. Stored registers: the association lists of committed and shadow words.
-/
namespace Sys2Proof.Machine
set_option Elab.async false

/-- Deleting a key removes it and no other. -/
theorem assoc_del (l : List (Nat × Word)) (a b : Nat) : assoc (assocDel l a) b = if b = a then none else assoc l b := by
  induction l with
  | nil => simp [assoc, assocDel]
  | cons x l ih =>
    obtain ⟨k, v⟩ := x
    simp only [assoc, assocDel] at ih ⊢
    by_cases h : k = a
    · subst h; simp only [List.filter_cons]; simp only [bne_self_eq_false, Bool.false_eq_true, if_false]
      rw [ih]; split
      · rfl
      · rename_i hb; rw [List.find?_cons_of_neg]; simp; omega
    · have : (k != a) = true := by simp [h]
      simp only [List.filter_cons, this, if_true]
      by_cases h2 : k = b
      · subst h2; simp [h]
      · rw [List.find?_cons_of_neg (by simp [h2]), ih, List.find?_cons_of_neg (by simp [h2])]

/-- Inserting an absent key lists it and changes no other. -/
theorem assoc_put (l : List (Nat × Word)) (a b : Nat) (v : Word) (hl : assoc l a = none) : assoc (assocPut l a v) b = if b = a then some v else assoc l b := by
  induction l with
  | nil => simp [assoc, assocPut]; by_cases h : a = b <;> simp [h]; intro h2; exact absurd h2.symm h
  | cons x l ih =>
    obtain ⟨k, w⟩ := x
    have hk : k ≠ a := by intro h; subst h; simp [assoc] at hl
    have hl' : assoc l a = none := by
      simp only [assoc] at hl ⊢; rw [List.find?_cons_of_neg (by simp [hk])] at hl; exact hl
    simp only [assocPut]
    split
    · by_cases h : b = a
      · subst h; simp [assoc]
      · simp only [assoc, h, if_false]; rw [List.find?_cons_of_neg]; simp; omega
    · split
      · rename_i h1 h2; exact absurd h2.symm hk
      · by_cases h : k = b
        · subst h; simp [assoc, hk]
        · have := ih hl'
          simp only [assoc] at this ⊢
          rw [List.find?_cons_of_neg (by simp [h]), this, List.find?_cons_of_neg (by simp [h])]

/-- Storing a committed word changes the register at its address and no other. -/
theorem comAt_putCom (d : Dev) (r : Reg) (i j v : Nat) (q : RegAt) (a : Nat) (hv : v < 2^32) :
    comAt (putCom d r i j v) q a = if a = addrOf r i j then (if v = resetWord (rowOf r).fields then resetWord q.row.fields else v) else comAt d q a := by
  have key : assoc (putCom d r i j v).regs a = if a = addrOf r i j then (if v = resetWord (rowOf r).fields then none else some (BitVec.ofNat 32 v)) else assoc d.regs a := by
    unfold putCom; dsimp only
    by_cases hv : v = resetWord (rowOf r).fields
    · simp only [hv, beq_self_eq_true, if_true]; rw [assoc_del]
    · have : (v == resetWord (rowOf r).fields) = false := by simpa using hv
      simp only [this, Bool.false_eq_true, if_false, hv]
      rw [assoc_put _ _ _ _ (by rw [assoc_del]; simp), assoc_del]
      split <;> rfl
  unfold comAt; rw [key]
  by_cases h : a = addrOf r i j
  · simp only [h, if_true]; split
    · rename_i w hw; split at hw
      · cases hw
      · rename_i hne; injection hw with hw; subst hw; simp only [hne, if_false]; simp; omega
    · rename_i hw; split at hw
      · rename_i he; simp [he]
      · cases hw
  · simp only [h, if_false]

/-- Inserting a key lists it, replacing an entry that stood there, and changes no other: for a list without repeats of the key
before it. -/
theorem assoc_put_ne (l : List (Nat × Word)) (a b : Nat) (v : Word) (h : b ≠ a) : assoc (assocPut l a v) b = assoc l b := by
  induction l with
  | nil => simp [assoc, assocPut, Ne.symm h]
  | cons x l ih =>
    obtain ⟨k, w⟩ := x
    simp only [assocPut]
    split
    · simp only [assoc]; rw [List.find?_cons_of_neg]; simp [Ne.symm h]
    · split
      · rename_i h2; subst h2
        simp only [assoc]; rw [List.find?_cons_of_neg (by simp [Ne.symm h]), List.find?_cons_of_neg (by simp [Ne.symm h])]
      · simp only [assoc] at ih ⊢
        by_cases hk : k = b
        · simp [hk]
        · rw [List.find?_cons_of_neg (by simp [hk]), ih, List.find?_cons_of_neg (by simp [hk])]

/-- An inserted key reads as it was written. -/
theorem assoc_put_eq (l : List (Nat × Word)) (a : Nat) (v : Word) : assoc (assocPut l a v) a = some v := by
  induction l with
  | nil => simp [assoc, assocPut]
  | cons x l ih =>
    obtain ⟨k, w⟩ := x
    simp only [assocPut]
    split
    · simp [assoc]
    · split
      · simp [assoc]
      · rename_i h1 h2
        simp only [assoc] at ih ⊢
        rw [List.find?_cons_of_neg (by simpa using Ne.symm h2), ih]

/-- Storing a shadow word lists it and changes no other shadow. -/
theorem shadow_putSha (d : Dev) (r : Reg) (i j v x : Nat) :
    assoc (putSha d r i j v).shadow x = if x = addrOf r i j then some (BitVec.ofNat 32 v) else assoc d.shadow x := by
  unfold putSha; dsimp only
  split
  · rename_i h; subst h; exact assoc_put_eq _ _ _
  · rename_i h; exact assoc_put_ne _ _ _ _ h

/-- A request stands for its own unit and changes no other. -/
theorem reqOf_setReq (d : Dev) (u v : Nat) (r : Option UnitSt) :
    reqOf (setReq d u r) v = if v = u ∧ u < 32 then r else reqOf d v := by
  simp only [reqOf, setReq]
  by_cases h : v = u
  · subst h
    rw [Vector.getElem?_setIfInBounds_self]
    by_cases h2 : v < 32 <;> simp [h2]
  · rw [Vector.getElem?_setIfInBounds_ne (by omega)]; simp [h]

/-- Every row of the map is found by its register's name. -/
theorem rowOf_row : ∀ x ∈ regTable, rowOf x.reg = x := by decide +kernel

/-- The indices at which a row lies at an address give that address back. -/
theorem at?_addr (x : RegRow) (a : Nat) (r : RegAt) (h : x.at? a = some r) :
    r.row = x ∧ x.base + r.i * x.s1 + r.j * x.s2 = a ∧ r.i < x.n1 ∧ r.j < x.n2 := by
  unfold RegRow.at? at h
  by_cases hb : a < x.base
  · rw [if_pos hb] at h; cases h
  · rw [if_neg hb] at h
    by_cases e1 : x.n1 = 1 <;> by_cases e2 : x.n2 = 1 <;>
      simp only [e1, e2, beq_self_eq_true, beq_iff_eq, if_true, if_false, Option.ite_none_right_eq_some, Bool.and_eq_true, decide_eq_true_eq,
        Option.some.injEq] at h <;>
      obtain ⟨⟨⟨h1, h2⟩, h3⟩, h4⟩ := h <;> subst h4 <;> refine ⟨rfl, ?_, ?_, ?_⟩ <;> dsimp only <;> (try omega)
    · have := Nat.div_add_mod (a - x.base) x.s2; rw [Nat.mul_comm] at this; omega
    · have := Nat.div_add_mod (a - x.base) x.s1; rw [Nat.mul_comm] at this; omega
    · have h4 := Nat.div_add_mod (a - x.base) x.s1; rw [Nat.mul_comm] at h4
      have h5 := Nat.div_add_mod ((a - x.base) % x.s1) x.s2; rw [Nat.mul_comm] at h5; omega

/-- A register that is found at an address lies there. -/
theorem regAt_addr (a : Nat) (r : RegAt) (h : regAt a = some r) :
    addrOf r.row.reg r.i r.j = a / 4 * 4 ∧ rowOf r.row.reg = r.row ∧ r.row ∈ regTable ∧ r.i < r.row.n1 ∧ r.j < r.row.n2 := by
  unfold regAt at h
  obtain ⟨x, hx, hx2⟩ := List.exists_of_findSome?_eq_some h
  obtain ⟨h1, h2, h3, h4⟩ := at?_addr x _ r hx2
  subst h1
  have h5 := rowOf_row _ hx
  refine ⟨?_, h5, hx, h3, h4⟩
  unfold addrOf; rw [h5]; exact h2
/-- The registers that a command of the table names. -/
def namedRegs : List Reg :=
  [.timeLo, .timeCtrl, .countLo, .tCtrl, .tCoefData, .tCountClr, .rxCfg, .rxCntClr, .bCtrl, .bBeatsLo, .bNumClr, .bPerfClr, .bBistCtrl,
    .bHealthClr, .seccClr, .therm, .kCtrl, .kCntClr, .kCtxData, .xCtrl, .xCntClr, .oCtrl, .oCntClr, .oCfg, .aCtrl, .aCntClr, .dCtrl,
    .dCntClr, .unitReset, .cmdCntClr]

theorem namedRegs_found : namedRegs.all (fun r => (List.range (rowOf r).n1).all (fun i => decide (addrOf r i 0 < 0x100000)
    && addrOf r i 0 / 4 * 4 == addrOf r i 0 && regAt (addrOf r i 0) == some ⟨rowOf r, i, 0⟩)) = true := by decide +kernel

/-- A register that a command names lies at its address. -/
theorem regAt_named (r : Reg) (i : Nat) (hr : r ∈ namedRegs) (hi : i < (rowOf r).n1) :
    regAt (addrOf r i 0) = some ⟨rowOf r, i, 0⟩ ∧ addrOf r i 0 < 0x100000 ∧ addrOf r i 0 / 4 * 4 = addrOf r i 0 := by
  have h := namedRegs_found
  simp only [List.all_eq_true, beq_iff_eq, List.mem_range, Bool.and_eq_true, decide_eq_true_eq] at h
  obtain ⟨⟨h1, h2⟩, h3⟩ := h r hr i hi
  exact ⟨h3, h1, h2⟩
end Sys2Proof.Machine
end

