-- ==== Sys2Proof/Laws/Reports.lean ====
section
/-!
SUPPORT. Frames of events and of checked reads: raising an event touches the outputs and the health records only, a
checked read the error counts besides, a store the memory besides.
-/
namespace Sys2Proof.Machine
set_option Elab.async false

theorem EventsOnly.refl (d : Dev) : EventsOnly d d := rfl

theorem EventsOnly.trans {a b c : Dev} (h : EventsOnly a b) (h2 : EventsOnly b c) : EventsOnly a c := by
  unfold EventsOnly at *; rw [h] at h2; exact h2

theorem ReportsOnly.refl (d : Dev) : ReportsOnly d d := rfl

theorem ReportsOnly.trans {a b c : Dev} (h : ReportsOnly a b) (h2 : ReportsOnly b c) : ReportsOnly a c := by
  unfold ReportsOnly at *; rw [h] at h2; exact h2

theorem EventsOnly.reports {a b : Dev} (h : EventsOnly a b) : ReportsOnly a b := by
  unfold EventsOnly ReportsOnly at *; rw [h]

/-- A fold of reports is a report. -/
theorem events_fold {α : Type} (l : List α) (f : Dev → α → Dev) (hf : ∀ d x, EventsOnly d (f d x)) (d : Dev) : EventsOnly d (l.foldl f d) := by
  induction l generalizing d with
  | nil => rfl
  | cons x l ih => exact (hf d x).trans (ih _)

theorem logAt_events (d : Dev) (code unit part : Nat) (job ctx : Word) (detail : List Nat) (flags : Nat) :
    EventsOnly d (logAt d code unit part job ctx detail flags) := by
  unfold logAt; dsimp only; split
  · rfl
  · split <;> rfl

theorem logOnly_events (d : Dev) (code unit part : Nat) (detail : List Nat) : EventsOnly d (logOnly d code unit part detail) :=
  logAt_events _ _ _ _ _ _ _ _

/-- A STREAM_HEADER that is written touches the outputs only. -/
theorem writeStream_events (d : Dev) (x v : Nat) : EventsOnly d (writeStream d x v) := by
  unfold writeStream; split <;> rfl

theorem takeJob_events (d : Dev) (x : OutJob) : EventsOnly d (takeJob d x).1 := by
  unfold takeJob; split
  · rfl
  · dsimp only; split
    · exact EventsOnly.trans (writeStream_events d x.port x.vc) rfl
    · split <;> rfl

/-- A STREAM_HEADER that comes to wait touches the outputs only. -/
theorem openStream_events (d : Dev) (x v : Nat) : EventsOnly d (openStream d x v) := by
  unfold openStream; split
  · exact writeStream_events _ _ _
  · rfl

/-- Elements that come to wait touch the outputs only. -/
theorem queueItems_events (d : Dev) (x v : Nat) (items : List OutItem) : EventsOnly d (queueItems d x v items) :=
  EventsOnly.trans (b := setTxVc d x v (fun t => { t with q := t.q ++ items })) rfl (openStream_events _ _ _)

/-- A record that is placed in the buffer touches the outputs only. -/
theorem placeRec_events (d : Dev) (r : Rec) : EventsOnly d (placeRec d r).1 := rfl

theorem handOut_events (d : Dev) (x : OutJob) (r : Rec) (b : Bool) : EventsOnly d (handOut d x r b) := by
  unfold handOut
  have h := takeJob_events d x
  generalize takeJob d x = y at h
  obtain ⟨e, ok⟩ := y
  dsimp only at h ⊢
  refine h.trans ?_
  split
  · rfl
  · split
    · have hq : ∀ y : Dev, EventsOnly (takeQuota (writeStream e (outNow e x).port (outNow e x).vc) (outNow e x).port r.size) y → EventsOnly e y := fun y h =>
        ((writeStream_events e _ _).trans (c := takeQuota (writeStream e (outNow e x).port (outNow e x).vc) (outNow e x).port r.size) rfl).trans h
      refine hq _ ?_
      generalize takeQuota _ _ _ = y
      generalize outNow e x = z
      unfold placeRec; dsimp only
      split
      · rfl
      · split <;> rfl
    · rfl

theorem handFree_events (d : Dev) (x v : Nat) (r : Rec) : EventsOnly d (handFree d x v r) := by
  unfold handFree; split
  · exact ((writeStream_events d x v).trans (c := takeQuota (writeStream d x v) x r.size) rfl).trans rfl
  · rfl

theorem handSnap_events (c : Units) (d : Dev) (r : Rec) : EventsOnly d (handSnap c d r) := by
  unfold handSnap; dsimp only; split
  · exact handFree_events _ _ _ _
  · rfl

theorem mayLog_events (d e : Dev) (p : Prop) [Decidable p] (code unit part : Nat) (job ctx : Word) (detail : List Nat) (flags : Nat)
    (h : EventsOnly d e) : EventsOnly d (if p then logAt e code unit part job ctx detail flags else e) := by
  split
  · exact h.trans (logAt_events _ _ _ _ _ _ _ _)
  · exact h

/-- Raising an event touches the outputs and the health records only. -/
theorem raise_events (c : Units) (d : Dev) (t : Tie) (e : Event) : EventsOnly d (raise c d t e) := by
  unfold raise; dsimp only
  split
  · split
    · exact logAt_events _ _ _ _ _ _ _ _
    · refine mayLog_events _ _ _ _ _ _ _ _ _ _ (events_fold _ _ ?_ d)
      intro d x; split
      · exact handOut_events _ _ _ _
      · rfl
  · refine mayLog_events _ _ _ _ _ _ _ _ _ _ (events_fold _ _ ?_ d)
    intro d x; exact handFree_events _ _ _ _
  · refine mayLog_events _ _ _ _ _ _ _ _ _ _ ?_
    split
    · exact handSnap_events _ _ _
    · rfl

theorem noteCe_reports (d : Dev) (w : Nat) : ReportsOnly d (noteCe d w) := by
  unfold noteCe; dsimp only
  split
  · rfl
  · split
    · rfl
    · split <;> rfl

theorem judgeLimit_reports (c : Units) (d : Dev) (n : Nat) : ReportsOnly d (judgeLimit c d n) := by
  unfold judgeLimit; dsimp only; split <;> rfl

theorem noteUe_reports (c : Units) (d : Dev) (w : Who) (word : Nat) (f : BitVec 72) : ReportsOnly d (noteUe c d w word f) := by
  unfold noteUe; dsimp only
  refine ReportsOnly.trans ?_ (raise_events c _ _ _).reports
  split
  · have h : ∀ y : Dev, ReportsOnly d y → ReportsOnly d (judgeLimit c y (storeCode (word * 8)).2) :=
      fun y h => h.trans (judgeLimit_reports c y _)
    exact h _ rfl
  · split
    · rfl
    · split <;> rfl

/-- A checked read touches outputs, health records and error counts only. -/
theorem eccRead_reports (c : Units) (d : Dev) (w : Who) (k n : Nat) : ReportsOnly d (eccRead c d w k n).1 := by
  unfold eccRead
  split
  · rfl
  · have key : ∀ (l : List (Nat × BitVec 72)) (x : Dev × Bool), ReportsOnly d x.1 → ReportsOnly d (l.foldl (fun (x : Dev × Bool) e =>
      match (eccJudge e.2).2 with
      | 0 => x
      | 1 => (noteCe x.1 e.1, x.2)
      | _ => (noteUe c x.1 w e.1 e.2, true)) x).1 := by
      intro l; induction l with
      | nil => intro x h; exact h
      | cons e l ih =>
        intro x h; refine ih _ ?_
        dsimp only
        split
        · exact h
        · exact h.trans (noteCe_reports _ _)
        · exact h.trans (noteUe_reports _ _ _ _ _)
    exact key _ _ rfl

/-- A store touches memory and its words in error, and what a checked read touches. -/
theorem store_reports (c : Units) (d : Dev) (w : Who) (k : Nat) (bs : List Byte) :
    ReportsOnly { d with mem := (store c d w k bs).mem, ecc := (store c d w k bs).ecc } (store c d w k bs) := by
  unfold store
  split
  · rfl
  · split
    · rfl
    · dsimp only
      have key : ∀ (l : List (Nat × BitVec 72)) (x : Dev), ReportsOnly { d with mem := x.mem, ecc := x.ecc } x →
        ReportsOnly { d with mem := (l.foldl (fun d e =>
          let d := match (eccJudge e.2).2 with | 0 => d | 1 => noteCe d e.1 | _ => noteUe c d w e.1 e.2
          { d with mem := Memory.setAll d.mem (e.1 * 8) (peek d (e.1 * 8) 8) }) x).mem, ecc := (l.foldl (fun d e =>
          let d := match (eccJudge e.2).2 with | 0 => d | 1 => noteCe d e.1 | _ => noteUe c d w e.1 e.2
          { d with mem := Memory.setAll d.mem (e.1 * 8) (peek d (e.1 * 8) 8) }) x).ecc } (l.foldl (fun d e =>
          let d := match (eccJudge e.2).2 with | 0 => d | 1 => noteCe d e.1 | _ => noteUe c d w e.1 e.2
          { d with mem := Memory.setAll d.mem (e.1 * 8) (peek d (e.1 * 8) 8) }) x) := by
        intro l; induction l with
        | nil => intro x h; exact h
        | cons e l ih =>
          intro x h
          refine ih _ ?_
          dsimp only
          have h2 : ∀ y, ReportsOnly x y → ReportsOnly { d with mem := y.mem, ecc := y.ecc } y := by
            intro y hy; unfold ReportsOnly at *; rw [h] at hy; rw [hy]
          have h3 : ∀ y m, ReportsOnly { d with mem := y.mem, ecc := y.ecc } y → ReportsOnly { d with mem := m, ecc := y.ecc } { y with mem := m } := by
            intro y m hy; unfold ReportsOnly at *; dsimp only at *; rw [hy]
          split
          · exact h3 _ _ (h2 _ rfl)
          · exact h3 _ _ (h2 _ (noteCe_reports _ _))
          · exact h3 _ _ (h2 _ (noteUe_reports _ _ _ _ _))
      have h := key (List.filter (fun e => decide (e.1 * 8 < k) || decide (k + bs.length < e.1 * 8 + 8)) (eccIn d k bs.length)) d rfl
      revert h
      generalize List.foldl _ _ _ = y
      intro h
      unfold ReportsOnly at *; dsimp only at *; rw [h]

end Sys2Proof.Machine
end

