-- ==== Sys2Proof/Laws/Access.lean ====
section
/-!
SUPPORT. Reading back what an update wrote: partitions, Bobbins, Tambours, ports, channels, jobs, flights, the error log.
-/
namespace Sys2Proof.Machine
set_option Elab.async false

/-- A partition that is updated. -/
theorem partOf_setPart (d : Dev) (n : Nat) (f : Part → Part) (h : n < 8) : partOf (setPart d n f) n = f (partOf d n) := by
  unfold partOf setPart vmod; dsimp only
  have : d.parts[n]? = some d.parts[n] := by simp [h]
  rw [this]; simp [h]

/-- Updating a partition leaves the others. -/
theorem partOf_setPart_other (d : Dev) (n m : Nat) (f : Part → Part) (h : m ≠ n) : partOf (setPart d n f) m = partOf d m := by
  unfold partOf setPart vmod; dsimp only
  split
  · simp [Vector.getElem?_setIfInBounds, Ne.symm h]
  · rfl

/-- A Bobbin that is updated. -/
theorem bobOf_setBob (d : Dev) (n : Nat) (f : Bob → Bob) (h : n < 8) : bobOf (setBob d n f) n = f (bobOf d n) := by
  unfold bobOf setBob vmod; dsimp only
  have : d.bobs[n]? = some d.bobs[n] := by simp [h]
  rw [this]; simp [h]

/-- Updating a Bobbin leaves the others. -/
theorem bobOf_setBob_other (d : Dev) (n m : Nat) (f : Bob → Bob) (h : m ≠ n) : bobOf (setBob d n f) m = bobOf d m := by
  unfold bobOf setBob vmod; dsimp only
  split
  · simp [Vector.getElem?_setIfInBounds, Ne.symm h]
  · rfl

/-- Updating a Bobbin that does not exist changes none. -/
theorem bobOf_setBob_absent (d : Dev) (n m : Nat) (f : Bob → Bob) (h : ¬ n < 8) : bobOf (setBob d n f) m = bobOf d m := by
  have : d.bobs[n]? = none := by simp; omega
  unfold bobOf setBob vmod; dsimp only; rw [this]

/-- A Tambour that is updated. -/
theorem tambOf_setTamb (d : Dev) (t : Fin 4) (f : Tamb → Tamb) : tambOf (setTamb d t f) t = f (tambOf d t) := by
  have h : (t : Nat) < 4 := t.isLt
  unfold tambOf setTamb vmod; dsimp only
  have : d.tambs[(t : Nat)]? = some d.tambs[(t : Nat)] := by simp
  rw [this]; simp [h]

/-- Updating a Tambour leaves the others. -/
theorem tambOf_setTamb_other (d : Dev) (n m : Nat) (f : Tamb → Tamb) (h : m ≠ n) : tambOf (setTamb d n f) m = tambOf d m := by
  unfold tambOf setTamb vmod; dsimp only
  split
  · rw [Vector.getElem?_setIfInBounds_ne (by omega)]
  · rfl

/-- A receive port that is updated. -/
theorem rxOf_setRx (d : Dev) (x : Fin 4) (f : RxPort → RxPort) : rxOf (setRx d x f) x = f (rxOf d x) := by
  have h : (x : Nat) < 4 := x.isLt
  unfold rxOf setRx vmod; dsimp only
  have : d.rx[(x : Nat)]? = some d.rx[(x : Nat)] := by simp
  rw [this]; simp [h]

/-- A receive channel that is updated. -/
theorem vcOf_setVc (d : Dev) (x : Fin 4) (v : Fin 16) (f : Vc → Vc) : vcOf (setVc d x v f) x v = f (vcOf d x v) := by
  have h : (v : Nat) < 16 := v.isLt
  unfold vcOf setVc; rw [rxOf_setRx]; dsimp only [vmod]
  have : (rxOf d x).vcs[(v : Nat)]? = some (rxOf d x).vcs[(v : Nat)] := by simp
  rw [this]; simp [h]

/-- Updating a receive port beside its channels leaves them. -/
theorem vcOf_setRx (d : Dev) (x : Fin 4) (f : RxPort → RxPort) (v : Nat) (h : ∀ q, (f q).vcs = q.vcs) : vcOf (setRx d x f) x v = vcOf d x v := by
  unfold vcOf; rw [rxOf_setRx, h]

/-- A transmit port that is updated. -/
theorem txOf_setTx (d : Dev) (x : Nat) (f : TxPort → TxPort) (h : x < 2) : txOf (setTx d x f) x = f (txOf d x) := by
  unfold txOf setTx vmod; dsimp only
  have : d.out.tx[x]? = some d.out.tx[x] := by simp [h]
  rw [this]; simp [h]

/-- Updating a transmit port leaves the other. -/
theorem txOf_setTx_other (d : Dev) (x y : Nat) (f : TxPort → TxPort) (h : y ≠ x) : txOf (setTx d x f) y = txOf d y := by
  unfold txOf setTx vmod; dsimp only
  split
  · simp [Vector.getElem?_setIfInBounds, Ne.symm h]
  · rfl

/-- A channel of a transmit port. -/
def txVcOf (e : Dev) (x v : Nat) : TxVc := ((txOf e x).vcs[v]?).getD {}

/-- A transmit channel that is updated. -/
theorem txVcOf_setTxVc (d : Dev) (x v : Nat) (f : TxVc → TxVc) (h : x < 2) (hv : v < 16) : txVcOf (setTxVc d x v f) x v = f (txVcOf d x v) := by
  unfold txVcOf setTxVc; rw [txOf_setTx _ _ _ h]; unfold vmod; dsimp only
  have : (txOf d x).vcs[v]? = some (txOf d x).vcs[v] := by simp [hv]
  rw [this]; simp [hv]

/-- Updating a transmit channel leaves the others. -/
theorem txVcOf_setTxVc_other (d : Dev) (x v w : Nat) (f : TxVc → TxVc) (h : x < 2) (hw : w ≠ v) : txVcOf (setTxVc d x v f) x w = txVcOf d x w := by
  unfold txVcOf setTxVc; rw [txOf_setTx _ _ _ h]; unfold vmod; dsimp only
  split
  · simp [Vector.getElem?_setIfInBounds, Ne.symm hw]
  · rfl

/-- Updating a transmit port beside its channels leaves them. -/
theorem txVcOf_setTx (d : Dev) (x v : Nat) (f : TxPort → TxPort) (h : x < 2) (hf : ∀ t, (f t).vcs = t.vcs) : txVcOf (setTx d x f) x v = txVcOf d x v := by
  unfold txVcOf; rw [txOf_setTx _ _ _ h, hf]

/-- Transmit channels depend on the transmit ports only. -/
theorem txVcOf_congr (d e : Dev) (x v : Nat) (h : e.out.tx = d.out.tx) : txVcOf e x v = txVcOf d x v := by unfold txVcOf txOf; rw [h]

/-- Transmit ports depend on the outputs only. -/
theorem txOf_congr (d e : Dev) (x : Nat) (h : e.out.tx = d.out.tx) : txOf e x = txOf d x := by unfold txOf; rw [h]

/-- Updating a transmit channel leaves the rest of its port. -/
theorem txOf_setTxVc (d : Dev) (x v : Nat) (f : TxVc → TxVc) (h : x < 2) : txOf (setTxVc d x v f) x = { txOf d x with vcs := (txOf (setTxVc d x v f) x).vcs } := by
  unfold setTxVc; rw [txOf_setTx _ _ _ h]

/-- A held job that is updated. -/
theorem jobOf_setJob (d : Dev) (id : Nat) (f : Job → Job) (j : Job) (h : jobOf d id = some j) (hf : ∀ j, j.id = id → (f j).id = id) : jobOf (setJob d id f) id = some (f j) := by
  unfold jobOf setJob at *; dsimp only
  generalize d.jobs = L at h
  induction L with
  | nil => cases h
  | cons x L ih =>
    rw [List.map_cons, List.find?_cons]
    rw [List.find?_cons] at h
    by_cases hx : x.id = id
    · simp [hx] at h; subst h; simp [hx, hf x hx]
    · have e : (x.id == id) = false := by simpa using hx
      rw [e] at h ⊢; simp only [Bool.false_eq_true, if_false, e]
      exact ih h

/-- Updating a held job leaves the others. -/
theorem jobOf_setJob_other (d : Dev) (id q : Nat) (f : Job → Job) (hf : ∀ j, j.id = id → (f j).id = id) (hq : q ≠ id) : jobOf (setJob d id f) q = jobOf d q := by
  unfold jobOf setJob; dsimp only
  generalize d.jobs = L
  induction L with
  | nil => rfl
  | cons x L ih =>
    rw [List.map_cons, List.find?_cons, List.find?_cons]
    by_cases hx : x.id = id
    · have e : (x.id == id) = true := by simpa using hx
      have e2 : ((f x).id == q) = false := by rw [hf x hx]; simpa using (Ne.symm hq)
      have e3 : (x.id == q) = false := by rw [hx]; simpa using (Ne.symm hq)
      simp only [e, if_true, e2, e3]; exact ih
    · have e : (x.id == id) = false := by simpa using hx
      simp only [e, Bool.false_eq_true, if_false]
      split
      · rfl
      · exact ih

/-- A job found by its number has it. -/
theorem jobOf_id (d : Dev) (id : Nat) (j : Job) (h : jobOf d id = some j) : j.id = id := by
  unfold jobOf at h
  have := List.find?_some h; simpa using this

/-- A flight that is updated. -/
theorem flightOf_setFlight (d : Dev) (f : Flight) (φ : Flight → Flight) (hφ : ∀ x, (φ x).id = x.id) (hf : flightOf d f.id = some f) : flightOf (setFlight d f.id φ) f.id = some (φ f) := by
  unfold flightOf setFlight at *; dsimp only
  generalize d.flights = l at hf
  induction l with
  | nil => cases hf
  | cons x t ih =>
    rw [List.map_cons]
    by_cases hx : x.id = f.id
    · rw [List.find?_cons] at hf ⊢
      simp only [hx, beq_self_eq_true, if_true] at hf ⊢
      cases hf
      simp [hφ]
    · rw [List.find?_cons] at hf ⊢
      simp only [beq_eq_false_iff_ne.mpr hx, Bool.false_eq_true, if_false] at hf ⊢
      exact ih hf

/-- A read of n bytes gives n bytes. -/
theorem getN_length (m : List Host.Cell) (k n : Nat) : (Memory.getN m k n).length = n := by
  induction n generalizing m k with
  | zero => rfl
  | succ n ih =>
    rw [Memory.getN]; split <;> simp [ih]

/-- Erased bytes read as unlisted, all others as before. -/
theorem get_erase (m : List Host.Cell) (a n k : Nat) : Memory.get (Memory.erase m a n) k = if a ≤ k ∧ k < a + n then Memory.unlisted k else Memory.get m k := by
  unfold Memory.erase
  rw [get_keep m (fun k => k < a || a + n ≤ k) k]
  by_cases h : a ≤ k ∧ k < a + n
  · rw [if_pos h, if_neg (by simp; omega)]
  · rw [if_neg h, if_pos (by simp; omega)]

/-- A log entry touches the health records only. -/
theorem logAt_health (d : Dev) (code unit part : Nat) (job ctx : Word) (detail : List Nat) (flags : Nat) : logAt d code unit part job ctx detail flags = { d with health := (logAt d code unit part job ctx detail flags).health } := by
  unfold logAt; dsimp only; split
  · rfl
  · split <;> rfl

/-- A log with room takes the entry, at its place. -/
theorem logAt_logged (d : Dev) (code unit part : Nat) (job ctx : Word) (detail : List Nat) (flags : Nat) :
    Logged d (logAt d code unit part job ctx detail flags) (fun e =>
      e.code = code ∧ e.unit = unit ∧ e.part = part ∧ e.job = job ∧ e.ctx = ctx ∧ e.detail = detail ∧ e.flags = flags) := by
  intro h h2
  unfold logAt; dsimp only
  rw [if_neg (by omega), if_neg (by omega)]
  exact ⟨_, ⟨rfl, rfl, rfl, rfl, rfl, rfl, rfl⟩, rfl, rfl, rfl, rfl, rfl⟩

/-- What is logged with a property is logged with a weaker one. -/
theorem Logged.imp {d e : Dev} {p q : LogEntry → Prop} (h : Logged d e p) (hpq : ∀ x, p x → q x) : Logged d e q := by
  intro h1 h2
  obtain ⟨x, hx, hr⟩ := h h1 h2
  exact ⟨x, hpq x hx, hr⟩

end Sys2Proof.Machine
end

