-- ==== Sys2Proof/Laws/Host.lean ====
section
/-!
SUPPORT. Delivery and checks of host packets: everything that takeCmd can do.
-/
namespace Sys2Proof.Machine
set_option Elab.async false

/-- A packet that is not taken is not acknowledged and does nothing. -/
theorem takeCmd_no (r : CmdRow) (ok : Dev → List Byte → Bool) (d : Dev) (w : HostWrite) (act : Dev → BitVec 16 → List Byte → Dev)
   (h : reaches d w.da w.hdr = false) : takeCmd r ok d w act = answerBus d false [] := by
  simp [takeCmd, h]

/-- A packet that fails a check gets that check's reply and does nothing else. -/
theorem takeCmd_ref (r : CmdRow) (ok : Dev → List Byte → Bool) (d : Dev) (w : HostWrite) (act : Dev → BitVec 16 → List Byte → Dev) (st : Nat)
   (h : reaches d w.da w.hdr = true) (h2 : packetStatus (heard d) r ok w.pkt = some st) : takeCmd r ok d w act = refusePacket (heard d) r.op w.pkt.tag st := by
  unfold heard at h2 ⊢
  simp [takeCmd, h, h2]

/-- A packet that passes every check is carried out. -/
theorem takeCmd_ok (r : CmdRow) (ok : Dev → List Byte → Bool) (d : Dev) (w : HostWrite) (act : Dev → BitVec 16 → List Byte → Dev)
   (h : taken d r ok w) : takeCmd r ok d w act = act (heard d) w.pkt.tag w.pkt.payload := by
  obtain ⟨h1, h2⟩ := h
  unfold heard at h2 ⊢
  simp [takeCmd, h1, h2]

/-- What a meaning that cannot change the unit table answers. -/
theorem onDev_eq (f : Units → Dev → Dev) (s : State) : onDev f s = .next { s with dev := f s.committed s.dev } := rfl

/-- The device once a packet has been acknowledged and the staging guard judged keeps every register, shadow and store. -/
theorem atRegs_frame (d : Dev) :
    (atRegs d).regs = d.regs ∧ (atRegs d).shadow = d.shadow ∧ (atRegs d).req = d.req ∧ (atRegs d).mem = d.mem
      ∧ (atRegs d).ecc = d.ecc := by
  unfold atRegs adaptGuard heard; split <;> exact ⟨rfl, rfl, rfl, rfl, rfl⟩

/-- Little-endian bytes read back as the number, within their width. -/
theorem leNat_leBytes (n x : Nat) : leNat (leBytes n x) = x % 256 ^ n := by
  induction n generalizing x with
  | zero => simp [leBytes, leNat, Nat.mod_one]
  | succ n ih =>
    have e : (256 : Nat) ^ (n + 1) = 256 * 256 ^ n := by rw [Nat.pow_succ, Nat.mul_comm]
    rw [e, Nat.mod_mul]
    simp only [leBytes, leNat, ih, BitVec.toNat_ofNat]

theorem leBytes_length (n x : Nat) : (leBytes n x).length = n := by
  induction n generalizing x with
  | zero => rfl
  | succ n ih => simp [leBytes, ih]

/-- The low bytes of a number, and the bytes above them. -/
theorem leBytes_add (m n x : Nat) : leBytes (m + n) x = leBytes m x ++ leBytes n (x / 256 ^ m) := by
  induction m generalizing x with
  | zero => simp [leBytes]
  | succ m ih =>
    rw [show m + 1 + n = (m + n) + 1 by omega]
    simp only [leBytes, List.cons_append, ih]
    rw [Nat.div_div_eq_div_mul, Nat.pow_succ, Nat.mul_comm 256]

/-- Bytes depend on the number within their width only. -/
theorem leBytes_mod (n x : Nat) : leBytes n (x % 256 ^ n) = leBytes n x := by
  induction n generalizing x with
  | zero => rfl
  | succ n ih =>
    have e : (256 : Nat) ^ (n + 1) = 256 * 256 ^ n := by rw [Nat.pow_succ, Nat.mul_comm]
    have h1 : x % (256 * 256 ^ n) / 256 = x / 256 % 256 ^ n := by rw [Nat.mod_mul_right_div_self]
    have h2 : BitVec.ofNat 8 (x % (256 * 256 ^ n)) = BitVec.ofNat 8 x := by
      apply BitVec.eq_of_toNat_eq; simp only [BitVec.toNat_ofNat]; exact Nat.mod_mul_right_mod x 256 (256 ^ n)
    rw [e]; simp only [leBytes, h1, h2, ih]

/-- The first four bytes of a body that begins with a word. -/
theorem fld_first (a : Nat) (t : List Byte) (ha : a < 2 ^ 32) : fld (leBytes 4 a ++ t) 0 4 = a := by
  simp only [fld, List.drop_zero]
  rw [List.take_append_of_le_length (by simp [leBytes_length]), List.take_of_length_le (by simp [leBytes_length]), leNat_leBytes]
  exact Nat.mod_eq_of_lt ha

/-- A packet as a host forms it passes the checks of length and CRC. -/
theorem okPkt_checks (op : Nat) (tag : BitVec 16) (b : List Byte) (h : b.length % 4 = 0) (h2 : b.length ≤ 4096) :
    pktLenOk (okPkt op tag b) = true ∧ pktCrcOk op (okPkt op tag b) = true := by
  constructor
  · unfold pktLenOk okPkt; dsimp only
    have e : (BitVec.ofNat 16 b.length).toNat = b.length := by simp only [BitVec.toNat_ofNat]; omega
    simp only [e, Bool.and_eq_true, beq_iff_eq, decide_eq_true_eq, true_and]; omega
  · unfold pktCrcOk okPkt; simp only [beq_iff_eq]; rfl

/-- A packet as a host forms it, of a row without a lowest version, passes checks 1 to 6. -/
theorem okPkt_taken (d : Dev) (da : BitVec 7) (hdr : Option Byte) (tag : BitVec 16) (r : CmdRow) (ok : Dev → List Byte → Bool) (b : List Byte)
    (h : reaches d da hdr = true) (hs : served d r = true) (hl : b.length % 4 = 0) (hl2 : b.length ≤ 4096) (hm : r.minor = 0)
    (hlo : r.least ≤ b.length) (hhi : b.length ≤ r.most) (hb : ok (heard d) b = true) :
    taken d r ok ⟨da, hdr, okPkt r.op.toNat tag b⟩ := by
  refine ⟨h, ?_⟩
  obtain ⟨h1, h2⟩ := okPkt_checks r.op.toNat tag b hl hl2
  have hp : (okPkt r.op.toNat tag b).payload = b := rfl
  have hr : (okPkt r.op.toNat tag b).rsvd = 0 := rfl
  have hs' : served (heard d) r = true := hs
  simp only [packetStatus, h1, h2, hp, hr, hs', hm, hb]
  have h3 : ¬ (b.length < r.least) := by omega
  have h4 : ¬ (r.most < b.length) := by omega
  simp [h3, h4]

/-- The staging guard has no part in what encodings a register reserves. -/
theorem reservedWrite_guard (d : Dev) (r : RegAt) (v : Nat) : reservedWrite (adaptGuard d) r v = reservedWrite d r v := by
  unfold adaptGuard; split <;> rfl

/-- A REG_WRITE as the writing rows form it passes checks 1 to 5, when it places no reserved encoding. -/
theorem writePkt_taken (d : Dev) (b : Bus) (a v : Nat) (ha : a < 0x200000) (h : busTaken d b rowRegWrite)
    (hv : ∀ r, regAt (a / 4 * 4) = some r → reservedWrite (heard d) r (v % 2 ^ 32) = false) :
    taken d rowRegWrite writeBody (writePkt b a v)
      ∧ fld (writePkt b a v).pkt.payload 0 4 = a ∧ fld (writePkt b a v).pkt.payload 4 4 = v % 2 ^ 32 := by
  have h0 : fld (leBytes 4 a ++ leBytes 4 v) 0 4 = a := fld_first a _ (by omega)
  have h4 : fld (leBytes 4 a ++ leBytes 4 v) 4 4 = v % 2 ^ 32 := by
    simp only [fld]
    rw [List.drop_append_of_le_length (by simp [leBytes_length]), List.drop_eq_nil_of_le (by simp [leBytes_length]), List.nil_append,
      List.take_of_length_le (by simp [leBytes_length]), leNat_leBytes]; norm_num
  have hlen : (leBytes 4 a ++ leBytes 4 v).length = 8 := by simp [leBytes_length]
  exact ⟨okPkt_taken d b.da b.hdr b.tag rowRegWrite _ _ h.1 h.2 (by omega) (by omega) rfl (by rw [hlen]; decide) (by rw [hlen]; decide)
    (by
      unfold writeBody; simp only [h0, h4, Bool.and_eq_true, decide_eq_true_eq]
      refine ⟨ha, ?_⟩
      split
      · rename_i r hr; rw [hv r hr]; rfl
      · rfl), h0, h4⟩

/-- A REG_READ as the reading rows form it passes checks 1 to 5. -/
theorem readPkt_taken (d : Dev) (b : Bus) (a : Nat) (ha : a < 0x200000) (h : busTaken d b rowRegRead) :
    taken d rowRegRead readBody (readPkt b a) ∧ fld (readPkt b a).pkt.payload 0 4 = a ∧ fld (readPkt b a).pkt.payload 4 1 = 0 := by
  have h0 : fld (leBytes 4 a ++ [0, 0, 0, 0]) 0 4 = a := fld_first a _ (by omega)
  have hd : (leBytes 4 a ++ [0, 0, 0, 0]).drop 4 = [0, 0, 0, 0] := by
    rw [List.drop_append_of_le_length (by simp [leBytes_length]), List.drop_eq_nil_of_le (by simp [leBytes_length]), List.nil_append]
  have h4 : fld (leBytes 4 a ++ [0, 0, 0, 0]) 4 1 = 0 := by unfold fld; rw [hd]; rfl
  have h5 : zeroAt (leBytes 4 a ++ [0, 0, 0, 0]) 5 3 = true := by
    unfold zeroAt; rw [show (5 : Nat) = 4 + 1 from rfl, ← List.drop_drop, hd]; rfl
  have hlen : (leBytes 4 a ++ [0, 0, 0, 0]).length = 8 := by simp [leBytes_length]
  exact ⟨okPkt_taken d b.da b.hdr b.tag rowRegRead _ _ h.1 h.2 (by omega) (by omega) rfl (by rw [hlen]; decide) (by rw [hlen]; decide)
    (by unfold readBody; simp only [h0, h4, h5]; simpa using ha), h0, h4⟩

/-- A REG_READ_BLOCK of two words as the reading rows form it passes checks 1 to 5. -/
theorem pairPkt_taken (d : Dev) (b : Bus) (a : Nat) (ha : a / 4 * 4 + 8 ≤ 0x200000) (h : busTaken d b rowReadBlock) :
    taken d rowReadBlock blockBody (pairPkt b a) ∧ fld (pairPkt b a).pkt.payload 0 4 = a ∧ fld (pairPkt b a).pkt.payload 4 2 = 2
      ∧ fld (pairPkt b a).pkt.payload 6 1 = 0 := by
  have h0 : fld (leBytes 4 a ++ [2, 0, 0, 0]) 0 4 = a := fld_first a _ (by omega)
  have hd : (leBytes 4 a ++ [2, 0, 0, 0]).drop 4 = [2, 0, 0, 0] := by
    rw [List.drop_append_of_le_length (by simp [leBytes_length]), List.drop_eq_nil_of_le (by simp [leBytes_length]), List.nil_append]
  have h4 : fld (leBytes 4 a ++ [2, 0, 0, 0]) 4 2 = 2 := by unfold fld; rw [hd]; rfl
  have h6 : fld (leBytes 4 a ++ [2, 0, 0, 0]) 6 1 = 0 := by
    unfold fld; rw [show (6 : Nat) = 4 + 2 from rfl, ← List.drop_drop, hd]; rfl
  have h7 : zeroAt (leBytes 4 a ++ [2, 0, 0, 0]) 7 1 = true := by
    unfold zeroAt; rw [show (7 : Nat) = 4 + 3 from rfl, ← List.drop_drop, hd]; rfl
  have hlen : (leBytes 4 a ++ [2, 0, 0, 0]).length = 8 := by simp [leBytes_length]
  exact ⟨okPkt_taken d b.da b.hdr b.tag rowReadBlock _ _ h.1 h.2 (by omega) (by omega) rfl (by rw [hlen]; decide) (by rw [hlen]; decide)
    (by unfold blockBody; simp only [h0, h4, h6, h7]; simpa using ha), h0, h4, h6⟩

/-- A REG_READ that is taken: the read, then the reply. -/
theorem regReadCmd_taken (c : Units) (d : Dev) (w : HostWrite) (h : taken d rowRegRead readBody w) :
    regReadCmd c d w =
      let x := doRead c (heard d) (fld w.pkt.payload 0 4) 1 (fld w.pkt.payload 4 1 == 1)
      giveReply x.1 0x0002 w.pkt.tag x.2.1 x.2.2 := by
  unfold regReadCmd hostCmd
  rw [takeCmd_ok _ _ _ _ _ h]
  rfl

/-- A REG_READ_BLOCK that is taken: the reads, then the reply. -/
theorem readBlockCmd_taken (c : Units) (d : Dev) (w : HostWrite) (h : taken d rowReadBlock blockBody w) :
    readBlockCmd c d w =
      let x := doRead c (heard d) (fld w.pkt.payload 0 4) (fld w.pkt.payload 4 2) (fld w.pkt.payload 6 1 == 1)
      giveReply x.1 0x0004 w.pkt.tag x.2.1 x.2.2 := by
  unfold readBlockCmd hostCmd
  rw [takeCmd_ok _ _ _ _ _ h]
  rfl

/-- A read in reach replies OK with its words, once the staging guard has been judged. -/
theorem doRead_ok (c : Units) (d : Dev) (a n : Nat) (sh : Bool) (h : sleepReach d (a / 4 * 4) n = true) :
    doRead c (heard d) a n sh = ((regWords c sh n (a / 4 * 4) (atRegs d)).1, stOk, (regWords c sh n (a / 4 * 4) (atRegs d)).2) := by
  have h' : sleepReach (heard d) (a / 4 * 4) n = true := h
  unfold doRead atRegs; simp only [h', Bool.not_true, Bool.false_eq_true, if_false]

/-- A read out of reach in SLEEP replies OFFLINE and does nothing. -/
theorem doRead_off (c : Units) (d : Dev) (a n : Nat) (sh : Bool) (h : sleepReach d (a / 4 * 4) n = false) :
    doRead c (heard d) a n sh = (heard d, stOffline, []) := by
  have h' : sleepReach (heard d) (a / 4 * 4) n = false := h
  unfold doRead; simp only [h', Bool.not_false, if_true]

/-- One word of a read. -/
theorem regWords_one (c : Units) (sh : Bool) (a : Nat) (d : Dev) :
    regWords c sh 1 a d = ((regWord c d a sh).1, leBytes 4 (regWord c d a sh).2) := by
  simp [regWords]

/-- A word below the windows is a register's. -/
theorem regWord_reg (c : Units) (d : Dev) (a : Nat) (h : a < 0x100000) : regWord c d a false = regRead c d a false := by
  unfold regWord; rw [if_neg (by omega)]; rfl

/-- With SHADOW it is that read's value, and nothing moves but the free values used (R429). -/
theorem regWord_shadow (c : Units) (d : Dev) (a : Nat) (h : a < 0x100000) :
    regWord c d a true = ({ d with free := (regRead c d a true).1.free }, (regRead c d a true).2) := by
  unfold regWord; rw [if_neg (by omega)]; rfl

/-- A REG_WRITE that is taken: its write, judged and carried out, then the reply. -/
theorem regWriteCmd_taken (c : Units) (d : Dev) (w : HostWrite) (h : taken d rowRegWrite writeBody w) :
    regWriteCmd c d w =
      giveReply (doWrite c (heard d) (fld w.pkt.payload 0 4) (fld w.pkt.payload 4 4)).1 0x0003 w.pkt.tag
        (doWrite c (heard d) (fld w.pkt.payload 0 4) (fld w.pkt.payload 4 4)).2.1 [] := by
  unfold regWriteCmd hostCmd
  rw [takeCmd_ok _ _ _ _ _ h]
  rfl

/-- A write below the windows goes to the registers, once the staging guard has been judged. -/
theorem doWrite_reg (c : Units) (d : Dev) (a v : Nat) (ha : a < 0x100000) :
    doWrite c (heard d) a v = ((regWriteAt c (atRegs d) a v).1, (regWriteAt c (atRegs d) a v).2, []) := by
  have : ¬ (0x100000 ≤ a) := by omega
  unfold doWrite atRegs; rw [if_neg this]

/-- A write of a reserved encoding. -/
theorem regWriteAt_value (c : Units) (d : Dev) (a v : Nat) (r : RegAt) (hr : regAt (a / 4 * 4) = some r)
    (h : reservedWrite d r v = true) : regWriteAt c d a v = (d, stValue) := by
  unfold regWriteAt; simp only [hr, h, if_true]

/-- A write against a state. -/
theorem regWriteAt_conflict (c : Units) (d : Dev) (a v : Nat) (r : RegAt) (hr : regAt (a / 4 * 4) = some r)
    (h : reservedWrite d r v = false) (h2 : conflictWrite c d r (a / 4 * 4) v = true) : regWriteAt c d a v = (d, stConflict) := by
  unfold regWriteAt; simp only [hr, h, h2, if_true, Bool.false_eq_true, if_false]

/-- An accepted write of a register with shadowed fields. -/
theorem regWriteAt_shadow (c : Units) (d : Dev) (a v : Nat) (r : RegAt) (hr : regAt (a / 4 * 4) = some r)
    (h : reservedWrite d r v = false) (h2 : conflictWrite c d r (a / 4 * 4) v = false)
    (h3 : r.row.fields.any FieldDef.shadowed = true) : regWriteAt c d a v = shadowWrite c d r (a / 4 * 4) v := by
  unfold regWriteAt; simp only [hr, h, h2, h3, if_true, Bool.false_eq_true, if_false]

/-- An accepted write of a register with no shadowed field acts at once. -/
theorem regWriteAt_now (c : Units) (d : Dev) (a v : Nat) (r : RegAt) (hr : regAt (a / 4 * 4) = some r)
    (h : reservedWrite d r v = false) (h2 : conflictWrite c d r (a / 4 * 4) v = false)
    (h3 : r.row.fields.any FieldDef.shadowed = false) : regWriteAt c d a v =
      (clearCounts (clearBits (actNow c d r (if r.row.reg == .tCoefData || r.row.reg == .tPgRam then v else
        if r.row.fields.any FieldDef.stored then storedBits r.row.fields v else v)) r v) r v, stOk) := by
  unfold regWriteAt; simp only [hr, h, h2, h3, Bool.false_eq_true, if_false]

/-- Words are four bytes: a register is found by any address of its word. -/
theorem regAt_word (a : Nat) : regAt (a / 4 * 4) = regAt a := by
  unfold regAt; congr 1; funext r; congr 1; omega

/-- A write that a row of its own spells, carried out. -/
theorem writeReg_taken (c : Units) (d : Dev) (b : Bus) (r : Reg) (i v : Nat) (q : RegAt) (hv : v < 2 ^ 32)
    (ha : addrOf r i 0 < 0x100000) (h : writeTaken c d b (addrOf r i 0) v q) :
    writeReg c d b r i v = giveReply (regWriteAt c (atRegs d) (addrOf r i 0) v).1 0x0003 b.tag
      (regWriteAt c (atRegs d) (addrOf r i 0) v).2 [] := by
  obtain ⟨h1, h2, h3, -⟩ := h
  obtain ⟨hk, h0, h4⟩ := writePkt_taken d b (addrOf r i 0) v (by omega) h1 (fun r' hr => by
    rw [regAt_word, h2] at hr; cases hr
    rw [Nat.mod_eq_of_lt hv, ← reservedWrite_guard]; exact h3)
  unfold writeReg
  rw [regWriteCmd_taken c d _ hk, h0, h4, Nat.mod_eq_of_lt hv, doWrite_reg c d _ v ha]; rfl

/-- A packet command that is taken and passes its checks acts and replies. -/
theorem hostCmd_taken (r : CmdRow) (ok : Dev → List Byte → Bool) (d : Dev) (w : HostWrite) (act : Dev → List Byte → Dev × Nat × List Byte) (h : taken d r ok w) :
    hostCmd r ok d w act = giveReply (act (heard d) w.pkt.payload).1 r.op w.pkt.tag (act (heard d) w.pkt.payload).2.1 (act (heard d) w.pkt.payload).2.2 := by
  unfold hostCmd; rw [takeCmd_ok _ _ _ _ _ h]

end Sys2Proof.Machine
end

