-- ==== Sys2Proof/Laws/Outputs.lean ====
section
/-!
SUPPORT. The transmit ports: release, PAGE_END and sending.
-/
namespace Sys2Proof.Machine
set_option Elab.async false

theorem jobOf_congr (d e : Dev) (n : Nat) (h : e.jobs = d.jobs) : jobOf e n = jobOf d n := by unfold jobOf; rw [h]

/-- Only channel v of transmit port x, its port and the records of jobs differ. -/
def ChannelOnly (d u : Dev) (x v : Nat) : Prop :=
  u = { d with out := u.out, health := u.health, jobs := u.jobs, txt := u.txt, gone := u.gone } ∧ (∀ y, y ≠ x → txOf u y = txOf d y) ∧ ∀ w, w ≠ v → ((txOf u x).vcs[w]?).getD {} = ((txOf d x).vcs[w]?).getD {}

theorem ChannelOnly.refl (d : Dev) (x v : Nat) : ChannelOnly d d x v := ⟨rfl, fun _ _ => rfl, fun _ _ => rfl⟩

theorem ChannelOnly.trans {a b c : Dev} {x v : Nat} (h : ChannelOnly a b x v) (g : ChannelOnly b c x v) : ChannelOnly a c x v :=
  ⟨by rw [g.1, h.1], fun y hy => (g.2.1 y hy).trans (h.2.1 y hy), fun w hw => (g.2.2 w hw).trans (h.2.2 w hw)⟩

theorem channelOnly_of_tx {d u : Dev} {x v : Nat} (h : u = { d with out := u.out, health := u.health, jobs := u.jobs, txt := u.txt, gone := u.gone }) (g : u.out.tx = d.out.tx) : ChannelOnly d u x v :=
  ⟨h, fun y _ => txOf_congr _ _ _ g, fun w _ => by rw [txOf_congr _ _ _ g]⟩

theorem channelOnly_setTx (d : Dev) (x v : Nat) (f : TxPort → TxPort) (hx : x < 2) (hf : ∀ t, (f t).vcs = t.vcs) : ChannelOnly d (setTx d x f) x v :=
  ⟨rfl, fun _ hy => txOf_setTx_other _ _ _ _ hy, fun w _ => txVcOf_setTx d x w f hx hf⟩

theorem channelOnly_setTxVc (d : Dev) (x v : Nat) (f : TxVc → TxVc) (hx : x < 2) : ChannelOnly d (setTxVc d x v f) x v :=
  ⟨rfl, fun _ hy => txOf_setTx_other _ _ _ _ hy, fun w hw => txVcOf_setTxVc_other d x v w f hx hw⟩

theorem channelOnly_setOut (d : Dev) (x v a b : Nat) (f : OutJob → OutJob) : ChannelOnly d (setOut d a b f) x v := channelOnly_of_tx rfl rfl

theorem channelOnly_logAt (d : Dev) (x v : Nat) (code unit part : Nat) (job ctx : Word) (detail : List Nat) (flags : Nat) : ChannelOnly d (logAt d code unit part job ctx detail flags) x v := by
  have h := logAt_health d code unit part job ctx detail flags
  exact channelOnly_of_tx (by rw [h]) (by rw [h])

theorem channelOnly_retire (d : Dev) (x v n : Nat) : ChannelOnly d (retire d n) x v := by
  unfold Machine.retire; dsimp only; split
  · exact channelOnly_of_tx rfl rfl
  · exact ChannelOnly.refl _ _ _

theorem noteFrame_tx (d : Dev) (x v : Nat) (f : Word → Bool) (g : OutJob → OutJob) : (noteFrame d x v f g).out.tx = d.out.tx := rfl

theorem noteFrame_out (d : Dev) (x v : Nat) (f : Word → Bool) (g : OutJob → OutJob) : noteFrame d x v f g = { d with out := (noteFrame d x v f g).out } := rfl

theorem noteFrame_jobs (d : Dev) (x v : Nat) (f : Word → Bool) (g : OutJob → OutJob) : noteFrame d x v f g = { d with out := { d.out with jobs := (noteFrame d x v f g).out.jobs } } := rfl

/-- What sending packets leaves on the port (R351, R373). -/
theorem sendPackets_tx (d : Dev) (x : Nat) (ps : List (Packet × Nat)) (hx : x < 2) : txOf (sendPackets d x ps) x = { txOf d x with
    used := (txOf d x).used - ps.foldl (fun n p => n + p.2) 0, wire := ps.map (·.1), leaving := leaveAt d x ps
    laneAt := (leaveAt d x ps).foldl (fun _ p => p.1) (txOf d x).laneAt } := by
  unfold sendPackets; dsimp only; rw [txOf_setTx _ _ _ hx]

theorem channelOnly_sendPackets (d : Dev) (x v : Nat) (ps : List (Packet × Nat)) (hx : x < 2) : ChannelOnly d (sendPackets d x ps) x v :=
  channelOnly_setTx d x v _ hx (fun _ => rfl)

/-- Without words in error a record is sent as it was written. -/
theorem readRec_plain (d : Dev) (r : Rec) (h : d.ecc = []) : readRec d r = r := by
  have hb : ∀ a bs, bufBytes d a bs = bs := by intro a bs; unfold bufBytes; rw [h]; rfl
  have hf : ∀ (l : List (List Byte)) (x : Nat × List (List Byte)), (l.foldl (fun (x : Nat × List (List Byte)) l =>
      (x.1 + (l.length + 3) / 4 * 4, x.2 ++ [bufBytes d x.1 l])) x).2 = x.2 ++ l := by
    intro l; induction l with
    | nil => intro x; simp
    | cons y l ih => intro x; rw [List.foldl_cons, ih, hb]; simp
  unfold readRec; rw [hb, hf]; simp

/-- The packets of a record. -/
def recPackets (v : Nat) (r : Rec) : List (Packet × Nat) := (.record v r.bytes, r.bytes.length) :: linePackets v r.lines

/-- What sending a record leaves, without words in error. -/
theorem sendRec_sent (c : Units) (d : Dev) (x v : Nat) (r : Rec) (hx : x < 2) (he : d.ecc = []) :
    ChannelOnly d (sendRec c d x v r) x v ∧ (sendRec c d x v r) = { d with out := (sendRec c d x v r).out }
      ∧ txOf (sendRec c d x v r) x = { txOf (sendPackets d x (recPackets v r)) x with sent := (txOf d x).sent + 1 } := by
  have base : ∀ e : Dev, e = setTx (sendPackets d x (recPackets v r)) x (fun t => { t with sent := t.sent + 1 }) →
      ChannelOnly d e x v ∧ e = { d with out := e.out } ∧ txOf e x = { txOf (sendPackets d x (recPackets v r)) x with sent := (txOf d x).sent + 1 } := by
    intro e h
    refine ⟨?_, by rw [h]; rfl, ?_⟩
    · rw [h]; exact (channelOnly_sendPackets d x v _ hx).trans (channelOnly_setTx _ x v (fun t => { t with sent := t.sent + 1 }) hx (fun _ => rfl))
    · rw [h, txOf_setTx _ _ _ hx, sendPackets_tx _ _ _ hx]
  unfold sendRec; dsimp only
  rw [readRec_plain d r he, eccRead_plain c d _ _ _ he]
  split
  · obtain ⟨b1, b2, b3⟩ := base _ rfl
    refine ⟨ChannelOnly.trans b1 (channelOnly_of_tx rfl rfl), ?_, ?_⟩
    · rfl
    · rw [← b3]; exact txOf_congr _ _ _ rfl
  · exact base _ rfl

/-- Quota of the records that an unread job drops at release. -/
def droppedQuota (x : OutJob) (j : Job) : Nat := if j.verdict = some true then 0 else x.recs.foldl (fun n r => n + r.size) 0

/-- Records that a job sends from its release. -/
def releasedRecs (x : OutJob) (j : Job) : List Rec := if j.verdict = some true then x.recs else []

/-- Elements have come to wait on a channel, and with their records the STREAM_HEADER that was due, where it fits (R355, R373). -/
def Queued (d u : Dev) (x v : Nat) (items : List OutItem) : Prop :=
  let q : TxVc := { txVcOf d x v with q := (txVcOf d x v).q ++ items }
  let opens := q.hasRec = true ∧ q.header = true ∧ 48 + reserveBytes d x ≤ freeBytes d x
  ChannelOnly d u x v ∧ u = { d with out := u.out } ∧ (txOf u x).used = (if opens then (txOf d x).used + 48 else (txOf d x).used)
    ∧ (¬ opens → txVcOf u x v = q)
    ∧ (opens → ∃ a, txVcOf u x v = { q with header := false, stream := some { bytes := recStream d x v, at_ := d.clk.mono, addr := a } })

/-- What queueing records does. -/
theorem queueItems_queued (d : Dev) (x v : Nat) (items : List OutItem) (hx : x < 2) (hv : v < 16) : Queued d (queueItems d x v items) x v items := by
  unfold Queued; intro q opens
  have ht := txVcOf_setTxVc d x v (fun t => { t with q := t.q ++ items }) hx hv
  have hu := txOf_setTxVc d x v (fun t => { t with q := t.q ++ items }) hx
  have hc := channelOnly_setTxVc d x v (fun t => { t with q := t.q ++ items }) hx
  have hd : setTxVc d x v (fun t => { t with q := t.q ++ items }) = { d with out := (setTxVc d x v (fun t => { t with q := t.q ++ items })).out } := rfl
  unfold queueItems
  generalize setTxVc d x v (fun t => { t with q := t.q ++ items }) = e at *
  have he : ((txOf e x).vcs[v]?).getD {} = q := ht
  have hq : txVcOf e x v = q := ht
  have huse : (txOf e x).used = (txOf d x).used := by rw [hu]
  have hlv : leavingBytes e x = leavingBytes d x := by unfold leavingBytes; rw [hu, hd]
  have hfit : fits e x 48 = decide (48 + reserveBytes d x ≤ freeBytes d x) := by
    unfold fits freeBytes; rw [huse, hlv]; rw [hd]; rfl
  unfold openStream writeStream; rw [he, hfit]
  by_cases h1 : q.hasRec = true
  · by_cases h2 : q.header = true ∧ 48 + reserveBytes d x ≤ freeBytes d x
    · rw [if_pos h1, if_pos (by simp [h2])]
      unfold placeRec; dsimp only
      have ho : opens := ⟨h1, h2⟩
      have hp : ∀ y : Dev, ChannelOnly y { y with out := { y.out with placed := y.out.placed + 1 } } x v := fun y => channelOnly_of_tx rfl rfl
      refine ⟨((hc.trans (hp e)).trans (channelOnly_setTx _ x v (fun t => { t with used := t.used + 48 }) hx (fun _ => rfl))).trans
        (channelOnly_setTxVc _ x v _ hx), by rw [hd]; rfl, ?_, fun h => absurd ho h, fun _ => ?_⟩
      · rw [if_pos ho, txOf_setTxVc _ _ _ _ hx, takeQuota, txOf_setTx _ _ _ hx]; dsimp only; rw [← huse]; rfl
      · have hk : txVcOf (takeQuota { e with out := { e.out with placed := e.out.placed + 1 } } x 48) x v = txVcOf e x v :=
          txVcOf_setTx _ x v (fun t => { t with used := t.used + 48 }) hx (fun _ => rfl)
        rw [txVcOf_setTxVc _ _ _ _ hx hv, hk, hq]
        exact ⟨_, by rw [hd]; rfl⟩
    · have hno : ¬ opens := fun h => h2 h.2
      rw [if_pos h1, if_neg (by simpa using h2)]
      exact ⟨hc, hd, by rw [if_neg hno, huse], fun _ => hq, fun h => absurd h hno⟩
  · have hno : ¬ opens := fun h => h1 h.1
    rw [if_neg h1]
    exact ⟨hc, hd, by rw [if_neg hno, huse], fun _ => hq, fun h => absurd h hno⟩

/-- The PAGE_BEGIN of a job is not the record that it lost first (R364). -/
def begun (d : Dev) (x : OutJob) : Prop := (outNow d x).firstLost ≠ some 0

open Classical in
/-- The release of an admitted job (R368). -/
theorem release_admitted (d : Dev) (p o : Nat) (x : OutJob) (j : Job) (hfi : firstOn d p o = some x) (hjo : jobOf d x.job = some j) (hx : x.port < 2)
    (hr : x.released = false) (hp : j.pubVer = true) (ha : x.admitted = some true) (hd : (txVcOf d x.port x.vc).drop = none) :
    ∃ e a, e = { giveQuota d x.port (droppedQuota x j) with out := { (giveQuota d x.port (droppedQuota x j)).out with placed := d.out.placed + 1 } }
      ∧ release d p o = setOut (queueItems (setTxVc e x.port x.vc (fun t => { t with drop := none })) x.port x.vc
        (OutItem.frameStart (frameNo j.seq) :: (if begun d x then [OutItem.item { bytes := recPageBegin j x.reread, at_ := d.clk.mono, addr := a }] else [])
          ++ (x.evs ++ releasedRecs x j).map (fun r => OutItem.item { r with at_ := d.clk.mono, early := true }))) x.job x.out (fun y =>
          { y with
            released := true, count := (if begun d x then 1 else 0) + x.evs.length + (releasedRecs x j).length, evs := [], recs := []
            crops := (x.evs ++ releasedRecs x j).foldl (fun n r => n + r.lines.length) 0 }) := by
  refine ⟨_, 8 * ((Config.openValue 12 d.out.placed).toNat % 2 ^ 20), rfl, ?_⟩
  unfold release; rw [hfi]; dsimp only; rw [hjo]; dsimp only
  rw [if_neg (by rw [hr, hp]; simp)]
  have htj : ∀ e, takeJob e x = (e, true) := by intro e; unfold takeJob; rw [ha]
  rw [htj]; dsimp only
  rw [if_neg (by decide)]
  have hg : ∀ n, ((((txOf (giveQuota d x.port n) x.port).vcs[x.vc]?).getD {}).drop) = none := by
    intro n
    exact (congrArg TxVc.drop (txVcOf_setTx d x.port x.vc (fun t => { t with used := t.used - n }) hx (fun _ => rfl))).trans hd
  rw [hg]; dsimp only
  have ho : ∀ n, outNow (giveQuota d x.port n) x = outNow d x := fun _ => rfl
  rw [ho]
  by_cases hb : begun d x
  · have hb2 : ((outNow d x).firstLost != some 0) = true := by unfold begun at hb; simpa using hb
    rw [hb2, if_pos hb, if_pos hb]; simp only [beq_iff_eq]; rfl
  · have hb2 : ((outNow d x).firstLost != some 0) = false := by unfold begun at hb; simpa using hb
    rw [hb2, if_neg hb, if_neg hb]; simp only [beq_iff_eq]; rfl

/-- The device once the GAP of a job that lost records is noted and placed, and the GAP. -/
def gapNoted (d : Dev) (x : OutJob) (j : Job) : Dev × List OutItem := match x.firstLost with
  | none => (d, [])
  | some i =>
    let e := logAt (takeQuota d x.port 32) 0x000D 0x1C x.part j.seq noWord [x.port, x.vc, sat 32 x.lost, sat 32 x.lostB, 0, j.seq.toNat, j.seq.toNat] 0
    let r := placeRec e { bytes := recGap x.reread j.seq x.lost x.lostB false i }
    (r.1, [OutItem.item r.2])

/-- The PAGE_END of an admitted job (R369, R374). -/
theorem pageEnd_admitted (d : Dev) (p o : Nat) (x : OutJob) (j : Job) (hfi : firstOn d p o = some x) (hjo : jobOf d x.job = some j)
    (hr : x.released = true) (hc : j.verdict = some true → j.doneNamed = true ∧ contextsDone d j = true) (ha : x.admitted = some true) :
    let g := gapNoted d x j
    ∃ e pe, (e, pe) = placeRec (takeQuota g.1 x.port 40) { bytes := recPageEnd (takeQuota g.1 x.port 40) j x.reread (x.count + g.2.length) x.crops x.firstLost.isSome false }
      ∧ pageEnd d p o = retire (setOut (queueItems e x.port x.vc (g.2 ++ [.item pe, .frameEnd (frameNo j.seq)]))
        x.job x.out (fun y => { y with ended := true })) x.job := by
  intro g
  refine ⟨_, _, rfl, ?_⟩
  unfold pageEnd; rw [hfi]; dsimp only; rw [hjo]; dsimp only
  rw [if_neg (by
      rw [hr]; simp only [Bool.not_true, Bool.false_or, Bool.and_eq_true, beq_iff_eq, Bool.not_eq_true', not_and, Bool.not_eq_false]
      intro h; exact hc h), if_neg (by rw [ha]; decide)]
  simp only [g, gapNoted]
  cases hl : x.firstLost with
  | none => rfl
  | some i => rfl

/-- The port as it enters HS to send for a channel. -/
def entered (d : Dev) (x v : Nat) : Dev := setTx d x (fun p => { p with hs := true, last := v })

/-- A STREAM_HEADER goes first (R355). -/
theorem sendVc_stream (c : Units) (d : Dev) (x v : Nat) (h : Rec) (hn : (txVcOf d x v).nextIsRec = true) (hs : (txVcOf d x v).stream = some h) :
    sendVc c d x v = sendRec c (setTxVc (entered d x v) x v (fun t => { t with stream := none })) x v h := by
  have h1 : (((txOf d x).vcs[v]?).getD {}).nextIsRec = true := hn
  have h2 : (((txOf d x).vcs[v]?).getD {}).stream = some h := hs
  unfold sendVc; dsimp only; rw [h1, h2]; rfl

/-- A record tied to no job is next (R370). -/
theorem sendVc_free (c : Units) (d : Dev) (x v : Nat) (r : Rec) (rest : List Rec) (hs : (txVcOf d x v).stream = none) (h : (txVcOf d x v).free = r :: rest) :
    sendVc c d x v = sendRec c (setTxVc (entered d x v) x v (fun t => { t with free := rest })) x v r := by
  have h2 : (((txOf d x).vcs[v]?).getD {}).stream = none := hs
  have h3 : (((txOf d x).vcs[v]?).getD {}).free = r :: rest := h
  unfold sendVc; dsimp only; rw [h2, h3]; cases (((txOf d x).vcs[v]?).getD {}).nextIsRec <;> rfl

/-- A record or frame packet of a job is next. -/
theorem sendVc_queued (c : Units) (d : Dev) (x v : Nat) (i : OutItem) (rest : List OutItem) (h : (txVcOf d x v).free = []) (hq : (txVcOf d x v).q = i :: rest)
    (hh : ∀ r, i = .item r → (txVcOf d x v).stream = none) :
    sendVc c d x v = (match i with
      | .item r => sendRec c (setTxVc (entered d x v) x v (fun t => { t with q := t.q.drop 1 })) x v r
      | .frameStart n =>
        noteFrame (sendPackets (setTxVc (entered d x v) x v (fun t => { t with q := t.q.drop 1 })) x [(.frameStart v n, 0)]) x v (fun s => frameNo s == n)
          (fun o => { o with started := true })
      | .frameEnd n =>
        noteFrame (sendPackets (setTxVc (entered d x v) x v (fun t => { t with q := t.q.drop 1 })) x [(.frameEnd v n, 0)]) x v (fun s => frameNo s == n)
          (fun o => { o with started := false, frame := false })) := by
  have h3 : (((txOf d x).vcs[v]?).getD {}).free = [] := h
  have h4 : (((txOf d x).vcs[v]?).getD {}).q.head? = some i := by change (txVcOf d x v).q.head? = some i; rw [hq]; rfl
  unfold sendVc; dsimp only
  cases i with
  | item r =>
    have h2 : (((txOf d x).vcs[v]?).getD {}).stream = none := hh r rfl
    rw [h2, h3, h4]; cases (((txOf d x).vcs[v]?).getD {}).nextIsRec <;> rfl
  | frameStart n =>
    have h5 : (((txOf d x).vcs[v]?).getD {}).nextIsRec = false := by unfold TxVc.nextIsRec; rw [h3, h4]; rfl
    rw [h5]; dsimp only; rw [h3, h4]; rfl
  | frameEnd n =>
    have h5 : (((txOf d x).vcs[v]?).getD {}).nextIsRec = false := by unfold TxVc.nextIsRec; rw [h3, h4]; rfl
    rw [h5]; dsimp only; rw [h3, h4]; rfl

end Sys2Proof.Machine
end

