-- ==== Sys2Proof/Laws/Packets.lean ====
section
/-!
SUPPORT. Receive-port packets: what acting, opening, closing and storing may touch.
-/
namespace Sys2Proof.Machine
set_option Elab.async false

/-- An in-band command that passes every check acts. -/
theorem inbandPacket_taken (c : Units) (d : Dev) (r : RxHdr) (op len : Nat) (k : Pkt) (okF : List Byte → Bool) (p : Nat) (act : Dev → Nat → List Byte → Dev)
    (h : inbandTaken c d r op len k okF p) : inbandPacket c d r op len k okF act = act (rxSeen d r) p k.payload := by
  obtain ⟨⟨h1, h2, h3⟩, h4, h5, h6, h7, h8, h9, h10, h11⟩ := h
  unfold inbandPacket rxLong rxIn
  rw [if_pos h1]
  rw [show (if r.eccFixed then setRx d r.port (fun q => { q with eccFixed := q.eccFixed + 1 }) else d) = rxSeen d r from rfl]
  dsimp only
  rw [if_neg (by rw [h2]; simpa using h3)]
  simp only [h4, h5, h6, h7, h8, h9, h10, h11, Bool.not_true, Bool.false_eq_true, if_false, bne_self_eq_false, Bool.or_self]; try rfl

/-- A refused in-band command counts and changes no job. -/
theorem refuseInband_frame (d : Dev) (x : Fin 4) (v op why seq : Nat) :
    let e := refuseInband d x v op why seq
    e.jobs = d.jobs ∧ e.mem = d.mem ∧ e.parts = d.parts ∧ (rxOf e x).inband = (rxOf d x).inband + 1 ∧ ∀ w : Nat, (vcOf e x w).job = (vcOf d x w).job := by
  intro e
  have hl := logOnly_events (setRx d x (fun r => { r with inband := r.inband + 1 })) 0x0104 (0x14 + x) 255 [(x : Nat), v, op, why, seq]
  have : e = logOnly (setRx d x (fun r => { r with inband := r.inband + 1 })) 0x0104 (0x14 + x) 255 [(x : Nat), v, op, why, seq] := rfl
  rw [← this] at hl
  unfold EventsOnly at hl
  have hr : e.rx = (setRx d x (fun r => { r with inband := r.inband + 1 })).rx := by rw [hl]
  refine ⟨by rw [hl]; rfl, by rw [hl]; rfl, by rw [hl]; rfl, ?_, fun w => ?_⟩
  · have : rxOf e x = rxOf (setRx d x (fun r => { r with inband := r.inband + 1 })) x := by unfold rxOf; rw [hr]
    rw [this, rxOf_setRx]
  · have : vcOf e x w = vcOf (setRx d x (fun r => { r with inband := r.inband + 1 })) x w := by unfold vcOf rxOf; rw [hr]
    rw [this]; exact congrArg Vc.job (vcOf_setRx d x (fun r => { r with inband := r.inband + 1 }) w (fun q => rfl))

/-- What opening a job leaves. -/
theorem openJob_opened (c : Units) (d : Dev) (x : Fin 4) (v : Fin 16) (p kind k flags : Nat) (seq : Word) (decl : Option (Nat × Nat)) (opened : BitVec 64) (xa : Nat) :
    let e := openJob c d x v p kind k flags seq decl opened xa
    ∃ j, Opened d e x v p seq j ∧ j.kind = kind ∧ j.k = k ∧ j.flags = flags ∧ j.opened = opened ∧ j.minPct = cf d .jobCfg 0 0 6 0 ∧ e.regs = d.regs
      ∧ j.height = (match decl with | some (_, h) => h | none => cf d .vcLines x v 15 0) ∧ (vcOf e x v) = { vcOf d x v with job := some d.nextJob } := by
  intro e
  have he : ∃ (j : Job) (D : Dev), D = setVc { d with jobs := submitJob d.jobs j, nextJob := d.nextJob + 1 } x v (fun q => { q with job := some d.nextJob })
       ∧ e = openEvents c (bindJob D j) j ∧ j.openAt = d.clk.mono + (if vcMode d x v == 3 then rxHop else 0)
       ∧ j.id = d.nextJob ∧ j.part = p ∧ j.port = x ∧ j.vc = v ∧ j.seq = seq ∧ j.isOpen = true ∧ j.verdict = none ∧ j.missing = [] ∧ j.next = 0
       ∧ j.kind = kind ∧ j.k = k ∧ j.flags = flags ∧ j.opened = opened ∧ j.minPct = cf d .jobCfg 0 0 6 0 ∧ j.height = (match decl with | some (_, h) => h | none => cf d .vcLines x v 15 0) :=
    ⟨_, _, rfl, rfl, rfl, rfl, rfl, rfl, rfl, rfl, rfl, rfl, rfl, rfl, rfl, rfl, rfl, rfl, rfl, rfl⟩
  obtain ⟨j, D, hD, he, j0, j1, j2, j3, j4, j5, j6, j7, j8, j9, j10, j11, j12, j13, jm, j14⟩ := he
  have hev : EventsOnly (bindJob D j) e := by
    rw [he]; unfold openEvents; split
    · exact raise_events _ _ _ _
    · exact EventsOnly.refl _
  unfold EventsOnly at hev
  have hb : bindJob D j = { D with out := (bindJob D j).out } := rfl
  have hvc : vcOf e x v = { vcOf d x v with job := some d.nextJob } := by
    have h1 : vcOf e x v = vcOf D x v := by unfold vcOf rxOf; rw [hev, hb]
    rw [h1, hD, vcOf_setVc]; rfl
  refine ⟨j, ⟨?_, by rw [j0]; unfold rxHop; simp only [beq_iff_eq], j1, ?_, ?_, j2, j3, j4, j5, j6, j7, j8, j9, ?_, ?_, ?_, ?_, ?_, ?_⟩, j10, j11, j12, j13, jm, ?_, j14, hvc⟩
  · rw [hev, hb, hD]; rfl
  · rw [hev, hb, hD]; rfl
  · rw [hvc, j1]
  all_goals rw [hev, hb, hD]; rfl

/-- Only memory and reports differ. -/
def StoresOnly (d e : Dev) : Prop := e = { d with mem := e.mem, ecc := e.ecc, out := e.out, health := e.health, bobs := e.bobs, ddr := e.ddr }

theorem StoresOnly.refl (d : Dev) : StoresOnly d d := rfl

theorem StoresOnly.trans {a b c : Dev} (h : StoresOnly a b) (h2 : StoresOnly b c) : StoresOnly a c := by
  unfold StoresOnly at *; rw [h] at h2; exact h2

theorem EventsOnly.stores {a b : Dev} (h : EventsOnly a b) : StoresOnly a b := by unfold EventsOnly StoresOnly at *; rw [h]

theorem ReportsOnly.stores {a b : Dev} (h : ReportsOnly a b) : StoresOnly a b := by unfold ReportsOnly StoresOnly at *; rw [h]

theorem store_stores (c : Units) (d : Dev) (w : Who) (k : Nat) (bs : List Byte) : StoresOnly d (store c d w k bs) := by
  have := store_reports c d w k bs
  unfold ReportsOnly at this; unfold StoresOnly; rw [this]

theorem foldl_stores {α : Type} (l : List α) (f : Dev → α → Dev) (hf : ∀ d x, StoresOnly d (f d x)) (d : Dev) : StoresOnly d (l.foldl f d) := by
  induction l generalizing d with
  | nil => rfl
  | cons x l ih => exact (hf d x).trans (ih _)

/-- Storing into a job touches memory and reports only. -/
theorem jobStore_stores (c : Units) (d : Dev) (w : Who) (j : Job) (off : Nat) (bs : List Byte) : StoresOnly d (jobStore c d w j off bs) := by
  unfold jobStore
  generalize jobSpans j off bs.length = L
  have : ∀ (L : List (Nat × Nat)) (x : Dev × List Byte), StoresOnly x.1 (L.foldl (fun (x : Dev × List Byte) y =>
    (store c x.1 w y.1 (x.2.take y.2), x.2.drop y.2)) x).1 := by
    intro L; induction L with
    | nil => intro x; exact StoresOnly.refl _
    | cons y L ih => intro x; exact (store_stores _ _ _ _ _).trans (ih _)
  exact this L (d, bs)

theorem StoresOnly.jobs {d e : Dev} (h : StoresOnly d e) : e.jobs = d.jobs := by rw [h]

theorem StoresOnly.rx {d e : Dev} (h : StoresOnly d e) : e.rx = d.rx := by rw [h]

theorem StoresOnly.regs {d e : Dev} (h : StoresOnly d e) : e.regs = d.regs := by rw [h]

theorem StoresOnly.nextJob {d e : Dev} (h : StoresOnly d e) : e.nextJob = d.nextJob := by rw [h]

/-- Closing a job raises events only. -/
theorem closeEvents_events (c : Units) (d : Dev) (j : Job) : EventsOnly d (closeEvents c d j) := by
  unfold closeEvents; dsimp only
  have h1 : ∀ (d : Dev) (b : Bool) (code : Nat) (l : List Nat), EventsOnly d (if b = true then d else raise c d (.job j.id) { code, unit := 0x14 + j.port, detail := l }) := by
    intro d b code l; split
    · exact EventsOnly.refl _
    · exact raise_events _ _ _ _
  have h2 : ∀ (d : Dev) (b : Bool) (code : Nat) (l : List Nat), EventsOnly d (if b = true then raise c d (.job j.id) { code, unit := 0x14 + j.port, detail := l } else d) := by
    intro d b code l; split
    · exact raise_events _ _ _ _
    · exact EventsOnly.refl _
  exact ((h1 _ _ _ _).trans (h2 _ _ _ _)).trans (h1 _ _ _ _)

/-- Reading a job's bytes reports only. -/
theorem jobNote_reports (c : Units) (d : Dev) (w : Who) (j : Job) (off n : Nat) : ReportsOnly d (jobNote c d w j off n).1 := by
  unfold jobNote
  generalize jobSpans j off n = L
  have : ∀ (L : List (Nat × Nat)) (x : Dev × Bool), ReportsOnly x.1 (L.foldl (fun (x : Dev × Bool) y =>
    let (d, b) := eccRead c x.1 w y.1 y.2
    (d, x.2 || b)) x).1 := by
    intro L; induction L with
    | nil => intro x; exact ReportsOnly.refl _
    | cons y L ih => intro x; exact (eccRead_reports _ _ _ _ _).trans (ih _)
  exact this L (d, false)

/-- Reading the rows that overlap the next strip reports only. -/
theorem overlapRows_reports (c : Units) (d : Dev) (j : Job) (n : Nat) : ReportsOnly d (overlapRows c d j n).1 := by
  unfold overlapRows
  have : ∀ (L : List Nat) (x : Dev × List (Option (List Byte))), ReportsOnly d x.1 → ReportsOnly d (L.foldl (fun (x : Dev × List (Option (List Byte))) i =>
    let r := j.height - n + i
    if j.height < n || j.pages.isEmpty || j.missing.contains r then (x.1, x.2 ++ [none])
    else
      ((jobNote c x.1 (whoRx j) j (r * j.rowBytes) j.rowBytes).1, x.2 ++ [some (jobPeek x.1 j (r * j.rowBytes) j.rowBytes)])) x).1 := by
    intro L; induction L with
    | nil => intro x h; exact h
    | cons y L ih =>
      intro x h; refine ih _ ?_; dsimp only; split
      · exact h
      · exact h.trans (jobNote_reports _ _ _ _ _ _)
  exact this _ _ (ReportsOnly.refl _)

/-- A job without a decoder has no band in progress. -/
theorem finishCoded_plain (c : Units) (d : Dev) (j : Job) (h : jobOf d j.id = some j) (hc : j.coded = none) :
    finishCoded c d j.id = setJob d j.id (fun j => { j with coded := j.coded.map (fun k => { k with held := [] }) }) := by
  have hb : (jobOf d j.id).bind (fun j => j.coded.map (fun k => (j, k))) = none := by rw [h]; simp [hc]
  unfold finishCoded; dsimp only; rw [hb]; dsimp only
  unfold flushBand; rw [h]; dsimp only; rw [hc]; rfl

/-- What closing a job leaves. -/
theorem closeJob_closed (c : Units) (d : Dev) (x : Fin 4) (v : Fin 16) (j : Job) (hj : openJobOf d x v = some j) (hc : j.coded = none) :
    let rows := (List.range j.height).filter (fun q => j.missing.contains q || !j.stored.contains q)
    let u := closeJob c d x v
    ∃ w, (vcOf u x v).job = none ∧ jobOf u j.id = some w ∧ w.isOpen = false
        ∧ (j.dimBad = false → w.missing = rows) ∧ (j.dimBad = true → w.missing = [])
        ∧ (w.verdict = some true ↔
            j.dimBad = false ∧ j.pages ≠ [] ∧ j.minPct * j.height ≤ (j.height - rows.length) * 100)
        ∧ (∀ q, q ≠ j.id → jobOf u q = jobOf d q) ∧ u.regs = d.regs ∧ u.nextJob = d.nextJob := by
  intro rows u
  obtain ⟨id, hv, hid⟩ : ∃ id, (vcOf d x v).job = some id ∧ jobOf d id = some j := by
    unfold openJobOf at hj
    cases h : (vcOf d x v).job with
    | none => rw [h] at hj; cases hj
    | some id => rw [h] at hj; exact ⟨id, rfl, hj⟩
  have hji : j.id = id := jobOf_id _ _ _ hid
  let d0 := setVc d x v (fun q => { q with job := none })
  have h0 : jobOf d0 j.id = some j := by rw [hji]; exact hid
  let g : Job → Job := fun j => { j with coded := j.coded.map (fun k => { k with held := [] }) }
  let d1 := setJob d0 j.id g
  have hgj : g j = j := by simp only [g]; rw [hc]; cases j; simp_all
  have h1 : jobOf d1 j.id = some j := (jobOf_setJob d0 j.id g j h0 (fun _ h => h)).trans (by rw [hgj])
  let miss := if j.dimBad then [] else (List.range j.height).filter (fun r => j.missing.contains r || !j.stored.contains r)
  let good := if j.dimBad then 0 else j.height - miss.length
  let read : Bool := decide (j.minPct * j.height ≤ good * 100) && !j.dimBad && !j.pages.isEmpty
  let j2 : Job := { j with missing := miss, isOpen := false, verdict := some read, closedAt := d1.clk.mono }
  let d2 := setJob d1 j.id (fun _ => j2)
  let d3 := if j2.pages.isEmpty then d2 else
      jobStore c (miss.foldl (fun d r => jobStore c d (whoRx j2) j2 (r * j2.rowBytes) (List.replicate j2.rowBytes 0xFF)) d2) (whoRx j2) j2 (bitmapAt j2) (bitmapBytes j2)
  let d4 := if vcMode d3 x v == 3 then
      setVc (overlapRows c d3 j2 (cf d3 .vcCfg x v 23 16)).1 x v (fun q => { q with prior := some (overlapRows c d3 j2 (cf d3 .vcCfg x v 23 16)).2 })
    else d3
  have hu : u = closeEvents c d4 j2 := by
    show closeJob c d x v = _
    unfold closeJob
    rw [hj]; dsimp only
    rw [show finishCoded c (setVc d x v fun q => { q with job := none }) j.id = d1 from finishCoded_plain c d0 j h0 hc]
    rw [show (jobOf d1 j.id).getD j = j from by rw [h1]; rfl]
  have hso : StoresOnly d2 d3 := by
    simp only [d3]; split
    · exact StoresOnly.refl _
    · exact (foldl_stores _ _ (fun d r => jobStore_stores _ _ _ _ _ _) _).trans (jobStore_stores _ _ _ _ _ _)
  have h4 : d4.jobs = d3.jobs ∧ d4.regs = d3.regs ∧ d4.nextJob = d3.nextJob ∧ (vcOf d4 x v).job = (vcOf d3 x v).job := by
    simp only [d4]; split
    · have ho := (overlapRows_reports c d3 j2 (cf d3 .vcCfg x v 23 16)).stores
      generalize overlapRows c d3 j2 (cf d3 .vcCfg x v 23 16) = y at ho
      refine ⟨ho.jobs, ho.regs, ho.nextJob, ?_⟩
      rw [vcOf_setVc]; dsimp only; unfold vcOf rxOf; rw [ho.rx]
    · exact ⟨rfl, rfl, rfl, rfl⟩
  have hev := EventsOnly.stores (closeEvents_events c d4 j2)
  rw [← hu] at hev
  have hw : jobOf d2 j.id = some j2 := jobOf_setJob d1 j.id (fun _ => j2) j h1 (fun _ _ => rfl)
  have hjo : ∀ q, jobOf u q = jobOf d2 q := by intro q; unfold jobOf; rw [hev.jobs, h4.1, hso.jobs]
  refine ⟨j2, ?_, by rw [hjo]; exact hw, rfl, fun h => ?_, fun h => ?_, ?_, fun q hq => ?_, ?_, ?_⟩
  · have e1 : vcOf u x v = vcOf d4 x v := by unfold vcOf rxOf; rw [hev.rx]
    have e2 : vcOf d3 x v = vcOf d0 x v := by unfold vcOf rxOf; rw [hso.rx]; rfl
    rw [e1, h4.2.2.2, e2, vcOf_setVc]
  · simp only [j2, miss, h, Bool.false_eq_true, if_false]; rfl
  · simp only [j2, miss, h, if_true]
  · simp only [j2, read, Option.some.injEq, Bool.and_eq_true, decide_eq_true_eq, Bool.not_eq_true', List.isEmpty_eq_false_iff]
    constructor
    · rintro ⟨⟨a1, a2⟩, a3⟩
      refine ⟨a2, a3, ?_⟩
      simp only [good, miss, a2, Bool.false_eq_true, if_false] at a1; exact a1
    · rintro ⟨a2, a3, a1⟩
      refine ⟨⟨?_, a2⟩, a3⟩
      simp only [good, miss, a2, Bool.false_eq_true, if_false]; exact a1
  · rw [hjo]
    exact (jobOf_setJob_other d1 j.id q (fun _ => j2) (fun _ _ => rfl) hq).trans (jobOf_setJob_other d0 j.id q g (fun _ h => h) hq)
  · rw [hev.regs, h4.2.1, hso.regs]; rfl
  · rw [hev.nextJob, h4.2.2.1, hso.nextJob]; rfl

theorem jobAt_key (j : Job) (off : Nat) : jobAt j off = key 1 (j.pages.getD (off / 4096) 0 * 4096) + off % 4096 := by unfold jobAt key; omega

/-- Spans of a job's bytes lie in its granules. -/
theorem jobSpans_within (j : Job) (off n : Nat) (h : off + n ≤ 4096 * j.pages.length) : ∀ y ∈ jobSpans j off n, ∃ g ∈ j.pages, key 1 (g * 4096) ≤ y.1 ∧ y.1 + y.2 ≤ key 1 (g * 4096) + 4096 := by
  intro y hy
  unfold jobSpans at hy
  split at hy
  · cases hy
  · rename_i hn
    simp only [List.mem_map, List.mem_range] at hy
    obtain ⟨i, hi, rfl⟩ := hy
    dsimp only
    generalize hlo : Nat.max off ((off / 4096 + i) * 4096) = lo
    generalize hhi : Nat.min (off + n) ((off / 4096 + i + 1) * 4096) = hi2
    have e1 : off / 4096 * 4096 + off % 4096 = off := Nat.div_add_mod' off 4096
    have e2 := Nat.mod_lt off (show 0 < 4096 by decide)
    have e3 : (off + n - 1) / 4096 * 4096 + (off + n - 1) % 4096 = off + n - 1 := Nat.div_add_mod' _ 4096
    have l1 : (off / 4096 + i) * 4096 ≤ lo := by rw [← hlo]; exact Nat.le_max_right _ _
    have l2 : lo < (off / 4096 + i + 1) * 4096 := by rw [← hlo]; apply Nat.max_lt.2; constructor <;> omega
    have l3 : lo < off + n := by rw [← hlo]; apply Nat.max_lt.2; constructor <;> omega
    have l4 : hi2 ≤ (off / 4096 + i + 1) * 4096 := by rw [← hhi]; exact Nat.min_le_right _ _
    have q : lo / 4096 = off / 4096 + i := by omega
    have ql : lo / 4096 < j.pages.length := by omega
    refine ⟨j.pages[lo / 4096], List.getElem_mem ql, ?_, ?_⟩
    · rw [jobAt_key]; simp [List.getD_eq_getElem?_getD, ql]
    · rw [jobAt_key]; simp only [List.getD_eq_getElem?_getD, List.getElem?_eq_getElem ql, Option.getD_some]
      have : lo / 4096 * 4096 + lo % 4096 = lo := Nat.div_add_mod' lo 4096
      omega

/-- A store leaves every other byte. -/
theorem store_get_other (c : Units) (d : Dev) (w : Who) (k : Nat) (bs : List Byte) (a : Nat) (he : d.ecc = []) (h : a < k ∨ k + bs.length ≤ a) :
    Memory.get (store c d w k bs).mem a = Memory.get d.mem a ∧ (store c d w k bs).ecc = [] := by
  by_cases hb : bs = []
  · subst hb; unfold store; exact ⟨rfl, he⟩
  · rw [store_plain _ _ _ _ _ he hb]
    refine ⟨?_, he⟩
    dsimp only; rw [get_setAll, if_neg (by omega)]

/-- Storing into a job leaves every byte outside its granules. -/
theorem jobStore_get_other (c : Units) (d : Dev) (w : Who) (j : Job) (off : Nat) (bs : List Byte) (he : d.ecc = []) (h : off + bs.length ≤ 4096 * j.pages.length)
    (a : Nat) (ha : ∀ g ∈ j.pages, a < key 1 (g * 4096) ∨ key 1 (g * 4096) + 4096 ≤ a) : Memory.get (jobStore c d w j off bs).mem a = Memory.get d.mem a := by
  unfold jobStore
  have hs := jobSpans_within j off bs.length h
  generalize jobSpans j off bs.length = L at hs
  have : ∀ (L : List (Nat × Nat)) (x : Dev × List Byte), x.1.ecc = [] → (∀ y ∈ L, ∃ g ∈ j.pages, key 1 (g * 4096) ≤ y.1 ∧ y.1 + y.2 ≤ key 1 (g * 4096) + 4096) →
     Memory.get (L.foldl (fun (x : Dev × List Byte) y => (store c x.1 w y.1 (x.2.take y.2), x.2.drop y.2)) x).1.mem a = Memory.get x.1.mem a := by
    intro L; induction L with
    | nil => intro x _ _; rfl
    | cons y L ih =>
      intro x hx hy
      rw [List.foldl_cons]
      obtain ⟨g, hg, h1, h2⟩ := hy y (by simp)
      have hl : (x.2.take y.2).length ≤ y.2 := by rw [List.length_take]; exact Nat.min_le_left _ _
      have := store_get_other c x.1 w y.1 (x.2.take y.2) a hx (by rcases ha g hg with h | h <;> omega)
      rw [ih _ this.2 (fun z hz => hy z (by simp [hz]))]
      exact this.1
  exact this L (d, bs) he hs

/-- A long packet that is taken acts. -/
theorem rxLong_taken (c : Units) (d : Dev) (r : RxHdr) (f : Dev → Dev) (h : longTaken c d r) : rxLong c d r f = f (rxSeen d r) := by
  obtain ⟨h1, h2, h3⟩ := h
  unfold rxLong rxIn
  rw [if_pos h1]
  rw [show (if r.eccFixed then setRx d r.port (fun q => { q with eccFixed := q.eccFixed + 1 }) else d) = rxSeen d r from rfl]
  dsimp only
  rw [if_neg (by rw [h2]; simpa using h3)]

/-- An open job is held under its number. -/
theorem openJobOf_job {d : Dev} {x v : Nat} {j : Job} (h : openJobOf d x v = some j) : (vcOf d x v).job = some j.id ∧ jobOf d j.id = some j := by
  unfold openJobOf at h
  cases hv : (vcOf d x v).job with
  | none => rw [hv] at h; cases h
  | some id =>
    rw [hv] at h
    have : jobOf d id = some j := h
    have hi := jobOf_id _ _ _ this
    rw [hi]; exact ⟨rfl, this⟩

end Sys2Proof.Machine
end

