-- ==== Sys2Proof/WellFormed.lean ====
section
/-!
DEFINITION. Which command terms stand for something that can reach the device: ranges that a link, a bus or a pin
imposes, not the device's own checks (a malformed packet is a well-formed command that the device refuses).
-/
namespace Sys2Proof

/-- A private write carries at most what LENGTH can announce and a packet of 16-bit fields (R420). -/
def Pkt.fits (k : Pkt) : Bool := decide (k.payload.length < 65536)

/-- Data types of pixel lines (R124). -/
def pixelType (dt : BitVec 6) : Bool :=
  dt == 0x1E || dt == 0x24 || (decide (0x2A ≤ dt.toNat) && decide (dt.toNat ≤ 0x2E))

/-- The flash areas as read at boot: two selector copies of 64 bytes and two banks of at most 2 MiB (R458). -/
def FlashRead.fits (f : FlashRead) : Bool :=
  f.sel0.length == 64 && f.sel1.length == 64 && decide (f.bank0.length ≤ 2097152) && decide (f.bank1.length ≤ 2097152)

/-- Word count of a long CSI-2 packet is 16 bits (R126). -/
def longPacket (payload : List Byte) : Bool := decide (payload.length < 65536)

/-- OPS indices lie below 4 MiB / 16 (R53), descriptor indices below 65,536 (R187). -/
def wordIndex (i : Nat) : Bool := decide (i < 262144)

/-- Descriptor indices are 16 bits (R187). -/
def descIndex (d : Nat) : Bool := decide (d < 65536)

/-- A bank image fits its area (R458). -/
def bankFits (b : List Byte) : Bool := decide (b.length ≤ 2097152)

/-- A training step of R472. -/
def trainStep (n : Nat) : Bool := decide (1 ≤ n) && decide (n ≤ 7)

/-- Opcodes of R426 that are carried over I3C: a private write with one of them is a row of its own. -/
def knownOpcode (op : Nat) : Bool :=
  [0x0001, 0x0002, 0x0003, 0x0004, 0x0010, 0x0011, 0x0012, 0x0013, 0x0014, 0x0020, 0x0021, 0x0030, 0x0031, 0x0040, 0x0050, 0x0060,
    0x0070, 0x0071, 0x00F0, 0x00F1].contains op

/-- Bytes of a private write that no other row stands for: too short for a packet, or with another opcode (R423). -/
def strayPacket (bs : List Byte) : Bool :=
  decide (bs.length < 12) || !knownOpcode ((bs.headD 0).toNat + 256 * ((bs.drop 1).headD 0).toNat)

/-- Bytes of a 0x30 packet that no in-band command's row stands for (R131, R442). -/
def strayInbandBytes (bs : List Byte) : Bool :=
  longPacket bs
    && (decide (bs.length < 12) || !([0x0022, 0x0023, 0x0024] : List Nat).contains ((bs.headD 0).toNat + 256 * ((bs.drop 1).headD 0).toNat))

/-- The well-formed commands. -/
def Instr.wellFormed : Instr → Bool
  | .hello w | .regRead w | .regWrite w | .regReadBlock w | .prickingLoad w | .prickingVerify w | .partitionSet w
  | .partitionStart w | .partitionHalt w | .jobSubmitBegin w | .jobSubmitEnd w | .jobCancel w | .tableLoad w
  | .tableSwap w | .calibrate w | .adaptRunStart w | .adaptRunStop w | .adaptRunCheckpoint w | .adaptRunResume w
  | .powerState w | .fwUpdate w | .fwSwitch w | .statusGet w | .errorLogRead w => w.pkt.fits
  | .jobBegin _ k | .jobEnd _ k | .pageMark _ k => k.fits
  | .entdaa da => da != 0
  | .setdasa _ da => da != 0
  | .sensorSample now => now.length == 12
  | .bootComplete f _ => f.fits
  | .standbyCheckDone b => bankFits b
  | .pixelLine _ dt payload => pixelType dt && longPacket payload
  | .embeddedData _ payload | .codedData _ payload | .textInput _ payload | .bulkLoad _ payload => longPacket payload
  | .decode _ i d | .kvWrite _ i d | .decide _ i d => wordIndex i && descIndex d
  | .nop _ i | .matmul _ i | .wload _ i | .add _ i | .sub _ i | .mul _ i | .fma _ i | .max _ i | .min _ i
  | .convert _ i | .exp _ i | .recip _ i | .rsqrt _ i | .maxabs _ i | .rowstat _ i | .lsCopy _ i | .psRead _ i
  | .psWrite _ i | .ddrRead _ i | .ddrWrite _ i | .ddrBcast _ i | .gather _ i | .depthwise _ i | .maxpool _ i
  | .avgpool _ i | .resample _ i | .crop _ i | .fwd _ i | .bwd _ i | .kvCreate _ i | .kvAppend _ i | .kvFree _ i
  | .kvService _ i | .txtFetch _ i | .emit _ i | .jobDone _ i | .slab _ i | .guard _ i => wordIndex i
  | .unknownOpcode _ _ bytes => strayPacket bytes
  | .packetDiscarded _ (.inband bytes) => strayInbandBytes bytes
  | .ddrTrainingEnd (some step) _ => trainStep step.toNat
  | _ => true

end Sys2Proof
end

