-- ==== Sys2Proof/Laws/PerInstr.lean ====
section
/-!
SUPPORT. The family Shape: what a command is as syntax. The roles in which Safety.lean reads it do not overlap, and an OPS word that
is well formed names a partition, an index and a class that R53 and R61 give.
-/
namespace Sys2Proof.Laws.Shape
set_option Elab.async false
open Sys2Proof Sys2Proof.Machine

/-- A command has at most one of the roles host packet, receive-port packet and OPS word; a load opcode is a host packet; an OPS
word names one of eight partitions, an index below 262,144 and one of the classes 0x0 to 0xA (R53, R61). -/
def Statement (i : Instr) : Prop :=
  ((loadRow i).isSome = true → (hostPacket i).isSome = true)
    ∧ ((hostPacket i).isSome = true → (rxPacket i).isNone = true ∧ (opsWord i).isNone = true ∧ (enableWrite i).isNone = true)
    ∧ ((rxPacket i).isSome = true → (opsWord i).isNone = true ∧ (enableWrite i).isNone = true)
    ∧ ∀ p k c o, opsWord i = some (p, k, c, o) → p < 8 ∧ c ≤ 10 ∧ (i.wellFormed = true → k < 262144)

/-- A command that is no OPS word. -/
theorem of_roles (i : Instr) (h : opsWord i = none) (hl : (loadRow i).isSome = true → (hostPacket i).isSome = true)
    (hh : (hostPacket i).isSome = true → (rxPacket i).isNone = true ∧ (enableWrite i).isNone = true)
    (hr : (rxPacket i).isSome = true → (enableWrite i).isNone = true) : Statement i :=
  ⟨hl, fun x => ⟨(hh x).1, by rw [h]; rfl, (hh x).2⟩, fun x => ⟨by rw [h]; rfl, hr x⟩, fun _ _ _ _ e => (by rw [h] at e; cases e)⟩

/-- A host packet. -/
theorem of_host (i : Instr) (h : opsWord i = none) (hh : (hostPacket i).isSome = true) (hr : (rxPacket i).isNone = true) (he : (enableWrite i).isNone = true) :
    Statement i :=
  of_roles i h (fun _ => hh) (fun _ => ⟨hr, he⟩) (fun _ => he)

/-- A command in none of the roles but, at most, an ENABLE write. -/
theorem of_other (i : Instr) (h : opsWord i = none) (hl : (loadRow i).isNone = true) (hh : (hostPacket i).isNone = true) (hr : (rxPacket i).isNone = true) : Statement i :=
  of_roles i h (fun x => by rw [Option.isNone_iff_eq_none.mp hl] at x; cases x) (fun x => by rw [Option.isNone_iff_eq_none.mp hh] at x; cases x)
    (fun x => by rw [Option.isNone_iff_eq_none.mp hr] at x; cases x)

/-- A packet of a receive port. -/
theorem of_rx (i : Instr) (h : opsWord i = none) (hl : (loadRow i).isNone = true) (hh : (hostPacket i).isNone = true) (he : (enableWrite i).isNone = true) : Statement i :=
  of_roles i h (fun x => by rw [Option.isNone_iff_eq_none.mp hl] at x; cases x) (fun x => by rw [Option.isNone_iff_eq_none.mp hh] at x; cases x) (fun _ => he)

/-- An OPS word. -/
theorem of_word (i : Instr) (p : Fin 8) (k c o : Nat) (h : opsWord i = some (p.val, k, c, o)) (hc : c ≤ 10) (hk : i.wellFormed = true → k < 262144)
    (hl : (loadRow i).isNone = true) (hh : (hostPacket i).isNone = true) (hr : (rxPacket i).isNone = true) : Statement i :=
  ⟨fun x => (by rw [Option.isNone_iff_eq_none.mp hl] at x; cases x), fun x => (by rw [Option.isNone_iff_eq_none.mp hh] at x; cases x),
   fun x => (by rw [Option.isNone_iff_eq_none.mp hr] at x; cases x),
   fun _ _ _ _ e => (by rw [h] at e; cases e; exact ⟨p.isLt, hc, hk⟩)⟩

theorem hello (w : HostWrite) : Statement (.hello w) := of_host _ rfl rfl rfl rfl
theorem regRead (w : HostWrite) : Statement (.regRead w) := of_host _ rfl rfl rfl rfl
theorem regWrite (w : HostWrite) : Statement (.regWrite w) := of_host _ rfl rfl rfl rfl
theorem regReadBlock (w : HostWrite) : Statement (.regReadBlock w) := of_host _ rfl rfl rfl rfl
theorem prickingLoad (w : HostWrite) : Statement (.prickingLoad w) := of_host _ rfl rfl rfl rfl
theorem prickingVerify (w : HostWrite) : Statement (.prickingVerify w) := of_host _ rfl rfl rfl rfl
theorem partitionSet (w : HostWrite) : Statement (.partitionSet w) := of_host _ rfl rfl rfl rfl
theorem partitionStart (w : HostWrite) : Statement (.partitionStart w) := of_host _ rfl rfl rfl rfl
theorem partitionHalt (w : HostWrite) : Statement (.partitionHalt w) := of_host _ rfl rfl rfl rfl
theorem jobSubmitBegin (w : HostWrite) : Statement (.jobSubmitBegin w) := of_host _ rfl rfl rfl rfl
theorem jobSubmitEnd (w : HostWrite) : Statement (.jobSubmitEnd w) := of_host _ rfl rfl rfl rfl
theorem jobCancel (w : HostWrite) : Statement (.jobCancel w) := of_host _ rfl rfl rfl rfl
theorem jobBegin (r : RxHdr) (pkt : Pkt) : Statement (.jobBegin r pkt) := of_rx _ rfl rfl rfl rfl
theorem jobEnd (r : RxHdr) (pkt : Pkt) : Statement (.jobEnd r pkt) := of_rx _ rfl rfl rfl rfl
theorem pageMark (r : RxHdr) (pkt : Pkt) : Statement (.pageMark r pkt) := of_rx _ rfl rfl rfl rfl
theorem tableLoad (w : HostWrite) : Statement (.tableLoad w) := of_host _ rfl rfl rfl rfl
theorem tableSwap (w : HostWrite) : Statement (.tableSwap w) := of_host _ rfl rfl rfl rfl
theorem calibrate (w : HostWrite) : Statement (.calibrate w) := of_host _ rfl rfl rfl rfl
theorem adaptRunStart (w : HostWrite) : Statement (.adaptRunStart w) := of_host _ rfl rfl rfl rfl
theorem adaptRunStop (w : HostWrite) : Statement (.adaptRunStop w) := of_host _ rfl rfl rfl rfl
theorem adaptRunCheckpoint (w : HostWrite) : Statement (.adaptRunCheckpoint w) := of_host _ rfl rfl rfl rfl
theorem adaptRunResume (w : HostWrite) : Statement (.adaptRunResume w) := of_host _ rfl rfl rfl rfl
theorem powerState (w : HostWrite) : Statement (.powerState w) := of_host _ rfl rfl rfl rfl
theorem fwUpdate (w : HostWrite) : Statement (.fwUpdate w) := of_host _ rfl rfl rfl rfl
theorem fwSwitch (w : HostWrite) : Statement (.fwSwitch w) := of_host _ rfl rfl rfl rfl
theorem statusGet (w : HostWrite) : Statement (.statusGet w) := of_host _ rfl rfl rfl rfl
theorem errorLogRead (w : HostWrite) : Statement (.errorLogRead w) := of_host _ rfl rfl rfl rfl
theorem privateRead (da : BitVec 7) (hdr : Bool) (code : Byte) (count : Nat) : Statement (.privateRead da hdr code count) := of_other _ rfl rfl rfl rfl
theorem privateWriteDiscarded (da : BitVec 7) : Statement (.privateWriteDiscarded da) := of_other _ rfl rfl rfl rfl
theorem entdaa (da : BitVec 7) : Statement (.entdaa da) := of_other _ rfl rfl rfl rfl
theorem setdasa (static : BitVec 7) (da : BitVec 7) : Statement (.setdasa static da) := of_other _ rfl rfl rfl rfl
theorem rstdaa : Statement .rstdaa := of_other _ rfl rfl rfl rfl
theorem getpid (da : BitVec 7) : Statement (.getpid da) := of_other _ rfl rfl rfl rfl
theorem getbcr (da : BitVec 7) : Statement (.getbcr da) := of_other _ rfl rfl rfl rfl
theorem getdcr (da : BitVec 7) : Statement (.getdcr da) := of_other _ rfl rfl rfl rfl
theorem getcaps (da : BitVec 7) : Statement (.getcaps da) := of_other _ rfl rfl rfl rfl
theorem getmxds (da : BitVec 7) : Statement (.getmxds da) := of_other _ rfl rfl rfl rfl
theorem getstatus (da : BitVec 7) : Statement (.getstatus da) := of_other _ rfl rfl rfl rfl
theorem enecDisec (broadcast : Bool) (da : BitVec 7) (enable : Bool) (events : Byte) : Statement (.enecDisec broadcast da enable events) := of_other _ rfl rfl rfl rfl
theorem enthdr0 : Statement .enthdr0 := of_other _ rfl rfl rfl rfl
theorem rstact (broadcast : Bool) (da : BitVec 7) (action : Byte) : Statement (.rstact broadcast da action) := of_other _ rfl rfl rfl rfl
theorem targetReset : Statement .targetReset := of_other _ rfl rfl rfl rfl
theorem timeLoad (b : Bus) (value : Word) : Statement (.timeLoad b value) := of_other _ rfl rfl rfl rfl
theorem globalTimeLoRead (b : Bus) (block : Bool) : Statement (.globalTimeLoRead b block) := of_other _ rfl rfl rfl rfl
theorem stitchCountLoRead (b : Bus) (block : Bool) : Statement (.stitchCountLoRead b block) := of_other _ rfl rfl rfl rfl
theorem beatsLoRead (b : Bus) (n : Fin 8) (block : Bool) : Statement (.beatsLoRead b n block) := of_other _ rfl rfl rfl rfl
theorem tableWindowRead (b : Bus) (n : Fin 4) (a : BitVec 18) : Statement (.tableWindowRead b n a) := of_other _ rfl rfl rfl rfl
theorem tableWindowWrite (b : Bus) (n : Fin 4) (a : BitVec 18) (value : Word) : Statement (.tableWindowWrite b n a value) := of_other _ rfl rfl rfl rfl
theorem coefDataAccess (b : Bus) (t : Fin 4) (write : Option Word) : Statement (.coefDataAccess b t write) := of_other _ rfl rfl rfl rfl
theorem ctxDataRead (b : Bus) : Statement (.ctxDataRead b) := of_other _ rfl rfl rfl rfl
theorem tambEnable (b : Bus) (t : Fin 4) (value : Word) : Statement (.tambEnable b t value) := of_other _ rfl rfl rfl rfl
theorem tambMode (b : Bus) (t : Fin 4) (value : Word) : Statement (.tambMode b t value) := of_other _ rfl rfl rfl rfl
theorem coefSwap (b : Bus) (t : Fin 4) (value : Word) : Statement (.coefSwap b t value) := of_other _ rfl rfl rfl rfl
theorem rxinEnable (b : Bus) (x : Fin 4) (value : Word) : Statement (.rxinEnable b x value) := of_other _ rfl rfl rfl rfl
theorem txPortEnable (b : Bus) (x : Fin 2) (value : Word) : Statement (.txPortEnable b x value) := of_other _ rfl rfl rfl rfl
theorem outEnable (b : Bus) (value : Word) : Statement (.outEnable b value) := of_other _ rfl rfl rfl rfl
theorem txtEnable (b : Bus) (value : Word) : Statement (.txtEnable b value) := of_other _ rfl rfl rfl rfl
theorem kvmEnable (b : Bus) (value : Word) : Statement (.kvmEnable b value) := of_other _ rfl rfl rfl rfl
theorem adaptEnable (b : Bus) (value : Word) : Statement (.adaptEnable b value) := of_other _ rfl rfl rfl rfl
theorem ddrEnable (b : Bus) (value : Word) : Statement (.ddrEnable b value) := of_other _ rfl rfl rfl rfl
theorem bobbinOffline (b : Bus) (n : Fin 8) (value : Word) : Statement (.bobbinOffline b n value) := of_other _ rfl rfl rfl rfl
theorem encPosClear (b : Bus) (t : Fin 4) : Statement (.encPosClear b t) := of_other _ rfl rfl rfl rfl
theorem tambCountsClear (b : Bus) (t : Fin 4) : Statement (.tambCountsClear b t) := of_other _ rfl rfl rfl rfl
theorem rxinCountsClear (b : Bus) (x : Fin 4) : Statement (.rxinCountsClear b x) := of_other _ rfl rfl rfl rfl
theorem numCountsClear (b : Bus) (n : Fin 8) : Statement (.numCountsClear b n) := of_other _ rfl rfl rfl rfl
theorem perfCountsClear (b : Bus) (n : Fin 8) : Statement (.perfCountsClear b n) := of_other _ rfl rfl rfl rfl
theorem kvmCountsClear (b : Bus) : Statement (.kvmCountsClear b) := of_other _ rfl rfl rfl rfl
theorem txtCountsClear (b : Bus) : Statement (.txtCountsClear b) := of_other _ rfl rfl rfl rfl
theorem outCountsClear (b : Bus) : Statement (.outCountsClear b) := of_other _ rfl rfl rfl rfl
theorem adaptCountsClear (b : Bus) : Statement (.adaptCountsClear b) := of_other _ rfl rfl rfl rfl
theorem cmdCountsClear (b : Bus) : Statement (.cmdCountsClear b) := of_other _ rfl rfl rfl rfl
theorem ddrCountsClear (b : Bus) : Statement (.ddrCountsClear b) := of_other _ rfl rfl rfl rfl
theorem healthCountsClear (b : Bus) (n : Fin 8) : Statement (.healthCountsClear b n) := of_other _ rfl rfl rfl rfl
theorem seccCountsClear (b : Bus) : Statement (.seccCountsClear b) := of_other _ rfl rfl rfl rfl
theorem unitReset (b : Bus) (unit : BitVec 5) : Statement (.unitReset b unit) := of_other _ rfl rfl rfl rfl
theorem unitResetDone : Statement .unitResetDone := of_other _ rfl rfl rfl rfl
theorem bistStart (b : Bus) (n : Fin 8) : Statement (.bistStart b n) := of_other _ rfl rfl rfl rfl
theorem bistDone (n : Fin 8) (pass : Bool) (area : BitVec 4) (loc : Word) : Statement (.bistDone n pass area loc) := of_other _ rfl rfl rfl rfl
theorem thermalTripClear (b : Bus) : Statement (.thermalTripClear b) := of_other _ rfl rfl rfl rfl
theorem powerOnReset : Statement .powerOnReset := of_other _ rfl rfl rfl rfl
theorem pwrokRise (sa : BitVec 2) (testen : Bool) : Statement (.pwrokRise sa testen) := of_other _ rfl rfl rfl rfl
theorem chipReset : Statement .chipReset := of_other _ rfl rfl rfl rfl
theorem resetNRelease : Statement .resetNRelease := of_other _ rfl rfl rfl rfl
theorem bootComplete (flash : FlashRead) (micros : Word) : Statement (.bootComplete flash micros) := of_other _ rfl rfl rfl rfl
theorem standbyCheckDone (bank : List Byte) : Statement (.standbyCheckDone bank) := of_other _ rfl rfl rfl rfl
theorem fwProgramDone (matched : Bool) : Statement (.fwProgramDone matched) := of_other _ rfl rfl rfl rfl
theorem fwStartTimeout : Statement .fwStartTimeout := of_other _ rfl rfl rfl rfl
theorem loadTransferTimeout : Statement .loadTransferTimeout := of_other _ rfl rfl rfl rfl
theorem refclkLost : Statement .refclkLost := of_other _ rfl rfl rfl rfl
theorem pllRelock : Statement .pllRelock := of_other _ rfl rfl rfl rfl
theorem stitchBoundary : Statement .stitchBoundary := of_other _ rfl rfl rfl rfl
theorem modeEffect (t : Fin 4) : Statement (.modeEffect t) := of_other _ rfl rfl rfl rfl
theorem lineTrigger (t : Fin 4) : Statement (.lineTrigger t) := of_other _ rfl rfl rfl rfl
theorem encEdge (t : Fin 4) (a b : Bool) : Statement (.encEdge t a b) := of_other _ rfl rfl rfl rfl
theorem encTimeout (t : Fin 4) : Statement (.encTimeout t) := of_other _ rfl rfl rfl rfl
theorem stampCapture (t : Fin 4) : Statement (.stampCapture t) := of_other _ rfl rfl rfl rfl
theorem patternDone (t : Fin 4) : Statement (.patternDone t) := of_other _ rfl rfl rfl rfl
theorem calComplete (t : Fin 4) : Statement (.calComplete t) := of_other _ rfl rfl rfl rfl
theorem calTimeout (t : Fin 4) : Statement (.calTimeout t) := of_other _ rfl rfl rfl rfl
theorem sensorSample (now : List (BitVec 16)) : Statement (.sensorSample now) := of_other _ rfl rfl rfl rfl
theorem frameStart (r : RxHdr) (number : BitVec 16) : Statement (.frameStart r number) := of_rx _ rfl rfl rfl rfl
theorem frameEnd (r : RxHdr) (number : BitVec 16) : Statement (.frameEnd r number) := of_rx _ rfl rfl rfl rfl
theorem lineStart (r : RxHdr) (number : BitVec 16) : Statement (.lineStart r number) := of_rx _ rfl rfl rfl rfl
theorem pixelLine (r : RxHdr) (dt : BitVec 6) (payload : List Byte) : Statement (.pixelLine r dt payload) := of_rx _ rfl rfl rfl rfl
theorem embeddedData (r : RxHdr) (payload : List Byte) : Statement (.embeddedData r payload) := of_rx _ rfl rfl rfl rfl
theorem codedData (r : RxHdr) (payload : List Byte) : Statement (.codedData r payload) := of_rx _ rfl rfl rfl rfl
theorem jobTimeout (port : Fin 4) (vc : Fin 16) : Statement (.jobTimeout port vc) := of_other _ rfl rfl rfl rfl
theorem textInput (r : RxHdr) (payload : List Byte) : Statement (.textInput r payload) := of_rx _ rfl rfl rfl rfl
theorem tokenizeDone : Statement .tokenizeDone := of_other _ rfl rfl rfl rfl
theorem bulkLoad (r : RxHdr) (payload : List Byte) : Statement (.bulkLoad r payload) := of_rx _ rfl rfl rfl rfl
theorem nop (p : Fin 8) (i : Nat) : Statement (.nop p i) := of_word _ p i 0 0 rfl (by decide) (fun h => by simpa [Instr.wellFormed, wordIndex] using h) rfl rfl rfl
theorem matmul (p : Fin 8) (i : Nat) : Statement (.matmul p i) := of_word _ p i 1 0 rfl (by decide) (fun h => by simpa [Instr.wellFormed, wordIndex] using h) rfl rfl rfl
theorem wload (p : Fin 8) (i : Nat) : Statement (.wload p i) := of_word _ p i 1 1 rfl (by decide) (fun h => by simpa [Instr.wellFormed, wordIndex] using h) rfl rfl rfl
theorem add (p : Fin 8) (i : Nat) : Statement (.add p i) := of_word _ p i 2 0 rfl (by decide) (fun h => by simpa [Instr.wellFormed, wordIndex] using h) rfl rfl rfl
theorem sub (p : Fin 8) (i : Nat) : Statement (.sub p i) := of_word _ p i 2 1 rfl (by decide) (fun h => by simpa [Instr.wellFormed, wordIndex] using h) rfl rfl rfl
theorem mul (p : Fin 8) (i : Nat) : Statement (.mul p i) := of_word _ p i 2 2 rfl (by decide) (fun h => by simpa [Instr.wellFormed, wordIndex] using h) rfl rfl rfl
theorem fma (p : Fin 8) (i : Nat) : Statement (.fma p i) := of_word _ p i 2 3 rfl (by decide) (fun h => by simpa [Instr.wellFormed, wordIndex] using h) rfl rfl rfl
theorem max (p : Fin 8) (i : Nat) : Statement (.max p i) := of_word _ p i 2 4 rfl (by decide) (fun h => by simpa [Instr.wellFormed, wordIndex] using h) rfl rfl rfl
theorem min (p : Fin 8) (i : Nat) : Statement (.min p i) := of_word _ p i 2 5 rfl (by decide) (fun h => by simpa [Instr.wellFormed, wordIndex] using h) rfl rfl rfl
theorem convert (p : Fin 8) (i : Nat) : Statement (.convert p i) := of_word _ p i 2 6 rfl (by decide) (fun h => by simpa [Instr.wellFormed, wordIndex] using h) rfl rfl rfl
theorem exp (p : Fin 8) (i : Nat) : Statement (.exp p i) := of_word _ p i 2 7 rfl (by decide) (fun h => by simpa [Instr.wellFormed, wordIndex] using h) rfl rfl rfl
theorem recip (p : Fin 8) (i : Nat) : Statement (.recip p i) := of_word _ p i 2 8 rfl (by decide) (fun h => by simpa [Instr.wellFormed, wordIndex] using h) rfl rfl rfl
theorem rsqrt (p : Fin 8) (i : Nat) : Statement (.rsqrt p i) := of_word _ p i 2 9 rfl (by decide) (fun h => by simpa [Instr.wellFormed, wordIndex] using h) rfl rfl rfl
theorem maxabs (p : Fin 8) (i : Nat) : Statement (.maxabs p i) := of_word _ p i 2 10 rfl (by decide) (fun h => by simpa [Instr.wellFormed, wordIndex] using h) rfl rfl rfl
theorem rowstat (p : Fin 8) (i : Nat) : Statement (.rowstat p i) := of_word _ p i 2 11 rfl (by decide) (fun h => by simpa [Instr.wellFormed, wordIndex] using h) rfl rfl rfl
theorem lsCopy (p : Fin 8) (i : Nat) : Statement (.lsCopy p i) := of_word _ p i 3 0 rfl (by decide) (fun h => by simpa [Instr.wellFormed, wordIndex] using h) rfl rfl rfl
theorem psRead (p : Fin 8) (i : Nat) : Statement (.psRead p i) := of_word _ p i 3 1 rfl (by decide) (fun h => by simpa [Instr.wellFormed, wordIndex] using h) rfl rfl rfl
theorem psWrite (p : Fin 8) (i : Nat) : Statement (.psWrite p i) := of_word _ p i 3 2 rfl (by decide) (fun h => by simpa [Instr.wellFormed, wordIndex] using h) rfl rfl rfl
theorem ddrRead (p : Fin 8) (i : Nat) : Statement (.ddrRead p i) := of_word _ p i 3 3 rfl (by decide) (fun h => by simpa [Instr.wellFormed, wordIndex] using h) rfl rfl rfl
theorem ddrWrite (p : Fin 8) (i : Nat) : Statement (.ddrWrite p i) := of_word _ p i 3 4 rfl (by decide) (fun h => by simpa [Instr.wellFormed, wordIndex] using h) rfl rfl rfl
theorem ddrBcast (p : Fin 8) (i : Nat) : Statement (.ddrBcast p i) := of_word _ p i 3 5 rfl (by decide) (fun h => by simpa [Instr.wellFormed, wordIndex] using h) rfl rfl rfl
theorem gather (p : Fin 8) (i : Nat) : Statement (.gather p i) := of_word _ p i 4 0 rfl (by decide) (fun h => by simpa [Instr.wellFormed, wordIndex] using h) rfl rfl rfl
theorem depthwise (p : Fin 8) (i : Nat) : Statement (.depthwise p i) := of_word _ p i 4 1 rfl (by decide) (fun h => by simpa [Instr.wellFormed, wordIndex] using h) rfl rfl rfl
theorem maxpool (p : Fin 8) (i : Nat) : Statement (.maxpool p i) := of_word _ p i 4 2 rfl (by decide) (fun h => by simpa [Instr.wellFormed, wordIndex] using h) rfl rfl rfl
theorem avgpool (p : Fin 8) (i : Nat) : Statement (.avgpool p i) := of_word _ p i 4 3 rfl (by decide) (fun h => by simpa [Instr.wellFormed, wordIndex] using h) rfl rfl rfl
theorem resample (p : Fin 8) (i : Nat) : Statement (.resample p i) := of_word _ p i 4 4 rfl (by decide) (fun h => by simpa [Instr.wellFormed, wordIndex] using h) rfl rfl rfl
theorem crop (p : Fin 8) (i : Nat) : Statement (.crop p i) := of_word _ p i 4 5 rfl (by decide) (fun h => by simpa [Instr.wellFormed, wordIndex] using h) rfl rfl rfl
theorem fwd (p : Fin 8) (i : Nat) : Statement (.fwd p i) := of_word _ p i 5 0 rfl (by decide) (fun h => by simpa [Instr.wellFormed, wordIndex] using h) rfl rfl rfl
theorem decode (p : Fin 8) (i d : Nat) : Statement (.decode p i d) := of_other _ rfl rfl rfl rfl
theorem bwd (p : Fin 8) (i : Nat) : Statement (.bwd p i) := of_word _ p i 5 2 rfl (by decide) (fun h => by simpa [Instr.wellFormed, wordIndex] using h) rfl rfl rfl
theorem kvCreate (p : Fin 8) (i : Nat) : Statement (.kvCreate p i) := of_word _ p i 6 0 rfl (by decide) (fun h => by simpa [Instr.wellFormed, wordIndex] using h) rfl rfl rfl
theorem kvAppend (p : Fin 8) (i : Nat) : Statement (.kvAppend p i) := of_word _ p i 6 1 rfl (by decide) (fun h => by simpa [Instr.wellFormed, wordIndex] using h) rfl rfl rfl
theorem kvWrite (p : Fin 8) (i d : Nat) : Statement (.kvWrite p i d) := of_other _ rfl rfl rfl rfl
theorem kvFree (p : Fin 8) (i : Nat) : Statement (.kvFree p i) := of_word _ p i 6 3 rfl (by decide) (fun h => by simpa [Instr.wellFormed, wordIndex] using h) rfl rfl rfl
theorem kvService (p : Fin 8) (i : Nat) : Statement (.kvService p i) := of_word _ p i 6 4 rfl (by decide) (fun h => by simpa [Instr.wellFormed, wordIndex] using h) rfl rfl rfl
theorem txtFetch (p : Fin 8) (i : Nat) : Statement (.txtFetch p i) := of_word _ p i 7 0 rfl (by decide) (fun h => by simpa [Instr.wellFormed, wordIndex] using h) rfl rfl rfl
theorem decide (p : Fin 8) (i d : Nat) : Statement (.decide p i d) := of_other _ rfl rfl rfl rfl
theorem emit (p : Fin 8) (i : Nat) : Statement (.emit p i) := of_word _ p i 8 0 rfl (by decide) (fun h => by simpa [Instr.wellFormed, wordIndex] using h) rfl rfl rfl
theorem jobDone (p : Fin 8) (i : Nat) : Statement (.jobDone p i) := of_word _ p i 8 1 rfl (by decide) (fun h => by simpa [Instr.wellFormed, wordIndex] using h) rfl rfl rfl
theorem slab (p : Fin 8) (i : Nat) : Statement (.slab p i) := of_word _ p i 9 0 rfl (by decide) (fun h => by simpa [Instr.wellFormed, wordIndex] using h) rfl rfl rfl
theorem guard (p : Fin 8) (i : Nat) : Statement (.guard p i) := of_word _ p i 10 0 rfl (by decide) (fun h => by simpa [Instr.wellFormed, wordIndex] using h) rfl rfl rfl
theorem operationComplete : Statement .operationComplete := of_other _ rfl rfl rfl rfl
theorem late : Statement .late := of_other _ rfl rfl rfl rfl
theorem jobRelease (p : Fin 8) (o : Nat) : Statement (.jobRelease p o) := of_other _ rfl rfl rfl rfl
theorem pageEnd (p : Fin 8) (o : Nat) : Statement (.pageEnd p o) := of_other _ rfl rfl rfl rfl
theorem recordSend (x : Fin 2) : Statement (.recordSend x) := of_other _ rfl rfl rfl rfl
theorem hsExit (x : Fin 2) : Statement (.hsExit x) := of_other _ rfl rfl rfl rfl
theorem outHold (x : Fin 2) : Statement (.outHold x) := of_other _ rfl rfl rfl rfl
theorem outHoldRelease (x : Fin 2) : Statement (.outHoldRelease x) := of_other _ rfl rfl rfl rfl
theorem holdTimeout (x : Fin 2) : Statement (.holdTimeout x) := of_other _ rfl rfl rfl rfl
theorem stageFillDone : Statement .stageFillDone := of_other _ rfl rfl rfl rfl
theorem batchStaged : Statement .batchStaged := of_other _ rfl rfl rfl rfl
theorem checkpointDone : Statement .checkpointDone := of_other _ rfl rfl rfl rfl
theorem restoreDone : Statement .restoreDone := of_other _ rfl rfl rfl rfl
theorem ddrTrainingEnd (failed : Option (BitVec 4)) (sub : BitVec 3) : Statement (.ddrTrainingEnd failed sub) := of_other _ rfl rfl rfl rfl
theorem selfRefreshReturn : Statement .selfRefreshReturn := of_other _ rfl rfl rfl rfl
theorem dramTempRead (hot : Bool) : Statement (.dramTempRead hot) := of_other _ rfl rfl rfl rfl
theorem patrolScrub : Statement .patrolScrub := of_other _ rfl rfl rfl rfl
theorem packetDiscarded (r : RxHdr) (cause : DropCause) : Statement (.packetDiscarded r cause) := of_rx _ rfl rfl rfl rfl
theorem unknownOpcode (da : BitVec 7) (hdr : Option Byte) (bytes : List Byte) : Statement (.unknownOpcode da hdr bytes) := of_other _ rfl rfl rfl rfl
theorem hdrExitPattern : Statement .hdrExitPattern := of_other _ rfl rfl rfl rfl
theorem newFirmwareStarted (u : Unit) : Statement (.newFirmwareStarted u) := of_other _ rfl rfl rfl rfl
theorem feedPeriodEnd (t : Fin 4) (k : Fin 8) : Statement (.feedPeriodEnd t k) := of_other _ rfl rfl rfl rfl
theorem patternStepEnd (t : Fin 4) : Statement (.patternStepEnd t) := of_other _ rfl rfl rfl rfl
theorem jtagUpdateIr (code : Byte) : Statement (.jtagUpdateIr code) := of_other _ rfl rfl rfl rfl
theorem jtagUpdateDr (value : BitVec 10) : Statement (.jtagUpdateDr value) := of_other _ rfl rfl rfl rfl
theorem jtagCaptureDr : Statement .jtagCaptureDr := of_other _ rfl rfl rfl rfl
theorem flashSpiTransferEnd (captured : Byte) : Statement (.flashSpiTransferEnd captured) := of_other _ rfl rfl rfl rfl
theorem trstNLow : Statement .trstNLow := of_other _ rfl rfl rfl rfl

end Sys2Proof.Laws.Shape
end

