-- ==== Sys2Proof/Laws/Tambours.lean ====
section
/-!
SUPPORT. What a command about one Tambour may touch.
-/
namespace Sys2Proof.Machine
set_option Elab.async false

/-- Only Tambour t differs. -/
def OneTambour (t : Fin 4) (d e : Dev) : Prop := e = { d with tambs := e.tambs } ∧ ∀ v : Nat, v ≠ t → tambOf e v = tambOf d v

theorem OneTambour.refl (t : Fin 4) (d : Dev) : OneTambour t d d := ⟨rfl, fun _ _ => rfl⟩

theorem OneTambour.trans {t : Fin 4} {a b c : Dev} (h : OneTambour t a b) (h2 : OneTambour t b c) : OneTambour t a c := by
  refine ⟨?_, fun v hv => (h2.2 v hv).trans (h.2 v hv)⟩
  have x := h.1; have y := h2.1; rw [x] at y; exact y

theorem oneTambour_setTamb (t : Fin 4) (d : Dev) (f : Tamb → Tamb) : OneTambour t d (setTamb d t f) := ⟨rfl, fun v hv => tambOf_setTamb_other d t v f hv⟩

theorem OneTambour.state {t : Fin 4} {s : State} {e : Dev} (h : OneTambour t s.dev e) : TambOnly t s { s with dev := e } := by
  have x := h.1
  have ha : e.agenda = s.dev.agenda := by rw [x]
  exact ⟨by dsimp only; rw [ha, ← x], h.2, by dsimp only; rw [ha]⟩

theorem cf_setTamb (d : Dev) (t : Nat) (f : Tamb → Tamb) (r : Reg) (i j hi lo : Nat) : cf (setTamb d t f) r i j hi lo = cf d r i j hi lo := rfl

theorem tick200_setTamb (d : Dev) (t : Nat) (f : Tamb → Tamb) : tick200 (setTamb d t f) = tick200 d := rfl

theorem encD_setTamb (d : Dev) (t u : Nat) (f : Tamb → Tamb) : encD (setTamb d t f) u = encD d u := rfl

theorem seen_setTamb (d : Dev) (t : Fin 4) (f : Tamb → Tamb) (h : ∀ m, (f m).held = m.held) (r : Reg) (i j hi lo : Nat) :
    cf (seen (setTamb d t f) t) r i j hi lo = cf (seen d t) r i j hi lo := by
  have : (seen (setTamb d t f) t).regs = (seen d t).regs := by
    show (tambOf (setTamb d t f) t).held ++ d.regs = _; rw [tambOf_setTamb, h]; rfl
  unfold cf com comAt; rw [this]

theorem encD_oneTambour {t : Fin 4} {d e : Dev} (h : OneTambour t d e) (u : Nat) : encD e u = encD d u := by rw [h.1]; rfl

theorem settleStamp_oneTambour (t : Fin 4) (d : Dev) (n : Nat) : OneTambour t d (settleStamp d t n) := by
  unfold settleStamp; split
  · split
    · unfold pushStamp; split
      · exact OneTambour.refl _ _
      · exact oneTambour_setTamb _ _ _
    · exact OneTambour.refl _ _
  · exact OneTambour.refl _ _

/-- Queueing a stamp keeps everything but the stamp queue and what tells of it. -/
theorem settleStamp_keeps (t : Fin 4) (d : Dev) (n : Nat) (P : Tamb → Prop)
    (hP : ∀ m a b k f z, m.stampDue = true → P m → P { m with stamps := a, stampDue := b, nLost := k, stampFlt := f, fltAt := z }) (h : P (tambOf d t)) :
    P (tambOf (settleStamp d t n) t) := by
  unfold settleStamp; split
  · split
    · rename_i hc
      have hd : (tambOf d t).stampDue = true := by simp only [Bool.and_eq_true] at hc; exact hc.1
      unfold pushStamp; split
      · exact h
      · rw [tambOf_setTamb]; exact hP _ _ _ _ _ _ hd h
    · exact h
  · exact h

theorem acceptTrigger_oneTambour (t : Fin 4) (d : Dev) (now : Nat) : OneTambour t d (acceptTrigger d t now) := by
  unfold acceptTrigger; exact OneTambour.trans (settleStamp_oneTambour t d now) (oneTambour_setTamb _ _ _)

/-- What an accepted trigger leaves. -/
theorem acceptTrigger_accepts (t : Fin 4) (d : Dev) (now : Nat) :
  let n := tambOf (acceptTrigger d t now) t
  let m := tambOf d t
  n.stampDue = true ∧ n.lastTrig = some now ∧ (∃ l, n.line = some l ∧ l.t0 = now
      ∧ l.period = cf (seen d t) .tPeriod t 0 23 0 ∧ l.start = cf (seen d t) .tExposure t 0 15 0 ∧ l.stop = cf (seen d t) .tExposure t 0 31 16)
   ∧ n.outs = tgRegs (seen d t) t ∧ n.trigAt = m.trigAt ∧ n.remain = (if m.reload then encD (seen d t) t else m.remain)
   ∧ n.pos = m.pos ∧ (m.stampDue = false → n.stamps = m.stamps ∧ n.nLost = m.nLost) ∧ n.bank = m.bank ∧ n.active = m.active ∧ n.nTrigMis = m.nTrigMis
   ∧ n.encA = m.encA ∧ n.encB = m.encB ∧ n.nEncErr = m.nEncErr ∧ n.cal.state = m.cal.state ∧ n.cal.cause = m.cal.cause ∧ n.driving = m.driving := by
  intro n m
  have k := settleStamp_keeps t d now (fun x => x.pos = m.pos ∧ (m.stampDue = false → x.stamps = m.stamps ∧ x.nLost = m.nLost) ∧ x.bank = m.bank
    ∧ x.active = m.active ∧ x.nTrigMis = m.nTrigMis ∧ x.encA = m.encA ∧ x.encB = m.encB ∧ x.nEncErr = m.nEncErr ∧ x.cal = m.cal ∧ x.driving = m.driving
    ∧ (x.held = m.held ∧ x.trigAt = m.trigAt ∧ x.remain = m.remain ∧ x.reload = m.reload) ∧ (x.stampDue = true → m.stampDue = true))
    (fun x a b k f z hx h => ⟨h.1, fun hm => absurd (h.2.2.2.2.2.2.2.2.2.2.2 hx) (by rw [hm]; decide), h.2.2.1, h.2.2.2.1, h.2.2.2.2.1, h.2.2.2.2.2.1, h.2.2.2.2.2.2.1,
      h.2.2.2.2.2.2.2.1, h.2.2.2.2.2.2.2.2.1, h.2.2.2.2.2.2.2.2.2.1, h.2.2.2.2.2.2.2.2.2.2.1, fun _ => h.2.2.2.2.2.2.2.2.2.2.2 hx⟩)
    ⟨rfl, fun _ => ⟨rfl, rfl⟩, rfl, rfl, rfl, rfl, rfl, rfl, rfl, rfl, ⟨rfl, rfl, rfl, rfl⟩, fun h => h⟩
  have hone := settleStamp_oneTambour t d now
  have hn : n = _ := tambOf_setTamb (settleStamp d t now) t _
  obtain ⟨k1, k2, k3, k4, k5, k6, k7, k8, k9, k10, ⟨k11, k12, k13, k14⟩, _⟩ := k
  have hr : (seen (settleStamp d t now) t).regs = (seen d t).regs := by
    show (tambOf (settleStamp d t now) t).held ++ (settleStamp d t now).regs = _; rw [k11, hone.1]; rfl
  have hcf : ∀ r i j a b, cf (seen (settleStamp d t now) t) r i j a b = cf (seen d t) r i j a b := fun r i j a b => by unfold cf com comAt; rw [hr]
  have htg : tgRegs (seen (settleStamp d t now) t) t = tgRegs (seen d t) t := by unfold tgRegs com comAt; rw [hr]
  have hencd : encD (seen (settleStamp d t now) t) t = encD (seen d t) t := by unfold encD ratioY; rw [hcf, hcf]
  rw [hn]
  refine ⟨rfl, rfl, ⟨_, rfl, rfl, hcf _ _ _ _ _, hcf _ _ _ _ _, hcf _ _ _ _ _⟩, htg, k12, ?_, k1, k2, k3, k4, k5, k6, k7, k8, ?_, ?_, k10⟩
  · show (if (tambOf (settleStamp d t now) t).reload then encD (seen (settleStamp d t now) t) t else (tambOf (settleStamp d t now) t).remain) = _
    rw [k14, k13, hencd]
  · rw [← k9]; show (ite _ _ _ : Cal).state = _; split
    · rfl
    · split <;> rfl
  · rw [← k9]; show (ite _ _ _ : Cal).cause = _; split
    · rfl
    · split <;> rfl

/-- The mode in force at a tick rests on a few fields of the Tambour. -/
theorem inLine_setTamb (d : Dev) (t : Fin 4) (n : Nat) (f : Tamb → Tamb) (h : ∀ m, (f m).on = m.on ∧ (f m).driving = m.driving ∧ (f m).active = m.active
    ∧ (f m).effAt = m.effAt ∧ (f m).line = m.line ∧ (f m).pgDone = m.pgDone ∧ (f m).pgAt = m.pgAt ∧ (f m).pgLen = m.pgLen) :
    inLine (setTamb d t f) t n = inLine d t n := by
  obtain ⟨h1, h2, h3, h4, h5, h6, h7, h8⟩ := h (tambOf d t)
  unfold inLine stays modeTick busyEnd
  simp only [tambOf_setTamb, h1, h2, h3, h4, h5, h6, h7, h8]; rfl

theorem feedStart_oneTambour (t : Fin 4) (d : Dev) (now : Nat) : OneTambour t d (feedStart d t now) := by
  unfold feedStart; dsimp only
  generalize feedPeriod d t = f
  generalize List.range 8 = L
  induction L generalizing d with
  | nil => exact OneTambour.refl _ _
  | cons k L ih =>
    rw [List.foldl_cons]
    refine OneTambour.trans ?_ (ih _)
    split <;> exact oneTambour_setTamb _ _ _

/-- Starting the feed period touches its own fields only. -/
theorem feedStart_keeps (t : Fin 4) (d : Dev) (now : Nat) (P : Tamb → Prop) (hP : ∀ m f g, P m → P { m with feedF := f, feedAt := g }) (h : P (tambOf d t)) :
    P (tambOf (feedStart d t now) t) := by
  unfold feedStart; dsimp only
  generalize feedPeriod d t = f
  generalize List.range 8 = L
  induction L generalizing d with
  | nil => exact h
  | cons k L ih =>
    rw [List.foldl_cons]
    apply ih
    split
    · rw [tambOf_setTamb]; exact hP _ _ _ h
    · rw [tambOf_setTamb]; exact hP _ _ _ h

/-! ### What a tick of the Tambours may touch -/

/-- Only Tambours differ. -/
def TamboursOnly (d e : Dev) : Prop := e = { d with tambs := e.tambs }

theorem TamboursOnly.refl (d : Dev) : TamboursOnly d d := rfl

theorem TamboursOnly.trans {a b c : Dev} (h : TamboursOnly a b) (h2 : TamboursOnly b c) : TamboursOnly a c := by
  unfold TamboursOnly at *; rw [h] at h2; exact h2

theorem TamboursOnly.ite {d x y : Dev} {p : Prop} [Decidable p] (hx : TamboursOnly d x) (hy : TamboursOnly d y) :
    TamboursOnly d (if p then x else y) := by
  split
  · exact hx
  · exact hy

theorem tamboursOnly_setTamb (d : Dev) (t : Nat) (f : Tamb → Tamb) : TamboursOnly d (setTamb d t f) := rfl

theorem pushStamp_tambours (d : Dev) (t : Nat) : TamboursOnly d (pushStamp d t) := by
  unfold pushStamp; split
  · exact TamboursOnly.refl _
  · exact tamboursOnly_setTamb _ _ _

theorem settleStamp_tambours (d : Dev) (t n : Nat) : TamboursOnly d (settleStamp d t n) := by
  unfold settleStamp; split
  · split
    · exact pushStamp_tambours _ _
    · exact TamboursOnly.refl _
  · exact TamboursOnly.refl _

theorem acceptTrigger_tambours (d : Dev) (t n : Nat) : TamboursOnly d (acceptTrigger d t n) :=
  (settleStamp_tambours d t n).trans (tamboursOnly_setTamb _ _ _)

theorem encTrigger_tambours (d : Dev) (t n : Nat) : TamboursOnly d (encTrigger d t n) := by
  unfold encTrigger; split
  · split
    · exact tamboursOnly_setTamb _ _ _
    · exact acceptTrigger_tambours _ _ _
  · exact acceptTrigger_tambours _ _ _

theorem encFire_tambours (d : Dev) (t n : Nat) : TamboursOnly d (encFire d t n) := by
  unfold encFire; split
  · split
    · exact TamboursOnly.refl _
    · dsimp only; split
      · exact (tamboursOnly_setTamb d t (fun m => { m with trigAt := none })).trans (encTrigger_tambours _ _ _)
      · exact tamboursOnly_setTamb _ _ _
  · exact TamboursOnly.refl _

theorem feedStart_tambours (d : Dev) (t n : Nat) : TamboursOnly d (feedStart d t n) := by
  unfold feedStart; dsimp only
  generalize feedPeriod d t = f
  generalize List.range 8 = L
  induction L generalizing d with
  | nil => exact TamboursOnly.refl _
  | cons k L ih =>
    rw [List.foldl_cons]
    refine TamboursOnly.trans ?_ (ih _)
    split <;> exact tamboursOnly_setTamb _ _ _

theorem enterMode_tambours (d : Dev) (t mode n : Nat) : TamboursOnly d (enterMode d t mode n) := by
  unfold enterMode; dsimp only
  refine (settleStamp_tambours d t n).trans ?_
  split
  · exact ((tamboursOnly_setTamb _ _ _).trans (tamboursOnly_setTamb _ _ _)).trans (tamboursOnly_setTamb _ _ _)
  · generalize hY : feedStart _ t n = y
    have hy : TamboursOnly (settleStamp d t n) y := by rw [← hY]; exact (tamboursOnly_setTamb _ _ _).trans (feedStart_tambours _ _ _)
    refine hy.trans ?_
    split
    · split
      · exact (tamboursOnly_setTamb _ _ _).trans (acceptTrigger_tambours _ _ _)
      · exact tamboursOnly_setTamb _ _ _
    · exact TamboursOnly.refl _

theorem takeMode_tambours (d : Dev) (t n : Nat) : TamboursOnly d (takeMode d t n) := by
  unfold takeMode; split
  · exact enterMode_tambours _ _ _ _
  · exact (settleStamp_tambours d t n).trans (tamboursOnly_setTamb _ _ _)

theorem tambCommit_tambours (d : Dev) (t e : Nat) : TamboursOnly d (tambCommit d t e) := by
  unfold tambCommit; split
  · dsimp only
    have h : ∀ x, TamboursOnly d x → TamboursOnly d (match modeTick x t with | some n => if n ≤ e then takeMode x t n else x | none => x) := by
      intro x hx; split
      · split
        · exact hx.trans (takeMode_tambours _ _ _)
        · exact hx
      · exact hx
    exact h _ (TamboursOnly.ite (tamboursOnly_setTamb _ _ _) ((tamboursOnly_setTamb _ _ _).trans (feedStart_tambours _ _ _)))
  · split
    · exact (tamboursOnly_setTamb _ _ _).trans (enterMode_tambours _ _ _ _)
    · exact tamboursOnly_setTamb _ _ _

theorem timerRoll_tambours (t n k : Nat) (d : Dev) : TamboursOnly d (timerRoll t n k d) := by
  induction k generalizing d with
  | zero => exact TamboursOnly.refl _
  | succ k ih =>
    rw [timerRoll]; split
    · split
      · exact (acceptTrigger_tambours _ _ _).trans (ih _)
      · exact TamboursOnly.refl _
    · exact TamboursOnly.refl _

theorem patNext_tambours (d : Dev) (t : Nat) : TamboursOnly d (patNext d t) := by
  unfold patNext; dsimp only; split
  · exact tamboursOnly_setTamb _ _ _
  · split
    · exact (tamboursOnly_setTamb _ _ _).trans (tamboursOnly_setTamb _ _ _)
    · exact tamboursOnly_setTamb _ _ _

theorem patRoll_tambours (t n k : Nat) (d : Dev) : TamboursOnly d (patRoll t n k d) := by
  induction k generalizing d with
  | zero => exact TamboursOnly.refl _
  | succ k ih =>
    rw [patRoll]; split
    · split
      · exact (patNext_tambours _ _).trans (ih _)
      · exact TamboursOnly.refl _
    · exact TamboursOnly.refl _

theorem tambRoll_tambours (d : Dev) (t e : Nat) : TamboursOnly d (tambRoll d t e) := by
  unfold tambRoll; dsimp only
  refine TamboursOnly.trans ?_ ((timerRoll_tambours _ _ _ _).trans (patRoll_tambours _ _ _ _))
  split
  · split
    · exact tamboursOnly_setTamb _ _ _
    · exact TamboursOnly.refl _
  · exact TamboursOnly.refl _

theorem tambEdge_tambours (c : Units) (d : Dev) (t e : Nat) : TamboursOnly d (tambEdge c d t e) := by
  unfold tambEdge; dsimp only
  refine TamboursOnly.trans ?_ (tambCommit_tambours _ _ _)
  refine TamboursOnly.trans ?_ (tamboursOnly_setTamb _ _ _)
  have h : ∀ x, TamboursOnly d x → TamboursOnly d (if (tambOf x t).swapping = true then flipBank x t else x) :=
    fun x hx => TamboursOnly.ite (hx.trans (tamboursOnly_setTamb _ _ _)) hx
  exact h _ (TamboursOnly.ite (tambRoll_tambours _ _ _) (TamboursOnly.refl _))

/-- What falls due at a tick touches Tambours only. -/
theorem tamboursDue_tambours (c : Units) (d : Dev) : TamboursOnly d (tamboursDue c d) := by
  unfold tamboursDue
  generalize List.range 4 = L
  induction L generalizing d with
  | nil => exact TamboursOnly.refl _
  | cons t L ih =>
    rw [List.foldl_cons]
    refine TamboursOnly.trans ?_ (ih _)
    unfold tambDue; dsimp only
    refine TamboursOnly.trans ?_ (encFire_tambours _ _ _)
    split
    · split
      · exact (encFire_tambours _ _ _).trans (tambEdge_tambours _ _ _ _)
      · exact TamboursOnly.refl _
    · exact TamboursOnly.refl _

/-- With no edge and no trigger to come, nothing falls due. -/
theorem tamboursDue_none (c : Units) (d : Dev) (h : ∀ i, i < 4 → (tambOf d i).edge = none ∧ (tambOf d i).trigAt = none) : tamboursDue c d = d := by
  have key : ∀ L : List Nat, (∀ i ∈ L, i < 4) → L.foldl (tambDue c) d = d := by
    intro L; induction L with
    | nil => intro _; rfl
    | cons i L ih =>
      intro hL
      have hi := h i (hL i (by simp))
      rw [List.foldl_cons]
      have : tambDue c d i = d := by unfold tambDue encFire; simp only [hi.1, hi.2]
      rw [this]; exact ih (fun j hj => hL j (by simp [hj]))
  exact key _ (fun i hi => by simpa using hi)

end Sys2Proof.Machine
end

