-- ==== Sys2Proof/Laws/Schedule.lean ====
section
/-!
SUPPORT. The schedule of a Stitch: time that passes, what offering and starting a word may touch, what comes due.
-/
namespace Sys2Proof.Machine
set_option Elab.async false

/-- Time that passes moves the offset. -/
theorem elapse_offset (d : Dev) (n : Nat) : (elapse d n).clk.offset = d.clk.offset + n := by
  unfold elapse; split
  · rename_i h; rw [h]; rfl
  · rfl

/-- Time that passes touches the clock only. -/
theorem elapse_clk (d : Dev) (n : Nat) : elapse d n = { d with clk := (elapse d n).clk } := by
  unfold elapse; split
  · rfl
  · rfl

/-- No time changes nothing. -/
theorem elapse_zero (d : Dev) (n : Nat) (h : n = 0) : elapse d n = d := by unfold elapse; rw [if_pos h]

theorem IssueOnly.refl (p : Nat) (d : Dev) : IssueOnly p d d := ⟨rfl, fun _ _ => rfl, rfl, fun _ => rfl⟩

theorem IssueOnly.trans {p : Nat} {a b c : Dev} (h : IssueOnly p a b) (g : IssueOnly p b c) : IssueOnly p a c := by
  obtain ⟨h1, h2, h3, h4⟩ := h
  obtain ⟨g1, g2, g3, g4⟩ := g
  refine ⟨?_, fun q hq => (g2 q hq).trans (h2 q hq), ?_, fun n => ?_⟩
  · rw [g1, h1]
  · rw [g3, h3]
  · rw [g4 n, h4 n]

/-- Only the schedule of operation id of partition p differs. -/
def Scheduled (p id : Nat) (d e : Dev) : Prop :=
  IssueOnly p d e ∧ e.nextId = d.nextId ∧ (∀ n, (bobOf e n).words = (bobOf d n).words)
    ∧ ∃ φ : Flight → Flight, e.flights = d.flights.map (fun x => if x.id == id then φ x else x) ∧ ∀ x, φ x = { x with done := (φ x).done, aux := (φ x).aux }

theorem Scheduled.refl (p id : Nat) (d : Dev) : Scheduled p id d d :=
  ⟨IssueOnly.refl p d, rfl, fun _ => rfl, fun x => x, by simp, fun _ => rfl⟩

theorem Scheduled.trans {p id : Nat} {a b c : Dev} (h : Scheduled p id a b) (g : Scheduled p id b c) : Scheduled p id a c := by
  obtain ⟨h1, h2, h3, φ, h4, h5⟩ := h
  obtain ⟨g1, g2, g3, ψ, g4, g5⟩ := g
  refine ⟨IssueOnly.trans h1 g1, g2.trans h2, fun n => (g3 n).trans (h3 n), fun x => ψ (φ x), ?_, fun x => ?_⟩
  · rw [g4, h4, List.map_map]; congr 1; funext x; simp only [Function.comp]
    by_cases hx : (x.id == id) = true
    · rw [if_pos hx]; rw [if_pos (by rw [h5 x]; exact hx), if_pos hx]
    · rw [if_neg hx, if_neg hx, if_neg hx]
  · refine (g5 (φ x)).trans ?_
    simp only [Flight.mk.injEq]
    refine ⟨?_, ?_, ?_, ?_, ?_, trivial, ?_, ?_, ?_, ?_, trivial, ?_, ?_, ?_⟩ <;> rw [h5 x]

theorem scheduled_addEv (p id : Nat) (d : Dev) (a b : Nat) (k : Act) : Scheduled p id d (addEv d a b id k) :=
  ⟨⟨rfl, fun _ _ => rfl, rfl, fun _ => rfl⟩, rfl, fun _ => rfl, fun x => x, by simp, fun _ => rfl⟩

theorem scheduled_setFlight (p id : Nat) (d : Dev) (f : Flight → Flight) (hf : ∀ x, f x = { x with done := (f x).done, aux := (f x).aux }) : Scheduled p id d (setFlight d id f) :=
  ⟨⟨rfl, fun _ _ => rfl, rfl, fun _ => rfl⟩, rfl, fun _ => rfl, f, rfl, hf⟩

theorem scheduled_completeAt (p : Nat) (d : Dev) (f : Flight) (n : Nat) : Scheduled p f.id d (completeAt d f n) :=
  Scheduled.trans (scheduled_setFlight p f.id d (fun x => { x with done := some n }) (fun _ => rfl)) (scheduled_addEv p f.id _ _ _ _)

theorem scheduled_setPart (p id : Nat) (d : Dev) (f : Part → Part) (hp : p < 8) (hf : ∀ x, f x = { x with ddrLast := (f x).ddrLast, steps := (f x).steps }) :
    Scheduled p id d (setPart d p f) := by
  refine ⟨⟨rfl, fun q hq => partOf_setPart_other d p q f hq, ?_, fun _ => rfl⟩, rfl, fun _ => rfl, fun x => x, by simp [setPart], fun _ => rfl⟩
  rw [partOf_setPart _ _ _ hp]; exact hf _

theorem scheduled_setBob (p id n : Nat) (d : Dev) (f : Bob → Bob) (hf : ∀ x, f x = { x with bankA := (f x).bankA, bankB := (f x).bankB }) :
    Scheduled p id d (setBob d n f) := by
  have key : ∀ m, bobOf (setBob d n f) m = { bobOf d m with bankA := (bobOf (setBob d n f) m).bankA, bankB := (bobOf (setBob d n f) m).bankB } := by
    intro m
    by_cases hm : m = n
    · subst hm
      by_cases hn : m < 8
      · rw [bobOf_setBob _ _ _ hn]; exact hf _
      · rw [bobOf_setBob_absent _ _ _ _ hn]
    · rw [bobOf_setBob_other _ _ _ _ hm]
  refine ⟨⟨rfl, fun q hq => rfl, rfl, fun m => ?_⟩, rfl, fun m => ?_, fun x => x, by simp [setBob], fun _ => rfl⟩
  · rw [key m]
  · rw [key m]

theorem scheduled_takeDdr (d : Dev) (p id a b : Nat) (hp : p < 8) : Scheduled p id d (takeDdr d p a b).1 := by
  unfold takeDdr; dsimp only
  split
  · exact scheduled_setPart p id d _ hp (fun _ => rfl)
  · exact scheduled_setPart p id d _ hp (fun _ => rfl)

theorem scheduled_addServed (p : Nat) (d : Dev) (r : Nat) (f : Flight) (k q : Nat) (a : Act) : Scheduled p f.id d (addServed d r f k q a) := by
  unfold addServed; split
  · exact scheduled_addEv _ _ _ _ _ _
  · exact Scheduled.refl _ _ _

theorem scheduled_completeServed (p : Nat) (d : Dev) (r : Nat) (f : Flight) (n : Nat) : Scheduled p f.id d (completeServed d r f n) := by
  unfold completeServed; split
  · split
    · exact scheduled_completeAt _ _ _ _
    · exact Scheduled.refl _ _ _
  · exact Scheduled.refl _ _ _

theorem scheduled_attnStep (p : Nat) (d : Dev) (f : Flight) (k q : Nat) (a : Act) : Scheduled p f.id d (attnStep d f k q a) := by
  unfold attnStep; split
  · exact scheduled_addServed _ _ _ _ _ _ _
  · exact scheduled_addEv _ _ _ _ _ _

/-- Starting a word touches its own schedule only. -/
theorem startWord_scheduled (d : Dev) (f : Flight) (hp : f.part < 8) : Scheduled f.part f.id d (startWord d f) := by
  have A : ∀ d a b k, Scheduled f.part f.id d (addEv d a b f.id k) := fun d a b k => scheduled_addEv _ _ d a b k
  have C : ∀ d n, Scheduled f.part f.id d (completeAt d f n) := fun d n => scheduled_completeAt _ d f n
  unfold startWord
  split
  · unfold startArray; dsimp only; split <;> exact Scheduled.trans (C _ _) (A _ _ _ _)
  · unfold startVector; exact Scheduled.trans (C _ _) (A _ _ _ _)
  · unfold startMove; dsimp only; split
    · exact Scheduled.trans (C _ _) (A _ _ _ _)
    · split
      · rename_i l _
        refine Scheduled.trans (scheduled_takeDdr d f.part f.id f.issue (moveD f.desc).size hp) (Scheduled.trans ?_ (A _ _ _ _))
        split
        · exact C _ _
        · exact scheduled_setFlight _ _ _ _ (fun _ => rfl)
      · refine Scheduled.trans (scheduled_takeDdr d f.part f.id f.issue (moveD f.desc).size hp) (Scheduled.trans ?_ (A _ _ _ _))
        exact scheduled_setFlight _ _ _ _ (fun _ => rfl)
  · unfold startWindow; exact Scheduled.trans (C _ _) (A _ _ _ _)
  · unfold startAttn; dsimp only
    refine Scheduled.trans ?_ (Scheduled.trans (scheduled_setBob _ _ _ _ _ (fun _ => rfl))
      (Scheduled.trans (scheduled_attnStep _ _ _ _ _ _) (scheduled_attnStep _ _ _ _ _ _)))
    split
    · exact scheduled_completeServed _ _ _ _ _
    · split
      · exact C _ _
      · exact Scheduled.refl _ _ _
  · unfold startKv; dsimp only; split
    · have s := scheduled_completeServed f.part d 3 f (kvDur f.word.toNat f.desc)
      split
      · exact s
      · exact Scheduled.trans s (scheduled_addServed _ _ _ _ _ _ _)
    · split
      · exact Scheduled.refl _ _ _
      · refine Scheduled.trans (scheduled_takeDdr d f.part f.id f.issue (fld f.desc 0 4) hp) ?_
        split
        · refine Scheduled.trans (scheduled_setFlight _ _ _ (fun x => { x with aux := leBytes 8 (fld f.desc 0 4) }) (fun _ => rfl)) ?_
          split
          · exact Scheduled.trans (C _ _) (A _ _ _ _)
          · exact A _ _ _ _
        · exact Scheduled.trans (scheduled_setFlight _ _ _ _ (fun _ => rfl)) (A _ _ _ _)
        · exact Scheduled.trans (scheduled_setFlight _ _ _ _ (fun _ => rfl)) (A _ _ _ _)
  · unfold startText; dsimp only
    refine Scheduled.trans (scheduled_completeServed f.part d 1 f (textDur (wOp f.word.toNat) f.desc)) ?_
    split
    · exact scheduled_addServed _ _ _ _ _ _ _
    · exact Scheduled.trans (scheduled_addServed _ _ _ _ _ _ _) (scheduled_addServed _ _ _ _ _ _ _)
  · unfold startOut; dsimp only
    exact Scheduled.trans (scheduled_completeServed _ _ _ _ _) (Scheduled.trans (scheduled_addServed _ _ _ _ _ _ _) (scheduled_addServed _ _ _ _ _ _ _))
  · dsimp only
    refine Scheduled.trans (scheduled_setPart f.part f.id d _ hp ?_) (Scheduled.trans (C _ _) (A _ _ _ _))
    intro x; rfl
  · exact Scheduled.trans (C _ _) (A _ _ _ _)
  · exact Scheduled.refl _ _ _

/-- Fields of a 128-bit word lie below its width. -/
theorem bitsOf_word (w hi lo : Nat) (h : hi < 128) (hl : lo ≤ hi) : bitsOf (BitVec.ofNat 128 w).toNat hi lo = bitsOf w hi lo := by
  unfold bitsOf
  simp only [BitVec.toNat_ofNat]
  have e : 2 ^ 128 = 2 ^ lo * 2 ^ (128 - lo) := by rw [← pow_add]; congr 1; omega
  have e2 : 2 ^ (128 - lo) = 2 ^ (hi + 1 - lo) * 2 ^ (127 - hi) := by rw [← pow_add]; congr 1; omega
  rw [e, Nat.mod_mul_right_div_self, e2, Nat.mod_mul_right_mod]

/-- The flights once a completion is scheduled. -/
theorem completeAt_flights (d : Dev) (f : Flight) (n a b : Nat) (k : Act) : (addEv (completeAt d f n) a b f.id k).flights = d.flights.map (fun x => if x.id == f.id then { x with done := some n } else x) := rfl

/-- A word of fixed time completes that long after its issue. -/
theorem startWord_done (d : Dev) (f : Flight) (n : Nat) (h : wordTime f.word.toNat f.desc f.aux = some n) :
    (startWord d f).flights = d.flights.map (fun x => if x.id == f.id then { x with done := some (f.issue + n) } else x) := by
  unfold wordTime at h
  unfold startWord
  split at h
  · rename_i hc; rw [hc]; show (startArray d f).flights = _
    unfold startArray; dsimp only
    split at h
    · rename_i h0; rw [if_pos (by simp [h0])]; rw [completeAt_flights]; cases h; simp only [Nat.add_assoc]
    · rename_i h0; rw [if_neg (by simpa using h0)]; rw [completeAt_flights]; cases h; simp only [Nat.add_assoc]
  · rename_i hc; rw [hc]; show (startVector d f).flights = _
    unfold startVector; dsimp only; cases h
    rw [completeAt_flights]; simp only [Nat.add_assoc]
  · rename_i hc; rw [hc]; show (startMove d f).flights = _
    unfold startMove; dsimp only
    split at h
    · rename_i h0; rw [if_pos h0, completeAt_flights]; cases h; simp only [Nat.add_assoc, beq_iff_eq]
    · cases h
  · rename_i hc; rw [hc]; show (startWindow d f).flights = _
    unfold startWindow; dsimp only; cases h
    rw [completeAt_flights]
  · rename_i hc; rw [hc]; show (addEv (completeAt d f (f.issue + 2)) f.issue (prioEnd + 1) f.id .whole).flights = _; cases h; rw [completeAt_flights]
  · cases h

/-- The class of a 128-bit word. -/
theorem wClass_word (w : Nat) : wClass (BitVec.ofNat 128 w).toNat = wClass w := bitsOf_word w 103 100 (by decide) (by decide)

/-- The time of a 128-bit word. -/
theorem wordTime_word (w : Nat) (a b : List Byte) : wordTime (BitVec.ofNat 128 w).toNat a b = wordTime w a b := by
  unfold wordTime
  have h1 : wOp (BitVec.ofNat 128 w).toNat = wOp w := bitsOf_word w 95 88 (by decide) (by decide)
  have hb : ∀ k, k < 128 → bitOf (BitVec.ofNat 128 w).toNat k = bitOf w k := by
    intro k hk; unfold bitOf; simp only [BitVec.toNat_ofNat]
    have e : 2 ^ 128 = 2 ^ k * 2 ^ (128 - k) := by rw [← pow_add]; congr 1; omega
    have e2 : 2 ^ (128 - k) = 2 * 2 ^ (127 - k) := by rw [← pow_succ']; congr 1; omega
    rw [e, Nat.mod_mul_right_div_self, e2, Nat.mod_mul_right_mod]
  have h2 : maOut (BitVec.ofNat 128 w).toNat = maOut w := hb 37 (by decide)
  have h3 : maBeats (BitVec.ofNat 128 w).toNat = maBeats w := by
    unfold maBeats maRows maDepth; rw [bitsOf_word w _ _ (by decide) (by decide), bitsOf_word w _ _ (by decide) (by decide)]
  have h4 : wlLines (BitVec.ofNat 128 w).toNat = wlLines w := by unfold wlLines; rw [bitsOf_word w _ _ (by decide) (by decide)]
  rw [wClass_word, h1, h2, h3, h4]

/-- A Bobbin that accepts no word makes ISSUE_MISS (R204). -/
theorem offer_refused (c : Units) (e : Dev) (p k w : Nat) (desc aux : List Byte) (dur : Nat) (st : Option Nat) (h : BobbinRefuses c e p w) :
    offer c e p k w desc aux dur st = fault e p e.clk.offset 1 k := by
  obtain ⟨n, hn, ha⟩ := h
  have hno : acceptsNow c e n = false := by
    unfold acceptsNow
    rcases ha with ha | ⟨he, ha⟩
    · rw [ha]; rfl
    · rw [ha, Bool.or_false]
      have : e.ecc.isEmpty = false := by simpa using he
      rw [this, Bool.and_false]
  unfold bobOfWord at hn
  unfold offer; dsimp only; rw [hn]; dsimp only; rw [if_pos (by rw [hno]; rfl)]

/-- A word that is not refused is accepted. -/
theorem offer_accepted (c : Units) (e : Dev) (p k w : Nat) (desc aux : List Byte) (dur : Nat) (st : Option Nat) (hp : p < 8) (h : ¬ BobbinRefuses c e p w) :
    Accepted e (offer c e p k w desc aux dur st) p k w desc aux dur := by
  have hok : (match bobOfWord e p w with | some n => acceptsNow c e n | none => true) = true := by
    cases hb : bobOfWord e p w with
    | none => rfl
    | some n =>
      dsimp only
      by_contra hc
      refine h ⟨n, hb, ?_⟩
      have hc : acceptsNow c e n = false := by simpa using hc
      unfold acceptsNow at hc
      simp only [Bool.and_eq_false_iff, Bool.or_eq_false_iff] at hc
      rcases hc with hc | ⟨h1, h2⟩
      · exact Or.inl hc
      · exact Or.inr ⟨by simpa using h1, h2⟩
  unfold offer; dsimp only
  change Accepted e (if (!(match bobOfWord e p w with | some n => acceptsNow c e n | none => true)) = true then _ else _) p k w desc aux dur
  rw [hok]; rw [if_neg (by decide)]
  change Accepted e (if (wClass w == 0) = true then (match bobOfWord e p w with | some m => setBob e m (fun b => { b with words := b.words + 1 }) | none => e) else _) p k w desc aux dur
  obtain ⟨d1, hd1⟩ : ∃ d1, d1 = (match bobOfWord e p w with | some m => setBob e m (fun b => { b with words := b.words + 1 }) | none => e) := ⟨_, rfl⟩
  have hio : IssueOnly p e d1 ∧ d1.flights = e.flights ∧ d1.agenda = e.agenda ∧ d1.nextId = e.nextId := by
    rw [hd1]
    cases hb : bobOfWord e p w with
    | none => exact ⟨IssueOnly.refl p e, rfl, rfl, rfl⟩
    | some m =>
      refine ⟨⟨rfl, fun _ _ => rfl, rfl, fun n => ?_⟩, rfl, rfl, rfl⟩
      dsimp only
      by_cases hm : n = m
      · subst hm
        by_cases hn : n < 8
        · rw [bobOf_setBob _ _ _ hn]
        · rw [bobOf_setBob_absent _ _ _ _ hn]
      · rw [bobOf_setBob_other _ _ _ _ hm]
  have hw : ∀ n, bobOfWord e p w = some n → n < 8 → (bobOf d1 n).words = (bobOf e n).words + 1 := by
    intro n hn h8; rw [hd1, hn]; dsimp only; rw [bobOf_setBob _ _ _ h8]
  obtain ⟨i1, i2, i3, i4⟩ := hio
  by_cases h0 : wClass w = 0
  · rw [if_pos (by simp [h0]), ← hd1]
    exact ⟨i1, hw, fun _ => ⟨i2, i3, i4⟩, fun hne => absurd h0 hne⟩
  · rw [if_neg (by simpa using h0)]
    obtain ⟨f, hf⟩ : ∃ f : Flight, f = { id := e.nextId, part := p, op := k, word := BitVec.ofNat 128 w, desc, aux, bob := bobOfWord e p w, step := st, issue := e.clk.offset, limit := e.clk.offset + dur, done := none } := ⟨_, rfl⟩
    obtain ⟨d2, hd2⟩ : ∃ d2 : Dev, d2 = { d1 with nextId := e.nextId + 1, flights := d1.flights ++ [f] } := ⟨_, rfl⟩
    have hs := startWord_scheduled d2 f (by rw [hf]; exact hp)
    have hdone := startWord_done d2 f
    have hres : ∀ (b : Bool) (n : Nat), Accepted e (if b = true then startWord d2 f else addEv (startWord d2 f) n prioRead f.id .late) p k w desc aux dur := by
      intro b n
      have hs2 : Scheduled f.part f.id d2 (if b = true then startWord d2 f else addEv (startWord d2 f) n prioRead f.id .late) := by
        split
        · exact hs
        · exact Scheduled.trans hs (scheduled_addEv _ _ _ _ _ _)
      have hfl : (if b = true then startWord d2 f else addEv (startWord d2 f) n prioRead f.id .late).flights = (startWord d2 f).flights := by split <;> rfl
      generalize (if b = true then startWord d2 f else addEv (startWord d2 f) n prioRead f.id .late) = u at hs2 hfl
      have hpart : f.part = p := by rw [hf]
      have hid : f.id = e.nextId := by rw [hf]
      obtain ⟨s1, s2, s3, φ, s4, s5⟩ := hs2
      rw [hpart] at s1
      have hio2 : IssueOnly p e d2 := IssueOnly.trans i1 (by rw [hd2]; exact ⟨rfl, fun _ _ => rfl, rfl, fun _ => rfl⟩)
      refine ⟨IssueOnly.trans hio2 s1, fun m hm h8 => ?_, fun hc => absurd hc h0, fun _ => ⟨?_, fun g hg hgid => ?_, φ f, ?_, ?_, ?_, ?_, ?_, ?_, ?_, ?_, ?_, ?_, ?_⟩⟩
      · rw [s3 m]; rw [show bobOf d2 m = bobOf d1 m from by rw [hd2]; rfl]; exact hw m hm h8
      · rw [s2, hd2]
      · rw [s4, hd2]; rw [List.mem_map]
        refine ⟨g, by rw [i2]; simp [hg], ?_⟩
        rw [if_neg (by rw [hid]; simpa using hgid)]
      · rw [s4, hd2]; simp
      · rw [s5 f]; exact hid
      · rw [s5 f]; exact hpart
      · rw [s5 f, hf]
      · rw [s5 f, hf]
      · rw [s5 f, hf]
      · rw [s5 f, hf]
      · rw [s5 f, hf]
      · rw [s5 f, hf]
      · rw [s5 f, hf]
      · intro m hm
        have h5 := hdone m (by rw [hf]; dsimp only; rw [wordTime_word]; exact hm)
        rw [← hfl, s4] at h5
        have h6 := congrArg List.getLast? h5
        rw [hd2] at h6
        simp at h6
        have h7 := congrArg Flight.done h6
        rw [h7]
        rw [s5 f]
    rw [hf] at hres
    have := fun b n => hres b n
    rw [hd2, hf, hd1] at this
    change Accepted e (if (match (flightOf (startWord _ _) e.nextId).bind (fun f => f.done) with | some x => decide (x ≤ e.clk.offset + dur) | none => false) = true then _ else _) p k w desc aux dur
    exact this _ _

/-- With nothing due before a cycle, time passes to it. -/
theorem advanceTo_idle (c : Units) (d : Dev) (t : Nat) (h : ∀ v ∈ d.agenda, t ≤ v.at_) (h2 : d.clk.offset ≤ t) : (advanceTo c d t).clk.offset = t := by
  have : drainTo c t fuel d = d := by
    show drainTo c t (1073741823 + 1) d = d
    rw [drainTo]
    split
    · rfl
    · rename_i e rest he
      rw [if_pos (h e (by rw [he]; simp))]
  unfold advanceTo; rw [this]; dsimp only
  have hc : (tamboursDue c (elapse d (t - d.clk.offset))).clk = (elapse d (t - d.clk.offset)).clk := by rw [tamboursDue_tambours c (elapse d (t - d.clk.offset))]
  rw [hc, elapse_offset]; omega

/-- The sequencer's read touches reports only. -/
theorem readWord_reports (c : Units) (d : Dev) (img : List Byte) (p i : Nat) : ReportsOnly d (readWord c d img p i).1 := eccRead_reports _ _ _ _ _

/-- Nothing issues in a partition that does not issue. -/
theorem issueWord_none (c : Units) (d : Dev) (p k cls op : Nat) (h : issuing c d p = false ∨ opAt (imgOf d p) k = none) : issueWord c d p k cls op = d := by
  unfold issueWord
  rcases h with h | h
  · rw [h]; rfl
  · split
    · rfl
    · dsimp only; rw [h]

/-- What a command for an OPS word does. -/
theorem issueWord_cases (c : Units) (d : Dev) (p k cls op w : Nat) (h : issuing c d p = true) (ho : opAt (imgOf d p) k = some w) :
    issueWord c d p k cls op =
      if (wClass w != cls || wOp w != op || (partOf d p).issued.contains (k, none) || decide (offerAt d p w < d.clk.offset)) = true then d
      else
        if (wReplay w && !replayDue (readWord c (markIssued (reachIssue c d (offerAt d p w)) p k none) (imgOf d p) p k).1 (imgOf d p) p w) = true then
          idleWord (readWord c (markIssued (reachIssue c d (offerAt d p w)) p k none) (imgOf d p) p k).1 p w (descAt (imgOf d p) (wDesc w))
        else if (readWord c (markIssued (reachIssue c d (offerAt d p w)) p k none) (imgOf d p) p k).2 = true then
          fault (readWord c (markIssued (reachIssue c d (offerAt d p w)) p k none) (imgOf d p) p k).1 p (offerAt d p w) 1 k
        else offer c (readDescs c (readWord c (markIssued (reachIssue c d (offerAt d p w)) p k none) (imgOf d p) p k).1 (imgOf d p) p (wDescs w)) p k w (descAt (imgOf d p) (wDesc w)) (auxOf (imgOf d p) w) (wDur w) none := by
  unfold issueWord; rw [h]; dsimp only; rw [ho]; rfl

/-- What a command for a slab-expanded word does. -/
theorem issueSlabWork_cases (c : Units) (d : Dev) (p k di w kind dur : Nat) (ok : Bool) (t : StepSt) (h : issuing c d p = true) (ht : (partOf d p).steps.find? (fun t => t.op == k) = some t) :
    issueSlabWork c d p k di w kind dur ok =
      if (t.slab != (slabPlace (imgOf d p) kind di).1 || slabKind (imgOf d p) di != some kind || !ok || (partOf d p).issued.contains (k, some di) || decide (t.issue + (slabPlace (imgOf d p) kind di).2 < d.clk.offset) || decide (periodOf d ≤ t.issue + (slabPlace (imgOf d p) kind di).2)) = true then d
      else offer c (readDescs c (markIssued (reachIssue c d (t.issue + (slabPlace (imgOf d p) kind di).2)) p k (some di)) (imgOf d p) p [di]) p k w (descAt (imgOf d p) di) [] dur (some k) := by
  unfold issueSlabWork; rw [h]; rw [ht]; rfl

/-- Nothing is due before the cycle. -/
theorem drainTo_none (c : Units) (stop n : Nat) (d : Dev) (h : ∀ v ∈ d.agenda, stop ≤ v.at_) : drainTo c stop n d = d := by
  cases n with
  | zero => rw [drainTo]
  | succ n =>
    rw [drainTo]
    split
    · rfl
    · rename_i e rest he
      rw [if_pos (h e (by rw [he]; simp))]

/-- The first entry due runs at its cycle. -/
theorem drainTo_cons (c : Units) (stop n : Nat) (d : Dev) (e : Ev) (rest : List Ev) (he : d.agenda = e :: rest) (h : e.at_ < stop) :
    drainTo c stop (n + 1) d = drainTo c stop n (runEv c (elapse { d with agenda := rest } (e.at_ - d.clk.offset)) e) := by
  rw [drainTo, he]; dsimp only
  rw [if_neg (by omega)]

theorem firstAt_none (d : Dev) (k : Act) (h : d.agenda.all (fun v => v.act != k) = true) : firstAt d (fun a => a == k) = none := by
  unfold firstAt
  rw [List.find?_eq_none.mpr]
  · rfl
  · intro x hx
    have := List.all_eq_true.mp h x hx
    simpa using this

theorem firstAt_head (d : Dev) (v : Ev) (rest : List Ev) (k : Act) (h : d.agenda = v :: rest) (hk : v.act = k) : firstAt d (fun a => a == k) = some v.at_ := by
  unfold firstAt; rw [h]; simp [hk]

theorem firstAt_second (d : Dev) (a v : Ev) (rest : List Ev) (k : Act) (h : d.agenda = a :: v :: rest) (ha : a.act ≠ k) (hk : v.act = k) : firstAt d (fun a => a == k) = some v.at_ := by
  unfold firstAt; rw [h]; simp [hk, ha]

/-- A finish makes its operation leave. -/
theorem runEv_finish (c : Units) (d : Dev) (f : Flight) (t pr : Nat) (hf : flightOf d f.id = some f) : runEv c d ⟨t, pr, f.id, .finish⟩ = abandon d f.id := by
  unfold runEv; dsimp only; rw [if_neg (by decide), if_neg (by decide), hf]; dsimp only
  split <;> split <;> rfl

/-- A step of an operation on a Bobbin that accepts words. -/
theorem runEv_accepting (c : Units) (d : Dev) (f : Flight) (t pr : Nat) (k : Act) (hk : (k == .publish || k == .refill || k == .govern) = false) (hk2 : (k == .tambours) = false) (hf : flightOf d f.id = some f) (hr : ∀ n, f.bob = some n → (bobOf d n).accepting = true) :
    runEv c d ⟨t, pr, f.id, k⟩ = runAct c d f k := by
  unfold runEv; dsimp only; rw [hk, hk2]; rw [if_neg (by decide), if_neg (by decide), hf]; dsimp only
  cases hb : f.bob with
  | none => rfl
  | some n => dsimp only; rw [if_neg (by rw [hr n hb]; simp)]

/-- A finish that is due makes its operation leave. -/
theorem drainTo_finish (c : Units) (d : Dev) (f : Flight) (t pr : Nat) (rest : List Ev) (n : Nat) (hn : 0 < n) (ha : d.agenda = ⟨t, pr, f.id, .finish⟩ :: rest)
    (hf : flightOf d f.id = some f) (hrest : ∀ v ∈ rest, t < v.at_) :
    drainTo c (t + 1) n d = { elapse d (t - d.clk.offset) with flights := d.flights.filter (fun g => g.id != f.id), agenda := rest.filter (fun v => v.fl != f.id) } := by
  obtain ⟨m, rfl⟩ : ∃ m, n = m + 1 := ⟨n - 1, by omega⟩
  rw [drainTo_cons c (t + 1) m d _ rest ha (by show t < t + 1; omega)]
  dsimp only
  have e1 := elapse_clk { d with agenda := rest } (t - d.clk.offset)
  have e2 := elapse_clk d (t - d.clk.offset)
  have e3 : (elapse { d with agenda := rest } (t - d.clk.offset)).clk = (elapse d (t - d.clk.offset)).clk := by unfold elapse; split <;> rfl
  rw [runEv_finish c _ f t pr (by unfold flightOf; rw [e1]; exact hf)]
  have : abandon (elapse { d with agenda := rest } (t - d.clk.offset)) f.id = { elapse d (t - d.clk.offset) with flights := d.flights.filter (fun g => g.id != f.id), agenda := rest.filter (fun v => v.fl != f.id) } := by
    rw [e1, e3, e2]; rfl
  rw [this]
  apply drainTo_none
  intro v hv
  have := hrest v (List.mem_of_mem_filter hv)
  omega

/-- The finish, once the steps have run. -/
theorem drainTo_last (c : Units) (X : Dev) (f : Flight) (a t pr : Nat) (rest : List Ev) (h2 : a ≤ t)
    (hrest : ∀ v ∈ rest, t < v.at_) 
    (x1 : X.agenda = ⟨t, pr, f.id, .finish⟩ :: rest) (x2 : flightOf X f.id = some f) (x3 : X.clk.offset = a) :
    ∃ k m, drainTo c (t + 1) fuel (tamboursDue c (elapse X (t - X.clk.offset))) = { X with clk := k, tambs := m, flights := X.flights.filter (fun g => g.id != f.id), agenda := rest.filter (fun v => v.fl != f.id) }
      ∧ k.offset = t ∧ ((∀ i, i < 4 → (tambOf X i).edge = none ∧ (tambOf X i).trigAt = none) → m = X.tambs) := by
  have e2 := elapse_clk X (t - X.clk.offset)
  have hoff : (elapse X (t - X.clk.offset)).clk.offset = t := by rw [elapse_offset, x3]; omega
  have hnone : (∀ i, i < 4 → (tambOf X i).edge = none ∧ (tambOf X i).trigAt = none) → tamboursDue c (elapse X (t - X.clk.offset)) = elapse X (t - X.clk.offset) := by
    intro h; apply tamboursDue_none; intro i hi
    have : tambOf (elapse X (t - X.clk.offset)) i = tambOf X i := by unfold tambOf; rw [e2]
    rw [this]; exact h i hi
  have hy := tamboursDue_tambours c (elapse X (t - X.clk.offset))
  generalize elapse X (t - X.clk.offset) = Z at *
  generalize tamboursDue c Z = Y at *
  unfold TamboursOnly at hy
  have hoff2 : Y.clk.offset = t := by rw [hy]; exact hoff
  rw [drainTo_finish c _ f t pr rest fuel (by decide) (by rw [hy, e2]; exact x1) (by unfold flightOf; rw [hy, e2]; exact x2) hrest]
  rw [elapse_zero Y _ (by omega)]
  refine ⟨Z.clk, Y.tambs, ?_, hoff, fun h => ?_⟩
  · conv => lhs; rw [hy, e2]
  · rw [hnone h, e2]

/-- One step, and then the finish. -/
theorem advanceTo_step_finish (c : Units) (d : Dev) (f : Flight) (a p1 t pr : Nat) (k : Act) (rest : List Ev) (ha : d.agenda = ⟨a, p1, f.id, k⟩ :: ⟨t, pr, f.id, .finish⟩ :: rest)
    (hk : (k == .publish || k == .refill || k == .govern) = false) (hk2 : (k == .tambours) = false)
    (hf : flightOf d f.id = some f) (hr : ∀ n, f.bob = some n → (bobOf d n).accepting = true) (h2 : a < t)
    (hrest : ∀ v ∈ rest, t < v.at_) (X : Dev)
    (hX : X = runAct c (elapse { d with agenda := ⟨t, pr, f.id, .finish⟩ :: rest } (a - d.clk.offset)) f k)
    (x1 : X.agenda = ⟨t, pr, f.id, .finish⟩ :: rest) (x2 : flightOf X f.id = some f) (x3 : X.clk.offset = a) :
    ∃ k m, drainTo c (t + 1) fuel (advanceTo c d t) = { X with clk := k, tambs := m, flights := X.flights.filter (fun g => g.id != f.id), agenda := rest.filter (fun v => v.fl != f.id) }
      ∧ k.offset = t ∧ ((∀ i, i < 4 → (tambOf X i).edge = none ∧ (tambOf X i).trigAt = none) → m = X.tambs) := by
  have e1 := elapse_clk { d with agenda := ⟨t, pr, f.id, .finish⟩ :: rest } (a - d.clk.offset)
  have hadv : advanceTo c d t = tamboursDue c (elapse X (t - X.clk.offset)) := by
    unfold advanceTo
    rw [show fuel = 1073741823 + 1 from rfl, drainTo_cons c t _ d _ _ ha (by exact h2)]
    dsimp only
    rw [runEv_accepting c _ f a p1 k hk hk2 (by unfold flightOf; rw [e1]; exact hf) (by intro n hn; unfold bobOf; rw [e1]; exact hr n hn), ← hX]
    rw [drainTo_none]
    intro v hv; rw [x1] at hv
    rcases List.mem_cons.mp hv with h | h
    · rw [h]
    · exact Nat.le_of_lt (hrest v h)
  rw [hadv]
  exact drainTo_last c X f a t pr rest (Nat.le_of_lt h2) hrest x1 x2 x3

theorem operationComplete_runs (s : State) (t : Nat) (h1 : clocked s.dev = true) (h2 : firstAt s.dev (fun a => a == .finish) = some t) (h3 : t < periodOf s.dev) :
    exec .operationComplete s = .next { s with dev := drainTo s.committed (t + 1) fuel (advanceTo s.committed s.dev t) } := by
  show execOperationComplete s = _
  unfold execOperationComplete onDev; dsimp only; rw [h2]; dsimp only; rw [if_pos (by rw [h1]; simpa using h3)]

theorem late_runs (s : State) (t : Nat) (h1 : clocked s.dev = true) (h2 : firstAt s.dev (fun a => a == .late) = some t) (h3 : t < periodOf s.dev) :
    exec .late s = .next { s with dev := drainTo s.committed (t + 1) fuel (advanceTo s.committed s.dev t) } := by
  show execLate s = _
  unfold execLate onDev; dsimp only; rw [h2]; dsimp only; rw [if_pos (by rw [h1]; simpa using h3)]

theorem advanceTo_none (c : Units) (d : Dev) (t : Nat) (h : ∀ v ∈ d.agenda, t ≤ v.at_) : advanceTo c d t = tamboursDue c (elapse d (t - d.clk.offset)) := by
  unfold advanceTo; rw [drainTo_none _ _ _ _ h]

/-- A single row is one segment. -/
theorem rowSegs_one (m : Nat) (h : 1 ≤ m) : rowSegs m (512 * 0) m = [(0, 0, m)] := by
  unfold rowSegs cdiv
  have e : (512 * 0 + m + m - 1) / m = 1 := by
    rw [show 512 * 0 + m + m - 1 = m - 1 + 1 * m by omega, Nat.add_mul_div_right _ _ (by omega), Nat.div_eq_of_lt (by omega)]
  simp only [e, Nat.mul_zero, Nat.zero_div]
  simp

/-- The only chunk of a one-row LS_COPY reads its bytes and schedules their write. -/
theorem actChunk_copy (c : Units) (d : Dev) (f : Flight) (n fr de t : Nat) (he : d.ecc = []) (hop : wOp f.word.toNat = 0) (hbob : f.bob = some n) (hn : n < 8) (hdone : f.done = some t)
    (hsrc : placeOf (moveD f.desc).src = .localStore fr) (hdst : placeOf (moveD f.desc).dst = .localStore de) (hrows : (moveD f.desc).rows = 1)
    (h1 : 1 ≤ (moveD f.desc).rowBytes) (h2 : (moveD f.desc).rowBytes ≤ 512) (h3 : fr + (moveD f.desc).rowBytes ≤ 20971520) (h4 : de + (moveD f.desc).rowBytes ≤ 20971520) :
    actChunk c d f 0 = addEv d (t - 1) 11 f.id (.put [(key (8 + n) de, Memory.getN d.mem (key (8 + n) fr) (moveD f.desc).rowBytes)]) := by
  unfold actChunk; dsimp only
  have hs : (moveD f.desc).size = (moveD f.desc).rowBytes := by unfold MoveD.size; rw [hrows, Nat.mul_one]
  rw [hs]
  have hm : min 512 ((moveD f.desc).rowBytes - 512 * 0) = (moveD f.desc).rowBytes := by omega
  rw [hm, rowSegs_one _ h1, List.foldl_cons, List.foldl_nil]
  dsimp only
  have hr : moveRead c d f (moveD f.desc) 0 0 (moveD f.desc).rowBytes = (d, Memory.getN d.mem (key (8 + n) fr) (moveD f.desc).rowBytes) := by
    unfold moveRead; rw [hsrc, hbob]; dsimp only [Option.getD]
    unfold lsNote; rw [eccRead_plain _ _ _ _ _ he]; dsimp only
    unfold lsGet; rw [if_pos (by omega), peek_plain _ _ _ he]
    simp
  rw [hr]; dsimp only
  have hd : moveDest d f (moveD f.desc) 0 0 (Memory.getN d.mem (key (8 + n) fr) (moveD f.desc).rowBytes) = (key (8 + n) de, Memory.getN d.mem (key (8 + n) fr) (moveD f.desc).rowBytes) := by
    unfold moveDest; rw [hdst, hbob]; dsimp only [Option.getD]
    unfold lsPut
    rw [List.take_of_length_le (by rw [getN_length]; omega)]
    simp
  rw [hd, hop, hdone]
  rw [if_neg (by omega)]
  unfold putAt
  have hp : pageWrite d (key (8 + n) de, Memory.getN d.mem (key (8 + n) fr) (moveD f.desc).rowBytes) = [(key (8 + n) de, Memory.getN d.mem (key (8 + n) fr) (moveD f.desc).rowBytes)] := by
    unfold pageWrite
    have : (key (8 + n) de / 2 ^ 44 != 1) = true := by
      unfold key; simp; omega
    rw [this]; simp
  simp only [List.nil_append, List.isEmpty_cons, Bool.false_eq_true, if_false, List.flatMap_cons, List.flatMap_nil, hp, List.append_nil]
  rfl

end Sys2Proof.Machine
end

