-- ==== Sys2Proof/Laws/Staging.lean ====
section
/-!
SUPPORT. The ADAPT unit: what staging a batch may touch, and served DDR5 accesses.
-/
namespace Sys2Proof.Machine
set_option Elab.async false

/-- A fill in progress or a ready range means that the range is guarded. -/
theorem adaptGuard_kept (d : Dev) (h : (adaptGuard d).adapt.filling = true ∨ (adaptGuard d).adapt.ready = true) : adaptGuard d = d := by
  unfold adaptGuard at *; dsimp only at *
  split at h
  · simp at h
  · rename_i hc; rw [if_neg hc]

/-- Only health, DDR5 and the staging cursor differ. -/
def StagesOnly (d e : Dev) : Prop :=
  e = { d with health := e.health, ddr := e.ddr, adapt := e.adapt }
    ∧ e.adapt = { d.adapt with skipped := e.adapt.skipped, rSkip := e.adapt.rSkip, rList := e.adapt.rList, spos := e.adapt.spos }

theorem StagesOnly.refl (d : Dev) : StagesOnly d d := ⟨rfl, rfl⟩

theorem StagesOnly.trans {a b c : Dev} (h : StagesOnly a b) (g : StagesOnly b c) : StagesOnly a c := by
  obtain ⟨h1, h2⟩ := h
  obtain ⟨g1, g2⟩ := g
  refine ⟨by rw [g1, h1], by rw [g2, h2]⟩

theorem StagesOnly.ecc {d e : Dev} (h : StagesOnly d e) : e.ecc = d.ecc := by rw [h.1]

theorem ddrRead_stages (c : Units) (d : Dev) (w : Who) (ks : List Nat) (a n : Nat) (he : d.ecc = []) : StagesOnly d (ddrRead c d w ks a n).1 := by
  unfold ddrRead; split
  · exact StagesOnly.refl d
  · split
    · unfold ddrRefuse; dsimp only; rw [logAt_health]; exact ⟨rfl, rfl⟩
    · dsimp only; rw [eccRead_plain _ (ddrWake d) _ _ _ he]; exact ⟨rfl, rfl⟩

theorem peek_length (d : Dev) (k n : Nat) : (peek d k n).length = n := by
  unfold peek; split
  · generalize d.mem = m
    induction n generalizing m k with
    | zero => rfl
    | succ n ih => rw [Memory.getN]; split <;> simp [ih]
  · simp

theorem ddrPeek_length (d : Dev) (a n : Nat) : (ddrPeek d a n).length = n := by
  unfold ddrPeek; split
  · exact peek_length _ _ _
  · simp

theorem ddrRead_length (c : Units) (d : Dev) (w : Who) (ks : List Nat) (a n : Nat) : (ddrRead c d w ks a n).2.1.length = n := by
  unfold ddrRead; split
  · simp
  · split
    · simp
    · dsimp only; exact ddrPeek_length _ _ _

/-- A checked sample fits its slot. -/
theorem checkSample_stages (c : Units) (d : Dev) (i : Nat) (he : d.ecc = []) : StagesOnly d (checkSample c d i).1 ∧ (∀ x, (checkSample c d i).2 = .ok x → x.data.length ≤ cf d .aStage 0 0 28 16 * 1024) := by
  have h1 := ddrRead_stages c d (whoAdapt d) regsAdapt (com d .aSetBase 0 0 * 256 + 32 * i) 32 he
  obtain ⟨R, hR⟩ : ∃ R, R = ddrRead c d (whoAdapt d) regsAdapt (com d .aSetBase 0 0 * 256 + 32 * i) 32 := ⟨_, rfl⟩
  rw [← hR] at h1
  have hs : cf R.1 .aStage 0 0 28 16 = cf d .aStage 0 0 28 16 := by
    have : R.1.regs = d.regs := by rw [h1.1]
    unfold cf com comAt; rw [this]
  unfold checkSample; dsimp only
  rw [← hR]
  split
  · exact ⟨h1, fun x h => by cases h⟩
  · rename_i hc
    split
    · exact ⟨h1, fun x h => by cases h⟩
    · have h2 := ddrRead_stages c R.1 (whoAdapt d) regsAdapt (fld R.2.1 0 8) (fld R.2.1 8 4) (by rw [h1.ecc]; exact he)
      have h3 := ddrRead_length c R.1 (whoAdapt d) regsAdapt (fld R.2.1 0 8) (fld R.2.1 8 4)
      split
      · exact ⟨StagesOnly.trans h1 h2, fun x h => by cases h⟩
      · split
        · exact ⟨StagesOnly.trans h1 h2, fun x h => by cases h⟩
        · refine ⟨StagesOnly.trans h1 h2, fun x h => ?_⟩
          cases h
          dsimp only; rw [h3]
          rw [hs] at hc
          simp only [Bool.or_eq_true, decide_eq_true_eq, not_or, not_lt] at hc
          exact hc.2

theorem skipSample_stages (d : Dev) (i e : Nat) : StagesOnly d (skipSample d i e) := by
  unfold skipSample; dsimp only; rw [logAt_health]; exact ⟨rfl, rfl⟩

/-- Slots are filled with at most B samples that fit. -/
theorem fillSlots_stages (c : Units) (b n : Nat) (d : Dev) (got : List Sample) (he : d.ecc = []) (hg : got.length ≤ b) (hl : ∀ x ∈ got, x.data.length ≤ cf d .aStage 0 0 28 16 * 1024) :
    StagesOnly d (fillSlots c b n d got).1 ∧ (fillSlots c b n d got).2.length ≤ b ∧ ∀ x ∈ (fillSlots c b n d got).2, x.data.length ≤ cf d .aStage 0 0 28 16 * 1024 := by
  induction n generalizing d got with
  | zero => rw [fillSlots]; exact ⟨StagesOnly.refl d, hg, hl⟩
  | succ n ih =>
    rw [fillSlots]; split
    · exact ⟨StagesOnly.refl d, hg, hl⟩
    · rename_i hc
      simp only [Bool.or_eq_true, decide_eq_true_eq, not_or, not_le] at hc
      obtain ⟨h1, h2⟩ := checkSample_stages c d (d.adapt.perm.getD d.adapt.spos 0) he
      obtain ⟨R, hR⟩ : ∃ R, R = checkSample c d (d.adapt.perm.getD d.adapt.spos 0) := ⟨_, rfl⟩
      rw [← hR] at h1 h2 ⊢
      dsimp only
      have h3 : StagesOnly d { R.1 with adapt := { R.1.adapt with spos := R.1.adapt.spos + 1 } } := StagesOnly.trans h1 ⟨rfl, rfl⟩
      have hcf : ∀ e : Dev, StagesOnly d e → cf e .aStage 0 0 28 16 = cf d .aStage 0 0 28 16 := by
        intro e h
        have : e.regs = d.regs := by rw [h.1]
        unfold cf com comAt; rw [this]
      split
      · rename_i x hx
        obtain ⟨i1, i2, i3⟩ := ih { R.1 with adapt := { R.1.adapt with spos := R.1.adapt.spos + 1 } } (got ++ [x]) (by rw [h3.ecc]; exact he) (by simp; omega)
          (by
            intro y hy
            rw [hcf _ h3]
            rcases List.mem_append.mp hy with h | h
            · exact hl y h
            · rw [List.mem_singleton.mp h]; exact h2 x hx)
        refine ⟨StagesOnly.trans h3 i1, i2, fun y hy => ?_⟩
        have := i3 y hy
        rw [hcf _ h3] at this; exact this
      · rename_i e hx
        have h4 : StagesOnly d (skipSample { R.1 with adapt := { R.1.adapt with spos := R.1.adapt.spos + 1 } } (R.1.adapt.perm.getD R.1.adapt.spos 0) e) := StagesOnly.trans h3 (skipSample_stages _ _ _)
        obtain ⟨i1, i2, i3⟩ := ih (skipSample { R.1 with adapt := { R.1.adapt with spos := R.1.adapt.spos + 1 } } (R.1.adapt.perm.getD R.1.adapt.spos 0) e) got (by rw [h4.ecc]; exact he) hg
          (by intro y hy; rw [hcf _ h4]; exact hl y hy)
        refine ⟨StagesOnly.trans h4 i1, i2, fun y hy => ?_⟩
        have := i3 y hy
        rw [hcf _ h4] at this; exact this

/-- Stores within a range leave every byte outside it. -/
theorem foldl_store_within (c : Units) (w : Who) (l : List (Nat × Sample)) (d : Dev) (f : Nat → Nat) (lo hi : Nat) (he : d.ecc = [])
    (hb : ∀ y ∈ l, lo ≤ f y.1 ∧ f y.1 + y.2.data.length ≤ hi) :
    let e := l.foldl (fun d y => store c d w (f y.1) y.2.data) d
    e = { d with mem := e.mem } ∧ ∀ k, k < lo ∨ hi ≤ k → Memory.get e.mem k = Memory.get d.mem k := by
  induction l generalizing d with
  | nil => exact ⟨rfl, fun _ _ => rfl⟩
  | cons y t ih =>
    intro e
    have hs : ∃ m, store c d w (f y.1) y.2.data = { d with mem := m } ∧ ∀ k, k < lo ∨ hi ≤ k → Memory.get m k = Memory.get d.mem k := by
      by_cases hd : y.2.data = []
      · refine ⟨d.mem, ?_, fun _ _ => rfl⟩
        rw [hd]; unfold store; rfl
      · refine ⟨_, store_plain c d w _ _ he hd, fun k hk => ?_⟩
        rw [get_setAll, if_neg]
        have := hb y (by simp)
        omega
    obtain ⟨m, h1, h2⟩ := hs
    have hi' := ih { d with mem := m } he (fun z hz => hb z (by simp [hz]))
    dsimp only at hi'
    have : e = List.foldl (fun d y => store c d w (f y.1) y.2.data) { d with mem := m } t := by
      show List.foldl _ d (y :: t) = _
      rw [List.foldl_cons, h1]
    rw [this]
    exact ⟨by rw [hi'.1], fun k hk => (hi'.2 k hk).trans (h2 k hk)⟩

theorem leBytes4_length (l : List Word) : (l.flatMap (fun x => leBytes 4 x.toNat)).length = 4 * l.length := by
  induction l with
  | nil => rfl
  | cons x t ih => rw [List.flatMap_cons, List.length_append, ih, leBytes_length, List.length_cons]; omega

theorem slots_length (n : Nat) (f : Nat → List Byte) (h : ∀ i, (f i).length = 16) : ((List.range n).flatMap f).length = 16 * n := by
  rw [List.length_flatMap]
  have : (List.map (fun a => (f a).length) (List.range n)) = List.replicate n 16 := by
    apply List.ext_getElem
    · simp
    · intro i h1 h2; simp [h]
  rw [this]; simp; omega

theorem halfHead_length (d : Dev) (b : Batch) (e : Word) (fr : Bool) (i : Nat) (xs : List Sample) : (halfHead d b e fr i xs).length = 256 + 16 * batchSize d := by
  unfold halfHead; dsimp only
  simp only [List.length_append, leBytes_length, List.length_replicate, leBytes4_length]
  rw [slots_length]
  · unfold stepScalars; simp
  · intro s; split
    · simp [leBytes_length]
    · simp [leBytes_length]

theorem batchSize_le (d : Dev) : batchSize d ≤ 128 := by
  have : cf d .aCfg 0 0 14 8 < 128 := by unfold cf bitsOf; exact Nat.mod_lt _ (by decide)
  unfold batchSize; omega

/-- Writing a half leaves every byte outside it. -/
theorem half_within (c : Units) (d : Dev) (w : Who) (h : Nat) (head : List Byte) (xs : List Sample) (slot B : Nat) (he : d.ecc = []) (hh : head.length ≤ 4096) (hne : head ≠ [])
    (hB : xs.length ≤ B) (hs : halfSize d = 4096 + B * slot) (hl : ∀ x ∈ xs, x.data.length ≤ slot) :
    let e := (xs.mapIdx (fun s x => (s, x))).foldl (fun d y => store c d w (key 1 (h + 4096 + y.1 * slot)) y.2.data) (store c (zeroPages d h (halfSize d)) w (key 1 h) head)
    e = { d with mem := e.mem, ecc := [] } ∧ ∀ k, k < key 1 h ∨ key 1 h + halfSize d ≤ k → Memory.get e.mem k = Memory.get d.mem k := by
  intro e
  have hz : (zeroPages d h (halfSize d)).ecc = [] := by unfold zeroPages; dsimp only; rw [he]; rfl
  have h1 := store_plain c (zeroPages d h (halfSize d)) w (key 1 h) head hz hne
  have h2 := foldl_store_within c w (xs.mapIdx (fun s x => (s, x))) (store c (zeroPages d h (halfSize d)) w (key 1 h) head) (fun s => key 1 (h + 4096 + s * slot)) (key 1 h) (key 1 h + halfSize d)
    (by rw [h1]; exact hz) (by
      intro y hy
      rw [List.mem_mapIdx] at hy
      obtain ⟨i, hi, rfl⟩ := hy
      dsimp only
      have := hl xs[i] (List.getElem_mem hi)
      have h3 : (i + 1) * slot ≤ B * slot := Nat.mul_le_mul_right _ (by omega)
      have h4 : (i + 1) * slot = i * slot + slot := by ring
      rw [hs]
      unfold key
      omega)
  dsimp only at h2
  have he2 : e = List.foldl (fun d y => store c d w (key 1 (h + 4096 + y.1 * slot)) y.2.data) (store c (zeroPages d h (halfSize d)) w (key 1 h) head) (xs.mapIdx (fun s x => (s, x))) := rfl
  rw [← he2] at h2
  refine ⟨?_, fun k hk => ?_⟩
  · rw [h2.1, h1]
    have hz2 : zeroPages d h (halfSize d) = { d with mem := (zeroPages d h (halfSize d)).mem, ecc := [] } := by
      have : zeroPages d h (halfSize d) = { d with mem := (zeroPages d h (halfSize d)).mem, ecc := (zeroPages d h (halfSize d)).ecc } := rfl
      rw [hz] at this; exact this
    rw [hz2]
  · rw [h2.2 k hk, h1]
    dsimp only
    rw [get_setAll, if_neg (by omega)]
    unfold zeroPages; dsimp only
    rw [get_erase, if_neg (by omega)]

/-- What staging a batch leaves. -/
theorem stageBatch_takes (c : Units) (d : Dev) (he : d.ecc = []) (hsp : d.adapt.spos < setCount d) (hst : d.adapt.staged = none) :
    let u := stageBatch c d
    u = { d with mem := u.mem, health := u.health, ddr := u.ddr, adapt := u.adapt }
        ∧ u.adapt = { d.adapt with staged := u.adapt.staged, shown := u.adapt.shown, skipped := u.adapt.skipped, rSkip := u.adapt.rSkip, rList := u.adapt.rList
                                   spos := u.adapt.spos, tail := u.adapt.tail, batch := u.adapt.batch }
        ∧ (u.adapt.staged = none → u.mem = d.mem)
        ∧ (∀ b, u.adapt.staged = some b → b.apply = true ∧ 1 ≤ b.count ∧ b.count ≤ batchSize d ∧ b.spos = u.adapt.spos
            ∧ (b.last = true ↔ setCount d ≤ u.adapt.spos) ∧ u.adapt.batch = d.adapt.batch + 1
            ∧ (d.adapt.shown = none → b.step = sat 32 (d.adapt.step.toNat + 1) ∧ b.p1 = mul32 d.adapt.p1 (param d .aBeta1) ∧ b.p2 = mul32 d.adapt.p2 (param d .aBeta2))
            ∧ ∀ k, k < key 1 (halfAt d (!d.adapt.half)) ∨ key 1 (halfAt d (!d.adapt.half)) + halfSize d ≤ k → Memory.get u.mem k = Memory.get d.mem k) := by
  intro u
  obtain ⟨F, hF⟩ : ∃ F, F = fillSlots c (batchSize d) (setCount d) d [] := ⟨_, rfl⟩
  obtain ⟨f1, f2, f3⟩ := fillSlots_stages c (batchSize d) (setCount d) d [] he (by simp) (by simp)
  rw [← hF] at f1 f2 f3
  have hregs : F.1.regs = d.regs := by rw [f1.1]
  have hsc : setCount F.1 = setCount d := by unfold setCount cf com comAt; rw [hregs]
  have hbs : batchSize F.1 = batchSize d := by unfold batchSize cf com comAt; rw [hregs]
  have hsl : cf F.1 .aStage 0 0 28 16 = cf d .aStage 0 0 28 16 := by unfold cf com comAt; rw [hregs]
  have hhs : halfSize F.1 = halfSize d := by unfold halfSize; rw [hbs, hsl]
  have hpar : ∀ r, param F.1 r = param d r := by intro r; unfold param com comAt; rw [hregs]
  have hha : ∀ b, halfAt F.1 b = halfAt d b := by intro b; unfold halfAt stageBase; rw [hhs]; unfold cf com comAt; rw [hregs]
  have hst' : F.1.adapt.staged = none := by rw [f1.2]; exact hst
  have hsh : F.1.adapt.shown = d.adapt.shown := by rw [f1.2]
  have hmem : F.1.mem = d.mem := by rw [f1.1]
  have hbatch : F.1.adapt.batch = d.adapt.batch := by rw [f1.2]
  by_cases hemp : F.2.isEmpty = true
  · have hu : ∃ sh tl, u = { F.1 with adapt := { F.1.adapt with shown := sh, tail := tl } } := by
      show ∃ sh tl, stageBatch c d = _
      unfold stageBatch
      have hpre : (if (decide (setCount d ≤ d.adapt.spos) && decide (d.adapt.sIdx + 1 < d.adapt.epochs)) = true then nextEpoch d else d) = d := if_neg (by simp; omega)
      dsimp only
      simp only [hpre]
      rw [if_neg (by omega)]
      rw [← hF, if_pos hemp]
      split
      · rename_i s hs
        split
        · exact ⟨some { s with last := true }, F.1.adapt.tail, rfl⟩
        · exact ⟨F.1.adapt.shown, F.1.adapt.tail + 1, rfl⟩
      · exact ⟨F.1.adapt.shown, F.1.adapt.tail + 1, rfl⟩
    obtain ⟨sh, tl, hu⟩ := hu
    rw [hu]
    refine ⟨?_, ?_, fun _ => hmem, fun b hb => ?_⟩
    · rw [f1.1]
    · dsimp only; rw [f1.2]
    · have hb : F.1.adapt.staged = some b := hb
      rw [hst'] at hb; cases hb
  · have hFe : F.1.ecc = [] := by rw [f1.ecc]; exact he
    have hu : ∃ b head, head.length ≤ 4096 ∧ head ≠ [] ∧ b.apply = true ∧ b.count = F.2.length ∧ b.spos = F.1.adapt.spos ∧ b.last = decide (setCount F.1 ≤ F.1.adapt.spos)
        ∧ (d.adapt.shown = none → b.step = sat 32 (F.1.adapt.step.toNat + 1) ∧ b.p1 = mul32 F.1.adapt.p1 (param F.1 .aBeta1) ∧ b.p2 = mul32 F.1.adapt.p2 (param F.1 .aBeta2))
        ∧ ∀ E, E = (F.2.mapIdx (fun s x => (s, x))).foldl (fun d y => store c d (whoAdapt (zeroPages F.1 (halfAt F.1 (!F.1.adapt.half)) (halfSize F.1))) (key 1 (halfAt F.1 (!F.1.adapt.half) + 4096 + y.1 * (cf (store c (zeroPages F.1 (halfAt F.1 (!F.1.adapt.half)) (halfSize F.1)) (whoAdapt (zeroPages F.1 (halfAt F.1 (!F.1.adapt.half)) (halfSize F.1))) (key 1 (halfAt F.1 (!F.1.adapt.half))) head) .aStage 0 0 28 16 * 1024))) y.2.data)
            (store c (zeroPages F.1 (halfAt F.1 (!F.1.adapt.half)) (halfSize F.1)) (whoAdapt (zeroPages F.1 (halfAt F.1 (!F.1.adapt.half)) (halfSize F.1))) (key 1 (halfAt F.1 (!F.1.adapt.half))) head) →
          u = { E with adapt := { E.adapt with staged := some b, batch := F.1.adapt.batch + 1 } } := by
      show ∃ b head, _ ∧ _ ∧ _ ∧ _ ∧ _ ∧ _ ∧ _ ∧ ∀ E, _ → stageBatch c d = _
      unfold stageBatch
      have hpre : (if (decide (setCount d ≤ d.adapt.spos) && decide (d.adapt.sIdx + 1 < d.adapt.epochs)) = true then nextEpoch d else d) = d := if_neg (by simp; omega)
      dsimp only
      simp only [hpre]
      rw [if_neg (by omega)]
      rw [← hF, if_neg hemp]
      refine ⟨_, _, ?_, ?_, ?_, ?_, ?_, ?_, ?_, fun E hE => by subst hE; rfl⟩
      · rw [halfHead_length]
        have := batchSize_le (zeroPages F.1 (halfAt F.1 (!F.1.adapt.half)) (halfSize F.1))
        omega
      · intro h
        have := congrArg List.length h
        rw [halfHead_length] at this; simp at this
      · rfl
      · rfl
      · rfl
      · rfl
      · intro hs; rw [hsh, hs]; exact ⟨rfl, rfl, rfl⟩
    obtain ⟨b, head, hl, hne, b1, b2, b3, b4, b5, hu⟩ := hu
    have hu := hu _ rfl
    have hst2 : cf (store c (zeroPages F.1 (halfAt F.1 (!F.1.adapt.half)) (halfSize F.1)) (whoAdapt (zeroPages F.1 (halfAt F.1 (!F.1.adapt.half)) (halfSize F.1))) (key 1 (halfAt F.1 (!F.1.adapt.half))) head) .aStage 0 0 28 16 = cf d .aStage 0 0 28 16 := by
      rw [store_plain _ _ _ _ _ (by unfold zeroPages; dsimp only; rw [hFe]; rfl) hne]
      exact hsl
    rw [hst2] at hu
    have hbm := half_within c F.1 (whoAdapt (zeroPages F.1 (halfAt F.1 (!F.1.adapt.half)) (halfSize F.1))) (halfAt F.1 (!F.1.adapt.half)) head F.2 (cf d .aStage 0 0 28 16 * 1024) (batchSize d) hFe hl hne f2
      (by rw [hhs]; unfold halfSize; ring) f3
    dsimp only at hbm
    generalize (List.foldl _ _ _ : Dev) = E at hu hbm
    rw [hu]
    obtain ⟨m1, m2⟩ := hbm
    have hEa : E.adapt = F.1.adapt := by rw [m1]
    have hsp' : F.2.length ≠ 0 := by intro h; apply hemp; simp [List.length_eq_zero_iff.mp h]
    refine ⟨?_, ?_, fun h => (by cases h), fun b' hb' => ?_⟩
    · rw [m1, f1.1]; simp only [he]
    · dsimp only; rw [hEa, f1.2]
    · have hb' : some b = some b' := hb'
      cases hb'
      refine ⟨b1, by omega, by omega, ?_, ?_, ?_, fun hs => ?_, fun k hk => ?_⟩
      · dsimp only; rw [hEa]; exact b3
      · dsimp only; rw [b4, hsc, hEa]; simp
      · dsimp only; rw [hbatch]
      · obtain ⟨c1, c2, c3⟩ := b5 hs
        rw [hpar] at c2 c3
        have a1 : F.1.adapt.step = d.adapt.step := by rw [f1.2]
        have a2 : F.1.adapt.p1 = d.adapt.p1 := by rw [f1.2]
        have a3 : F.1.adapt.p2 = d.adapt.p2 := by rw [f1.2]
        rw [a1] at c1; rw [a2] at c2; rw [a3] at c3
        exact ⟨c1, c2, c3⟩
      · have hhf : F.1.adapt.half = d.adapt.half := by rw [f1.2]
        rw [hha, hhf, hhs] at m2
        dsimp only
        rw [m2 k hk, hmem]

/-- A read that DDR5 serves. -/
theorem ddrRead_in (c : Units) (d : Dev) (w : Who) (ks : List Nat) (a n : Nat) (h : d.ddr.state = .ready) (hr : inRegions d ks a n = true) (hk : covered d.ddr.known a n = true) (he : d.ecc = []) :
    ddrRead c d w ks a n = (ddrWake d, Memory.getN d.mem (key 7 a) n, false) := by
  unfold ddrRead
  rw [if_neg (by rw [h]; decide), if_neg (by rw [hr]; decide)]
  dsimp only
  rw [eccRead_plain _ (ddrWake d) _ _ _ he]; unfold ddrPeek; rw [if_pos hk, peek_plain _ _ _ he]

/-- A write that DDR5 serves. -/
theorem ddrWrite_in (c : Units) (d : Dev) (w : Who) (ks : List Nat) (a : Nat) (bs : List Byte) (h : d.ddr.state = .ready) (hr : inRegions d ks a bs.length = true) (hk : covered d.ddr.known a bs.length = true) (he : d.ecc = []) (hb : bs ≠ []) :
    ddrWrite c d w ks a bs = { ddrWake d with mem := Memory.setAll d.mem (key 7 a) bs } := by
  unfold ddrWrite
  rw [if_neg (by rw [h]; decide), if_neg (by rw [hr]; decide)]
  dsimp only
  rw [store_plain _ _ _ _ _ (by exact he) hb]; exact if_pos hk

theorem inRegions_congr (d e : Dev) (ks : List Nat) (a n : Nat) (h : e.regs = d.regs) : inRegions e ks a n = inRegions d ks a n := by
  have : region e = region d := by funext k; unfold region cf com comAt; rw [h]
  unfold inRegions; rw [this]

theorem ckptHead_length (d : Dev) (crc : Word) (a b : Bool) : (ckptHead d crc a b).length = 256 := by
  unfold ckptHead; simp only [List.length_append, leBytes_length, List.length_replicate]

theorem leNat_lt (b : List Byte) : leNat b < 256 ^ b.length := by
  induction b with
  | nil => simp [leNat]
  | cons x t ih =>
    have := x.isLt
    rw [leNat, List.length_cons, pow_succ]; omega

theorem fld_lt4 (b : List Byte) (a : Nat) : fld b a 4 < 2 ^ 32 := by
  unfold fld
  have h := leNat_lt ((b.drop a).take 4)
  have h2 : ((b.drop a).take 4).length ≤ 4 := by simp
  calc _ < 256 ^ ((b.drop a).take 4).length := h
    _ ≤ 256 ^ 4 := Nat.pow_le_pow_right (by decide) h2
    _ = 2 ^ 32 := by norm_num

end Sys2Proof.Machine
end

