-- ==== Sys2Proof/Laws/Units.lean ====
section
/-!
SUPPORT. The committed unit state table: reading, setting, requests, and what a boundary or a tick leaves alone.
-/
namespace Sys2Proof.Machine
set_option Elab.async false

/-- The entry of a unit other than SEQ is read straight from the table. -/
theorem ust_lt (tab : Units) (u : Nat) (h : u ≠ 31) : ust tab u = (tab[u]?).getD .disabled := by simp [ust, h]

/-- Setting an entry changes that unit and, SEQ apart, no other. -/
theorem ust_setUnit (c : Units) (u v : Nat) (x : UnitSt) (hu : u ≠ 31) :
   ust (setUnit c v x) u = if u = v ∧ u < 32 then x else ust c u := by
  simp only [ust_lt _ _ hu, setUnit]
  by_cases h : u = v
  · subst h
    by_cases h2 : u < 32
    · simp [h2]
    · simp [h2]
  · simp only [h, false_and, if_false]
    by_cases h2 : u < 32
    · rw [Vector.getElem?_setIfInBounds_ne (by omega)]
    · simp [h2]

/-- A fold keeps what each of its steps keeps. -/
theorem foldl_inv {α β : Type} (P : β → Prop) (f : β → α → β) (l : List α) (hf : ∀ b a, a ∈ l → P b → P (f b a)) (b : β) (hb : P b) : P (l.foldl f b) := by
  induction l generalizing b with
  | nil => exact hb
  | cons a l ih => exact ih (fun b a' h => hf b a' (List.mem_cons_of_mem _ h)) _ (hf b a (List.mem_cons_self) hb)

/-- The table after a boundary is the one offset 0 forms. -/
theorem boundary_committed (s : State) : (boundary s).committed = (boundaryUnits s.committed s.dev).1 := by
  unfold boundary boundaryZero; dsimp only

/-- A boundary leaves the queue alone. -/
theorem boundary_pending (s : State) : (boundary s).pending = s.pending := by
  unfold boundary; dsimp only

/-- A pending request commits by its row of R49 and is used up; without such a row it is only used up. -/
theorem commitReq_eq (c : Units) (d : Dev) (u : Nat) (r : UnitSt) (hr : reqOf d u = some r) :
    commitReq (c, d) u = (if requestRow u (ust c u) r then setUnit c u r else c, setReq d u none) := by
  unfold commitReq; dsimp only; rw [hr]; rfl

/-- A tick leaves the queue alone. -/
theorem tick_pending (s : State) : (tick s).pending = s.pending := by
  unfold tick; dsimp only
  split; rfl
  split
  · split <;> rfl
  · split
    · split
      · rw [boundary_pending]
      · rfl
    · rfl

end Sys2Proof.Machine
end

