-- ==== Sys2Proof/Tests/Slice0.lean ====
section
/-!
SUPPORT. The model's own tests: an ill-formed term for each check of WellFormed, for each statement a witness of its
hypotheses (theorems `wit_…`, with the clauses at the ends of their ranges), and figures that the spec works out.
-/
open Sys2Proof Sys2Proof.Machine
namespace Sys2Proof.Tests
set_option Elab.async false

/-! ### Small states -/

/-- A started device at dynamic address 0x08, session version 1.3, tick running, no unit enabled. -/
def dev0 : Dev :=
  { State.reset.dev with
    pwr := { powered := true, booted := true }
    clk := { ticking := true, pllLock := true }
    i3c := { da := 0x08, minor := 3, hello := true } }

/-- The unit table with the listed entries. -/
def units (l : List (Nat × UnitSt)) : Units := l.foldl (fun c e => c.setIfInBounds e.1 e.2) (Vector.replicate 32 .disabled)

/-- A state with the listed unit states. -/
def st (l : List (Nat × UnitSt)) (d : Dev) : State := { pending := [], committed := units l, dev := d }

/-- A private write to the device. -/
def hw (op : Nat) (bytes : List Byte) : HostWrite := ⟨0x08, none, okPkt op 0x0042 bytes⟩

/-- Bus side of a register row. -/
def bus : Bus := ⟨0x08, none, 0x0042⟩

/-- A device with committed register words. -/
def regs (l : List (Nat × Word)) (d : Dev) : Dev := { d with regs := l }

/-- Bytes of one header of CSI-2 facts. -/
def rx (x : Fin 4) (v : Fin 16) : RxHdr := ⟨x, v, false, false, 0⟩

/-! ### Well-formed commands -/

theorem test_wf_host : (Instr.hello (hw 1 [1, 3, 0, 0])).wellFormed = true := by decide +kernel
theorem test_wf_packet_too_long : (Instr.hello ⟨8, none, ⟨0, 0, 0, List.replicate 65536 0, 0⟩⟩).wellFormed = false := by decide +kernel
theorem test_wf_inband_too_long : (Instr.jobEnd (rx 0 0) ⟨0, 0, 0, List.replicate 65536 0, 0⟩).wellFormed = false := by decide +kernel
theorem test_wf_no_address : (Instr.entdaa 0).wellFormed = false := by decide
theorem test_wf_static_no_address : (Instr.setdasa 0x2C 0).wellFormed = false := by decide
theorem test_wf_eleven_sensors : (Instr.sensorSample (List.replicate 11 0)).wellFormed = false := by decide
theorem test_wf_selector_size : (Instr.bootComplete ⟨[], [], [], []⟩ 0).wellFormed = false := by decide
theorem test_wf_bank_size : (Instr.standbyCheckDone (List.replicate 2097153 0)).wellFormed = false := by
  show decide ((List.replicate 2097153 (0 : Byte)).length ≤ 2097152) = false
  rw [List.length_replicate]; decide
theorem test_wf_data_type : (Instr.pixelLine (rx 0 0) 0x31 []).wellFormed = false := by decide
theorem test_wf_long_packet : (Instr.bulkLoad (rx 0 0) (List.replicate 65536 0)).wellFormed = false := by decide +kernel
theorem test_wf_word_index : (Instr.matmul 0 262144).wellFormed = false := by decide
theorem test_wf_desc_index : (Instr.decode 0 0 65536).wellFormed = false := by decide
theorem test_wf_known_opcode : (Instr.unknownOpcode 8 none ([0x01, 0x00] ++ List.replicate 10 0)).wellFormed = false := by decide
theorem test_wf_known_inband : (Instr.packetDiscarded (rx 0 0) (.inband ([0x22, 0x00] ++ List.replicate 10 0))).wellFormed = false := by decide
theorem test_wf_training_step : (Instr.ddrTrainingEnd (some 8) 0).wellFormed = false := by decide

/-! ### The queue, the units and the boundary -/

theorem wit_front : (({ State.reset with pending := [.late, .rstdaa] } : State)).pending = .late :: [.rstdaa] := rfl
theorem wit_idle : State.reset.pending = [] ∧ State.reset.dev.pwr.powered = false := ⟨rfl, rfl⟩
theorem wit_legal_step : LegalUnits State.reset.committed ∧ ∃ t, step State.reset = .next t :=
  ⟨by unfold LegalUnits; decide +kernel, _, rfl⟩
theorem wit_canonical_step : Memory.wf State.reset.dev.mem = true ∧ ∃ t, step State.reset = .next t := ⟨rfl, _, rfl⟩
theorem wit_exec : ∃ t, exec .rstdaa State.reset = .next t := ⟨_, rfl⟩
theorem wit_request :
    reqOf (setReq dev0 0 (some .idle)) 0 = some .idle ∧ requestRow 0 (ust (units []) 0) .idle = true
      ∧ reqOf (setReq dev0 30 (some .failed)) 30 = some .failed ∧ requestRow 30 (ust (units []) 30) .failed = false := by decide +kernel
/-- Two shadows: the control registers of Tambours 0 and 1. -/
def twoShadows : Dev := { dev0 with shadow := [(addrOf .tCtrl 0 0, 1), (addrOf .tCtrl 1 0, 1)] }
theorem wit_shadows : (twoShadows.shadow.map (·.1)).Nodup ∧ ∀ e ∈ twoShadows.shadow, e.1 % 4 = 0 ∧ ∃ r, regAt e.1 = some r := by
  refine ⟨by decide +kernel, ?_⟩
  have h : twoShadows.shadow.all (fun e => e.1 % 4 == 0 && (regAt e.1).isSome) = true := by decide +kernel
  intro e he
  have := List.all_eq_true.mp h e he
  simp only [Bool.and_eq_true, beq_iff_eq, Option.isSome_iff_exists] at this
  exact this
theorem wit_boundary : (st [] dev0).dev.clk.ticking = true ∧ State.reset.dev.clk.ticking = false := ⟨rfl, rfl⟩

/-! ### Packets and replies -/

theorem wit_untaken : ∃ r ok w, hostPacket (.hello w) = some (r, ok, w) ∧ reaches (st [] dev0).dev w.da w.hdr = false :=
  ⟨_, _, { hw 1 [1, 3, 0, 0] with da := 0x09 }, rfl, by decide +kernel⟩
/-- A HELLO packet with a part of it changed. -/
def bad (f : Pkt → Pkt) : HostWrite := let w := hw 1 [1, 3, 0, 0]; { w with pkt := f w.pkt }
theorem wit_refused :
    reaches dev0 0x08 none = true
      ∧ packetStatus (heard dev0) rowHello (fun _ b => zeroAt b 2 2) (bad (fun k => { k with len := 5 })).pkt = some stLength
      ∧ packetStatus (heard dev0) rowHello (fun _ b => zeroAt b 2 2) (bad (fun k => { k with crc := k.crc + 1 })).pkt = some stCrc
      ∧ packetStatus (heard dev0) rowHello (fun _ b => zeroAt b 2 2) (hw 1 [1, 3, 1, 0]).pkt = some stValue
      ∧ packetStatus (heard dev0) rowHello (fun _ b => zeroAt b 2 2) (hw 1 [1, 3, 0, 0, 0, 0, 0, 0]).pkt = some stLength := by decide +kernel
theorem wit_checks :
    let w := hw 0x50 [1, 0, 0, 0]
    let old : Dev := { dev0 with i3c := { dev0.i3c with minor := 0 } }
    packetStatus old rowAdapt adaptBody w.pkt = some stOpcode ∧ packetStatus dev0 rowAdapt adaptBody w.pkt = none
      ∧ packetStatus { dev0 with pwr := { dev0.pwr with state := .sleep } } rowStart partBody (hw 0x13 [0, 0, 0, 0]).pkt = some stOffline := by
  decide +kernel
theorem wit_hello :
    taken dev0 rowHello (fun _ b => zeroAt b 2 2) (hw 1 [1, 2, 0, 0]) ∧ taken dev0 rowHello (fun _ b => zeroAt b 2 2) (hw 1 [2, 0, 0, 0])
      ∧ taken dev0 rowHello (fun _ b => zeroAt b 2 2) (hw 1 [0, 0, 0, 0])
      ∧ fld (hw 1 [1, 2, 0, 0]).pkt.payload 0 1 = 1 ∧ fld (hw 1 [2, 0, 0, 0]).pkt.payload 0 1 = 2 ∧ fld (hw 1 [0, 0, 0, 0]).pkt.payload 0 1 = 0 := by
  unfold taken; decide +kernel

/-! ### Register writes -/

/-- A REG_WRITE packet. -/
def wr (a v : Nat) : HostWrite := hw 3 (leBytes 4 a ++ leBytes 4 v)

/-- A register with its first index. -/
def reg (r : Reg) (i : Nat) : RegAt := ⟨rowOf r, i, 0⟩

theorem wit_shadowed_write :
    let w := wr (addrOf .tPeriod 3 0) 30000
    taken dev0 rowRegWrite writeBody w ∧ fld w.pkt.payload 0 4 < 0x100000
      ∧ regAt (addrOf .tPeriod 3 0) = some (reg .tPeriod 3) ∧ (rowOf .tPeriod).fields.any FieldDef.shadowed = true
      ∧ reservedWrite (atRegs dev0) (reg .tPeriod 3) 30000 = false ∧ conflictWrite (units []) (atRegs dev0) (reg .tPeriod 3) (addrOf .tPeriod 3 0) 30000 = false := by
  unfold taken; decide +kernel
/-- Registers of one word each that a write stores at once, and registers with bits that a 1 clears. -/
theorem wit_plain_write :
    let ok := fun (d : Dev) (r : Reg) (i : Nat) => packetStatus (heard d) rowRegWrite writeBody (wr (addrOf r i 0) 1).pkt = none
      ∧ reaches d 0x08 none = true ∧ fld (wr (addrOf r i 0) 1).pkt.payload 0 4 / 4 * 4 = addrOf r i 0 ∧ addrOf r i 0 < 0x100000
    ok dev0 .winBase 3 ∧ ok dev0 .tCoefIndex 3 ∧ ok dev0 .kCtxSel 0 ∧ ok dev0 .tStatus 3 ∧ ok dev0 .clkStatus 0 ∧ ok dev0 .oStatus 1 ∧ ok dev0 .summary 0
      ∧ fld (wr (addrOf .tPgRam 3 2047) 1).pkt.payload 0 4 / 4 * 4 = addrOf .tPgRam 3 2047 ∧ addrOf .tPgRam 3 2047 < 0x100000
      ∧ (tambOf (atRegs dev0) 3).active ≠ 2 ∧ (tambOf (setTamb dev0 3 (fun m => { m with active := 2 })) 3).active = 2 := by decide +kernel
/-- A TICKS below 200 is a reserved encoding. Check 5 comes before check 6: so also in SLEEP. -/
theorem wit_reserved_write :
    let w := wr (addrOf .tPeriod 0 0) 199
    reaches dev0 w.da w.hdr = true ∧ pktLenOk w.pkt = true ∧ pktCrcOk 0x0003 w.pkt = true ∧ w.pkt.payload.length = 8 ∧ w.pkt.rsvd = 0
      ∧ regAt (addrOf .tPeriod 0 0) = some (reg .tPeriod 0) ∧ reservedWrite (heard dev0) (reg .tPeriod 0) 199 = true
      ∧ reservedWrite (heard dev0) (reg .tPeriod 0) 30000 = false
      ∧ (let asleep : Dev := { dev0 with pwr := { dev0.pwr with state := .sleep } }
        reaches asleep w.da w.hdr = true ∧ served asleep rowRegWrite = false) := by decide +kernel
/-- R47: a partition's extent that meets another's is a conflict. -/
theorem wit_conflict_write :
    let d := regs [(addrOf .partCfg 1 0, 0x21)] dev0
    let w := wr (addrOf .partCfg 0 0) 0x20
    taken d rowRegWrite writeBody w ∧ regAt (addrOf .partCfg 0 0) = some (reg .partCfg 0)
      ∧ pktLenOk w.pkt = true ∧ pktCrcOk 0x0003 w.pkt = true ∧ w.pkt.payload.length = 8 ∧ w.pkt.rsvd = 0
      ∧ served d rowRegWrite = true ∧ reservedWrite (heard d) (reg .partCfg 0) 0x20 = false
      ∧ conflictWrite (units []) (atRegs d) (reg .partCfg 0) (addrOf .partCfg 0 0) 0x20 = true := by
  unfold taken; decide +kernel
theorem wit_lock :
    lockUnit (reg .tLineCfg 0) = some 0x10 ∧ (⟨14, 0, .rwl, 16384⟩ : FieldDef) ∈ (rowOf .tLineCfg).fields
      ∧ bitsOf 4096 14 0 ≠ bitsOf (comAt dev0 (reg .tLineCfg 0) (addrOf .tLineCfg 0 0)) 14 0
      ∧ unitOn (units [(0x10, .run)]) 0x10 = true ∧ unitOn (units []) 0x10 = false := by decide +kernel
theorem wit_enable :
    writeTaken (units []) dev0 bus (addrOf .dCtrl 0 0) 1 (reg .dCtrl 0)
      ∧ writeTaken (units [(0x13, .run)]) dev0 bus (addrOf .tCtrl 3 0) 0 (reg .tCtrl 3) := by
  unfold writeTaken busTaken; decide +kernel
theorem wit_offline :
    writeTaken (units []) dev0 bus (addrOf .bCtrl 7 0) 0x120 (reg .bCtrl 7) ∧ ust (units []) 15 = .disabled
      ∧ writeTaken (units [(15, .offline)]) dev0 bus (addrOf .bCtrl 7 0) 0x60 (reg .bCtrl 7) ∧ ust (units [(15, .offline)]) 15 = .offline
      ∧ writeTaken (units [(8, .failed)]) dev0 bus (addrOf .bCtrl 0 0) 0x40 (reg .bCtrl 0) := by
  unfold writeTaken busTaken; decide +kernel

/-! ### Counters, reads, ports and windows -/

theorem wit_bus : busTaken dev0 bus rowRegWrite ∧ busTaken dev0 bus rowRegRead ∧ dev0.pwr.state ≠ .sleep := by
  unfold busTaken; decide +kernel
/-- A sleeping device. -/
def asleep : Dev := { dev0 with pwr := { dev0.pwr with state := .sleep, frozen := List.replicate 68 0 } }
/-- A REG_READ packet. -/
def rd (a flags : Nat) : HostWrite := hw 2 (leBytes 4 a ++ leBytes 4 flags)
theorem wit_read :
    taken dev0 rowRegRead readBody (rd (addrOf .period 0 0) 1) ∧ sleepReach dev0 (addrOf .period 0 0) 1 = true
      ∧ regAt (addrOf .period 0 0) = some (reg .period 0) ∧ (rowOf .period).fields.all FieldDef.stored = true
      ∧ (rowOf .period).reg ∉ [Reg.bCtrl, .tCoefData, .tPgRam]
      ∧ taken dev0 rowRegRead readBody (rd 0xFFFFC 0) ∧ regAt 0xFFFFC = none
      ∧ taken asleep rowRegRead readBody (rd 0x10000 0) ∧ sleepReach asleep 0x10000 1 = false
      ∧ sleepReach asleep 0xAFFFC 1 = true
      ∧ taken dev0 rowRegRead readBody (rd (addrOf .unitState 31 0) 0) ∧ sleepReach dev0 (addrOf .unitState 31 0) 1 = true
      ∧ fld (rd (addrOf .unitState 31 0) 0).pkt.payload 0 4 / 4 * 4 = addrOf .unitState 31 0 ∧ addrOf .pool 0 0 < 0x100000 := by
  unfold taken; decide +kernel
theorem wit_block :
    let w := hw 4 [0, 0, 1, 0, 0, 1, 1, 0]
    taken dev0 rowReadBlock blockBody w ∧ fld w.pkt.payload 4 2 = 256 ∧ sleepReach dev0 0x10000 256 = true
      ∧ fld w.pkt.payload 6 1 = 1 ∧ dev0.ecc = [] ∧ fld w.pkt.payload 0 4 / 4 * 4 + 4 * 256 ≤ 0x100000
      ∧ (let w := hw 4 (leBytes 4 (winAddr 3 0x3FFFC) ++ [1, 0, 0, 0]); taken dev0 rowReadBlock blockBody w ∧ sleepReach dev0 (winAddr 3 0x3FFFC) 1 = true) := by
  unfold taken; decide +kernel
/-- Index 24,575, the last, of the inactive bank. -/
def atEnd : Dev := regs [(addrOf .tCoefIndex 0 0, 32768 + 24575)] dev0
theorem wit_ports : busTaken atEnd bus rowRegRead ∧ writeTaken (units []) atEnd bus (addrOf .tCoefData 0 0) 7 (reg .tCoefData 0)
    ∧ coefSel (atRegs atEnd) 0 = (1, 24575) ∧ dev0.clk.was = [] ∧ ({ dev0.clk with was := [4] }.was[0]?) = some 4 := by
  unfold writeTaken busTaken; decide +kernel
/-- Window 0 on a target at an offset of 256 KiB units. -/
def win (target off : Nat) : Dev := regs [(addrOf .winBase 0 0, BitVec.ofNat 32 (target * 2 ^ 28 + off))] dev0
theorem wit_window_write :
    busTaken (win 7 0) bus rowRegWrite ∧ winAt (heard (win 7 0)) (winAddr 0 0) = (7, 0)
      ∧ winAt (heard (win 0 0)) (winAddr 0 0) = (0, 0) ∧ winAt (heard (win 8 80)) (winAddr 0 0) = (8, 20971520) ∧ winSize dev0 8 ≤ 20971520
      ∧ winAt (heard (win 2 255)) (winAddr 0 0x3F000) = (2, 0x03FFF000) ∧ kvHole 2 0x03FFF000 = true ∧ kvHole 2 0x03FFEFFC = false
      ∧ winAt (heard (win 8 79)) (winAddr 0 0x3FFFC) = (8, 20971516) ∧ 20971516 < winSize dev0 8
      ∧ ownerOff (units [(8, .run)]) 8 = false ∧ ownerOff (units []) 8 = true ∧ dev0.ecc = [] := by
  unfold busTaken; decide +kernel
theorem wit_window_read :
    busTaken (win 3 0) bus rowRegRead ∧ winAt (atRegs (win 3 0)) (winAddr 0 0) = (3, 0) ∧ openWord (atRegs (win 3 0)) 3 0 = false ∧ kvHole 3 0 = false
      ∧ winAt (atRegs (win 7 0)) (winAddr 0 0) = (7, 0) ∧ 0 < winSize (atRegs (win 7 0)) 7 ∧ (win 7 0).ddr.state ≠ .ready
      ∧ { (win 7 0).ddr with state := .ready }.state = DdrSt.ready ∧ Machine.covered [(0, 1048576)] 1048572 4 = true ∧ Machine.covered [] 0 4 = false := by
  unfold busTaken; decide +kernel
theorem wit_time_load :
    writeTaken (units []) dev0 bus (addrOf .timeCtrl 0 0) 1 (reg .timeCtrl 0) ∧ cf dev0 .timeCtrl 0 0 0 0 = 0
      ∧ cf (regs [(addrOf .timeCtrl 0 0, 1)] dev0) .timeCtrl 0 0 0 0 = 1 ∧ dev0.clk.phase = 0 := by
  unfold writeTaken busTaken; decide +kernel
theorem wit_unit_reset :
    resettable 7 = false ∧ resettable 8 = true ∧ resettable 0x1D = true ∧ resettable 0x1E = false
      ∧ unitResetOk (units [(8, .run)]) (atRegs dev0) 8 = false ∧ unitResetOk (units []) (atRegs dev0) 8 = true
      ∧ bistOk (units [(8, .run)]) (atRegs dev0) 0 = false ∧ bistOk (units [(15, .failed)]) (atRegs dev0) 7 = true := by decide +kernel
/-- A unit reset of unit u in progress. -/
def resetting (u : BitVec 5) : Dev := { dev0 with pwr := { dev0.pwr with urBusy := true, urUnit := u } }
theorem wit_unit_reset_ends : alive (resetting 15) = true ∧ (resetting 15).pwr.urBusy = true ∧ (resetting 15).pwr.urUnit.toNat = 8 + 7
    ∧ (resetting 0x1A).pwr.urUnit.toNat = 0x1A ∧ (resetting 0x1B).pwr.urUnit.toNat = 0x1B ∧ (resetting 0x1D).pwr.urUnit.toNat = 0x1D
    ∧ (resetting 0x10).pwr.urUnit.toNat = 0x10 + 0 ∧ (resetting 0x17).pwr.urUnit.toNat = 0x14 + 3 ∧ (resetting 0x19).pwr.urUnit.toNat = 0x18 + 1
    ∧ (resetting 0x1C).pwr.urUnit.toNat = 0x1C := by
  decide +kernel
/-- Bobbin 0 under self-test. -/
def testing : Dev := setBob dev0 0 (fun b => { b with bistBusy := true })
theorem wit_self_test : alive testing = true ∧ (bobOf testing 0).bistBusy = true ∧ ust (units [(8, .failed)]) 8 = .failed
    ∧ ust (units []) 8 = .disabled := by decide +kernel
/-- A tripped latch, and a first hot sample of sensor 11. -/
def tripped : Dev := { dev0 with health := { dev0.health with trip := true } }
def hotOnce : Dev := { dev0 with health := { dev0.health with sensors := dev0.health.sensors.set 11 { hot := true } } }
theorem wit_trip : alive tripped = true ∧ tripped.health.sampleDue ≤ tripped.clk.mono ∧ tripped.health.trip = true ∧ hotOnce.health.trip = false ∧ (hotOnce.health.sensors[11]).hot = true
    ∧ ((1840 : BitVec 16).slt 1840 = false) ∧ busTaken tripped bus rowRegWrite
    ∧ (passCycles (units []) hotOnce (hotOnce.health.sampleDue - hotOnce.clk.mono)).isSome = true
    ∧ passCycles (units []) { hotOnce with clk := { dev0.clk with offset := 4194303 } } 11000 = none ∧ hotOnce.pwr.booted = true
    ∧ ((1839 : BitVec 16).slt 1840 = true) ∧ ((0x8000 : BitVec 16).slt 1840 = true) := by unfold busTaken; decide +kernel

/-! ### Images -/

/-- An operation word (R60): ISSUE, CLASS, TARGET, OP, DURATION, OPERANDS. -/
def word (issue cls target op dur oper : Nat) : Nat :=
  issue * 2 ^ 104 + cls * 2 ^ 100 + target * 2 ^ 96 + op * 2 ^ 88 + dur * 2 ^ 56 + oper

/-- Pad to a multiple of 16 bytes. -/
def pad16 (b : List Byte) : List Byte := b ++ List.replicate ((16 - b.length % 16) % 16) 0

/-- An image of format version 1.2 for one logical Bobbin (R53, R55), with its CRC and sections: TYPE, entry size, bytes. -/
def image (crc : Nat) (secs : List (Nat × Nat × List Byte)) : List Byte :=
  let start := fun (i : Nat) => 128 + 16 * secs.length + ((secs.take i).map (fun s => (pad16 s.2.2).length)).sum
  let row := fun (i : Nat) (s : Nat × Nat × List Byte) =>
    leBytes 2 s.1 ++ leBytes 2 s.2.1 ++ leBytes 4 (start i) ++ leBytes 4 s.2.2.length ++ leBytes 4 (s.2.2.length / s.2.1)
  let ops := (secs.filter (fun s => s.1 == 1)).flatMap (fun s => s.2.2)
  leBytes 4 0x4B435250 ++ leBytes 2 2 ++ leBytes 2 1 ++ leBytes 4 (start secs.length) ++ leBytes 4 crc ++ leBytes 4 4194304 ++ leBytes 2 1
    ++ leBytes 2 secs.length ++ leBytes 4 128 ++ leBytes 4 (ops.length / 16) ++ List.replicate 96 0
    ++ (secs.mapIdx row).flatten ++ secs.flatMap (fun s => pad16 s.2.2)

/-- Sections of operation words, and of bindings to port and channel. -/
def ops (l : List Nat) : Nat × Nat × List Byte := (1, 16, l.flatMap (leBytes 16))
def binds (ty : Nat) (l : List (Nat × Nat)) : Nat × Nat × List Byte := (ty, 8, l.flatMap (fun e => leBytes 1 e.1 ++ leBytes 1 e.2 ++ leBytes 6 0))

/-- The image of one NOP, bound to receive port A channel 0 and transmit port E channel 0. -/
def nopImage : List Byte := image 0x1B3C3B8D [ops [word 256 0 15 0 0 0], binds 4 [(0, 0)], binds 5 [(0, 0)]]

/-- Partition 0, of Bobbin 0, with an image at the start of the Pricking store. -/
def loaded (img : List Byte) (d : Dev) : Dev :=
  { setPart d 0 (fun p => { p with base := 0, size := cdiv img.length 256, bytes := img.length }) with
    mem := Memory.setAll d.mem (key 5 0) img, regs := (addrOf .partCfg 0 0, 0x10) :: d.regs }

/-- The bytes that the CRC of the image covers, and 40 of them. -/
def covered : List Byte := nopImage.take 12 ++ [0, 0, 0, 0] ++ nopImage.drop 16
def piece (i : Nat) : List Byte := (covered.drop (40 * i)).take 40
theorem crc_0 : crcFrom 0xFFFFFFFF (piece 0) = 0xBA9422C1 := by decide +kernel
theorem crc_1 : crcFrom 0xBA9422C1 (piece 1) = 0x11808BF3 := by decide +kernel
theorem crc_2 : crcFrom 0x11808BF3 (piece 2) = 0xDD08D66D := by decide +kernel
theorem crc_3 : crcFrom 0xDD08D66D (piece 3) = 0x6FE99CA7 := by decide +kernel
theorem crc_4 : crcFrom 0x6FE99CA7 (piece 4) = 0x7D97FAF5 := by decide +kernel
theorem crc_5 : crcFrom 0x7D97FAF5 (piece 5) = 0xE4C3C472 := by decide +kernel
theorem crc_nop : crcImage nopImage = 0x1B3C3B8D := by
  have h : covered = piece 0 ++ (piece 1 ++ (piece 2 ++ (piece 3 ++ (piece 4 ++ piece 5)))) := by decide +kernel
  have a : ∀ (c : Word) (x y : List Byte), crcFrom c (x ++ y) = crcFrom (crcFrom c x) y := fun _ _ _ => List.foldl_append
  show ~~~ crcFrom 0xFFFFFFFF covered = 0x1B3C3B8D
  rw [h, a, crc_0, a, crc_1, a, crc_2, a, crc_3, a, crc_4, crc_5]
  decide
/-- R65's image checks pass for the image of one NOP. -/
theorem test_image_passes : imageCheck nopImage = 0 := by
  unfold imageCheck; rw [crc_nop]; decide +kernel

/-! ### Host commands -/

/-- Partition 0 loaded with the NOP image; its units as listed. -/
def ready (l : List (Nat × UnitSt)) : State := st ([(0x14, .run), (0x18, .run), (0x1C, .run)] ++ l) (loaded nopImage dev0)
theorem nop_stored : imgOf (loaded nopImage dev0) 0 = nopImage := by decide +kernel
theorem wit_start :
    taken (ready [(0, .idle)]).dev rowStart partBody (hw 0x13 [0, 0, 0, 0]) ∧ ust (ready [(0, .idle)]).committed 0 = .idle
      ∧ (ready []).dev.health.trip = false ∧ runBlocked (heard (ready []).dev) = false ∧ hasImage (heard (ready []).dev) 0 = true
      ∧ ust (ready []).committed 0 = .disabled := by
  unfold taken; decide +kernel
theorem wit_start_checks :
    bindCheck (heard (loaded nopImage dev0)) (viewNext (ready [(0, .idle)]).committed (heard (loaded nopImage dev0)) 0) (imgOf (heard (loaded nopImage dev0)) 0) 0 = 0
      ∧ bindCheck (heard (loaded nopImage dev0)) (viewNext (units [(0, .idle)]) (heard (loaded nopImage dev0)) 0) (imgOf (heard (loaded nopImage dev0)) 0) 0 = 0x26 := by
  have h : imgOf (heard (loaded nopImage dev0)) 0 = nopImage := by decide +kernel
  rw [h]; decide +kernel
theorem wit_halt :
    taken dev0 rowHalt partBody (hw 0x14 [7, 0, 0, 0]) ∧ ust (units [(7, .run)]) 7 = .run ∧ ust (units [(7, .halted)]) 7 = .halted := by
  unfold taken; decide +kernel
theorem wit_partition_set :
    taken dev0 rowPartSet setBody (hw 0x12 [0, 7, 1, 0])
      ∧ conflictWrite (units []) (atRegs dev0) (reg .partCfg 0) (addrOf .partCfg 0 0) 0x17 = false
      ∧ (let w := hw 0x12 [0, 7, 2, 0]; reaches dev0 w.da w.hdr = true ∧ pktLenOk w.pkt = true ∧ pktCrcOk 0x0012 w.pkt = true
        ∧ w.pkt.payload.length = 4 ∧ w.pkt.rsvd = 0 ∧ 8 < fld w.pkt.payload 1 1 + fld w.pkt.payload 2 1)
      ∧ conflictWrite (units [(0, .run)]) (atRegs dev0) (reg .partCfg 0) (addrOf .partCfg 0 0) 0x17 = true
      ∧ conflictWrite (units [(0, .halted)]) (atRegs dev0) (reg .partCfg 0) (addrOf .partCfg 0 0) 0 = false := by
  unfold taken; decide +kernel
/-- Port A, channel 0, INBAND. -/
def inbandDev : Dev := let d := loaded nopImage dev0; { d with regs := (addrOf .vcCfg 0 0, 0x80004000) :: d.regs }
/-- The JOB_BEGIN payload of job 7: pixel data of 2 rows. -/
def begin7 : List Byte := [7, 0, 0, 0, 0, 0, 0, 0, 0, 0, 0, 0, 2, 0, 0, 0]
theorem wit_submit : taken inbandDev rowSubmit submitBody (hw 0x20 ([0, 0, 0, 0] ++ begin7)) ∧ SubmitOk (units [(0, .run)]) (heard inbandDev) 0 0 true 7
    ∧ ¬ SubmitOk (units [(0, .run)]) (heard dev0) 0 0 true 7 := by
  refine ⟨by unfold taken; decide +kernel, ⟨0, by decide +kernel, by decide +kernel, by decide +kernel, fun _ => by decide +kernel, fun h => by cases h⟩, ?_⟩
  rintro ⟨p, h, -⟩
  have : binder (heard dev0) 0 0 = none := by decide +kernel
  rw [this] at h; cases h
/-- A device that holds job 7 of partition 0, open on port A, channel 0. -/
def job7 : Job := { id := 5, part := 0, port := 0, vc := 0, seq := 7, width := 8, height := 2, rowBytes := 16, bpp := 2, pages := [0] }
def holding (d : Dev) : Dev := setVc { d with jobs := [job7], nextJob := 6 } 0 0 (fun v => { v with job := some 5 })
theorem wit_cancel :
    taken (holding dev0) rowCancel partBody (hw 0x21 [0, 0, 0, 0, 7, 0, 0, 0]) ∧ heldJob (heard (holding dev0)) 0 7 ≠ none
      ∧ heldJob (heard dev0) 0 7 = none := by unfold taken; decide +kernel

/-- DDR5 READY with a STAGE region of 16 MiB at the start. -/
def ddr : Dev := { dev0 with ddr := { dev0.ddr with state := .ready }, regs := [(addrOf .dRegSize 4 0, 16)] }
/-- A load payload: TARGET, FLAGS, TOTAL, OFFSET and bytes. -/
def ld (target flags total offset : Nat) (bs : List Byte) : List Byte := leBytes 1 target ++ leBytes 3 flags ++ leBytes 4 total ++ leBytes 8 offset ++ bs
/-- A transfer of TABLE_LOAD in progress, 4 of 300 bytes gathered. -/
def loading : Dev := { ddr with xfer := some { opcode := 0x0030, target := 0, total := 300, got := 4, rom := false } }
theorem wit_fragment :
    taken loading rowTableLoad (loadBody 0 256 7340032) (hw 0x30 (ld 0 0 300 4 [1, 2, 3, 4])) ∧ ldFirst (ld 0 0 300 4 []) = false
      ∧ ldLast (ld 0 0 300 4 []) = false ∧ fld (ld 0 0 300 4 []) 8 4 = 4 ∧ ldTotal (ld 0 0 300 4 []) = 300 ∧ loading.xferLost = false
      ∧ taken loading rowTableLoad (loadBody 0 256 7340032) (hw 0x30 (ld 0 0 300 8 [1, 2, 3, 4])) ∧ fld (ld 0 0 300 8 []) 8 4 ≠ 4
      ∧ ddr.xfer = none := by unfold taken; decide +kernel
/-- Later fragments of a PRICKING_LOAD of 16 bytes, 8 of them gathered: LAST with the rest, LAST short of it, and too many. -/
theorem wit_last_fragment :
    let d : Dev := { ddr with xfer := some { opcode := 0x0010, target := 0, total := 16, got := 8, rom := false } }
    let ok := fun (flags : Nat) (bs : List Byte) => taken d rowPrickingLoad (loadBody 7 16 4194304) (hw 0x10 (ld 0 flags 16 8 bs))
    ok 2 (List.replicate 8 7) ∧ ldLast (ld 0 2 16 8 []) = true ∧ ok 0 (List.replicate 12 7) ∧ 16 < 8 + 12 ∧ ok 2 [1, 2, 3, 4] ∧ 8 + 4 ≠ 16 := by
  unfold taken; decide +kernel
theorem wit_first :
    taken ddr rowPrickingLoad (loadBody 7 16 4194304) (hw 0x10 (ld 0 1 224 0 [1, 2, 3, 4])) ∧ ldFirst (ld 0 1 224 0 []) = true
      ∧ ldEnds (ld 0 1 224 0 []) = false ∧ ldTotal (ld 0 1 224 0 []) = 224 ∧ ddr.pwr.recovery = false
      ∧ stageReady (heard ddr) = true ∧ stageReady (heard dev0) = false ∧ loadRefused (units [(0, .idle)]) 0 = false ∧ loadRefused (units []) 0 = true
      ∧ taken ddr rowTableLoad (loadBody 0 256 7340032) (hw 0x30 (ld 0 1 300 0 [])) ∧ tableRefused ddr = false
      ∧ tableRefused { ddr with txt := { ddr.txt with swap := true } } = true
      ∧ taken ddr rowFwUpdate (loadBody 0 4 2097152) (hw 0x70 (ld 0 1 64 0 [])) ∧ ddr.fw.state ≠ .programming
      ∧ taken ddr rowPrickingLoad (loadBody 7 16 4194304) (hw 0x10 (ld 0 3 16 0 (List.replicate 16 1))) ∧ ldLast (ld 0 3 16 0 []) = true
      ∧ taken ddr rowPrickingLoad (loadBody 7 16 4194304) (hw 0x10 (ld 0 3 32 0 (List.replicate 16 1))) ∧ 16 ≠ 32
      ∧ taken ddr rowPrickingLoad (loadBody 7 16 4194304) (hw 0x10 (ld 0 1 16 0 (List.replicate 32 1))) ∧ 16 < 32 := by
  unfold taken; decide +kernel
/-- The NOP image staged at the start of STAGE. -/
def staged : Dev := { ddr with mem := Memory.setAll ddr.mem (key 7 0) nopImage, ddr := { ddr.ddr with known := [(0, 16777216)] } }
theorem wit_staged :
    taken staged rowPrickingLoad (loadBody 7 16 4194304) (hw 0x10 (ld 0 7 224 0 [])) ∧ ldStaged (ld 0 7 224 0 []) = true ∧ ldFirst (ld 0 7 224 0 []) = true
      ∧ staged.ecc = [] ∧ loadRefused (units [(0, .halted)]) 0 = false ∧ stagedStatus (heard staged) 0 224 = none ∧ stageReady (heard staged) = true
      ∧ firstFit (heard staged) 0 (cdiv 224 256) = some 0 ∧ nopImage.length = 224
      ∧ loadRefused (units []) 0 = true ∧ stageReady (heard dev0) = false ∧ taken dev0 rowPrickingLoad (loadBody 7 16 4194304) (hw 0x10 (ld 0 7 224 0 []))
      ∧ inRegions (heard staged) regsStage 0 224 = true ∧ inRegions (heard staged) regsStage 16777152 224 = false
      ∧ taken staged rowPrickingLoad (loadBody 7 16 4194304) (hw 0x10 (ld 0 7 224 16777152 [])) ∧ Machine.covered staged.ddr.known 0 224 = true := by
  unfold taken; decide +kernel
theorem wit_staged_image : peek (heard staged) (key 7 0) 224 = nopImage ∧ imageCheck (peek (heard staged) (key 7 0) 224) = 0
    ∧ imageCheck (peek (heard ddr) (key 7 0) 224) = 0x01 := by
  have h : peek (heard staged) (key 7 0) 224 = nopImage := by decide +kernel
  rw [h]
  exact ⟨rfl, test_image_passes, by decide +kernel⟩
/-- A standby buffer that is VALID. -/
def standby : Dev := { dev0 with txt := { dev0.txt with buf1 := .valid } }
theorem wit_verify_swap :
    taken dev0 rowVerify verifyBody (hw 0x11 (ld 0 1 0 0 [])) ∧ fld (ld 0 1 0 0 []) 1 1 = 1 ∧ hasImage (heard dev0) 0 = false
      ∧ taken staged rowVerify verifyBody (hw 0x11 (ld 0 0 224 0 [])) ∧ fld (ld 0 0 224 0 []) 1 1 = 0 ∧ stagedStatus (heard staged) 0 224 = none
      ∧ stagedStatus (heard dev0) 0 224 = some stConflict ∧ stagedStatus (heard staged) 16777152 224 = some stValue
      ∧ hasImage (heard (loaded nopImage dev0)) 0 = true ∧ (loaded nopImage dev0).ecc = []
      ∧ taken standby rowTableSwap (fun _ _ => true) (hw 0x31 []) ∧ swapOk (units []) (heard standby) true = true
      ∧ swapOk (units []) (heard dev0) true = false := by unfold taken; decide +kernel
/-- Tambour 0 in EXTERNAL mode, its black window at rows 0 to 63 and its white window from row w on. -/
def calDev (w : Nat) : Dev := regs [(addrOf .tCalWindow 0 0, BitVec.ofNat 32 (w * 65536))] dev0
theorem wit_calibrate :
    taken (calDev 64) rowCalibrate (fun _ b => fld b 0 1 < 4 && zeroAt b 1 3) (hw 0x40 [0, 0, 0, 0])
      ∧ (let d := heard (calDev 64)
        running (units [(0x10, .run)]) 0x10 = true ∧ (tambOf d 0).cal.state ≠ .running ∧ (tambOf d 0).active ≠ 2 ∧ cf d .tLineCfg 0 0 27 24 ≠ 6
          ∧ ¬ (cf d .tCalCfg 0 0 25 25 = 1 ∧ (tambOf d 0).active = 0) ∧ sf d .tCtrl 0 0 7 7 ≠ 1)
      ∧ (let w := calWin (heard (calDev 64)) 0; ¬ (w.1 < w.2.2.1 + w.2.2.2 ∧ w.2.2.1 < w.1 + w.2.1))
      ∧ (let w := calWin (heard (calDev 63)) 0; w.1 < w.2.2.1 + w.2.2.2 ∧ w.2.2.1 < w.1 + w.2.1)
      ∧ running (units []) 0x10 = false := by unfold taken; decide +kernel
/-- An adaptation whose run is active, over an adaptation region of 1 MiB. -/
def adapting : Dev :=
  { dev0 with regs := [(addrOf .dRegSize 3 0, 1)], adapt := { dev0.adapt with run := .active } }
theorem wit_adapt :
    taken adapting rowAdapt adaptBody (hw 0x50 [2, 0, 0, 0]) ∧ (atRegs adapting).adapt.run = .active ∧ (atRegs dev0).adapt.run ≠ .active
      ∧ taken adapting rowAdapt adaptBody (hw 0x50 [3, 0, 0, 0]) ∧ (atRegs adapting).adapt.copy = 0
      ∧ inRegions (atRegs adapting) regsAdapt (ckptAt (atRegs adapting)) (256 + (stateArea (atRegs adapting)).2) = true
      ∧ meetsClaims (units []) (atRegs adapting) 0 256 = false
      ∧ inRegions (atRegs { adapting with regs := [] }) regsAdapt 0 256 = false
      ∧ taken dev0 rowAdapt adaptBody (hw 0x50 [4, 0, 0, 0]) ∧ ust (units [(0, .idle)]) 0 = .idle ∧ reqOf (atRegs dev0) 0 ≠ some .run ∧ ckptOk (atRegs dev0) = false
      ∧ taken dev0 rowAdapt adaptBody (hw 0x50 [1, 0, 0, 0]) := by unfold taken; decide +kernel
/-- The header of a checkpoint that matches the reset configuration: 1 sample, batches of 8. -/
def ckpt : List Byte :=
  leBytes 4 0x4B435041 ++ List.replicate 40 0 ++ leBytes 4 (setCount dev0) ++ leBytes 4 (batchSize dev0) ++ leBytes 4 0 ++ leBytes 4 0 ++ leBytes 4 1
def resumable : Dev := { adapting with mem := Memory.setAll [] (key 7 0) ckpt, ddr := { dev0.ddr with state := .ready, known := [(0, 1048576)] }, adapt := {} }
theorem wit_resume : ckptOk (atRegs resumable) = true := by decide +kernel
/-- An image of one BUFFERS claim: the whole page store. -/
def claimImage : List Byte := image 0 [(3, 16, leBytes 4 1 ++ leBytes 4 0 ++ leBytes 4 134217728 ++ leBytes 4 0)]
def startable : Dev := let d := loaded claimImage dev0; { d with adapt := { d.adapt with ready := true } }
theorem wit_adapt_start : (atRegs startable).adapt.ready = true ∧ (atRegs startable).adapt.run ≠ .active ∧ hasImage (atRegs startable) 0 = true
    ∧ coversStage (atRegs startable) (imgOf (atRegs startable) 0) = true ∧ running (units [(0x1D, .run)]) 0x1D = true := by decide +kernel
theorem wit_power :
    let row := fun (n : Byte) => hw 0x60 [n, 0, 0, 0]
    let ok := fun (_ : Dev) (b : List Byte) => decide (fld b 0 1 < 3) && zeroAt b 1 3
    taken asleep rowPower ok (row 0) ∧ asleep.pwr.waking = false ∧ asleep.pwr.state = .sleep ∧ taken asleep rowPower ok (row 2) ∧ asleep.pwr.pend = none
      ∧ taken dev0 rowPower ok (row 0) ∧ pstateOf 0 = dev0.pwr.state ∧ taken dev0 rowPower ok (row 1)
      ∧ powerOk (units []) (heard dev0) .run (pstateOf 1) = true ∧ powerOk (units [(0x1E, .run)]) (heard dev0) .run (pstateOf 1) = true
      ∧ powerOk (units [(0x1D, .run)]) (heard dev0) .run (pstateOf 1) = false ∧ powerOk (units []) (heard dev0) .run (pstateOf 2) = false := by
  unfold taken; decide +kernel
/-- Standby bank READY; a switch under way; a transfer in progress. -/
def fwLoad : Xfer := { opcode := 0x0070, target := 0, total := 64, got := 4, rom := false }
def fwReady : Dev := { dev0 with fw := { dev0.fw with state := .ready } }
def switching : Dev := { dev0 with fw := { dev0.fw with wrote := some true }, i3c := { dev0.i3c with busy := some (0x0071, 3) } }
theorem wit_firmware :
    taken fwReady rowFwSwitch (fun _ _ => true) (hw 0x71 []) ∧ fwReady.fw.state = .ready ∧ fwReady.xfer = none ∧ dev0.fw.state ≠ .ready
      ∧ { dev0.fw with state := .ready }.state = .ready ∧ { switching with xfer := some fwLoad }.xfer = some fwLoad
      ∧ (let late : Dev := { switching with clk := { dev0.clk with mono := 275000000 } }
        (passCycles (units []) late (0 + 250 * cyclesPerMs - late.clk.mono)).any (fun e => e.fw.wrote == some true && e.i3c.busy == some (0x0071, 3)) = true)
      ∧ passCycles (units []) switching (250 * cyclesPerMs) = none ∧ switching.i3c.busy = some (0x0071, 3)
      ∧ (let late : Dev := { dev0 with xfer := some fwLoad, clk := { dev0.clk with mono := 1100000000 } }
        alive late = true ∧ late.xfer = some fwLoad ∧ (passCycles (units []) late (fwLoad.at_ + 1000 * cyclesPerMs - late.clk.mono)).isSome = true)
      ∧ passCycles (units []) { dev0 with xfer := some fwLoad } (fwLoad.at_ + 1000 * cyclesPerMs) = none
      ∧ switching.pwr.booted = true ∧ switching.fw.wrote ≠ none ∧ switching.i3c.busy = some (0x0071, 3) ∧ switching.pwr.powered = true
      ∧ switching.pwr.booting = false ∧ { dev0.fw with state := .programming }.state = FwSt.programming ∧ alive dev0 = true
      ∧ { dev0.pwr with check := true }.check = true ∧ bankValid [] = false := by unfold taken; decide +kernel
theorem wit_status :
    taken dev0 rowStatus (fun _ _ => true) (hw 0xF0 []) ∧ taken asleep rowStatus (fun _ _ => true) (hw 0xF0 [])
      ∧ taken dev0 rowLog logBody (hw 0xF1 [0, 0, 0, 0, 64, 0, 0, 0]) ∧ taken dev0 rowLog logBody (hw 0xF1 [1, 0, 0, 0, 1, 1, 0, 0])
      ∧ dev0.health.lost = 0 := by unfold taken; decide +kernel

/-! ### The bus, resets, boot -/

theorem wit_direct : hears dev0 = true ∧ dev0.i3c.da ≠ 0 ∧ dev0.i3c.da = 0x08 ∧ hears State.reset.dev = false := by decide +kernel
theorem wit_addresses :
    let d : Dev := { dev0 with i3c := { dev0.i3c with da := 0 } }
    hears d = true ∧ d.i3c.da = 0 ∧ (0x2C : BitVec 7) = 0x2C + d.pwr.sa.zeroExtend 7 ∧ dev0.i3c.da ≠ 0 ∧ (2 : Byte).toNat ≤ 2 ∧ 2 < (3 : Byte).toNat := by decide +kernel
theorem wit_private :
    dev0.pwr.powered = true ∧ dev0.i3c.da = 0x08 ∧ dev0.i3c.hdr = false ∧ dev0.pwr.resetLow = false ∧ dev0.i3c.da ≠ 0x09 ∧ reaches dev0 0x08 none = true
      ∧ reaches dev0 0x08 (some 0x00) = false ∧ reaches { dev0 with i3c := { dev0.i3c with hdr := true } } 0x08 (some 0x00) = true
      ∧ reaches { dev0 with i3c := { dev0.i3c with hdr := true } } 0x08 (some 0x01) = false ∧ { dev0.i3c with hdr := true }.hdr = true ∧ (0x80 : Byte) ≠ 0x81
      ∧ (4 ≤ ([1, 1, 0, 0] : List Byte).length) ∧ dev0.pwr.booting = false ∧ dev0.i3c.busy = none ∧ dev0.fw.wrote = none
      ∧ { dev0.pwr with booting := true }.booting = true ∧ dev0.pwr.waking = false := by decide +kernel
theorem wit_resets : dev0.pwr.powered = true ∧ dev0.pwr.resetLow = false ∧ dev0.clk.timeLoad = none ∧ dev0.clk.pllLock = true ∧ { dev0.i3c with rstact := 2 }.rstact = 2 ∧ dev0.i3c.rstact = 1
    ∧ dev0.health.log.length < 1024 ∧ dev0.health.seq < 0xFFFFFFFF := by decide +kernel
/-- A bank of 64 bytes: a header alone, with its CRC. -/
def bank64 : List Byte :=
  leBytes 4 0x4B435746 ++ leBytes 2 1 ++ [0xA1, 0] ++ leBytes 4 64 ++ leBytes 4 0x75E761DB ++ List.replicate 48 0
/-- Boot in progress. -/
def booting : Dev := { State.reset.dev with pwr := { State.reset.dev.pwr with powered := true, booting := true } }
theorem wit_boot :
    State.reset.dev.pwr.powered = false ∧ State.reset.dev.pwr.pwrok = false ∧ { booting.pwr with pwrok := true }.pwrok = true ∧ booting.pwr.powered = true ∧ booting.pwr.booting = true ∧ booting.pwr.resetLow = false
      ∧ selected (selOf (List.replicate 64 0)) (selOf (List.replicate 64 0)) = false ∧ bankValid [] = false
      ∧ { dev0.pwr with resetLow := true }.resetLow = true := by decide +kernel
theorem wit_bank : bankValid bank64 = true := by decide +kernel
theorem wit_selector : selected { valid := true, seq := 2, bank := true } { valid := true, seq := 2, bank := false } = true
    ∧ selected { valid := true, seq := 1, bank := true } { valid := true, seq := 2, bank := false } = false := by decide

/-! ### Tambours -/

/-- Tambour 0 driving in a mode, with the encoder as source where asked. -/
def tamb (mode : BitVec 2) (enc : Bool) (f : Tamb → Tamb) : State :=
  st [(0x10, .run)] (setTamb (regs (if enc then [(addrOf .tTrig 0 0, 0x00010204)] else []) dev0) 0 (fun m => f { m with active := mode, driving := true, on := true }))
theorem wit_enc_off :
    let s := tamb 0 false id
    clocked s.dev = true ∧ (tambOf s.dev 0).on = true ∧ ¬ (inLine s.dev 0 (tick200 s.dev) = true ∧ cf (seen s.dev 0) .tTrig 0 0 9 9 = 1) := by decide +kernel
/-- From A, B = 0, 0 an edge of A counts forward with ENC_DIR 0, an edge of B in reverse. -/
theorem wit_enc_on :
    let s := tamb 1 true (fun m => { m with remain := 1 })
    inLine s.dev 0 (tick200 s.dev) = true ∧ cf (seen s.dev 0) .tTrig 0 0 9 9 = 1 ∧ cf (seen s.dev 0) .tTrig 0 0 8 8 = 0
      ∧ (quadPos (tambOf s.dev 0).encA (tambOf s.dev 0).encB + 1) % 4 = quadPos true false
      ∧ (quadPos (tambOf s.dev 0).encA (tambOf s.dev 0).encB + 1) % 4 ≠ quadPos false true
      ∧ (tambOf s.dev 0).remain ≤ 1 ∧ (tambOf s.dev 0).line = none ∧ (tambOf s.dev 0).tookA = none ∧ (tambOf s.dev 0).encA ≠ true := by decide +kernel
/-- A line of 200 ticks, triggered at tick 0. -/
def line0 : LineCfg := { t0 := 0, period := 200, start := 10, stop := 100, quiet := 100, xavg := 1, dark := false }
/-- An encoder trigger to come, at a tick that has come and at one that has not, without and with a line whose TICKS have not passed. -/
theorem wit_enc_trigger :
    let s := fun (n : Nat) (l : Option LineCfg) => tamb 1 true (fun m => { m with trigAt := some n, line := l })
    let d := (s 0 none).dev
    (tambOf d 0).edge = none ∧ (tambOf d 0).trigAt = some 0 ∧ 0 ≤ tick200 d ∧ tick200 d < 1 ∧ (tambOf (s 1 none).dev 0).trigAt = some 1
      ∧ inLine d 0 0 = true ∧ (tambOf d 0).line = none ∧ inLine (tamb 0 true (fun m => { m with trigAt := some 0 })).dev 0 0 = false
      ∧ (tambOf (s 0 (some line0)).dev 0).line = some line0 ∧ inLine (s 0 (some line0)).dev 0 0 = true ∧ 0 < line0.t0 + line0.period := by decide +kernel
/-- ENC_FILT 4: an input that took its level at tick 0 takes another one at tick 4, and not at tick 3. -/
theorem wit_enc_early :
    let s := tamb 1 true (fun m => { m with line := some line0, tookA := some 0, remain := 2 })
    (tambOf s.dev 0).line = some line0 ∧ tick200 s.dev + 1 - 4 + 4 < line0.t0 + line0.period ∧ 1 < (tambOf s.dev 0).remain
      ∧ cf (seen s.dev 0) .tTrig 0 0 7 0 = 4 ∧ tick200 s.dev = 0 ∧ ¬ (0 + 4 ≤ tick200 s.dev)
      ∧ tick200 { s.dev with clk := { s.dev.clk with mono := 22 } } = 4 := by decide +kernel
/-- A tick comes within the running Stitch, or lies beyond it. -/
def comes (s : State) (n : Nat) : Bool := (passCycles s.committed s.dev (cyclesTo s.dev n)).isSome
theorem wit_tambour :
    (let s := tamb 1 false (fun m => { m with line := some line0 });
      inLine s.dev 0 (nextTimer s.dev 0) = true ∧ cf (seen s.dev 0) .tTrig 0 0 9 9 = 0 ∧ nextTimer s.dev 0 = 200 ∧ comes s 200 = true)
    ∧ (let s := tamb 1 false (fun m => { m with line := some { line0 with period := 16777215 } });
      nextTimer s.dev 0 = 16777215 ∧ comes s 16777215 = false)
    ∧ (let s := tamb 1 false (fun m => { m with line := some line0, stampDue := true });
      (tambOf s.dev 0).line = some line0 ∧ (tambOf s.dev 0).driving = true ∧ (tambOf s.dev 0).active = 1 ∧ (tambOf s.dev 0).stampDue = true
        ∧ comes s 100 = true ∧ (tambOf s.dev 0).stamps.length < 16)
    ∧ (16 ≤ (tambOf (tamb 1 false (fun m => { m with stamps := List.replicate 16 (0, 0) })).dev 0).stamps.length)
    ∧ (let s := tamb 1 false (fun m => { m with line := some line0, effAt := some 6 });
      (tambOf s.dev 0).on = true ∧ modeTick s.dev 0 = some 100 ∧ comes s 100 = true ∧ inLine s.dev 0 99 = true ∧ inLine s.dev 0 100 = false
        ∧ (passCycles s.committed s.dev (cyclesTo s.dev 100)).any (fun e => modeTick e 0 == some 100) = true)
    ∧ (tambOf (tamb 1 false (fun m => { m with line := some line0, effAt := some 6, on := false })).dev 0).on = false
    ∧ (let s := st [(0x10, .run)] (setTamb (regs [(addrOf .tEncTmo 0 0, 5), (addrOf .tTrig 0 0, 0x00010204)] dev0) 0 (fun m => { m with on := true }));
        (tambOf s.dev 0).on = true ∧ cf (seen s.dev 0) .tTrig 0 0 9 9 = 1 ∧ cf (seen s.dev 0) .tEncTmo 0 0 23 0 = 5 ∧ (tambOf s.dev 0).gapDone = false
          ∧ comes s 1000 = true)
    ∧ (let s := tamb 1 false (fun m => { m with feedF := m.feedF.set 7 2 });
        (tambOf s.dev 0).active ≠ 2 ∧ 2 ≤ ((tambOf s.dev 0).feedF[7]?).getD 0 ∧ comes s 2 = true) := by decide +kernel
/-- PATTERN mode with LOOP_END 3 and 2 passes of the loop. -/
def pattern (step passes : Nat) : State :=
  st [(0x10, .run)] (setTamb (regs [(addrOf .tPgLoop 0 0, 0x00030001), (addrOf .tPgCtrl 0 0, 0x00020000)] dev0) 0
    (fun m => { m with active := 2, driving := true, pgStep := step, pgPasses := passes, pgLen := 40 }))
theorem wit_pattern :
    (let s := pattern 0 0; patPlays s.dev 0 = true ∧ comes s 40 = true ∧ patLast s.dev 0 = false ∧ (tambOf s.dev 0).pgStep ≠ cf s.dev .tPgLoop 0 0 27 16)
    ∧ (let s := pattern 3 0; patPlays s.dev 0 = true ∧ comes s 40 = true ∧ patLast s.dev 0 = false ∧ (tambOf s.dev 0).pgStep = cf s.dev .tPgLoop 0 0 27 16)
    ∧ (let s := pattern 3 1; patPlays s.dev 0 = true ∧ comes s 40 = true ∧ patLast s.dev 0 = true) := by decide +kernel
/-- A calibration that has seen n lines of two values, windows 0 to 63 and 64 to 127. -/
def calibrating (n bad : Nat) : State :=
  st [(0x10, .run)] (setTamb (calDev 64) 0 (fun m =>
    { m with active := 0, driving := true, cal := { m.cal with state := .running, line := n, black := [6400], white := [if bad == 0 then 3200000 else 6400] } }))
theorem wit_calibration :
    (let s := calibrating 128 0;
      clocked s.dev = true ∧ (tambOf s.dev 0).cal.state = .running ∧ s.dev.ecc = [] ∧ calEnd s.dev 0 ≤ (tambOf s.dev 0).cal.line
        ∧ (tambOf s.dev 0).cal.lastAt ≤ 1100000 * cf s.dev .tCalTarget 0 0 31 16
        ∧ (passCycles s.committed s.dev ((tambOf s.dev 0).cal.lastAt + calEntries s.dev 0 - s.dev.clk.mono)).any (fun e => (tambOf e 0).cal.state == .running) = true)
    ∧ (let s := calibrating 127 0;
      (tambOf s.dev 0).cal.line < calEnd s.dev 0
        ∧ (passCycles s.committed { s.dev with clk := { s.dev.clk with mono := 1100000 * cf s.dev .tCalTarget 0 0 31 16 } } 0).isSome = true) := by decide +kernel

/-! ### Receive ports and jobs -/

/-- Port A RUN, partition 0 RUN with the NOP image bound to channel 0 of port A; the channel's CFG word is given. -/
def rxState (cfg : Word) (d : Dev) : State := st [(0, .run), (0x14, .run)] { d with regs := (addrOf .vcCfg 0 0, cfg) :: d.regs }
/-- FRAME, INBAND and STRIP modes with 16,384 pixels of RAW8, and MODE OFF. -/
def frameSt : State := rxState 0x40004000 (loaded nopImage dev0)
def inbandSt : State := rxState 0x80004000 (loaded nopImage dev0)
def stripSt : State := rxState 0xC0004000 (loaded nopImage dev0)
theorem wit_port :
    rxPacket (.frameStart (rx 3 15) 0) = some (rx 3 15) ∧ rxOn (units []) dev0 3 = false ∧ rxOn frameSt.committed frameSt.dev 0 = true
      ∧ Machine.longPacket (.pixelLine (rx 0 1) 0x2A []) = some (rx 0 1) ∧ vcMode frameSt.dev 0 1 = 0
      ∧ isBulk (regs [(addrOf .rxCfg 0 0, 0xF10)] dev0) 0 15 = true := by decide +kernel
/-- A packet of an in-band command. -/
def ib (op : Nat) (bytes : List Byte) : Pkt := okPkt op 0 bytes
theorem wit_inband :
    (longTaken inbandSt.committed inbandSt.dev (rx 0 0) ∧ pktLenOk (ib 0x22 begin7) = true ∧ pktCrcOk 0x22 (ib 0x22 begin7) = true
      ∧ beginOk begin7 = true ∧ binder (rxSeen inbandSt.dev (rx 0 0)) 0 0 = some 0 ∧ running inbandSt.committed 0 = true
      ∧ vcMode (rxSeen inbandSt.dev (rx 0 0)) 0 0 = 2)
    ∧ heldJob inbandSt.dev 0 7 = none ∧ (vcOf inbandSt.dev 0 0).job = none ∧ heldJob (holding inbandSt.dev) 0 7 ≠ none
    ∧ openJobOf (holding inbandSt.dev) 0 0 = some job7 ∧ pktCrcOk 0x23 (ib 0x23 [7, 0, 0, 0]) = true ∧ pktCrcOk 0x24 (ib 0x24 [7, 0, 0, 0, 9, 0, 0, 0]) = true
    ∧ openJobOf inbandSt.dev 0 0 = none ∧ job7.seq.toNat = fld [7, 0, 0, 0] 0 4 ∧ job7.seq.toNat ≠ fld [8, 0, 0, 0] 0 4
    ∧ (vcOf (holding inbandSt.dev) 0 0).job ≠ none
    ∧ (longTaken frameSt.committed frameSt.dev (rx 0 0) ∧ binder (rxSeen frameSt.dev (rx 0 0)) 0 0 = some 0 ∧ vcMode (rxSeen frameSt.dev (rx 0 0)) 0 0 ≠ 2) := by
  unfold longTaken; decide +kernel
theorem wit_frames :
    rxOn frameSt.committed frameSt.dev 0 = true ∧ isBulk frameSt.dev 0 0 = false ∧ vcMode frameSt.dev 0 0 = 1
      ∧ opener frameSt.committed frameSt.dev 0 0 = some 0 ∧ (vcOf frameSt.dev 0 0).job = none
      ∧ vcMode inbandSt.dev 0 0 = 2 ∧ vcMode stripSt.dev 0 0 = 3
      ∧ openJobOf (holding frameSt.dev) 0 0 = some job7 ∧ job7.coded = none ∧ job7.dimBad = false
      ∧ cf frameSt.dev .rxCfg 0 0 12 12 = 0 ∧ cf (regs [(addrOf .rxCfg 0 0, 0x1000)] frameSt.dev) .rxCfg 0 0 12 12 = 1 ∧ clocked frameSt.dev = true
      ∧ (passCycles frameSt.committed (holding frameSt.dev) (job7.lastPkt + 1100000 * job7.tmoMs - frameSt.dev.clk.mono)).isSome = true
      ∧ passCycles frameSt.committed (holding frameSt.dev) (1100000 * 5000) = none := by decide +kernel
/-- Channel 0 of port A: FRAME mode, rows of 8 pixels of RAW8; job 7 is open there. -/
def lines (j : Job) : State := rxState 0x40000008 { holding (loaded nopImage dev0) with jobs := [j] }
theorem wit_pixel :
    (let s := lines job7;
      longTaken s.committed s.dev (rx 0 0) ∧ openJobOf (rxSeen s.dev (rx 0 0)) 0 0 = some job7 ∧ job7.kind = 0 ∧ job7.dimBad = false
        ∧ processed s.committed s.dev 0 0 = false ∧ cf s.dev .rxCfg 0 0 12 12 = 0 ∧ vcMode s.dev 0 0 ≠ 3 ∧ lineFormat s.committed s.dev 0 0 = (8, 0)
        ∧ formatType 0 = 0x2A ∧ wordCount 0 8 = 8 ∧ isStale s.dev 0 52 ((vcOf s.dev 0 0).frame.getD s.dev.clk.time) = false
        ∧ job7.next < job7.height ∧ job7.pages ≠ [] ∧ s.dev.ecc = [] ∧ embAt job7 ≤ 4096 * job7.pages.length)
    ∧ openJobOf (rxState 0x40000008 (loaded nopImage dev0)).dev 0 0 = none
    ∧ openJobOf (lines { job7 with dimBad := true }).dev 0 0 = some { job7 with dimBad := true } ∧ processed (lines job7).committed (lines job7).dev 0 0 = false
    ∧ openJobOf (lines { job7 with next := 2 }).dev 0 0 = some { job7 with next := 2 } := by unfold longTaken; decide +kernel
/-- A channel that Tambour 0 processes in PATTERN mode. -/
theorem wit_pattern_line :
    let s := st [(0x10, .run), (0x14, .run)] (setTamb (regs [(addrOf .vcCfg 0 0, 0x40000008), (addrOf .tLineCfg 0 0, 8)] dev0) 0 (fun m => { m with active := 2 }))
    longTaken s.committed s.dev (rx 0 0) ∧ processed s.committed s.dev 0 0 = true ∧ (tambOf s.dev 0).active = 2
      ∧ lineFormat s.committed s.dev 0 0 = (8, 0) ∧ (tambOf s.dev 0).stampDue = false ∧ openJobOf s.dev 0 0 = none
      ∧ openJobOf (holding s.dev) 0 0 = some job7 ∧ vcMode s.dev 0 0 ≠ 3 ∧ cf s.dev .rxCfg 0 0 12 12 = 0 := by unfold longTaken; decide +kernel
theorem wit_embedded :
    let s := rxState 0x60000008 { holding (loaded nopImage dev0) with jobs := [{ job7 with emb := true, embUsed := 4095 }] }
    longTaken s.committed s.dev (rx 0 0) ∧ cf (rxSeen s.dev (rx 0 0)) .vcCfg 0 0 29 29 = 1 ∧ (rx 0 0).crcBad = false
      ∧ openJobOf s.dev 0 0 = some { job7 with emb := true, embUsed := 4095 } ∧ cf frameSt.dev .vcCfg 0 0 29 29 = 0
      ∧ openJobOf { s.dev with jobs := [{ job7 with emb := true, pages := [] }] } 0 0 = some { job7 with emb := true, pages := [] } := by unfold longTaken; decide +kernel
theorem wit_coded :
    let j : Job := { job7 with kind := 1, coded := some {} }
    let s := rxState 0x80000008 { holding (loaded nopImage dev0) with jobs := [j] }
    longTaken s.committed s.dev (rx 0 0) ∧ openJobOf (rxSeen s.dev (rx 0 0)) 0 0 = some j ∧ j.kind ≠ 0 ∧ j.coded = some {}
      ∧ ({} : Coded).stopped = false ∧ ({ stopped := true } : Coded).stopped = true := by unfold longTaken; decide +kernel
/-- The text unit runs with a valid set. -/
def textSt (d : Dev) : State := { inbandSt with committed := units [(0, .run), (0x14, .run), (0x1A, .run)], dev := { d with txt := { d.txt with buf0 := .valid } } }
/-- A text fragment: JOB, KIND, FLAGS, FRAGMENT. -/
def text (job kind last frag : Nat) : List Byte := leBytes 4 job ++ leBytes 1 kind ++ leBytes 1 last ++ leBytes 2 frag ++ [0x41]
theorem wit_text :
    (let s := textSt inbandSt.dev;
      longTaken s.committed s.dev (rx 0 0) ∧ 8 ≤ (text 0xFFFFFFFF 1 1 0).length ∧ fld (text 0xFFFFFFFF 1 1 0) 0 4 = 0xFFFFFFFF
        ∧ running s.committed 0x1A = true ∧ activeValid s.dev.txt = true ∧ queueUsed s.dev.txt + 8256 ≤ 1048576
        ∧ (vcOf s.dev 0 0).str = none ∧ (vcOf s.dev 0 0).strBad = false ∧ binder s.dev 0 0 = some 0 ∧ heldJob s.dev 0 7 = none)
    ∧ heldJob (textSt (holding inbandSt.dev)).dev 0 7 ≠ none := by unfold longTaken; decide +kernel
theorem wit_text_next :
    let g : Gather := { job := 0xFFFFFFFF, kind := 1, next := 1, text := [0x41], excess := false }
    let s := textSt (setVc inbandSt.dev 0 0 (fun v => { v with str := some g }))
    longTaken s.committed s.dev (rx 0 0) ∧ (vcOf s.dev 0 0).str = some g ∧ fld (text 0xFFFFFFFF 1 1 1) 6 2 = g.next ∧ fld (text 0xFFFFFFFF 1 1 2) 6 2 ≠ g.next := by
  unfold longTaken; decide +kernel
theorem wit_tokenize :
    let q : Str := { port := 0, vc := 0, job := 0xFFFFFFFF, kind := 1, text := [0x41], trunc := false, toks := some ([5], 9) }
    let s := textSt { inbandSt.dev with txt := { inbandSt.dev.txt with strs := [q] } }
    clocked s.dev = true ∧ running s.committed 0x1A = true ∧ s.dev.txt.strs = q :: [] ∧ q.toks = some ([5], 9) := by decide +kernel
/-- Bulk load on channel 15 of port A. -/
def bulkSt : State := st [(0x14, .run)] (regs [(addrOf .rxCfg 0 0, 0xF10)] dev0)
/-- A bulk packet: TARGET, FLAGS, TRANSFER, ADDRESS, CRC, data. -/
def bulk (target flags id a : Nat) (crc : Word) (data : List Byte) : List Byte :=
  leBytes 1 target ++ leBytes 1 flags ++ leBytes 2 id ++ leBytes 8 a ++ leBytes 4 crc.toNat ++ data
theorem wit_bulk :
    rxOn bulkSt.committed bulkSt.dev 0 = true ∧ isBulk bulkSt.dev 0 15 = true ∧ isBulk bulkSt.dev 0 0 = false
      ∧ bitOf (fld (bulk 8 3 1 20971516 0 []) 1 1) 0 = true ∧ bulkSize bulkSt.dev 8 = some 20971520 ∧ bulkSize bulkSt.dev 0x10 = none
      ∧ bulkState bulkSt.committed bulkSt.dev 8 20971516 4 = true ∧ bulkState (units [(8, .run)]) bulkSt.dev 8 20971516 4 = false
      ∧ ¬ (11 * 262144 < bulkSt.dev.bulkLevel - 40 * (bulkSt.dev.clk.mono - bulkSt.dev.bulkAt) + 11 * 4)
      ∧ ~~~ crcFrom 0xFFFFFFFF [1, 2, 3, 4] = 0x29308CF4 ∧ (rxOf bulkSt.dev 0).bulk.state ≠ 3 ∧ (rxOf bulkSt.dev 0).bulk.state ≠ 1 := by decide +kernel
theorem wit_bulk_next :
    let b : Bulk := { state := 1, id := 7, next := 4 }
    (setRx bulkSt.dev 0 (fun q => { q with bulk := b })).bulkLevel = 0 ∧ (rxOf (setRx bulkSt.dev 0 (fun q => { q with bulk := b })) 0).bulk = b
      ∧ bitOf (fld (bulk 8 0 7 4 0 []) 1 1) 0 = false ∧ b.id.toNat = fld (bulk 8 0 7 4 0 []) 2 2 ∧ b.next = fld (bulk 8 0 7 4 0 []) 4 8
      ∧ b.next ≠ fld (bulk 8 0 7 8 0 []) 4 8 ∧ ({ state := 3 } : Bulk).state = 3 ∧ 11 * 262144 < 2883585 + 11 * 4 := by decide +kernel

/-! ### Pricking words -/

/-- An attention descriptor of slab 0: one slot, one block, OFFSET 0; and a KV descriptor of the slab. -/
def attnDesc : List Byte :=
  leBytes 4 0 ++ leBytes 4 0xFFFFFFFF ++ leBytes 4 0xFFFFFFFF ++ leBytes 4 65536 ++ leBytes 4 0xFFFFFFFF ++ leBytes 2 1 ++ leBytes 2 1
    ++ [0, 1, 1, 1, 0, 0, 0, 0] ++ leBytes 4 0x3F800000 ++ leBytes 2 0 ++ leBytes 2 1 ++ leBytes 4 0 ++ [0, 0, 0, 0] ++ leBytes 8 0 ++ leBytes 8 0
def kvDesc : List Byte := [0, 0] ++ leBytes 2 0 ++ leBytes 4 0 ++ leBytes 2 0 ++ leBytes 2 1 ++ leBytes 4 0 ++ leBytes 4 65536 ++ [1, 0, 0, 1] ++ List.replicate 40 0
/-- A DECIDE descriptor of the slab: one slot, 64 FP32 logits in two Bobbins, chunks of 64 bytes. -/
def decDesc : List Byte := [0, 0, 1, 0] ++ leBytes 4 0 ++ leBytes 2 0 ++ leBytes 2 1 ++ leBytes 4 64 ++ leBytes 4 0x3F800000 ++ leBytes 2 0 ++ [4, 0]
  ++ leBytes 4 0 ++ leBytes 4 256 ++ List.replicate 20 0 ++ [0, 0] ++ leBytes 2 64 ++ leBytes 4 0 ++ leBytes 4 0
/-- Words of Bobbin 0 of 4: NOP, MATMUL, the same as a replay word of guard 1, SLAB; the slab; guard 1 with limit 5. -/
def workImage : List Byte := (image 0
  [ops [word 256 0 15 0 0 0, word 300 1 0 0 400 (3 * 2 ^ 40), word 800 1 0 0 400 (3 * 2 ^ 40) + 2 ^ 87 + 2 ^ 80, word 1300 9 15 0 0 0],
    (2, 64, attnDesc ++ kvDesc ++ decDesc ++ List.replicate 64 0), binds 5 [(0, 0)],
    (6, 32, leBytes 2 0 ++ leBytes 2 1 ++ leBytes 4 4096 ++ leBytes 4 0 ++ leBytes 4 128 ++ List.replicate 16 0),
    (8, 16, leBytes 2 1 ++ leBytes 2 0 ++ leBytes 2 5 ++ List.replicate 10 0)]).set 20 4
/-- Partition 0 runs the image, with the slab's step issued at cycle 1300. -/
def work (f : Dev → Dev) : State :=
  st [(0, .run), (8, .run)] (f (setPart (loaded workImage dev0) 0 (fun p => { p with steps := [{ op := 3, slab := 0, issue := 1300 }] })))
theorem work_stored : imgOf (work id).dev 0 = workImage := by decide +kernel
theorem wit_words :
    opsWord (.matmul 0 1) = some (0, 1, 1, 0) ∧ issuing (work id).committed (work id).dev 0 = true ∧ issuing (units []) (work id).dev 0 = false
      ∧ opAt workImage 1 = some (word 300 1 0 0 400 (3 * 2 ^ 40)) ∧ opAt workImage 9 = none
      ∧ wClass (word 300 1 0 0 400 (3 * 2 ^ 40)) = 1 ∧ wOp (word 300 1 0 0 400 (3 * 2 ^ 40)) = 0 ∧ wSlack (word 300 1 0 0 400 (3 * 2 ^ 40)) = false
      ∧ (partOf (work id).dev 0).issued.contains (1, none) = false ∧ (work id).dev.clk.offset ≤ 300 ∧ (work id).dev.agenda = []
      ∧ wClass (word 256 0 15 0 0 0) = 0 ∧ wOp (word 256 0 15 0 0 0) = 0
      ∧ wReplay (word 800 1 0 0 400 (3 * 2 ^ 40) + 2 ^ 87 + 2 ^ 80) = true ∧ wGuard (word 800 1 0 0 400 (3 * 2 ^ 40) + 2 ^ 87 + 2 ^ 80) = 1
      ∧ (bobOf (work id).dev 0).tripNow.getLsbD 1 = false
      ∧ (bobOf (work (fun d => setBob d 0 (fun b => { b with accepting := false }))).dev 0).accepting = false := by decide +kernel
theorem wit_slab :
    (partOf (work id).dev 0).steps.find? (fun t => t.op == 3) = some { op := 3, slab := 0, issue := 1300 }
      ∧ attnOk workImage (slabWord 5 0 1 0 (0xFFFF * 2 ^ 24)) attnDesc [] = true ∧ kvOk workImage (slabWord 6 15 2 1 0) kvDesc = true
      ∧ slabKind workImage 0 = some 5 ∧ slabKind workImage 1 = some 6 ∧ slabKind workImage 2 = some 7 ∧ slabKind workImage 3 = none
      ∧ decideOk workImage decDesc = true ∧ descAt workImage 2 = decDesc ∧ descAt workImage 0 = attnDesc ∧ descAt workImage 1 = kvDesc ∧ 1300 + fld attnDesc 40 4 < periodOf (work id).dev
      ∧ (partOf (work id).dev 0).issued.contains (3, some 0) = false := by decide +kernel
/-- An operation of class cls, function op, on Bobbin 0, with a descriptor. -/
def flight (cls op : Nat) (oper : Nat) (desc : List Byte) : Flight :=
  { id := 4, part := 0, op := 1, word := BitVec.ofNat 128 (word 300 cls 0 op 40 oper), desc, aux := [], bob := some 0, step := none, issue := 300, limit := 340, done := some 336 }
/-- A device at cycle 300 with one operation and its events. -/
def flying (f : Flight) (evs : List Ev) : Dev :=
  let d := (work id).dev
  { d with flights := [f], agenda := evs, nextId := 5, clk := { d.clk with offset := 300 } }
/-- LS_COPY of 8 bytes from 0 to 65,536. -/
def copyDesc : List Byte := leBytes 8 0 ++ leBytes 8 65536 ++ leBytes 4 8 ++ leBytes 4 1 ++ List.replicate 40 0
theorem wit_complete :
    (let f := flight 3 0 0 copyDesc;
      let d := flying f [⟨330, 0, 4, .chunk 0⟩, ⟨336, 20, 4, .finish⟩];
      clocked d = true ∧ d.clk.offset ≤ 330 ∧ 336 < periodOf d ∧ flightOf d 4 = some f ∧ d.agenda = ⟨330, 0, 4, .chunk 0⟩ :: ⟨336, 20, f.id, .finish⟩ :: []
        ∧ d.ecc = [] ∧ wClass f.word.toNat = 3 ∧ wOp f.word.toNat = 0 ∧ f.bob = some 0 ∧ (bobOf d 0).accepting = true ∧ f.done = some 336
        ∧ placeOf (moveD f.desc).src = .localStore 0 ∧ placeOf (moveD f.desc).dst = .localStore 65536 ∧ (moveD f.desc).rows = 1 ∧ (moveD f.desc).rowBytes = 8)
    ∧ (let f := flight 10 0 1 [];
      let d := flying f [⟨300, 0, 4, .whole⟩, ⟨302, 20, 4, .finish⟩];
      wClass f.word.toNat = 10 ∧ guardEntry (imgOf d 0) (bitsOf f.word.toNat 5 0) = some (0, false, 5) ∧ (assoc (bobOf d 0).guards 1).getD 0 ≤ 5)
    ∧ (let f := flight 1 0 0 [];
      let d := flying f [⟨341, 30, 4, .late⟩];
      d.agenda = ⟨341, 30, f.id, .late⟩ :: [] ∧ f.late = false ∧ f.part < 8 ∧ d.agenda.all (fun v => v.act != .finish) = true
        ∧ (flying f []).agenda.all (fun v => v.act != .late) = true)
    ∧ (flying (flight 2 0 0 []) [⟨335, 11, 4, .put [(key 8 0, [1])]⟩, ⟨336, 20, 4, .finish⟩]).agenda
        = ⟨335, 11, 4, .put [(key 8 0, [1])]⟩ :: ⟨336, 20, 4, .finish⟩ :: [] := by decide +kernel

/-- ADD of 3 INT8 elements at 0 and at 256 to INT8 at 65,536; a MATMUL of INT8 with INT8 weights in bank A. -/
def addDesc : List Byte := leBytes 4 0 ++ leBytes 4 256 ++ leBytes 4 0 ++ leBytes 4 65536 ++ leBytes 4 3 ++ leBytes 4 1 ++ [4, 4, 4, 0]
  ++ leBytes 8 0 ++ leBytes 4 0 ++ leBytes 8 4 ++ List.replicate 16 0
def mulDesc : List Byte := List.replicate 12 0 ++ [4] ++ List.replicate 51 0
theorem wit_compute :
    (let f := flight 2 0 0 addDesc
      let d := flying f [⟨306, 0, 4, .group 0⟩, ⟨310, 20, 4, .finish⟩]
      let v := vecD f.desc
      clocked d = true ∧ d.clk.offset ≤ 306 ∧ 310 < periodOf d ∧ flightOf d f.id = some f ∧ f.bob = some 0 ∧ (bobOf d 0).accepting = true ∧ d.ecc = []
        ∧ wClass f.word.toNat = 2 ∧ wOp f.word.toNat = 0 ∧ d.agenda = ⟨306, 0, f.id, .group 0⟩ :: ⟨310, 20, f.id, .finish⟩ :: []
        ∧ 310 = f.issue + 6 + vecLat (wOp f.word.toNat) ∧ v.rows = 1 ∧ v.n = 3 ∧ v.aScale = 0 ∧ v.ccw.src = 0 ∧ v.ccw.guarded = false
        ∧ v.fmtA = 4 ∧ v.srcA = 0 ∧ v.fmtB = 4 ∧ v.srcB = 256 ∧ v.ccw.fmt = 4 ∧ v.dst = 65536)
    ∧ (let f := flight 1 0 0 mulDesc
      let d := setBob (flying f [⟨322, 0, 4, .beat 0 0⟩, ⟨336, 100, 4, .finish⟩]) 0 (fun b => { b with bankA := { b.bankA with fmt := 4 } })
      clocked d = true ∧ d.clk.offset ≤ 322 ∧ 336 < periodOf d ∧ flightOf d f.id = some f ∧ f.bob = some 0 ∧ (bobOf d 0).accepting = true ∧ d.ecc = []
        ∧ wClass f.word.toNat = 1 ∧ wOp f.word.toNat = 0 ∧ d.agenda = ⟨322, 0, f.id, .beat 0 0⟩ :: ⟨336, 100, f.id, .finish⟩ :: [] ∧ 322 + 14 ≤ 336
        ∧ maRows f.word.toNat = 1 ∧ maDepth f.word.toNat = 1 ∧ maOut f.word.toNat = false ∧ maBank f.word.toNat = 0
        ∧ pairOf (fld f.desc 12 1) (bobOf d 0).bankA.fmt = some (128, 128, 128) ∧ isInt (fld f.desc 12 1) = true
        ∧ pairOf 2 4 = some (128, 128, 128) ∧ isInt 2 = false) := by decide +kernel
/-- A conversion that fits, one that saturates, one to UINT8 of a negative number, and an element of a PF4 block of each kind. -/
theorem wit_conversions :
    (convert1 3 false true 1 0 (.fin false 60000 0)).sat = false ∧ (convert1 3 false true 1 0 (.fin false 61440 0)).sat = true
      ∧ (convert1 6 true false 1 0 (.fin true 3 0)) = { code := 0, sat := true } ∧ (convert1 6 true false 1 0 (.fin true 1 (-1))).sat = false
      ∧ (pf4Elem false 0 (.fin false 6 0)).sat = false ∧ (pf4Elem false 0 (.fin true 7 0)) = { code := 15, sat := true }
      ∧ pf4Exp (.fin false 7 0) = 1 := by decide +kernel

/-! ### Outputs, adaptation, memory controller, TAP -/

/-- Job 7 closed and published, with a binding on channel 0 of port E. -/
def outJob : OutJob := { job := 5, part := 0, out := 0, port := 0, vc := 0, admitted := some true }
def outDev (j : Job) (o : OutJob) : Dev :=
  let d := loaded nopImage dev0
  { d with jobs := [j], out := { d.out with jobs := [o] } }
/-- Job 7 with a published verdict, read or not. -/
def judged (read : Bool) : Job := { job7 with isOpen := false, verdict := some read, pubVer := true, doneNamed := read }
theorem wit_release :
    (let d := outDev (judged true) outJob
    clocked d = true ∧ hasImage d 0 = true ∧ firstOn d 0 0 = some outJob ∧ jobOf d 5 = some (judged true) ∧ outJob.released = false
      ∧ (judged true).pubVer = true ∧ outJob.admitted = some true ∧ (txOf d 0).vcs[0].drop = none)
    ∧ (txOf (outDev (judged true) outJob) 0).vcs[0].header = true
    ∧ (let d := setTxVc (outDev (judged true) outJob) 0 0 (fun q => { q with header := false });
      (txOf d 0).vcs[0].header = false ∧ firstOn d 0 0 = some outJob)
    ∧ (outDev job7 outJob).jobs = [job7] ∧ job7.pubVer = false ∧ hasImage dev0 0 = false := by decide +kernel
theorem wit_page_end :
    (let o := { outJob with released := true }
    let d := outDev (judged false) o
    firstOn d 0 0 = some o ∧ (judged false).verdict ≠ some true ∧ o.admitted = some true ∧ o.firstLost = none)
    ∧ (let d := outDev (judged true) { outJob with released := true, firstLost := some 3 }
      (judged true).verdict = some true ∧ (judged true).doneNamed = true ∧ contextsDone d (judged true) = true) := by decide +kernel
/-- Port E RUN with an item on channel v. -/
def sending (v : Nat) (f : TxVc → TxVc) : Dev := setTxVc dev0 0 v f
/-- A record that came to wait in cycle 0 leaves in cycle 70; a frame packet at once. -/
theorem wit_send :
    clocked dev0 = true ∧ running (units [(0x18, .run)]) 0x18 = true ∧ (txOf dev0 0).held = false ∧ portDue (txOf dev0 0) = none
      ∧ (let t := txOf (sending 15 (fun q => { q with free := [{ bytes := [1] }] })) 0; portDue t = some 70 ∧ nextVc t 70 = some 15 ∧ nextVc t 69 = none)
      ∧ (let t := txOf (sending 0 (fun q => { q with q := [.frameStart 7] })) 0; portDue t = some 0 ∧ nextVc t 0 = some 0)
      ∧ (let t := txOf (sending 3 (fun q => { q with q := [.frameEnd 7] })) 0; portDue t = some 0 ∧ nextVc t 0 = some 3)
      ∧ (let t := txOf (sending 3 (fun q => { q with q := [.item { bytes := [1] }] })) 0; portDue t = some 70 ∧ nextVc t 70 = some 3)
      ∧ (let t := txOf (sending 3 (fun q => { q with q := [.item { bytes := [1] }], stream := some { bytes := [0] } })) 0; portDue t = some 70)
      ∧ (passCycles (units [(0x18, .run)]) dev0 (Nat.max 70 (txOf dev0 0).laneAt + hsEntry dev0 0 - dev0.clk.mono)).isSome = true
      ∧ (let t := txOf (setTx dev0 0 (fun t => { t with rest := some (3, [[1, 2], [3]]) })) 0; portDue t = some 0 ∧ t.rest = some (3, [[1, 2], [3]]))
      ∧ passCycles (units []) { dev0 with clk := { dev0.clk with offset := 4194303 } } 70 = none := by decide +kernel
theorem wit_hold :
    let d := setTx dev0 0 (fun t => { t with held := true })
    clocked d = true ∧ running (units [(0x18, .run)]) 0x18 = true ∧ (txOf d 0).held = true ∧ (txOf d 0).tmoDone = false ∧ cf d .oTiming 0 0 31 16 = 100
      ∧ (passCycles (units []) { d with clk := { d.clk with mono := 110000000 } } ((txOf d 0).heldAt + 1100000 * 100 - 110000000)).isSome = true
      ∧ passCycles (units []) d ((txOf d 0).heldAt + 1100000 * 100 - d.clk.mono) = none ∧ portDue (txOf dev0 0) = none
      ∧ (txOf dev0 0).held = false ∧ running (units []) 0x18 = false
      ∧ (let e := setTx dev0 0 (fun t => { t with hs := true });
        (passCycles (units [(0x18, .run)]) e ((txOf e 0).laneAt + byteCycles e 0 (16 * cf e .oTiming 0 0 15 8) - e.clk.mono)).any (fun u =>
          (txOf u 0).hs && portDue (txOf u 0) == none) = true)
      ∧ (let t : TxPort := { hs := true, wire := [.record 3 [1], .cropLine 3 [2], .cropLine 3 [4]], leaving := [(0, 1), (5, 2), (9, 1)] };
        (t.wire.drop ((t.leaving.takeWhile (fun p => decide (p.1 ≤ 3))).length + 1)) = [.cropLine 3 [4]]) := by decide +kernel
/-- An adaptation region of 1 MiB from 0, its state area at 4,096 of 256 bytes, the checkpoint at 0; DDR5 READY. -/
def adaptDev (f : Adapt → Adapt) : Dev :=
  { dev0 with
    regs := [(addrOf .dRegSize 3 0, 1), (addrOf .aStateBase 0 0, 16), (addrOf .aStateSize 0 0, 1)]
    ddr := { dev0.ddr with state := .ready }, adapt := f dev0.adapt }
theorem wit_adapt_area : let d := adaptDev (fun a => { a with copy := 1 })
    alive d = true ∧ d.adapt.copy = 1 ∧ d.adapt.copyAt ≤ d.clk.mono ∧ meetsClaims (units []) d (ckptAt d) (256 + 256) = false ∧ d.ecc = [] ∧ stateArea d = (4096, 256) ∧ ckptAt d = 0 ∧ inRegions d regsAdapt 4096 256 = true
      ∧ inRegions d regsAdapt 0 256 = true ∧ inRegions d regsAdapt 0 64 = true ∧ inRegions d regsAdapt 256 256 = true
      ∧ (adaptDev (fun a => { a with copy := 2, broken := true })).adapt.copy = 2 ∧ running (units [(0, .run)]) (adaptPart d) = true
      ∧ running (units []) (adaptPart d) = false := by decide +kernel
/-- The staging range guarded, a fill or a run under way. -/
def staging (f : Adapt → Adapt) : Dev := { startable with adapt := f startable.adapt }
theorem wit_staging :
    (let d := staging (fun a => { a with ready := false, filling := true })
    alive d = true ∧ running (units [(0x1D, .run)]) 0x1D = true ∧ (adaptGuard d).adapt.filling = true)
    ∧ (let d := staging (fun a => { a with run := .active, epochs := 1 })
      (adaptGuard d).adapt.run = .active ∧ (adaptGuard d).adapt.ready = true ∧ (adaptGuard d).adapt.staged = none ∧ d.adapt.spos < setCount d ∧ d.ecc = []
        ∧ d.adapt.stageAt ≤ d.clk.mono)
    ∧ (let d := staging (fun a => { a with run := .active, epochs := 1, spos := 1 }); setCount d ≤ d.adapt.spos ∧ d.adapt.epochs ≤ d.adapt.sIdx + 1) := by
  decide +kernel
/-- A staging range over one sample of 4 bytes at byte 64 of DDR5, its entry at byte 0. -/
def sampled : Dev :=
  let d := staging (fun a => { a with run := .active, epochs := 1, perm := [0] })
  let entry := leBytes 8 64 ++ leBytes 4 4 ++ leBytes 4 (crc32c [1, 2, 3, 4]).toNat ++ leBytes 4 9 ++ List.replicate 12 0
  { d with
    mem := Memory.setAll (Memory.setAll d.mem (key 7 0) entry) (key 7 64) [1, 2, 3, 4]
    regs := (addrOf .dRegSize 3 0, 1) :: d.regs, ddr := { d.ddr with state := .ready, known := [(0, 1048576)] } }
theorem wit_sample :
    (fillSlots (units [(0x1D, .run)]) (batchSize sampled) (setCount sampled) sampled []).2 = [{ idx := 0, len := 4, tag := 9, data := [1, 2, 3, 4] }]
      ∧ sampled.adapt.staged = none ∧ sampled.adapt.spos < setCount sampled ∧ Memory.wf sampled.mem = true := by decide +kernel
theorem wit_swap : let d := staging (fun a => { a with run := .active, staged := some ⟨1, 1, 1, true, true, 0, 0⟩ })
    running (units [(0, .run)]) (adaptPart d) = true ∧ d.adapt.run = .active ∧ d.adapt.copy = 0 ∧ d.adapt.ready = true ∧ d.adapt.staged ≠ none := by decide +kernel
/-- A controller in training, and one READY with a region of 1 MiB and an error in its first word. -/
def training (course : Nat) : Dev := { dev0 with ddr := { dev0.ddr with state := .training, course } }
def scrubbing (flips : BitVec 72) : Dev := { ddr with regs := [(addrOf .dRegSize 0 0, 1)], ecc := [(key 7 0 / 8, flips)] }
theorem wit_ddr :
    alive (training 2) = true ∧ (training 2).ddr.state = .training ∧ courseRuns 2 7 = true ∧ courseRuns 2 6 = false ∧ courseRuns 0 6 = true ∧ courseRuns 1 2 = true
      ∧ courseRuns 1 1 = false ∧ (training 1).ddr.course = 1 ∧ (training 0).ddr.course = 0 ∧ (scrubbing 1).pwr.state = .run ∧ (scrubbing 1).ddr.state = .ready ∧ cf (scrubbing 1) .dScrub 0 0 7 0 ≠ 0
      ∧ nextScrub (scrubbing 1) 0 = some 0 ∧ eccIn (scrubbing 1) (key 7 0) 64 = [(key 7 0 / 8, 1)] ∧ (eccJudge 1).2 = 1 ∧ (eccJudge 3).2 = 2
      ∧ nextScrub (scrubbing 1) 16383 = some 16383 ∧ eccIn (scrubbing 1) (key 7 (16383 * 64)) 64 = [] ∧ { dev0.pwr with state := PState.idle }.state = .idle
      ∧ (passCycles (units []) (scrubbing 1) ((scrubbing 1).ddr.lastAt + 1100 - 0)).isSome = true ∧ (scrubbing 1).ddr.idleSr = false
      ∧ (passCycles (units []) (scrubbing 1) ((scrubbing 1).ddr.hotDue - 0)).isSome = true
      ∧ passCycles (units []) { scrubbing 1 with clk := { dev0.clk with offset := 4194303 } } 1100 = none := by
  decide +kernel
theorem wit_tap : let j : Jtag := { dev0.jtag with flash := true, busy := true, next := some 0x155 }
    dev0.jtag.flash = false ∧ dev0.jtag.ir = 0x02 ∧ j.flash = true ∧ j.busy = true ∧ j.next = some 0x155 ∧ (0x39 : Byte) ≠ 0x3A
    ∧ { dev0.jtag with ir := 0x01 }.ir = 0x01 ∧ { dev0.jtag with ir := 0x00 }.ir = 0x00 ∧ { dev0.pwr with resetLow := true }.resetLow = true ∧ dev0.pwr.resetLow = false := by decide

/-! ### The spec's worked figures -/

/-- R161's table: inputs at the edges of each format. -/
theorem test_convert_e4m3 :
    convert1 2 false false 1 0 (.fin false 464 0) = { code := 0x7E } ∧ convert1 2 false false 1 0 (.fin false 470 0) = { code := 0x7E, sat := true }
      ∧ convert1 2 false false 1 0 (.fin true 1000000 0) = { code := 0xFE, sat := true } ∧ convert1 2 false false 1 0 (.inf false) = { code := 0x7E, sat := true }
      ∧ convert1 2 false false 1 0 (.fin false 3 (-10)) = { code := 0x02 } ∧ convert1 2 false false 1 0 (.fin true 1 (-10)) = { code := 0x80, uflow := true } := by
  decide +kernel
theorem test_convert_e5m2 :
    convert1 3 false false 1 0 (.fin false 60000 0) = { code := 0x7B } ∧ convert1 3 false false 1 0 (.fin false 61440 0) = { code := 0x7B, sat := true }
      ∧ convert1 3 false true 1 0 (.fin false 61440 0) = { code := 0x7C, sat := true } := by decide +kernel
theorem test_convert_int8 :
    convert1 4 false false 1 (-1) (.fin false 253 (-2)) = { code := 0x7E } ∧ convert1 4 false false 1 (-1) (.fin true 255 (-2)) = { code := 0x81, sat := true }
      ∧ convert1 4 true false 1 (-1) (.fin true 255 (-2)) = { code := 0x81 } := by decide +kernel
theorem test_convert_bf16 :
    (convert1 1 false false 1 0 (f32 0x3F808000)).code = 0x3F80 ∧ (convert1 1 false false 1 0 (f32 0x3F818000)).code = 0x3F82 := by decide +kernel
/-- R470: 8 Gb x16 in one rank is 16 GiB, 24 Gb x16 in two is 96 GiB, 32 Gb x8 in one is 128 GiB. -/
theorem test_capacity : capGiB 0x0025 = 16 ∧ capGiB 0x1225 = 96 ∧ capGiB 0x0315 = 128 := by decide
/-- Window Operators, the axis table: outputs of a filter along an axis. -/
theorem test_axis : outSize 5 7 1 1 3 3 = some 5 ∧ outSize 5 7 1 1 0 0 = none ∧ outSize 5 7 1 1 1 0 = none ∧ outSize 16 2 5 1 0 0 = some 3
    ∧ outSize 5 3 1 4 4 4 = some 5 ∧ outSize 1 3 1 1 1 1 = some 1 := by decide +kernel
/-- R416: the provisional ID's fields. -/
theorem test_provisional_id : provId dev0 / 2 ^ 33 = 0x0C5E ∧ provId dev0 / 65536 % 65536 = 0x8384 ∧ provId dev0 % 4096 = 0x0A1 := by decide +kernel
/-- R48's codes. -/
theorem test_unit_codes : [UnitSt.disabled, .idle, .run, .halted, .faulted, .failed, .offline].map UnitSt.code = [0, 1, 2, 3, 4, 5, 6] := by decide

/-! ### Single commands -/

/-- The reply that a command leaves. -/
def reply (o : Host.Outcome State Fault Refusal) : Option Reply := match o with | .next t => some t.dev.i3c.reply | _ => none
/-- R428: HELLO with version 1.9 is answered with 1.3, stepping 0xA1, bank 0, part 0x8384. -/
theorem test_hello : reply (exec (.hello (hw 1 [1, 9, 0, 0])) (st [] dev0)) = some { opcode := 1, tag := 0x42, status := 0, payload := [1, 3, 0xA1, 0, 0x84, 0x83, 0, 0] } := by
  decide +kernel
/-- R43: SEQ_STITCH_PERIOD reads 4,194,304 at reset. -/
theorem test_read_period : reply (exec (.regRead (rd 0x10000 0)) (st [] dev0)) = some { opcode := 2, tag := 0x42, status := 0, payload := [0, 0, 0x40, 0] } := by
  decide +kernel
/-- R13: a reserved STITCH_PERIOD is refused with BAD_VALUE. -/
theorem test_bad_period : reply (exec (.regWrite (wr 0x10000 100)) (st [] dev0)) = some { opcode := 3, tag := 0x42, status := 0x0104, payload := [] } := by
  decide +kernel
/-- R58: PRICKING_LOAD into a DISABLED partition is a conflict. -/
theorem test_load_disabled : reply (exec (.prickingLoad (hw 0x10 (ld 0 1 224 0 []))) (st [] ddr)) = some { opcode := 0x10, tag := 0x42, status := 0x0200, payload := leBytes 4 0 } := by
  decide +kernel
/-- R421: a reply reads back with its CRC behind the payload. -/
theorem test_reply_bytes : (Reply.bytes { opcode := 3, tag := 0x42, status := 0x0104, payload := [] }).take 8 = [3, 0, 0x42, 0, 4, 1, 0, 0] := by decide +kernel
/-- A step takes the command at the front of the queue and leaves the rest. -/
theorem test_step : (match step { st [] dev0 with pending := [.rstdaa, .late] } with | .next t => (t.pending, t.dev.i3c.da) | _ => ([], 1)) = ([.late], 0) := by
  decide +kernel

end Sys2Proof.Tests
end

namespace Sys2Proof.Machine

/-! ### The bus: common commands (R415 to R418, R454) -/

/-- A direct common command to the device's own address is answered with its bytes, on the device that its effect leaves. -/
theorem onDev_directCmd_mine (s : State) (da : BitVec 7) (f : Dev → Dev × List Byte)
    (h : hears s.dev = true ∧ s.dev.i3c.da ≠ 0 ∧ s.dev.i3c.da = da) :
    onDev (fun _ d => directCmd d da f) s = .next { s with dev := answerBus (f s.dev).1 true (f s.dev).2 } := by
  obtain ⟨hh, h0, rfl⟩ := h
  rw [onDev_eq]
  have hmine : (hears s.dev && s.dev.i3c.da != 0 && s.dev.i3c.da == s.dev.i3c.da) = true := by
    rw [hh, bne_iff_ne.2 h0, beq_self_eq_true]; rfl
  simp only [directCmd, hmine, if_true]

/-- A direct common command to another address, or without an address, is not acknowledged. -/
theorem onDev_directCmd_other (s : State) (da : BitVec 7) (f : Dev → Dev × List Byte)
    (h : ¬ (hears s.dev = true ∧ s.dev.i3c.da ≠ 0 ∧ s.dev.i3c.da = da)) :
    onDev (fun _ d => directCmd d da f) s = .next { s with dev := answerBus s.dev false [] } := by
  rw [onDev_eq]
  have hother : (hears s.dev && s.dev.i3c.da != 0 && s.dev.i3c.da == da) = false := by
    rw [Bool.eq_false_iff]
    intro hc
    simp only [Bool.and_eq_true, bne_iff_ne, beq_iff_eq] at hc
    exact h ⟨hc.1.1, hc.1.2, hc.2⟩
  simp only [directCmd, hother, Bool.false_eq_true, if_false]

/-- GETMXDS names the speed of SLEEP in SLEEP only. -/
theorem getmxds_bytes (p : PState) : (if p == .sleep then [0x04, 0x04] else [0x00, 0x00] : List Byte) = if p = .sleep then [0x04, 0x04] else [0x00, 0x00] := by
  cases p <;> rfl

/-- The direct common commands of R416 to the device's own address. -/
theorem directCommands_mine (s : State) (da : BitVec 7) (h : hears s.dev = true ∧ s.dev.i3c.da ≠ 0 ∧ s.dev.i3c.da = da) :
    let ans := fun (e : Dev) (bytes : List Byte) => ({ s with dev := answerBus e true bytes } : State)
    exec (.getpid da) s = .next (ans s.dev (leBytes 6 (provId s.dev)))
      ∧ exec (.getbcr da) s = .next (ans s.dev [0x01]) ∧ exec (.getdcr da) s = .next (ans s.dev [0x00]) ∧ exec (.getcaps da) s = .next (ans s.dev [0x01])
      ∧ exec (.getmxds da) s = .next (ans s.dev (if s.dev.pwr.state = .sleep then [0x04, 0x04] else [0x00, 0x00]))
      ∧ exec (.getstatus da) s = .next (ans { s.dev with i3c := { s.dev.i3c with protErr := false } } (leBytes 2 (statusBits s.dev)))
      ∧ ∀ on ev, exec (.enecDisec false da on ev) s = .next (ans s.dev []) := by
  intro ans
  refine ⟨onDev_directCmd_mine s da _ h, onDev_directCmd_mine s da _ h, onDev_directCmd_mine s da _ h, onDev_directCmd_mine s da _ h, ?_,
    onDev_directCmd_mine s da _ h, fun on ev => onDev_directCmd_mine s da (fun d => (d, [])) h⟩
  rw [← getmxds_bytes]
  exact onDev_directCmd_mine s da _ h

/-- The direct common commands of R416 to any other address. -/
theorem directCommands_other (s : State) (da : BitVec 7) (h : ¬ (hears s.dev = true ∧ s.dev.i3c.da ≠ 0 ∧ s.dev.i3c.da = da)) (i : Instr)
    (hi : i = Instr.getpid da ∨ i = .getbcr da ∨ i = .getdcr da ∨ i = .getcaps da ∨ i = .getmxds da ∨ i = .getstatus da
      ∨ ∃ on ev, i = .enecDisec false da on ev) : exec i s = .next { s with dev := answerBus s.dev false [] } := by
  obtain rfl | rfl | rfl | rfl | rfl | rfl | ⟨on, ev, rfl⟩ := hi
  case inr.inr.inr.inr.inr.inr => exact onDev_directCmd_other s da (fun d => (d, [])) h
  all_goals exact onDev_directCmd_other s da _ h

/-- ENTDAA and SETDASA give an address to a device that has none, SETDASA at the static address only (R415). -/
theorem addressCommands_answer (s : State) (da static : BitVec 7) (hh : hears s.dev = true) :
    let d := s.dev
    let said := fun (ack : Bool) (out : List Byte) (i : I3c) => ({ s with dev := { d with i3c := { i with ack := ack, out := out } } } : State)
    (d.i3c.da = 0 → exec (.entdaa da) s = .next (said true (leBytes 6 (provId d) ++ [0x01, 0x00]) { d.i3c with da := da }))
      ∧ (d.i3c.da ≠ 0 → exec (.entdaa da) s = .next (said false [] d.i3c))
      ∧ (d.i3c.da = 0 → static = staticAddr d → exec (.setdasa static da) s = .next (said true [] { d.i3c with da := da }))
      ∧ (d.i3c.da ≠ 0 ∨ static ≠ staticAddr d → exec (.setdasa static da) s = .next (said false [] d.i3c)) := by
  intro d said
  have hnone : s.dev.i3c.da ≠ 0 → (s.dev.i3c.da == 0) = false := fun h => beq_eq_false_iff_ne.2 h
  refine ⟨fun h => ?_, fun h => ?_, fun h hs => ?_, fun h => ?_⟩
  · simp [exec, execEntdaa, onDev_eq, hh, d, show s.dev.i3c.da = 0 from h, said, answerBus, bcr, dcr]
  · simp only [exec, execEntdaa, onDev_eq, hh, hnone h, Bool.and_false, Bool.false_eq_true, if_false]
    rfl
  · simp [exec, execSetdasa, onDev_eq, hh, d, show s.dev.i3c.da = 0 from h, hs, said, answerBus]
  · have hno : (s.dev.i3c.da == 0 && static == staticAddr s.dev) = false := by
      obtain h | h := h
      · rw [hnone h, Bool.false_and]
      · rw [beq_eq_false_iff_ne.2 h, Bool.and_false]
    simp only [exec, execSetdasa, onDev_eq, Bool.and_assoc, hno, Bool.and_false, Bool.false_eq_true, if_false]
    rfl

/-- A broadcast RSTACT of 0 to 2 chooses the next reset pattern's action; another value is not acknowledged (R417, log entry 55). -/
theorem rstact_broadcast (s : State) (da : BitVec 7) (act : Byte) (hh : hears s.dev = true) :
    exec (.rstact true da act) s = .next { s with dev :=
      if act.toNat ≤ 2 then { s.dev with i3c := { s.dev.i3c with rstact := act, ack := true, out := [] } } else answerBus s.dev false [] } := by
  by_cases h : act.toNat ≤ 2
  · simp [exec, execRstact, onDev_eq, hh, h, answerBus]
  · simp [exec, execRstact, onDev_eq, h]

/-- Settles O41: a direct command is answered where `directCmd` takes it, and each of the others changes its one field of the bus. -/
theorem commonCommandsAnswer : Obligations.CommonCommandsAnswer := by
  unfold Obligations.CommonCommandsAnswer
  refine ⟨fun da s => ⟨fun h => directCommands_mine s da h, fun h i hi => directCommands_other s da h i hi⟩,
    fun da static act s => ⟨fun hh => ?_, fun hp => ?_⟩⟩
  · obtain ⟨hent, hent', hset, hset'⟩ := addressCommands_answer s da static hh
    refine ⟨hent, hent', hset, hset', ?_, ?_, fun h => ?_, fun h => ?_⟩
    · simp [exec, execRstdaa, onDev_eq, hh, answerBus]
    · simp [exec, execEnthdr0, onDev_eq, hh, answerBus]
    · rw [rstact_broadcast s da act hh, if_pos h]
    · rw [rstact_broadcast s da act hh, if_neg (by omega)]; rfl
  · simp [exec, execHdrExitPattern, onDev_eq, hp]

/-! ### Committed and shadow words -/

/-- A committed word rests on the list of committed words only. -/
theorem comAt_congr {d e : Dev} (h : e.regs = d.regs) (q : RegAt) (a : Nat) : comAt e q a = comAt d q a := by
  unfold comAt; rw [h]

/-- A shadow word of a register commits by being stored in it; a channel that gets its next number is fit to open jobs again besides. -/
theorem commitWord_stores (d : Dev) (e : Nat × Word) (r : RegAt) (h : regAt e.1 = some r) :
    ∃ d', d'.regs = d.regs ∧ d'.shadow = d.shadow ∧ commitWord d e = putCom d' r.row.reg r.i r.j e.2.toNat := by
  unfold commitWord
  rw [h]
  dsimp only
  split
  · exact ⟨setVc d r.i r.j fun q => { q with seqEnd := false }, rfl, rfl, rfl⟩
  · exact ⟨d, rfl, rfl, rfl⟩

/-- A shadow word that commits is its register's committed word, and every other register keeps its own. -/
theorem comAt_commitWord (d : Dev) (e : Nat × Word) (r : RegAt) (h : regAt e.1 = some r) (h4 : e.1 % 4 = 0) (q : RegAt) (a : Nat) :
    comAt (commitWord d e) q a =
      if a = e.1 then (if e.2.toNat = resetWord r.row.fields then resetWord q.row.fields else e.2.toNat) else comAt d q a := by
  obtain ⟨haddr, hrow, -⟩ := regAt_addr _ _ h
  obtain ⟨d', hregs, -, hput⟩ := commitWord_stores d e r h
  have ha : addrOf r.row.reg r.i r.j = e.1 := by omega
  rw [hput, comAt_putCom d' _ _ _ _ q a e.2.isLt, ha, hrow, comAt_congr hregs]

/-- Committing a shadow word takes no shadow away and adds none. -/
theorem commitWord_shadow (d : Dev) (e : Nat × Word) : (commitWord d e).shadow = d.shadow := by
  unfold commitWord
  split
  · rfl
  · dsimp only
    split <;> rfl

/-- Shadow words commit in a row without touching the shadow list. -/
theorem commitWords_shadow (l : List (Nat × Word)) (d : Dev) : (l.foldl commitWord d).shadow = d.shadow := by
  induction l generalizing d with
  | nil => rfl
  | cons e l ih => rw [List.foldl_cons, ih, commitWord_shadow]

/-- A register whose address is not among the shadow words keeps its committed word. -/
theorem comAt_commitWords_absent (l : List (Nat × Word)) (d : Dev) (hl : ∀ e ∈ l, e.1 % 4 = 0 ∧ ∃ r, regAt e.1 = some r)
    (q : RegAt) (a : Nat) (ha : a ∉ l.map (·.1)) : comAt (l.foldl commitWord d) q a = comAt d q a := by
  induction l generalizing d with
  | nil => rfl
  | cons e l ih =>
    obtain ⟨h4, r, hr⟩ := hl e List.mem_cons_self
    rw [List.map_cons, List.mem_cons, not_or] at ha
    rw [List.foldl_cons, ih _ (fun x hx => hl x (List.mem_cons_of_mem _ hx)) ha.2, comAt_commitWord d e r hr h4, if_neg ha.1]

/-- Of shadow words at distinct addresses each is its register's committed word in the end. -/
theorem comAt_commitWords_mem (l : List (Nat × Word)) (d : Dev) (hn : (l.map (·.1)).Nodup)
    (hl : ∀ e ∈ l, e.1 % 4 = 0 ∧ ∃ r, regAt e.1 = some r) (e : Nat × Word) (he : e ∈ l) (r : RegAt) (hr : regAt e.1 = some r) :
    comAt (l.foldl commitWord d) r e.1 = e.2.toNat := by
  induction l generalizing d with
  | nil => cases he
  | cons x l ih =>
    rw [List.map_cons, List.nodup_cons] at hn
    have htail := fun y hy => hl y (List.mem_cons_of_mem _ hy)
    rw [List.foldl_cons]
    obtain rfl | he := List.mem_cons.1 he
    · rw [comAt_commitWords_absent l _ htail r _ hn.1, comAt_commitWord d e r hr (hl e List.mem_cons_self).1, if_pos rfl]
      split
      · rename_i h; exact h.symm
      · rfl
    · exact ih _ hn.2 htail he

/-- The words that stay in force for Tambours up to their effect edge change Tambours only. -/
theorem holdTambs_tambours (l : List (Nat × Word)) (ts : List Nat) (d : Dev) : TamboursOnly d (ts.foldl (holdTamb l) d) := by
  induction ts generalizing d with
  | nil => exact TamboursOnly.refl d
  | cons t ts ih => exact (tamboursOnly_setTamb d t _).trans (ih _)

/-- Settles O8: the shadow words commit one by one, each to its own address, so at distinct addresses they commit as one. -/
theorem pendingShadowsCommitTogether : Obligations.PendingShadowsCommitTogether := by
  unfold Obligations.PendingShadowsCommitTogether
  intro d hn hl
  have hheld : ∀ (q : RegAt) (a : Nat), comAt { (List.range 4).foldl (holdTamb d.shadow) d with shadow := [] } q a = comAt d q a :=
    fun q a => comAt_congr (by rw [holdTambs_tambours d.shadow (List.range 4) d]) q a
  unfold commitShadows
  refine ⟨commitWords_shadow _ _, fun e he r hr => comAt_commitWords_mem _ _ hn hl e he r hr, fun q a ha => ?_⟩
  dsimp only
  rw [comAt_commitWords_absent _ _ hl q a ha, hheld]

end Sys2Proof.Machine

namespace Sys2Proof.Machine

/-! ### Refused register writes (R12, R13, R423) -/

/-- A REG_WRITE of eight bytes that is well formed passes checks 1 to 4; checks 5 and 6 are left. -/
theorem regWrite_packetStatus (d : Dev) (k : Pkt) (hlen : pktLenOk k = true) (hcrc : pktCrcOk 0x0003 k = true) (h8 : k.payload.length = 8)
    (hz : k.rsvd = 0) : packetStatus d rowRegWrite writeBody k =
      if writeBody d k.payload = false then some stValue else if served d rowRegWrite = false then some stOffline else none := by
  have hcrc' : pktCrcOk rowRegWrite.op.toNat k = true := hcrc
  have hm : ¬ d.i3c.minor.toNat < rowRegWrite.minor := Nat.not_lt_zero _
  have hlo : ¬ (8 : Nat) < rowRegWrite.least := by decide
  have hhi : ¬ rowRegWrite.most < (8 : Nat) := by decide
  unfold packetStatus
  simp only [hlen, hcrc', hm, h8, hlo, hhi, hz]
  cases writeBody d k.payload <;> cases served d rowRegWrite <;> simp

/-- What check 5 of a REG_WRITE of a register asks: that no reserved encoding is placed. -/
theorem writeBody_reg (d : Dev) (b : List Byte) (r : RegAt) (ha : fld b 0 4 < 0x200000) (hr : regAt (fld b 0 4 / 4 * 4) = some r) :
    writeBody d b = !reservedWrite d r (fld b 4 4) := by
  unfold writeBody
  rw [hr, decide_eq_true ha, Bool.true_and]

/-- A packet that is taken has passed check 5. -/
theorem taken_body {d : Dev} {r : CmdRow} {ok : Dev → List Byte → Bool} {w : HostWrite} (h : taken d r ok w) : ok (heard d) w.pkt.payload = true := by
  obtain ⟨-, hp⟩ := h
  by_contra hb
  rw [Bool.not_eq_true] at hb
  unfold packetStatus at hp
  simp only [hb] at hp
  split_ifs at hp
  simp_all

/-- A register write that is taken places no reserved encoding. -/
theorem taken_notReserved {d : Dev} {w : HostWrite} {r : RegAt} (h : taken d rowRegWrite writeBody w) (ha : fld w.pkt.payload 0 4 < 0x200000)
    (hr : regAt (fld w.pkt.payload 0 4 / 4 * 4) = some r) : reservedWrite (atRegs d) r (fld w.pkt.payload 4 4) = false := by
  have hb := taken_body h
  rw [writeBody_reg _ _ r ha hr] at hb
  rw [show reservedWrite (atRegs d) r _ = _ from reservedWrite_guard (heard d) r _]
  simpa using hb

/-- A register write that fails a check ends with that check's reply. -/
theorem regWriteCmd_refused (c : Units) (d : Dev) (w : HostWrite) (st : Nat) (h : reaches d w.da w.hdr = true)
    (h2 : packetStatus (heard d) rowRegWrite writeBody w.pkt = some st) : regWriteCmd c d w = refusePacket (heard d) 0x0003 w.pkt.tag st := by
  unfold regWriteCmd hostCmd
  exact takeCmd_ref _ _ _ _ _ st h h2

/-- A register write that is taken: the write at the registers, then the reply. -/
theorem regWrite_taken (s : State) (w : HostWrite) (h : taken s.dev rowRegWrite writeBody w) (ha : fld w.pkt.payload 0 4 < 0x100000) :
    exec (.regWrite w) s =
      let x := regWriteAt s.committed (atRegs s.dev) (fld w.pkt.payload 0 4) (fld w.pkt.payload 4 4)
      answered s w 0x0003 x.2 [] x.1 := by
  show onDev (fun c d => regWriteCmd c d w) s = _
  rw [onDev_eq, regWriteCmd_taken _ _ _ h, doWrite_reg _ _ _ _ ha]
  rfl

/-- A write that would change an RWL field of an enabled unit meets its lock, whatever is requested. -/
theorem lockedWrite_on (c : Units) (d : Dev) (r : RegAt) (a v u : Nat) (f : FieldDef) (hu : lockUnit r = some u) (hf : f ∈ r.row.fields)
    (hacc : f.acc = .rwl) (hne : bitsOf v f.hi f.lo ≠ bitsOf (comAt d r a) f.hi f.lo) (hon : unitOn c u = true) :
    lockedWrite c d r a v = true := by
  unfold lockedWrite
  simp only [hu, hon, Bool.true_and, List.any_eq_true]
  exact ⟨f, hf, by rw [hacc, bne_iff_ne.2 hne]; rfl⟩

/-- The lock of a unit that is committed disabled does not apply. -/
theorem lockedWrite_off (c : Units) (d : Dev) (r : RegAt) (a v u : Nat) (hu : lockUnit r = some u) (hoff : unitOn c u = false) :
    lockedWrite c d r a v = false := by
  unfold lockedWrite
  simp only [hu, hoff, Bool.false_and]

/-- A lock is a conflict. -/
theorem conflictWrite_of_locked (c : Units) (d : Dev) (r : RegAt) (a v : Nat) (h : lockedWrite c d r a v = true) :
    conflictWrite c d r a v = true := by
  unfold conflictWrite
  rw [h, Bool.true_or, Bool.true_or]

/-- Settles O14: check 5 stands ahead of check 6 in `packetStatus`, `regWriteAt` returns the device unchanged on a conflict, and the lock
reads the committed register, which no request touches. -/
theorem refusedWritesAreRefusedWhole : Obligations.RefusedWritesAreRefusedWhole := by
  unfold Obligations.RefusedWritesAreRefusedWhole
  refine ⟨?_, fun c d r a v u f hu hf hacc hne => ⟨fun hon q => ?_, lockedWrite_off c d r a v u hu⟩⟩
  · intro s w r d a v h hreach hlen hcrc h8 hz ha hr
    have hbody : writeBody h w.pkt.payload = !reservedWrite h r v := writeBody_reg h _ r (show a < _ by omega) hr
    have hps := regWrite_packetStatus h w.pkt hlen hcrc h8 hz
    rw [hbody] at hps
    refine ⟨fun hres => ?_, fun hres hserved hconf => ?_⟩
    · rw [hres] at hps
      show onDev (fun c d => regWriteCmd c d w) s = _
      rw [onDev_eq, regWriteCmd_refused _ _ _ stValue hreach (by simpa using hps)]
      rfl
    · have hserved' : served h rowRegWrite = true := hserved
      rw [hres, hserved'] at hps
      rw [regWrite_taken s w ⟨hreach, by simpa using hps⟩ ha,
        regWriteAt_conflict _ _ _ _ r hr (by rw [show reservedWrite d r v = _ from reservedWrite_guard h r v]; exact hres) hconf]
      rfl
  · exact conflictWrite_of_locked _ _ _ _ _ (lockedWrite_on c (setReq d u q) r a v u f hu hf hacc hne hon)

end Sys2Proof.Machine

namespace Sys2Proof.Machine

/-! ### Accepted register writes (R10 to R13, R33, R95, R120, R302) -/

/-- The requests that a shadow write makes are all that it changes beside its shadow. -/
theorem ask_frame (c : Units) (d : Dev) (r : RegAt) (v : Nat) : ask c d r v = { d with req := (ask c d r v).req } := by
  unfold ask
  split
  · rfl
  · split
    · rfl
    · unfold extentReq
      split_ifs <;> rfl
    · rfl

/-- Only BOBn_CTRL has a field that a shadow write does not store, and it alone may ask nothing. -/
theorem shadowWrite_stores (c : Units) (d : Dev) (r : RegAt) (a v : Nat) (h : r.row.reg ≠ .bCtrl) :
    shadowWrite c d r a v = (putSha (ask c d r v) r.row.reg r.i r.j (storedBits r.row.fields v), stDeferred) := by
  have hb : (r.row.reg == Reg.bCtrl) = false := beq_eq_false_iff_ne.2 h
  unfold shadowWrite storedWord
  simp only [hb, Bool.false_and, Bool.false_eq_true, if_false]

/-- The row of a register bears its name. -/
theorem rowOf_reg (r : Reg) : (rowOf r).reg = r := by
  unfold rowOf
  cases h : regTable.find? (fun x => x.reg == r) with
  | none => rfl
  | some x => simpa using List.find?_some h

/-- The registers with one index that act at once when they are written and keep no number: RW registers and those with W1C bits. -/
def directRegs : List Reg := [.winBase, .tCoefIndex, .kCtxSel, .tStatus, .clkStatus, .oStatus, .summary]

theorem directRegs_found : directRegs.all (fun r => (rowOf r).fields.all (fun f => !f.shadowed) && (List.range (rowOf r).n1).all (fun i =>
    regAt (addrOf r i 0) == some ⟨rowOf r, i, 0⟩)) = true := by decide +kernel

/-- A register that acts at once lies at its address and has no shadow. -/
theorem regAt_direct (r : Reg) (i : Nat) (hr : r ∈ directRegs) (hi : i < (rowOf r).n1) :
    regAt (addrOf r i 0) = some ⟨rowOf r, i, 0⟩ ∧ (rowOf r).fields.any FieldDef.shadowed = false := by
  have h := directRegs_found
  simp only [List.all_eq_true, beq_iff_eq, List.mem_range, Bool.and_eq_true, Bool.not_eq_true'] at h
  obtain ⟨hf, ha⟩ := h r hr
  exact ⟨ha i hi, List.any_eq_false.2 fun f hm => by rw [hf f hm]; decide⟩

/-- The row of pattern RAM. -/
theorem rowOf_pgRam : rowOf .tPgRam = ⟨.tPgRam, 0x22000, 4, 16384, 2048, 4, [fd 31 16 .rw 0, fd 15 0 .rw 0]⟩ := by decide +kernel

/-- A row that lies below the Tambours, or in the part of a Tambour's block below its pattern RAM. -/
def belowPgRam (x : RegRow) : Bool :=
  x.base + (x.n1 - 1) * x.s1 + (x.n2 - 1) * x.s2 < 0x20000 || (x.s1 == 0x4000 && 0x20000 ≤ x.base && x.base + (x.n2 - 1) * x.s2 < 0x22000)

theorem belowPgRam_rows : (regTable.takeWhile (fun x => x.reg != .tPgRam)).all belowPgRam = true := by decide +kernel

/-- Such a row has no register in pattern RAM. -/
theorem at?_pgRam (x : RegRow) (h : belowPgRam x = true) (t j : Nat) (hj : j < 2048) : x.at? (0x22000 + t * 0x4000 + j * 4) = none := by
  rw [Option.eq_none_iff_forall_ne_some]
  intro r hr
  obtain ⟨-, ha, hi, hj'⟩ := at?_addr x _ r hr
  have h2 : r.j * x.s2 ≤ (x.n2 - 1) * x.s2 := Nat.mul_le_mul_right _ (by omega)
  unfold belowPgRam at h
  simp only [Bool.or_eq_true, Bool.and_eq_true, decide_eq_true_eq, beq_iff_eq] at h
  obtain h | ⟨⟨hs, hlo⟩, hhi⟩ := h
  · have h1 : r.i * x.s1 ≤ (x.n1 - 1) * x.s1 := Nat.mul_le_mul_right _ (by omega)
    omega
  · rw [hs] at ha
    omega

/-- Every word of pattern RAM lies at its address. -/
theorem regAt_pgRam (t j : Nat) (ht : t < 4) (hj : j < 2048) : regAt (addrOf .tPgRam t j) = some ⟨rowOf .tPgRam, t, j⟩ := by
  have haddr : addrOf .tPgRam t j / 4 * 4 = 0x22000 + t * 0x4000 + j * 4 := by
    unfold addrOf
    rw [rowOf_pgRam]
    dsimp only
    omega
  have hsplit : regTable = regTable.takeWhile (fun x => x.reg != .tPgRam)
      ++ rowOf .tPgRam :: regTable2 ++ regTable3 ++ regTable4 ++ regTable5 ++ regTable6 := by
    decide +kernel
  unfold regAt
  rw [haddr, List.findSome?_eq_some_iff]
  refine ⟨_, _, regTable2 ++ regTable3 ++ regTable4 ++ regTable5 ++ regTable6, by simpa using hsplit, ?_, fun x hx =>
    at?_pgRam x (List.all_eq_true.1 belowPgRam_rows x hx) t j hj⟩
  rw [rowOf_pgRam]
  have hlo : ¬ 0x22000 + t * 0x4000 + j * 4 < 0x22000 := by omega
  have hi : (0x22000 + t * 0x4000 + j * 4 - 0x22000) / 16384 = t := by omega
  have hj2 : (0x22000 + t * 0x4000 + j * 4 - 0x22000) % 16384 = j * 4 := by omega
  unfold RegRow.at?
  simp [hlo, hi, hj2, ht, hj]

/-- A write of one of these registers meets no lock, request rule or state rule. -/
theorem conflictWrite_direct (c : Units) (d : Dev) (r : RegAt) (a v : Nat) (h : r.row.reg ∈ directRegs) : conflictWrite c d r a v = false := by
  simp only [directRegs, List.mem_cons, List.not_mem_nil, or_false] at h
  obtain h | h | h | h | h | h | h := h <;> simp only [conflictWrite, lockedWrite, lockUnit, ruleRefuses, enableUnit, h, Bool.or_false]

/-- These registers and pattern RAM clear no counters. -/
theorem clearCounts_direct (d : Dev) (r : RegAt) (v : Nat) (h : r.row.reg ∈ Reg.tPgRam :: directRegs) : clearCounts d r v = d := by
  simp only [directRegs, List.mem_cons, List.not_mem_nil, or_false] at h
  obtain h | h | h | h | h | h | h | h := h <;> simp [clearCounts, h]

theorem direct_notPort : ∀ r ∈ directRegs, (r == Reg.tCoefData || r == Reg.tPgRam) = false := by decide

/-- A write of one of these registers, taken: its effect at once, and the reply OK. -/
theorem regWrite_direct (s : State) (w : HostWrite) (r : Reg) (i : Nat) (hr : r ∈ directRegs) (hi : i < (rowOf r).n1)
    (h : taken s.dev rowRegWrite writeBody w) (hlt : fld w.pkt.payload 0 4 < 0x100000) (ha : fld w.pkt.payload 0 4 / 4 * 4 = addrOf r i 0) :
    exec (.regWrite w) s = answered s w 0x0003 stOk [] (clearBits (actNow s.committed (atRegs s.dev) ⟨rowOf r, i, 0⟩
      (if (rowOf r).fields.any FieldDef.stored then storedBits (rowOf r).fields (fld w.pkt.payload 4 4) else fld w.pkt.payload 4 4))
      ⟨rowOf r, i, 0⟩ (fld w.pkt.payload 4 4)) := by
  obtain ⟨hreg, hsh⟩ := regAt_direct r i hr hi
  rw [← ha] at hreg
  have hmem : (⟨rowOf r, i, 0⟩ : RegAt).row.reg ∈ directRegs := by rw [rowOf_reg]; exact hr
  have hport : ((rowOf r).reg == Reg.tCoefData || (rowOf r).reg == Reg.tPgRam) = false := by rw [rowOf_reg]; exact direct_notPort r hr
  rw [regWrite_taken s w h hlt, regWriteAt_now _ _ _ _ _ hreg (taken_notReserved h (by omega) hreg) (conflictWrite_direct _ _ _ _ _ hmem) hsh]
  simp only [hport, Bool.false_eq_true, if_false, clearCounts_direct _ ⟨rowOf r, i, 0⟩ _ (List.mem_cons_of_mem _ hmem)]

/-- Replacing the digit at place m, of base n, leaves a number below m * n * k below it. -/
theorem replaceDigit_lt (m n k w x : Nat) (hm : 0 < m) (hn : 0 < n) (hw : w < m * (n * k)) : w - w / m % n * m + x % n * m < m * (n * k) := by
  have htop : w / m / n < k := Nat.div_lt_of_lt_mul (Nat.div_lt_of_lt_mul hw)
  have hdigits : w = m * (n * (w / m / n) + w / m % n) + w % m := by rw [Nat.div_add_mod, Nat.div_add_mod]
  have hrest : w - w / m % n * m = m * (n * (w / m / n)) + w % m := by
    have : m * (n * (w / m / n) + w / m % n) = m * (n * (w / m / n)) + w / m % n * m := by ring
    omega
  calc w - w / m % n * m + x % n * m = m * (n * (w / m / n) + x % n) + w % m := by rw [hrest]; ring
    _ < m * (n * (w / m / n) + x % n) + m := Nat.add_lt_add_left (Nat.mod_lt w hm) _
    _ = m * (n * (w / m / n) + x % n + 1) := by ring
    _ ≤ m * (n * (w / m / n) + n) := Nat.mul_le_mul_left m (by have := Nat.mod_lt x hn; omega)
    _ = m * (n * (w / m / n + 1)) := by ring
    _ ≤ m * (n * k) := Nat.mul_le_mul_left m (Nat.mul_le_mul_left n htop)

/-- A field below bit 32 that is placed in a word leaves a word. -/
theorem putField_lt (w hi lo x : Nat) (hw : w < 2 ^ 32) (hl : lo ≤ hi) (hh : hi < 32) : putField w hi lo x < 2 ^ 32 := by
  have hp : (2 : Nat) ^ 32 = 2 ^ lo * (2 ^ (hi + 1 - lo) * 2 ^ (31 - hi)) := by
    rw [← pow_add, ← pow_add]
    congr 1
    omega
  rw [hp] at hw ⊢
  exact replaceDigit_lt _ _ _ w x (by positivity) (by positivity) hw

/-- The stored word of a write is a word. -/
theorem storedBits_lt (fs : List FieldDef) (v : Nat) (h : ∀ f ∈ fs, f.lo ≤ f.hi ∧ f.hi < 32) : storedBits fs v < 2 ^ 32 := by
  unfold storedBits
  refine foldl_inv (· < 2 ^ 32) _ fs (fun w f hf hw => ?_) 0 (by decide)
  obtain ⟨hl, hh⟩ := h f hf
  split
  · exact putField_lt w f.hi f.lo _ hw hl hh
  · exact hw

/-- The RW registers with fields of their own. -/
theorem rwRegs_fields : ∀ r ∈ [Reg.winBase, .tCoefIndex, .kCtxSel], r ∈ directRegs ∧ (rowOf r).fields.any FieldDef.stored = true
    ∧ ∀ f ∈ (rowOf r).fields, f.lo ≤ f.hi ∧ f.hi < 32 := by decide +kernel

/-- A write of an RW register stores its fields, and nothing else changes. -/
theorem regWrite_rw (s : State) (w : HostWrite) (r : Reg) (i : Nat) (hr : r ∈ [Reg.winBase, .tCoefIndex, .kCtxSel]) (hi : i < (rowOf r).n1)
    (h : taken s.dev rowRegWrite writeBody w) (hlt : fld w.pkt.payload 0 4 < 0x100000) (ha : fld w.pkt.payload 0 4 / 4 * 4 = addrOf r i 0) :
    exec (.regWrite w) s = answered s w 0x0003 stOk [] (putCom (atRegs s.dev) r i 0 (storedBits (rowOf r).fields (fld w.pkt.payload 4 4))) := by
  obtain ⟨hdir, hst, -⟩ := rwRegs_fields r hr
  rw [regWrite_direct s w r i hdir hi h hlt ha, if_pos hst]
  simp only [List.mem_cons, List.not_mem_nil, or_false] at hr
  obtain rfl | rfl | rfl := hr <;> simp only [actNow, clearBits, rowOf_reg]

/-- A committed word that is stored leaves every other listed. -/
theorem assoc_putCom_other (d : Dev) (r : Reg) (i j v x : Nat) (h : x ≠ addrOf r i j) : assoc (putCom d r i j v).regs x = assoc d.regs x := by
  unfold putCom
  dsimp only
  split
  · rw [assoc_del, if_neg h]
  · rw [assoc_put_ne _ _ _ _ h, assoc_del, if_neg h]

/-- A committed word that is stored reads as it was written. -/
theorem com_putCom (d : Dev) (r : Reg) (i j v : Nat) (hv : v < 2 ^ 32) : com (putCom d r i j v) r i j = v := by
  unfold com
  dsimp only
  rw [comAt_putCom d r i j v _ _ hv, if_pos rfl]
  split
  · rename_i h; exact h.symm
  · rfl

/-- A write of a word of pattern RAM, taken: the word is stored, or PATTERN is in force and it is a conflict. -/
theorem regWrite_pgRam (s : State) (w : HostWrite) (t j : Nat) (ht : t < 4) (hj : j < 2048) (h : taken s.dev rowRegWrite writeBody w)
    (hlt : fld w.pkt.payload 0 4 < 0x100000) (ha : fld w.pkt.payload 0 4 / 4 * 4 = addrOf .tPgRam t j) :
    exec (.regWrite w) s = if (tambOf (atRegs s.dev) t).active = 2 then answered s w 0x0003 stConflict [] (atRegs s.dev)
      else answered s w 0x0003 stOk [] (store s.committed (atRegs s.dev) whoCmd (key (40 + t) (4 * j)) (leBytes 4 (fld w.pkt.payload 4 4))) := by
  have hreg := regAt_pgRam t j ht hj
  rw [← ha] at hreg
  have hrow : (rowOf .tPgRam).reg = .tPgRam := rowOf_reg _
  have hres := taken_notReserved h (by omega) hreg
  have hconf : conflictWrite s.committed (atRegs s.dev) ⟨rowOf .tPgRam, t, j⟩ (fld w.pkt.payload 0 4 / 4 * 4) (fld w.pkt.payload 4 4)
      = ((tambOf (atRegs s.dev) t).active == 2) := by
    simp only [conflictWrite, lockedWrite, lockUnit, ruleRefuses, enableUnit, hrow, Bool.or_false, Bool.false_or]
  rw [regWrite_taken s w h hlt]
  split
  · rename_i hact
    rw [regWriteAt_conflict _ _ _ _ _ hreg hres (by rw [hconf, beq_iff_eq]; exact hact)]
  · rename_i hact
    rw [regWriteAt_now _ _ _ _ _ hreg hres (by rw [hconf, beq_eq_false_iff_ne]; exact hact) (by rw [rowOf_pgRam]; rfl)]
    simp only [clearCounts_direct _ ⟨rowOf .tPgRam, t, j⟩ _ (by rw [hrow]; exact List.mem_cons_self), clearBits, actNow, hrow, beq_self_eq_true,
      Bool.or_true, if_true]

/-- A W1C bit stands after a write where it stood and was not cleared, or was set in that very cycle (R11). -/
theorem w1c_iff (d : Dev) (b one : Bool) (at_ : Option Nat) : w1c d b at_ one = true ↔ b = true ∧ (one = true → at_ = some d.clk.mono) := by
  unfold w1c
  cases one <;> simp

/-- A write of a register with shadowed fields, taken and carried out, other than of BOBn_CTRL. -/
theorem regWrite_shadowed (s : State) (w : HostWrite) (r : RegAt) (h : taken s.dev rowRegWrite writeBody w) (hlt : fld w.pkt.payload 0 4 < 0x100000)
    (hr : regAt (fld w.pkt.payload 0 4 / 4 * 4) = some r) (hsh : r.row.fields.any FieldDef.shadowed = true) (hne : r.row.reg ≠ .bCtrl)
    (hc : conflictWrite s.committed (atRegs s.dev) r (fld w.pkt.payload 0 4 / 4 * 4) (fld w.pkt.payload 4 4) = false) :
    exec (.regWrite w) s = answered s w 0x0003 stDeferred [] (putSha (ask s.committed (atRegs s.dev) r (fld w.pkt.payload 4 4)) r.row.reg r.i r.j
      (storedBits r.row.fields (fld w.pkt.payload 4 4))) := by
  rw [regWrite_taken s w h hlt, regWriteAt_shadow _ _ _ _ r hr (taken_notReserved h (by omega) hr) hc hsh, shadowWrite_stores _ _ _ _ _ hne]

/-- Settles O13: a write with shadowed fields is `putSha`, one of an RW register `putCom`, one of a status register `clearBits`, each by the one
equation of `regWriteAt` for its kind. -/
theorem shadowedWritesWaitForTheBoundary : Obligations.ShadowedWritesWaitForTheBoundary := by
  unfold Obligations.ShadowedWritesWaitForTheBoundary
  refine ⟨?_, ?_⟩
  · intro s w r d a v htk hlt hr hsh hne hc
    obtain ⟨hregs, hshadow, -, hmem, -⟩ := atRegs_frame s.dev
    have haddr : addrOf r.row.reg r.i r.j = a / 4 * 4 := by
      have := (regAt_addr _ _ hr).1
      omega
    have hsha : ∀ x, assoc (putSha (ask s.committed d r v) r.row.reg r.i r.j (storedBits r.row.fields v)).shadow x =
        if x = a / 4 * 4 then some (BitVec.ofNat 32 (storedBits r.row.fields v)) else assoc s.dev.shadow x := fun x => by
      rw [shadow_putSha, haddr, ask_frame, ← hshadow]
    refine ⟨_, regWrite_shadowed s w r htk hlt hr hsh hne hc, rfl, rfl, rfl, ?_, ?_, (hsha _).trans (if_pos rfl), fun x hx => (hsha x).trans (if_neg hx)⟩
    · rw [← hregs, ask_frame]; rfl
    · rw [← hmem, ask_frame]; rfl
  · intro s w htk hlt d a v bit done stores
    have hstores : ∀ r i, r ∈ [Reg.winBase, .tCoefIndex, .kCtxSel] → i < (rowOf r).n1 → stores r i := fun r i hr hi ha => by
      refine ⟨_, regWrite_rw s w r i hr hi htk hlt ha, rfl, com_putCom _ _ _ _ _ (storedBits_lt _ _ (rwRegs_fields r hr).2.2), fun x hx =>
        assoc_putCom_other _ _ _ _ _ _ (ha ▸ hx)⟩
    have hclears : ∀ r i, r ∈ directRegs → i < (rowOf r).n1 → a = addrOf r i 0 → (∀ x, actNow s.committed d ⟨rowOf r, i, 0⟩ x = d) →
        done (clearBits d ⟨rowOf r, i, 0⟩ v) := fun r i hr hi ha hnone => by
      have := regWrite_direct s w r i hr hi htk hlt ha
      rwa [hnone] at this
    refine ⟨fun n hn => hstores _ n (by decide) hn, fun t ht => hstores _ t (by decide) ht, hstores _ 0 (by decide) (by decide),
      fun t j ht hj ha => ⟨fun hact => ?_, fun hact => ?_⟩, fun t ht ha => ?_, fun ha => ?_, fun x hx ha => ?_, fun ha => ?_,
      fun b at_ one => w1c_iff d b one at_⟩
    · exact (regWrite_pgRam s w t j ht hj htk hlt ha).trans (if_neg hact)
    · exact (regWrite_pgRam s w t j ht hj htk hlt ha).trans (if_pos hact)
    · exact hclears .tStatus t (by decide) ht ha fun _ => rfl
    · exact hclears .clkStatus 0 (by decide) (by decide) ha fun _ => rfl
    · exact hclears .oStatus x (by decide) hx ha fun _ => rfl
    · exact hclears .summary 0 (by decide) (by decide) ha fun _ => rfl

end Sys2Proof.Machine

namespace Sys2Proof.Machine

/-! ### Register reads (R8, R14, R429) -/

/-- The registers with RO or W1C fields: what a read of them shows is computed from the machine's records. -/
def shownRegs : List Reg :=
  [.globalId, .clkStatus, .timeLo, .timeHi, .offset, .countLo, .countHi, .partStatus, .partImage, .unitState,
    .tStatus, .tEncPos, .tPgStatus, .tCalResult, .tCalBadIdx, .tCountTrig, .tCountStamp, .tCountDisc,
    .pool, .rxCntHdr, .rxCntPkt, .rxCntJob, .rxBulk, .rxBulkBytes, .vcStatus,
    .bStatus, .bBeatsLo, .bBeatsHi, .bDummy, .bWords, .bNum, .bTripLo, .bTripHi, .bBistStatus, .bBistWhere, .bEccCnt, .bEccRecent,
    .govCoef, .govStatus, .therm, .tsens, .secc,
    .kCtxFree, .kCnt, .kUse, .kSpillUse, .xStatus, .xSetActive, .xSetStandby, .xPinned, .xLoadStatus, .xCnt,
    .oCntBad, .oStatus, .oSent, .oLost, .oHoldCnt, .dStatus, .dTrainTime, .dScrubPos, .dCnt,
    .pwrState, .resetCause, .bootStatus, .bootTime, .unitResetStatus, .summary, .session, .fwStatus, .fwBanks, .cntErr,
    .aStatus, .aPos, .aEpochNow, .aStep, .aCntSkipped, .aCntEmpty]

/-- The registers whose read acts on a store or on an index register. -/
def portRegs : List Reg := [.tCoefData, .tPgRam, .kCtxData]

/-- The registers whose read latches an upper half. -/
def lowRegs : List Reg := [.timeLo, .countLo, .bBeatsLo]

section
variable (c : Units) (d : Dev) (r : RegAt)

theorem roSeq_zero (h : r.row.reg ∉ shownRegs) : roSeq c d r = 0 := by
  fun_cases roSeq c d r
  case case11 => rfl
  all_goals exact absurd (by rw [‹r.row.reg = _›]; decide) h

theorem roTamb_zero (h : r.row.reg ∉ shownRegs) : roTamb d r = 0 := by
  fun_cases roTamb d r
  case case9 => rfl
  all_goals exact absurd (by rw [‹r.row.reg = _›]; decide) h

theorem roRx_zero (h : r.row.reg ∉ shownRegs) : roRx d r = 0 := by
  fun_cases roRx d r
  case case8 => rfl
  all_goals exact absurd (by rw [‹r.row.reg = _›]; decide) h

theorem roBob_zero (h : r.row.reg ∉ shownRegs) : roBob c d r = 0 := by
  fun_cases roBob c d r
  case case18 => rfl
  all_goals exact absurd (by rw [‹r.row.reg = _›]; decide) h

theorem roKvTxt_zero (h : r.row.reg ∉ shownRegs) : roKvTxt d r = 0 := by
  fun_cases roKvTxt d r
  case case11 => rfl
  all_goals exact absurd (by rw [‹r.row.reg = _›]; decide) h

theorem roOutDdr_zero (h : r.row.reg ∉ shownRegs) : roOutDdr d r = 0 := by
  fun_cases roOutDdr d r
  case case10 => rfl
  all_goals exact absurd (by rw [‹r.row.reg = _›]; decide) h

theorem roSys_zero (h : r.row.reg ∉ shownRegs) : roSys c d r = 0 := by
  fun_cases roSys c d r
  case case17 => rfl
  all_goals exact absurd (by rw [‹r.row.reg = _›]; decide) h

/-- A register without RO and W1C fields shows none. -/
theorem roVal_zero (sh : Bool) (h : r.row.reg ∉ shownRegs) (hb : r.row.reg ≠ .bCtrl) : roVal c d r sh = 0 := by
  unfold roVal
  dsimp only
  rw [if_neg (by simpa using hb)]
  split_ifs
  · exact roSeq_zero c d r h
  · exact roTamb_zero d r h
  · exact roRx_zero d r h
  · exact roBob_zero c d r h
  · exact roKvTxt_zero d r h
  · exact roOutDdr_zero d r h
  · exact roSys_zero c d r h

/-- Only BOBn_CTRL shows something else in the shadow view. -/
theorem roVal_shadow (sh : Bool) (hb : r.row.reg ≠ .bCtrl) : roVal c d r sh = roVal c d r false := by
  have hb' : (r.row.reg == Reg.bCtrl) = false := beq_eq_false_iff_ne.2 hb
  unfold roVal
  simp only [hb', Bool.false_eq_true, if_false]

/-- A read of a register without an effect of its own: the fields shown, and the stored ones. -/
theorem regRead_plain (a : Nat) (sh : Bool) (hr : regAt a = some r) (hp : r.row.reg ∉ portRegs) (hl : r.row.reg ∉ lowRegs) :
    regRead c d a sh = (d, roVal c d r sh
      + (if r.row.fields.any FieldDef.stored then (if sh then shaAt d r (a / 4 * 4) else comAt d r (a / 4 * 4)) else 0)) := by
  have hlatch : latchHigh d r = d := by
    unfold latchHigh
    split
    case h_4 => rfl
    all_goals exact absurd (by rw [‹r.row.reg = _›]; decide) hl
  unfold regRead
  rw [hr]
  dsimp only
  split
  case h_4 => rw [hlatch, ite_self]
  all_goals exact absurd (by rw [‹r.row.reg = _›]; decide) hp

/-- A word of a read that changes nothing is the read's, with or without SHADOW. -/
theorem regWord_still (a v : Nat) (sh : Bool) (ha : a < 0x100000) (h : regRead c d a sh = (d, v)) : regWord c d a sh = (d, v) := by
  cases sh with
  | false => rw [regWord_reg c d a ha, h]
  | true => rw [regWord_shadow c d a ha, h]

end

/-- A register read that is taken, in reach: the word, and the device that the read leaves. -/
theorem regRead_taken (s : State) (w : HostWrite) (h : taken s.dev rowRegRead readBody w)
    (hs : sleepReach s.dev (fld w.pkt.payload 0 4 / 4 * 4) 1 = true) :
    exec (.regRead w) s =
      let x := regWord s.committed (atRegs s.dev) (fld w.pkt.payload 0 4 / 4 * 4) (fld w.pkt.payload 4 1 == 1)
      .next { s with dev := giveReply x.1 0x0002 w.pkt.tag stOk (leBytes 4 x.2) } := by
  show onDev (fun c d => regReadCmd c d w) s = _
  rw [onDev_eq, regReadCmd_taken _ _ _ h]
  dsimp only
  rw [doRead_ok _ _ _ _ _ hs, regWords_one]

/-- A register read that is taken, out of reach in SLEEP. -/
theorem regRead_unreached (s : State) (w : HostWrite) (h : taken s.dev rowRegRead readBody w)
    (hs : sleepReach s.dev (fld w.pkt.payload 0 4 / 4 * 4) 1 = false) :
    exec (.regRead w) s = .next { s with dev := giveReply (heard s.dev) 0x0002 w.pkt.tag stOffline [] } := by
  show onDev (fun c d => regReadCmd c d w) s = _
  rw [onDev_eq, regReadCmd_taken _ _ _ h]
  dsimp only
  rw [doRead_off _ _ _ _ _ hs]

/-- A row whose fields are all stored shows nothing beside them, and but for the ports its read has no effect. -/
theorem storedRows : ∀ x ∈ regTable, x.fields.all FieldDef.stored = true → x.reg ∉ [Reg.bCtrl, .tCoefData, .tPgRam] →
    x.fields.any FieldDef.stored = true ∧ x.reg ∉ shownRegs ∧ x.reg ∉ portRegs ∧ x.reg ∉ lowRegs ∧ x.reg ≠ .bCtrl := by decide +kernel

/-- The read-only registers of which the statement says what they show. -/
def sampleRegs : List Reg := [.globalId, .unitState, .partStatus, .partImage, .tEncPos, .tCountTrig, .session, .resetCause, .bootTime, .pool]

theorem sampleRegs_found : sampleRegs.all (fun r => (rowOf r).fields.all (fun f => !f.stored)
    && (!portRegs.contains r && !lowRegs.contains r && r != .bCtrl) && (List.range (rowOf r).n1).all (fun i =>
    regAt (addrOf r i 0) == some ⟨rowOf r, i, 0⟩ && decide (addrOf r i 0 < 0x100000))) = true := by decide +kernel

/-- A read of one of them gives what it shows and changes nothing. -/
theorem regWord_sample (c : Units) (d : Dev) (r : Reg) (i : Nat) (sh : Bool) (hr : r ∈ sampleRegs) (hi : i < (rowOf r).n1) :
    regWord c d (addrOf r i 0) sh = (d, roVal c d ⟨rowOf r, i, 0⟩ false) := by
  have h := sampleRegs_found
  simp only [List.all_eq_true, List.mem_range, Bool.and_eq_true, beq_iff_eq, decide_eq_true_eq, Bool.not_eq_true', bne_iff_ne] at h
  obtain ⟨⟨hf, ⟨hp, hl⟩, hb⟩, ha⟩ := h r hr
  obtain ⟨hreg, hlt⟩ := ha i hi
  have hname : (⟨rowOf r, i, 0⟩ : RegAt).row.reg = r := rowOf_reg r
  have hread := regRead_plain c d ⟨rowOf r, i, 0⟩ _ sh hreg (by rw [hname]; simpa using hp) (by rw [hname]; simpa using hl)
  have hst : (rowOf r).fields.any FieldDef.stored = false := List.any_eq_false.2 fun f hm => by rw [hf f hm]; decide
  rw [roVal_shadow _ _ _ _ (by rw [hname]; exact hb)] at hread
  exact regWord_still c d _ _ sh hlt (by simpa [hst] using hread)

/-- The pool register shows how much of the job pool is free (R145). -/
theorem roVal_pool (c : Units) (d : Dev) : roVal c d ⟨rowOf .pool, 0, 0⟩ false = poolFree d := by
  have hrow : rowOf .pool = ⟨.pool, 0x30008, 1, 1, 1, 1, [fd 15 0 .ro 0]⟩ := by decide +kernel
  rw [hrow]
  simp [roVal, roRx]

/-- The word of a unit's state, with the pending state in bits 15 to 8 and its flag (R50). -/
theorem unitWord_pending (c : Units) (d : Dev) (u : Nat) :
    unitWord c d u = (ust c u).code + (match reqOf d u with | some r => 0x10000 + 0x100 * r.code | none => 0) := by
  unfold unitWord
  cases reqOf d u with
  | none => rfl
  | some r => dsimp only; rw [Nat.mul_comm]

/-- A field of 16 bits shows a count up to 65,535 (R7). -/
theorem sat16_min (n : Nat) : sat 16 n = Nat.min 65535 n := by
  show min n 65535 = min 65535 n
  exact Nat.min_comm n 65535

/-- Settles O19: a taken read is `regWord` of its address, a row with stored fields shows nothing beside them, and one with RO fields shows
`roVal`. -/
theorem registerReadsReturnCommittedOrShadow : Obligations.RegisterReadsReturnCommittedOrShadow := by
  unfold Obligations.RegisterReadsReturnCommittedOrShadow
  intro s w htk d a e ok hlt
  refine ⟨regRead_unreached s w htk, fun hs => ?_⟩
  have hword : ∀ v, regWord s.committed d a (fld w.pkt.payload 4 1 == 1) = (d, v) → e = .next (ok (leBytes 4 v)) := fun v hv => by
    show exec (.regRead w) s = _
    rw [regRead_taken s w htk hs]
    show Host.Outcome.next { s with dev := giveReply (regWord s.committed d a _).1 _ _ _ (leBytes 4 (regWord s.committed d a _).2) } = _
    rw [hv]
  refine ⟨fun hnone => hword 0 (regWord_still _ _ _ _ _ hlt (by unfold regRead; rw [hnone])), fun r hr hall hne => ?_, ?_⟩
  · obtain ⟨-, -, hrow, -, -⟩ := regAt_addr _ _ hr
    obtain ⟨hany, hshown, hport, hlow, hb⟩ := storedRows _ hrow hall hne
    have ha : a / 4 * 4 = a := by omega
    refine hword _ (regWord_still _ _ _ _ _ hlt ?_)
    rw [regRead_plain _ _ r _ _ hr hport hlow, roVal_zero _ _ _ _ hshown hb, if_pos hany, ha, Nat.zero_add]
    simp only [beq_iff_eq, shaAt]
    cases assoc d.shadow a <;> rfl
  · intro shows
    have hshow : ∀ r i, r ∈ sampleRegs → i < (rowOf r).n1 → shows (addrOf r i 0) (roVal s.committed d ⟨rowOf r, i, 0⟩ false) :=
      fun r i hr hi ha => hword _ (ha ▸ regWord_sample s.committed d r i _ hr hi)
    refine ⟨hshow .globalId 0 (by decide) (by decide), fun u hu => ?_,
      fun p hp => ⟨hshow .partStatus p (by decide) hp, hshow .partImage p (by decide) hp⟩,
      fun t ht => ⟨hshow .tEncPos t (by decide) ht, ?_⟩, hshow .session 0 (by decide) (by decide),
      hshow .resetCause 0 (by decide) (by decide), hshow .bootTime 0 (by decide) (by decide),
      roVal_pool s.committed d ▸ hshow .pool 0 (by decide) (by decide)⟩
    · have h := hshow .unitState u (by decide) hu
      rwa [show roVal s.committed d ⟨rowOf .unitState, u, 0⟩ false = unitWord s.committed d u from rfl, unitWord_pending] at h
    · have h := hshow .tCountTrig t (by decide) ht
      rwa [show roVal s.committed d ⟨rowOf .tCountTrig, t, 0⟩ false = sat 16 (tambOf d t).nEncErr * 65536 + sat 16 (tambOf d t).nTrigMis from rfl,
        sat16_min, sat16_min] at h

end Sys2Proof.Machine

namespace Sys2Proof.Machine

/-! ### Unit resets (R9, R450, R456, R467) -/

/-- Whether a unit has stores that return with it: Bobbins and Tambours. -/
def hasStores (u : Nat) : Bool := 0x08 ≤ u && u < 0x14

/-- A Tambour after its unit reset: the levels of its encoder inputs stay. -/
def resetTamb (m : Tamb) : Tamb := { encA := m.encA, encB := m.encB }

/-- A receive port after its unit reset: the open jobs stay. -/
def resetRx (r : RxPort) : RxPort := { vcs := r.vcs.map (fun v => { job := v.job }) }

/-- A transmit port after its unit reset, its part of the output buffer emptied before. -/
def resetTx (t : TxPort) : TxPort := { last := t.last, vcs := t.vcs, wire := t.wire }

/-- The outputs after the reset of unit u. -/
def resetOut (d : Dev) (u : Nat) : Out :=
  if u = 0x18 ∨ u = 0x19 then (setTx (emptyTx d (u - 0x18)) (u - 0x18) resetTx).out
  else if u = 0x1C then (emptyTx (emptyTx { d with out := { d.out with bad := 0, snap := [] } } 0) 1).out
  else d.out

/-- Unit u's reset, field by field. -/
def unitReset (d : Dev) (u : Nat) : Dev :=
  { d with
    regs := d.regs.filter (fun e => !unitBlock u e.1), shadow := d.shadow.filter (fun e => !unitBlock u e.1)
    mem := if hasStores u then Memory.keep d.mem (fun k => !unitStore u k) else d.mem
    ecc := if hasStores u then d.ecc.filter (fun e => !unitStore u (e.1 * 8)) else d.ecc
    bobs := if 8 ≤ u ∧ u < 16 then vmod d.bobs (u - 8) resetBob else d.bobs
    tambs := if 16 ≤ u ∧ u < 20 then vmod d.tambs (u - 16) resetTamb else d.tambs
    rx := if 20 ≤ u ∧ u < 24 then vmod d.rx (u - 20) resetRx else d.rx
    out := resetOut d u
    txt := if u = 0x1A then { worked := d.txt.worked, wrote := d.txt.wrote } else d.txt
    kvm := if u = 0x1B then {} else d.kvm
    adapt := if u = 0x1D then {} else d.adapt
    health := if u = 8 then (resetShared d).health else d.health }

/-- Other units than the output units keep the outputs. -/
theorem resetOut_other (d : Dev) (u : Nat) (h : u < 24 ∨ 28 < u ∨ u = 26 ∨ u = 27) : resetOut d u = d.out := by
  unfold resetOut
  rw [if_neg (by omega), if_neg (by omega)]

/-- The model's case split by unit comes to that. -/
theorem unitToReset_eq (d : Dev) (u : Nat) : unitToReset d u = unitReset d u := by
  obtain ⟨hlo, hhi⟩ | ⟨hlo, hhi⟩ | ⟨hlo, hhi⟩ | h | h | h | h | h | h :
      (8 ≤ u ∧ u < 16) ∨ (16 ≤ u ∧ u < 20) ∨ (20 ≤ u ∧ u < 24) ∨ (u = 24 ∨ u = 25) ∨ u = 26 ∨ u = 27 ∨ u = 28 ∨ u = 29 ∨ (u < 8 ∨ 29 < u) := by omega
  · have hout := resetOut_other d u (by omega)
    have e1 : 8 + (u - 8) = u := by omega
    have e2 : 16 + (u - 8) = 8 + u := by omega
    have e3 : 24 + (u - 8) = 16 + u := by omega
    have hne : ¬ 16 ≤ u ∧ u < 20 ∧ u < 24 ∧ u ≠ 26 ∧ u ≠ 27 ∧ u ≠ 29 ∧ ¬ 20 ≤ u := by omega
    by_cases h0 : u = 8
    · simp [unitToReset, unitReset, unitBlock, unitStore, hasStores, resetRegs, eraseBob, setBob, resetShared, resetOut, h0]
    · have h8 : ¬ u ≤ 8 := by omega
      simp [unitToReset, unitReset, unitBlock, unitStore, hasStores, resetRegs, eraseBob, setBob, hout, hlo, hhi, e1, e2, e3, hne, h0, h8,
        Nat.sub_eq_zero_iff_le]
  · have hout := resetOut_other d u (by omega)
    have hne : ¬ u < 16 ∧ ¬ u < 8 ∧ u < 24 ∧ u ≠ 26 ∧ u ≠ 27 ∧ u ≠ 29 ∧ ¬ 20 ≤ u ∧ u ≠ 8 ∧ 8 ≤ u := by omega
    simp [unitToReset, unitReset, unitBlock, unitStore, hasStores, resetRegs, setTamb, hout, hlo, hhi, hne]
    rfl
  · have hout := resetOut_other d u (by omega)
    have hne : ¬ u < 16 ∧ ¬ u < 20 ∧ u ≠ 26 ∧ u ≠ 27 ∧ u ≠ 29 ∧ u ≠ 8 ∧ 8 ≤ u ∧ 16 ≤ u := by omega
    simp [unitToReset, unitReset, unitBlock, hasStores, resetRegs, setRx, hout, hlo, hhi, hne]
    rfl
  · obtain rfl | rfl := h
    all_goals
      simp [-Bool.not_and, unitToReset, unitReset, unitBlock, hasStores, resetOut]
      rfl
  · subst h
    simp [unitToReset, unitReset, unitBlock, hasStores, resetOut, resetRegs]
  · subst h
    simp [unitToReset, unitReset, unitBlock, hasStores, resetOut, resetRegs]
  · subst h
    simp [-Bool.not_and, unitToReset, unitReset, unitBlock, hasStores, resetOut]
    rfl
  · subst h
    simp [unitToReset, unitReset, unitBlock, hasStores, resetOut, resetRegs]
  · have hout := resetOut_other d u (by omega)
    have hne : ¬ (8 ≤ u ∧ u < 16) ∧ ¬ (8 ≤ u ∧ u < 20) ∧ ¬ (16 ≤ u ∧ u < 20) ∧ ¬ (20 ≤ u ∧ u < 24)
        ∧ u ≠ 24 ∧ u ≠ 25 ∧ u ≠ 26 ∧ u ≠ 27 ∧ u ≠ 28 ∧ u ≠ 29 ∧ u ≠ 8 := by omega
    have h29 : (u == 29) = false := by simp [hne]
    simp [unitToReset, unitReset, unitBlock, hasStores, hout, hne, h29]

/-- Deleting the keys of a set removes them and no other. -/
theorem assoc_filter (l : List (Nat × Word)) (p : Nat → Bool) (a : Nat) :
    assoc (l.filter (fun e => !p e.1)) a = if p a then none else assoc l a := by
  unfold assoc
  rw [List.find?_filter]
  cases h : p a with
  | true =>
    rw [if_pos rfl, List.find?_eq_none.2, Option.map_none]
    intro e _ he
    simp only [Bool.not_eq_true', decide_eq_true_eq, beq_iff_eq] at he
    rw [he.2, h] at he
    exact absurd he.1 (by decide)
  | false =>
    rw [if_neg (by decide)]
    congr 2
    funext e
    by_cases he : e.1 = a
    · simp [he, h]
    · simp [he]

/-- A unit without stores of its own takes no byte with it. -/
theorem unitStore_none (u k : Nat) (h : hasStores u = false) : unitStore u k = false := by
  unfold hasStores at h
  unfold unitStore
  simp only [Bool.and_eq_false_iff, decide_eq_false_iff_not] at h
  rw [if_neg (by simp only [Bool.and_eq_true, decide_eq_true_eq]; omega), if_neg (by simp only [Bool.and_eq_true, decide_eq_true_eq]; omega)]

/-- A byte of memory after a unit reset. -/
theorem get_unitReset (d : Dev) (u k : Nat) : Memory.get (unitReset d u).mem k = if unitStore u k then Memory.unlisted k else Memory.get d.mem k := by
  show Memory.get (if hasStores u then _ else _) k = _
  cases h : hasStores u with
  | true =>
    rw [if_pos rfl, get_keep]
    cases unitStore u k <;> rfl
  | false => rw [if_neg (by decide), unitStore_none u k h, if_neg (by decide)]

/-- The words in error after a unit reset. -/
theorem ecc_unitReset (d : Dev) (u : Nat) : (unitReset d u).ecc = d.ecc.filter (fun e => !unitStore u (e.1 * 8)) := by
  show (if hasStores u then _ else _) = _
  cases h : hasStores u with
  | true => rfl
  | false =>
    rw [if_neg (by decide), List.filter_eq_self.2 fun e _ => by rw [unitStore_none u _ h]; rfl]

/-- An element of a vector after an update of one. -/
theorem getElem?_vmod {α : Type} {n : Nat} (v : Vector α n) (i k : Nat) (f : α → α) : (vmod v i f)[k]? = if k = i then v[k]?.map f else v[k]? := by
  unfold vmod
  cases h : v[i]? with
  | none =>
    dsimp only
    split
    · subst k; rw [h]; rfl
    · rfl
  | some x =>
    dsimp only
    have hi : i < n := by
      by_contra hi
      rw [Vector.getElem?_eq_none (by omega)] at h
      cases h
    split
    · subst k; rw [Vector.getElem?_setIfInBounds_self, h, if_pos hi]; rfl
    · rw [Vector.getElem?_setIfInBounds_ne (by omega)]

/-- The record of one of n units that begin at number lo, where the reset of a unit among them updates its own. -/
theorem getD_unit {α : Type} {n : Nat} (v : Vector α n) (lo u k : Nat) (f : α → α) (x : α) :
    ((if lo ≤ u ∧ u < lo + n then vmod v (u - lo) f else v)[k]?).getD x = if u = lo + k ∧ k < n then f ((v[k]?).getD x) else (v[k]?).getD x := by
  by_cases h : u = lo + k ∧ k < n
  · rw [if_pos h, if_pos (by omega), getElem?_vmod, if_pos (by omega), Vector.getElem?_eq_getElem h.2]
    rfl
  · rw [if_neg h]
    split
    · rw [getElem?_vmod, if_neg (by omega)]
    · rfl

theorem bobOf_unitReset (d : Dev) (u n : Nat) : bobOf (unitReset d u) n = if u = 0x08 + n ∧ n < 8 then resetBob (bobOf d n) else bobOf d n :=
  getD_unit d.bobs 8 u n resetBob {}

theorem tambOf_unitReset (d : Dev) (u n : Nat) : tambOf (unitReset d u) n = if u = 0x10 + n ∧ n < 4 then resetTamb (tambOf d n) else tambOf d n :=
  getD_unit d.tambs 16 u n resetTamb {}

theorem rxOf_unitReset (d : Dev) (u n : Nat) : rxOf (unitReset d u) n = if u = 0x14 + n ∧ n < 4 then resetRx (rxOf d n) else rxOf d n :=
  getD_unit d.rx 20 u n resetRx {}

/-! ### The output buffer emptied (R386, R456) -/

/-- A transmit port whose part of the output buffer has been emptied. -/
def emptiedPort (t : TxPort) : TxPort := { t with used := 0, leaving := [], rest := none, vcs := t.vcs.map emptied }

theorem txOf_emptyTx (d : Dev) (x : Nat) (h : x < 2) : txOf (emptyTx d x) x = emptiedPort (txOf d x) := txOf_setTx _ x _ h

theorem txOf_emptyTx_other (d : Dev) (x y : Nat) (h : y ≠ x) : txOf (emptyTx d x) y = txOf d y := txOf_setTx_other _ x y _ h

/-- Emptying a port's part of the buffer leaves its jobs nothing that waits, and keeps the other jobs. -/
theorem emptyTx_jobs (d : Dev) (x : Nat) (y : OutJob) (h : y ∈ (emptyTx d x).out.jobs) :
    (y.port = x → y.evs = [] ∧ y.recs = []) ∧ (y.port ≠ x → y ∈ d.out.jobs) := by
  obtain ⟨z, hz, rfl⟩ := List.mem_map.1 (show y ∈ d.out.jobs.map _ from h)
  by_cases hp : z.port = x
  · simp [hp]
  · have hne : (z.port == x) = false := beq_eq_false_iff_ne.2 hp
    simp [hne, hp, hz]

/-- Port n after the reset of unit u: its own reset, OUT's, or another unit's. -/
theorem txOf_unitReset (d : Dev) (u n : Nat) (h : n < 2) :
    (u = 0x18 + n → txOf (unitReset d u) n = resetTx (emptiedPort (txOf d n))) ∧ (u = 0x1C → txOf (unitReset d u) n = emptiedPort (txOf d n))
      ∧ (u ≠ 0x18 + n → u ≠ 0x1C → txOf (unitReset d u) n = txOf d n) := by
  have hout : ∀ e : Dev, resetOut d u = e.out → txOf (unitReset d u) n = txOf e n := fun e he => txOf_congr _ _ _ (congrArg Out.tx he)
  refine ⟨fun hu => ?_, fun hu => ?_, fun hne hc => ?_⟩
  · have hn : u - 0x18 = n := by omega
    rw [hout (setTx (emptyTx d n) n resetTx) (by unfold resetOut; rw [if_pos (by omega), hn]), txOf_setTx _ _ _ h, txOf_emptyTx _ _ h]
  · rw [hout (emptyTx (emptyTx { d with out := { d.out with bad := 0, snap := [] } } 0) 1)
      (by unfold resetOut; rw [if_neg (by omega), if_pos hu])]
    obtain rfl | rfl : n = 0 ∨ n = 1 := by omega
    · rw [txOf_emptyTx_other _ 1 0 (by decide), txOf_emptyTx _ 0 (by decide)]; rfl
    · rw [txOf_emptyTx _ 1 (by decide), txOf_emptyTx_other _ 0 1 (by decide)]; rfl
  · by_cases hu : u = 0x18 ∨ u = 0x19
    · rw [hout (setTx (emptyTx d (u - 0x18)) (u - 0x18) resetTx) (by unfold resetOut; rw [if_pos hu]),
        txOf_setTx_other _ _ _ _ (by omega), txOf_emptyTx_other _ _ _ (by omega)]
    · exact hout d (by unfold resetOut; rw [if_neg hu, if_neg hc])

/-- What waits of a job whose port, or OUT, has been reset: nothing. -/
theorem jobs_unitReset (d : Dev) (u n : Nat) (h : n < 2) (hu : u = 0x18 + n ∨ u = 0x1C) (y : OutJob) (hy : y ∈ (unitReset d u).out.jobs) (hp : y.port = n) :
    y.evs = [] ∧ y.recs = [] := by
  replace hy : y ∈ (resetOut d u).jobs := hy
  unfold resetOut at hy
  obtain hu | hu := hu
  · have hn : u - 0x18 = n := by omega
    rw [if_pos (by omega), hn] at hy
    exact (emptyTx_jobs d n y hy).1 hp
  · rw [if_neg (by omega), if_pos hu] at hy
    by_cases h1 : n = 1
    · exact (emptyTx_jobs _ 1 y hy).1 (hp.trans h1)
    · exact (emptyTx_jobs _ 0 y ((emptyTx_jobs _ 1 y hy).2 (by omega))).1 (by omega)

/-! ### The log entry of a reset -/

/-- A device with another log. -/
def withLog (d : Dev) (h : Health) : Dev := { d with health := { d.health with log := h.log, seq := h.seq, lost := h.lost } }

/-- A log-only entry is added to the log, and nothing else changes. -/
theorem logOnly_spec (d : Dev) (code unit part : Nat) (detail : List Nat) :
    ∃ h, logOnly d code unit part detail = withLog d h ∧ Logged d (withLog d h) (fun e => e.code = code ∧ e.unit = unit ∧ e.detail = detail) := by
  have hframe : logOnly d code unit part detail = withLog d (logOnly d code unit part detail).health := by
    unfold withLog logOnly logAt
    dsimp only
    split_ifs <;> rfl
  refine ⟨_, hframe, ?_⟩
  rw [← hframe]
  refine (logAt_logged d code unit part 0xFFFFFFFF 0xFFFFFFFF detail 0).imp fun e he => ?_
  obtain ⟨hcode, hunit, -, -, -, hdetail, -⟩ := he
  exact ⟨hcode, hunit, hdetail⟩

/-- Logging rests on the log and the clocks only. -/
theorem Logged.from {d d' e : Dev} {is : LogEntry → Prop} (h : Logged d' e is) (hlog : d'.health.log = d.health.log) (hseq : d'.health.seq = d.health.seq)
    (htime : d'.clk.time = d.clk.time) (hmono : d'.clk.mono = d.clk.mono) : Logged d e is := by
  unfold Logged at h ⊢
  rwa [hlog, hseq, htime, hmono] at h

/-- The log stays through a unit reset. -/
theorem log_unitReset (d : Dev) (u : Nat) :
    (unitReset d u).health.log = d.health.log ∧ (unitReset d u).health.seq = d.health.seq := by
  unfold unitReset
  dsimp only
  split_ifs <;> exact ⟨rfl, rfl⟩

/-- The device after the reset of unit u, before it is logged. -/
def resetDev (d : Dev) (u : Nat) : Dev := { lowerCounts (unitReset d u) with pwr := { d.pwr with urBusy := false } }

/-- A unit reset in progress ends, and is logged (R450, R456). -/
theorem exec_unitResetDone (s : State) (ha : alive s.dev = true) (hb : s.dev.pwr.urBusy = true) :
    exec .unitResetDone s = .next { s with dev := logReset (resetDev s.dev s.dev.pwr.urUnit.toNat) 4 s.dev.pwr.urUnit.toNat } := by
  show execUnitResetDone s = _
  unfold execUnitResetDone
  rw [onDev_eq]
  simp only [ha, hb, Bool.and_self, Bool.not_true, Bool.false_eq_true, if_false, unitToReset_eq]
  rfl

/-- What BOB0's reset makes of the shared health records (R456, log entries 46 and 90). -/
theorem resetShared_health (d : Dev) :
    let h := (resetShared d).health
    h.sensors = Vector.replicate 12 {} ∧ h.secc = Vector.replicate 6 (0, 0) ∧ h.demand = false ∧ h.rateMin = 256 ∧ h.iEst = 0
      ∧ h.trip = d.health.trip ∧ (h.trip = false → h.tripSens = 0 ∧ h.tripTemp = 0) :=
  ⟨rfl, rfl, rfl, rfl, rfl, rfl, fun h => ⟨if_neg (ne_true_of_eq_false h), if_neg (ne_true_of_eq_false h)⟩⟩

/-! ### Self-tests (R204, R499, R509) -/

/-- A Bobbin that accepts no word. -/
theorem bobOf_stopBob_accepting (d : Dev) (n : Nat) (h : n < 8) : (bobOf (stopBob d n) n).accepting = false := by
  unfold stopBob
  rw [bobOf_setBob _ _ _ h]

/-- Stopping a Bobbin leaves the others. -/
theorem bobOf_stopBob_other (d : Dev) (n m : Nat) (h : m ≠ n) : bobOf (stopBob d n) m = bobOf d m := by
  unfold stopBob cutPlan settleBob
  rw [bobOf_setBob_other _ _ _ _ h, bobOf_setBob_other _ _ _ _ h, bobOf_setBob_other _ _ _ _ h]

/-- What a self-test leaves in the Bobbin's record (R204, R499). -/
def testedBob (st : UnitSt) (pass : Bool) (area : BitVec 4) (loc : Word) (b : Bob) : Bob :=
  let b := { b with bistBusy := false, result := if pass then 1 else 2, area := if pass then 0 else area, loc := if pass then 0 else loc }
  if pass then (if st == .failed then { b with passDue := true, ueNow := 0, uePast := [] } else b)
  else if st == .disabled then { b with failDue := match b.failDue with | none => some 1 | x => x }
  else b

/-- The device after a self-test, before it is logged. -/
def testedDev (c : Units) (d : Dev) (n : Fin 8) (pass : Bool) (area : BitVec 4) (loc : Word) : Dev :=
  setBob (if pass then eraseBob d n else stopBob (eraseBob d n) n) n (testedBob (ust c (8 + n)) pass area loc)

/-- DETAIL of the entry of a self-test (R509). -/
def testDetail (n : Fin 8) (pass : Bool) (area : BitVec 4) (loc : Word) : List Nat :=
  [n, if pass then 1 else 2, (if pass then 0 else area).toNat, (if pass then 0 else loc).toNat]

/-- A self-test in progress ends (R499). -/
theorem exec_bistDone (n : Fin 8) (pass : Bool) (area : BitVec 4) (loc : Word) (s : State) (ha : alive s.dev = true) (hb : (bobOf s.dev n).bistBusy = true) :
    exec (.bistDone n pass area loc) s = .next { s with
      dev := logOnly (testedDev s.committed s.dev n pass area loc) 0x010D (8 + n) 255 (testDetail n pass area loc) } := by
  show execBistDone n pass area loc s = _
  unfold execBistDone
  rw [onDev_eq]
  simp only [ha, hb, Bool.and_self, Bool.not_true, Bool.false_eq_true, if_false]
  rfl

/-- What of a Bobbin's record a self-test settles. -/
theorem testedBob_fields (st : UnitSt) (pass : Bool) (area : BitVec 4) (loc : Word) (b : Bob) :
    let t := testedBob st pass area loc b
    t.bistBusy = false ∧ t.result = (if pass then 1 else 2) ∧ t.area = (if pass then 0 else area) ∧ t.loc = (if pass then 0 else loc)
      ∧ (pass = true → st = .failed → t.passDue = true) ∧ t.accepting = b.accepting ∧ (pass = false → st = .disabled → t.failDue ≠ none) := by
  cases pass with
  | true =>
    by_cases h : st = .failed
    · simp [testedBob, h]
    · simp [testedBob, h]
  | false =>
    by_cases h : st = .disabled
    · cases hf : b.failDue <;> simp [testedBob, h, hf]
    · simp [testedBob, h]

/-- The Bobbin's record after its self-test: one that fails accepts no word. -/
theorem bobOf_testedDev (c : Units) (d : Dev) (n : Fin 8) (pass : Bool) (area : BitVec 4) (loc : Word) :
    ∃ b, bobOf (testedDev c d n pass area loc) n = testedBob (ust c (8 + n)) pass area loc b ∧ (pass = false → b.accepting = false) := by
  unfold testedDev
  refine ⟨_, bobOf_setBob _ _ _ n.isLt, fun h => ?_⟩
  rw [h]
  exact bobOf_stopBob_accepting _ _ n.isLt

/-- The other Bobbins keep their records. -/
theorem bobOf_testedDev_other (c : Units) (d : Dev) (n : Fin 8) (pass : Bool) (area : BitVec 4) (loc : Word) (m : Nat) (h : m ≠ n) :
    bobOf (testedDev c d n pass area loc) m = bobOf d m := by
  unfold testedDev
  rw [bobOf_setBob_other _ _ _ _ h]
  split
  · rfl
  · rw [bobOf_stopBob_other _ _ _ h]; rfl

/-- Beside the Bobbins' records a self-test erases the Bobbin's stores, and changes nothing else. -/
theorem testedDev_frame (c : Units) (d : Dev) (n : Fin 8) (pass : Bool) (area : BitVec 4) (loc : Word) :
    testedDev c d n pass area loc = { eraseBob d n with bobs := (testedDev c d n pass area loc).bobs } := by
  cases pass <;> rfl

/-- An erased byte of a Bobbin's stores reads as unlisted, all others as before. -/
theorem get_eraseBob (d : Dev) (n k : Nat) : Memory.get (eraseBob d n).mem k =
    if k / 2 ^ 44 = 8 + n ∨ k / 2 ^ 44 = 16 + n ∨ k / 2 ^ 44 = 24 + n then Memory.unlisted k else Memory.get d.mem k := by
  unfold eraseBob
  rw [get_keep]
  by_cases h : k / 2 ^ 44 = 8 + n ∨ k / 2 ^ 44 = 16 + n ∨ k / 2 ^ 44 = 24 + n
  · rw [if_pos h, if_neg (by simpa [imp_iff_not_or, or_assoc] using h)]
  · rw [if_neg h, if_pos (by simpa [and_assoc] using h)]

/-- Settles O26: a unit reset is `unitReset` field by field, a self-test an erased store and one record, and each is logged at the end. -/
theorem unitResetsAndSelfTestsEnd : Obligations.UnitResetsAndSelfTestsEnd := by
  unfold Obligations.UnitResetsAndSelfTestsEnd
  refine ⟨fun s ha hb => ?_, fun n pass area loc s ha hb => ?_⟩
  · intro d u
    obtain ⟨hl, hseq⟩ := log_unitReset d u
    obtain ⟨x, hx, hlog⟩ := logOnly_spec (resetDev d u) 0x0101 u 255 [4, u]
    have hexec : exec .unitResetDone s = .next { s with dev := withLog (resetDev d u) x } := by
      rw [exec_unitResetDone s ha hb]
      exact congrArg (fun e => Host.Outcome.next { s with dev := e }) hx
    refine ⟨_, hexec, rfl, rfl, rfl, rfl, rfl, rfl, rfl, fun a => ⟨assoc_filter _ _ _, assoc_filter _ _ _⟩, get_unitReset d u, ecc_unitReset d u,
      hlog.from hl hseq rfl rfl, bobOf_unitReset d u, fun hu => ?_, tambOf_unitReset d u, rxOf_unitReset d u, fun n hn => ?_, fun hu => ?_, rfl, rfl, rfl⟩
    · have hshared : (unitReset d u).health = (resetShared d).health := if_pos hu
      have h := resetShared_health d
      rwa [← hshared] at h
    · obtain ⟨hport, hout, helse⟩ := txOf_unitReset d u n hn
      exact ⟨hport, hout, helse, jobs_unitReset d u n hn⟩
    · show (resetOut d u).bad = 0 ∧ (resetOut d u).snap = []
      unfold resetOut
      rw [if_neg (by omega), if_pos hu]
      exact ⟨rfl, rfl⟩
  · obtain ⟨b, hbob, hacc⟩ := bobOf_testedDev s.committed s.dev n pass area loc
    have hframe := testedDev_frame s.committed s.dev n pass area loc
    obtain ⟨hbusy, hres, harea, hloc, hpass, hkeep, hfail⟩ := testedBob_fields (ust s.committed (8 + n)) pass area loc b
    rw [← hbob] at hbusy hres harea hloc hpass hkeep hfail
    obtain ⟨x, hx, hlog⟩ := logOnly_spec (testedDev s.committed s.dev n pass area loc) 0x010D (8 + n) 255 (testDetail n pass area loc)
    have hexec : exec (.bistDone n pass area loc) s = .next { s with dev := withLog (testedDev s.committed s.dev n pass area loc) x } := by
      rw [exec_bistDone n pass area loc s ha hb, hx]
    refine ⟨_, hexec, rfl, hbusy, hres, harea, hloc, hpass,
      fun h => ⟨hkeep.trans (hacc h), hfail h⟩, bobOf_testedDev_other _ _ n pass area loc, ?_, fun k => ?_⟩
    · refine (hlog.from ?_ ?_ ?_ ?_).imp fun e he => ⟨he.1, he.2.1, by rw [he.2.2]; rfl⟩
      all_goals rw [hframe]; rfl
    · show Memory.get (testedDev s.committed s.dev n pass area loc).mem k = _
      rw [hframe]
      exact get_eraseBob s.dev n k

end Sys2Proof.Machine

namespace Sys2Proof.Machine

/-! ### What the work of offset 0 settles once (R12, R38 to R40, R63, R432, R433) -/

/-- The place in the Stitch, the Stitch counter, the shadows, the operations in flight, and the host commands that wait for the boundary. -/
structure Marks where
  offset  : Nat
  count   : BitVec 64
  shadow  : List (Nat × Word)
  flights : List Flight
  submits : List Submit
  cancels : List (Nat × Word)

/-- The marks of a device. Nearly all the work of offset 0 leaves them alone, step by step below. -/
def marks (d : Dev) : Marks := ⟨d.clk.offset, d.clk.count, d.shadow, d.flights, d.submits, d.cancels⟩

section
variable (c : Units) (d : Dev)

/-- The marks of a device written out; with `marks_eta` it sees through an update of other fields. -/
@[simp] theorem marks_mk (clk pwr i3c fw xfer xferLost req regs shadow mem ecc parts flights agenda nextId bobs tambs rx jobs nextJob gone bulkLevel bulkAt
    submits cancels kvm txt out adapt ddr health jtag free) :
    marks ⟨clk, pwr, i3c, fw, xfer, xferLost, req, regs, shadow, mem, ecc, parts, flights, agenda, nextId, bobs, tambs, rx, jobs, nextJob, gone, bulkLevel,
      bulkAt, submits, cancels, kvm, txt, out, adapt, ddr, health, jtag, free⟩ = ⟨clk.offset, clk.count, shadow, flights, submits, cancels⟩ := rfl

@[simp] theorem marks_eta : (⟨d.clk.offset, d.clk.count, d.shadow, d.flights, d.submits, d.cancels⟩ : Marks) = marks d := rfl

@[simp] theorem marks_ite (p : Prop) [Decidable p] (a b : Dev) : marks (if p then a else b) = if p then marks a else marks b := apply_ite _ _ _ _

@[simp] theorem marks_foldl {α : Type} (f : Dev → α → Dev) (l : List α) (h : ∀ e x, marks (f e x) = marks e) : marks (l.foldl f d) = marks d := by
  induction l generalizing d with
  | nil => rfl
  | cons x l ih => rw [List.foldl_cons, ih, h]

@[simp] theorem marks_foldl_fst {α β : Type} (f : Dev × β → α → Dev × β) (l : List α) (x : Dev × β) (h : ∀ e a, marks (f e a).1 = marks e.1) :
    marks (l.foldl f x).1 = marks x.1 := by
  induction l generalizing x with
  | nil => rfl
  | cons a l ih => rw [List.foldl_cons, ih, h]

@[simp] theorem marks_foldl_snd {α β : Type} (f : β × Dev → α → β × Dev) (l : List α) (x : β × Dev) (h : ∀ e a, marks (f e a).2 = marks e.2) :
    marks (l.foldl f x).2 = marks x.2 := by
  induction l generalizing x with
  | nil => rfl
  | cons a l ih => rw [List.foldl_cons, ih, h]

theorem StoresOnly.marks {d e : Dev} (h : StoresOnly d e) : marks e = marks d := by rw [h]; rfl

theorem ReportsOnly.marks {d e : Dev} (h : ReportsOnly d e) : marks e = marks d := h.stores.marks

theorem EventsOnly.marks {d e : Dev} (h : EventsOnly d e) : marks e = marks d := h.stores.marks

theorem TamboursOnly.marks {d e : Dev} (h : TamboursOnly d e) : marks e = marks d := by rw [h]; rfl

/-! Updates of one record. -/

@[simp] theorem marks_setPart (p : Nat) (f : Part → Part) : marks (setPart d p f) = marks d := rfl
@[simp] theorem marks_setBob (n : Nat) (f : Bob → Bob) : marks (setBob d n f) = marks d := rfl
@[simp] theorem marks_setTamb (t : Nat) (f : Tamb → Tamb) : marks (setTamb d t f) = marks d := rfl
@[simp] theorem marks_setRx (x : Nat) (f : RxPort → RxPort) : marks (setRx d x f) = marks d := rfl
@[simp] theorem marks_setVc (x v : Nat) (f : Vc → Vc) : marks (setVc d x v f) = marks d := rfl
@[simp] theorem marks_setTx (x : Nat) (f : TxPort → TxPort) : marks (setTx d x f) = marks d := rfl
@[simp] theorem marks_setTxVc (x v : Nat) (f : TxVc → TxVc) : marks (setTxVc d x v f) = marks d := rfl
@[simp] theorem marks_setReq (u : Nat) (r : Option UnitSt) : marks (setReq d u r) = marks d := rfl
@[simp] theorem marks_setJob (id : Nat) (f : Job → Job) : marks (setJob d id f) = marks d := rfl
@[simp] theorem marks_setCoded (id : Nat) (f : Coded → Coded) : marks (setCoded d id f) = marks d := rfl
@[simp] theorem marks_setCtx (n : Nat) (f : Ctx → Ctx) : marks (setCtx d n f) = marks d := rfl
@[simp] theorem marks_setSlot (n : Nat) (f : Slot → Slot) : marks (setSlot d n f) = marks d := rfl
@[simp] theorem marks_putCom (r : Reg) (i j v : Nat) : marks (putCom d r i j v) = marks d := rfl
@[simp] theorem marks_addEv (at_ prio fl : Nat) (act : Act) : marks (addEv d at_ prio fl act) = marks d := rfl
@[simp] theorem marks_bindJob (j : Job) : marks (bindJob d j) = marks d := rfl
@[simp] theorem marks_reportFlag (f : Nat) : marks (reportFlag d f) = marks d := rfl

/-! Events, log entries, checked reads and stores. -/

@[simp] theorem marks_raise (t : Tie) (e : Event) : marks (raise c d t e) = marks d := (raise_events c d t e).marks
@[simp] theorem marks_logAt (code unit part : Nat) (job ctx : Word) (detail : List Nat) (flags : Nat) :
    marks (logAt d code unit part job ctx detail flags) = marks d := (logAt_events d code unit part job ctx detail flags).marks
@[simp] theorem marks_logOnly (code unit part : Nat) (detail : List Nat) : marks (logOnly d code unit part detail) = marks d :=
  (logOnly_events d code unit part detail).marks
@[simp] theorem marks_eccRead (w : Who) (k n : Nat) : marks (eccRead c d w k n).1 = marks d := (eccRead_reports c d w k n).marks
@[simp] theorem marks_store (w : Who) (k : Nat) (bs : List Byte) : marks (store c d w k bs) = marks d := (store_stores c d w k bs).marks
@[simp] theorem marks_jobStore (w : Who) (j : Job) (off : Nat) (bs : List Byte) : marks (jobStore c d w j off bs) = marks d :=
  (jobStore_stores c d w j off bs).marks
@[simp] theorem marks_overlapRows (j : Job) (n : Nat) : marks (overlapRows c d j n).1 = marks d := (overlapRows_reports c d j n).marks
@[simp] theorem marks_closeEvents (j : Job) : marks (closeEvents c d j) = marks d := (closeEvents_events c d j).marks
@[simp] theorem marks_handFree (x v : Nat) (r : Rec) : marks (handFree d x v r) = marks d := (handFree_events d x v r).marks
@[simp] theorem marks_handSnap (r : Rec) : marks (handSnap c d r) = marks d := (handSnap_events c d r).marks
@[simp] theorem marks_handOut (x : OutJob) (r : Rec) (b : Bool) : marks (handOut d x r b) = marks d := (handOut_events d x r b).marks
@[simp] theorem marks_openStream (x v : Nat) : marks (openStream d x v) = marks d := (openStream_events d x v).marks
@[simp] theorem marks_queueItems (x v : Nat) (l : List OutItem) : marks (queueItems d x v l) = marks d := (queueItems_events d x v l).marks

/-! The ended Stitch (R63, R74, R75, R175, R257). -/

@[simp] theorem marks_fault (p cycle kind op : Nat) : marks (fault d p cycle kind op) = marks d := rfl
@[simp] theorem marks_lateLeft : marks (lateLeft d) = marks d := by simp [lateLeft]
@[simp] theorem marks_earlyTime : marks (earlyTime d) = marks d := by simp [earlyTime]

@[simp] theorem marks_reportPart (p : Nat) : marks (reportPart c d p) = marks d := by simp [reportPart]

@[simp] theorem marks_judgePart (x : Units × Dev) (p : Nat) : marks (judgePart x p).2 = marks x.2 := by
  unfold judgePart
  dsimp only
  split_ifs
  · rfl
  · rfl
  · split
    · rfl
    · simp

@[simp] theorem marks_markBob (x : Units × Dev) (n : Nat) : marks (markBob x n).2 = marks x.2 := by
  unfold markBob
  dsimp only
  split_ifs <;> simp

@[simp] theorem marks_cutPlan (n : Nat) : marks (cutPlan d n) = marks d := rfl

/-! Requests, registers and power (R12, R25, R41, R49, R64, R314, R451, R506). -/

@[simp] theorem marks_dropXfer : marks (dropXfer d) = marks d := by
  unfold dropXfer
  split <;> simp

@[simp] theorem marks_tripHalt (x : Units × Dev) : marks (tripHalt x).2 = marks x.2 := by
  unfold tripHalt
  dsimp only
  split_ifs <;> simp

@[simp] theorem marks_commitSwap : marks (commitSwap c d) = marks d := by simp [commitSwap]
@[simp] theorem marks_recheck (p : Nat) : marks (recheck c d p) = marks d := by simp [recheck]

@[simp] theorem marks_commitReq (x : Units × Dev) (u : Nat) : marks (commitReq x u).2 = marks x.2 := by
  unfold commitReq
  dsimp only
  split <;> simp

@[simp] theorem marks_commitTime : marks (commitTime d) = marks d := by simp [commitTime]

@[simp] theorem marks_enterSleep : marks (enterSleep c d) = marks d := rfl

@[simp] theorem marks_commitPower : marks (commitPower c d) = marks d := by
  unfold commitPower
  dsimp only
  split <;> simp

@[simp] theorem marks_followDdr (c0 : Units) : marks (followDdr c0 c d) = marks d := by simp [followDdr]
@[simp] theorem marks_followStores : marks (followStores c d) = marks d := by simp [followStores]

/-! Outputs and the input queue (R317, R349, R355, R361). -/

@[simp] theorem marks_renewStream (x v : Nat) : marks (renewStream d x v) = marks d := by simp [renewStream, giveQuota]
@[simp] theorem marks_emptyTx (x : Nat) : marks (emptyTx d x) = marks d := rfl
@[simp] theorem marks_countLost (x n : Nat) : marks (countLost d x n) = marks d := rfl
@[simp] theorem marks_takeQuota (x n : Nat) : marks (takeQuota d x n) = marks d := rfl
@[simp] theorem marks_placeRec (r : Rec) : marks (placeRec d r).1 = marks d := rfl
@[simp] theorem marks_discardUnsent (x : OutJob) (seq : Word) : marks (discardUnsent d x seq).1 = marks d := rfl
@[simp] theorem marks_followTx (c0 : Units) (x : Nat) : marks (followTx c0 c d x) = marks d := by simp [followTx]
@[simp] theorem marks_cancelOut (j : Job) : marks (cancelOut d j) = marks d := by simp [cancelOut]
@[simp] theorem marks_rereadOut (j : Job) : marks (rereadOut d j) = marks d := by simp [rereadOut]

@[simp] theorem marks_handRec (job o : Nat) (r : Rec) : marks (handRec d job o r) = marks d := by
  unfold handRec
  split
  · rfl
  · split <;> simp

@[simp] theorem marks_handText (p : Nat) (job : Word) (mk : Bool → List Byte) : marks (handText d p job mk) = marks d := by
  unfold handText
  split <;> split <;> simp

@[simp] theorem marks_handAll (cid : Nat) (x : Ctx) (flags cause : Nat) (inc : Bool) (hs : List Hand) :
    marks (handAll d cid x flags cause inc hs) = marks d := by
  refine marks_foldl d _ hs fun e h => ?_
  split <;> simp

@[simp] theorem marks_noteTab (p cid b : Nat) (spans : List (Nat × Nat)) : marks (noteTab c d p cid b spans) = marks d := by simp [noteTab]

@[simp] theorem marks_finishText (cid cause : Nat) (stopIn : Bool) : marks (finishText c d cid cause stopIn) = marks d := by
  unfold finishText
  split
  · rfl
  · dsimp only
    split
    · simp
    · split <;> simp

@[simp] theorem marks_endSeq (cid cause : Nat) (stopIn : Bool) : marks (endSeq c d cid cause stopIn) = marks d := by
  unfold endSeq
  split
  · rfl
  · dsimp only
    split
    · rfl
    · split <;> simp

@[simp] theorem marks_endJobSeqs (j : Job) (cause : Nat) : marks (endJobSeqs c d j cause) = marks d := by simp [endJobSeqs]

/-! The KV store (R266, R289). -/

@[simp] theorem marks_freePage (p id : Nat) : marks (freePage c d p id) = marks d := by simp [freePage, putHead]
@[simp] theorem marks_dropRef (p id : Nat) : marks (dropRef c d p id) = marks d := by simp [dropRef, putHead]
@[simp] theorem marks_leavePage (p id : Nat) : marks (leavePage c d p id) = marks d := by simp [leavePage]

@[simp] theorem marks_freeCtx (cid : Nat) : marks (freeCtx c d cid) = marks d := by
  unfold freeCtx
  split <;> simp

@[simp] theorem marks_followPart (c0 : Units) (x : Units × Dev) (p : Nat) : marks (followPart c0 x p).2 = marks x.2 := by
  unfold followPart
  dsimp only
  split_ifs <;> simp

/-! Jobs (R127 to R140, R432, R433). -/

@[simp] theorem marks_markStale (j : Job) (rows : List Nat) (cycle : Nat) : marks (markStale d j rows cycle) = marks d := rfl

@[simp] theorem marks_flushBand (id : Nat) : marks (flushBand c d id) = marks d := by
  unfold flushBand
  split <;> simp

@[simp] theorem marks_finishCoded (id : Nat) : marks (finishCoded c d id) = marks d := by
  unfold finishCoded
  dsimp only
  rw [marks_flushBand]
  split
  · split
    · rfl
    · split <;> simp
  · rfl

@[simp] theorem marks_closeJob (x v : Nat) : marks (closeJob c d x v) = marks d := by
  unfold closeJob
  split <;> simp

@[simp] theorem marks_openEvents (j : Job) : marks (openEvents c d j) = marks d := by simp [openEvents]

@[simp] theorem marks_openJob (x v p kind k flags : Nat) (seq : Word) (decl : Option (Nat × Nat)) (opened : BitVec 64) (xa : Nat) :
    marks (openJob c d x v p kind k flags seq decl opened xa) = marks d := by simp [openJob]

@[simp] theorem marks_beginJob (x v p : Nat) (b : List Byte) (opened : BitVec 64) : marks (beginJob c d x v p b opened) = marks d := by simp [beginJob]
@[simp] theorem marks_refuseInband (x v op reason seq : Nat) : marks (refuseInband d x v op reason seq) = marks d := by simp [refuseInband]

@[simp] theorem marks_commitSubmit (s : Submit) : marks (commitSubmit c d s) = marks d := by
  unfold commitSubmit
  dsimp only
  split
  · simp
  · split_ifs
    · simp
    · simp
    · simp
    · split <;> simp

@[simp] theorem marks_commitCancel (e : Nat × Word) : marks (commitCancel c d e) = marks d := by
  unfold commitCancel
  split <;> simp

@[simp] theorem marks_rereadPart (c0 : Units) (p : Nat) : marks (rereadPart c0 c d p) = marks d := by simp [rereadPart]
@[simp] theorem marks_followRx (c0 : Units) (x : Nat) : marks (followRx c0 c d x) = marks d := by simp [followRx]
@[simp] theorem marks_numberJobs : marks (numberJobs d) = marks d := marks_foldl d _ _ fun e p => marks_setPart e p _

/-! Tambours (R81, R102 to R106). -/

@[simp] theorem marks_flipBank (t : Nat) : marks (flipBank d t) = marks d := rfl
@[simp] theorem marks_calStart (t : Nat) : marks (calStart d t) = marks d := rfl
@[simp] theorem marks_followTamb (t : Nat) : marks (followTamb c d t) = marks d := by simp [followTamb]
@[simp] theorem marks_tamboursDue : marks (tamboursDue c d) = marks d := (tamboursDue_tambours c d).marks
@[simp] theorem marks_tamboursLater : marks (tamboursLater d) = marks d := marks_foldl d _ _ fun e _ => marks_addEv e _ _ _ _
@[simp] theorem marks_followTambs : marks (followTambs c d) = marks d := by simp [followTambs]

/-! ADAPT and health (R398 to R405, R497, R498). -/

@[simp] theorem marks_adaptGuard : marks (adaptGuard d) = marks d := by simp [adaptGuard]
@[simp] theorem marks_endEpoch : marks (endEpoch d) = marks d := by simp [endEpoch]

@[simp] theorem marks_endTails (n : Nat) : marks (endTails n d) = marks d := by
  induction n generalizing d with
  | zero => rfl
  | succ n ih => simp [endTails, ih]

@[simp] theorem marks_applyBatch : marks (applyBatch c d) = marks d := by
  unfold applyBatch
  dsimp only
  split <;> simp

@[simp] theorem marks_stopRun : marks (stopRun d) = marks d := rfl
@[simp] theorem marks_adaptAction (x : Nat) : marks (adaptAction c d x) = marks d := by simp [adaptAction]
@[simp] theorem marks_adaptReport : marks (adaptReport c d) = marks d := by simp [adaptReport]
@[simp] theorem marks_adaptBoundary (c0 : Units) : marks (adaptBoundary c0 c d) = marks d := by simp [adaptBoundary]
@[simp] theorem marks_logFixes : marks (logFixes d) = marks d := by simp [logFixes]
@[simp] theorem marks_healthTurn : marks (healthTurn d) = marks d := by simp [healthTurn]
@[simp] theorem marks_noteSummary : marks (noteSummary c d) = marks d := by
  unfold noteSummary marks
  rfl

@[simp] theorem marks_drainSnap : marks (drainSnap c d) = marks d := by simp [drainSnap]
@[simp] theorem marks_snapshot : marks (snapshot c d) = marks d := by simp [snapshot]

/-! ### What offset 0 settles -/

@[simp] theorem marks_holdTamb (l : List (Nat × Word)) (t : Nat) : marks (holdTamb l d t) = marks d := rfl

@[simp] theorem marks_commitWord (e : Nat × Word) : marks (commitWord d e) = marks d := by
  unfold commitWord
  split
  · rfl
  · dsimp only
    split <;> simp

/-- The Stitch that has ended leaves no operation in flight (R63). -/
theorem marks_clearStitch : marks (clearStitch d) = { marks d with flights := [] } := by
  have h : marks ((List.range 8).foldl cutPlan d) = marks d := marks_foldl _ _ _ fun e n => marks_cutPlan e n
  rw [← h]
  rfl

/-- Every shadow has committed (R12). -/
theorem marks_commitShadows : marks (commitShadows d) = { marks d with shadow := [] } := by
  have h : marks ((List.range 4).foldl (holdTamb d.shadow) d) = marks d := marks_foldl _ _ _ fun e t => marks_holdTamb e _ t
  unfold commitShadows
  rw [marks_foldl _ _ _ fun e x => marks_commitWord e x, ← h]
  rfl

/-- The new Stitch begins at offset 0, its counter has advanced, no operation is in flight and every shadow has committed. -/
theorem marks_boundaryUnits (c0 : Units) : marks (boundaryUnits c0 d).2 =
    { marks d with offset := 0, count := if d.clk.count = -1 then -1 else d.clk.count + 1, shadow := [], flights := [] } := by
  unfold boundaryUnits
  simp only [marks_foldl_snd, marks_followPart, marks_commitReq, marks_commitShadows, marks_foldl, marks_recheck, marks_commitSwap, marks_tripHalt,
    marks_clearStitch, marks_reportPart, marks_markBob, marks_judgePart, marks_lateLeft, marks_earlyTime, implies_true, beq_iff_eq]
  rfl

/-- The host commands that waited have been taken. -/
theorem marks_boundaryRest (c0 : Units) : marks (boundaryRest c0 c d) = { marks d with submits := [], cancels := [] } := by
  have hclear : ∀ e : Dev, marks { e with submits := [], cancels := [] } = { marks e with submits := [], cancels := [] } := fun _ => rfl
  unfold boundaryRest
  simp only [marks_snapshot, marks_noteSummary, marks_commitPower, marks_healthTurn, marks_logFixes, marks_adaptBoundary, marks_numberJobs, marks_foldl,
    marks_commitCancel, marks_commitSubmit, hclear, marks_rereadPart, marks_followTambs, marks_followStores, marks_followDdr, marks_followTx,
    marks_followRx, marks_commitTime, implies_true]

/-- What a boundary settles (R12, R38 to R40, R45, R63, R432, R433). -/
theorem marks_boundary (s : State) : marks (boundary s).dev =
    ⟨0, if s.dev.clk.count = -1 then -1 else s.dev.clk.count + 1, [], [], [], []⟩ := by
  unfold boundary boundaryZero
  dsimp only
  rw [marks_boundaryRest, marks_boundaryUnits]

end

/-- The table after a boundary is the one that the work of offset 0 forms. -/
theorem boundary_table (s : State) : (boundary s).committed = (boundaryZero s.committed s.dev).1 := by
  unfold boundary
  dsimp only

/-- Settles O9: the boundary is carried out on the device that the rest of the Stitch leaves, and its marks are `marks_boundary`. -/
theorem stitchBoundaryIsCarriedOut : Obligations.StitchBoundaryIsCarriedOut := by
  unfold Obligations.StitchBoundaryIsCarriedOut
  refine fun s => ⟨fun ht => ?_, fun ht => ?_⟩
  · intro e
    have hexec : exec .stitchBoundary s = .next (boundary { s with dev := e }) := by
      show execStitchBoundary s = _
      unfold execStitchBoundary
      rw [if_pos ht]
    have hmarks := marks_boundary { s with dev := e }
    simp only [marks, Marks.mk.injEq] at hmarks
    obtain ⟨hoffset, hcount, hshadow, hflights, hsubmits, hcancels⟩ := hmarks
    -- what follows holds of any device that the rest of the Stitch may leave
    clear_value e
    exact ⟨_, hexec, rfl, boundary_table { s with dev := e }, boundary_pending _, hoffset, hcount, hshadow, hflights, hsubmits, hcancels⟩
  · show execStitchBoundary s = _
    unfold execStitchBoundary
    rw [if_neg (by rw [ht]; decide)]

end Sys2Proof.Machine

namespace Sys2Proof.Machine

/-! ### Reads of 64-bit counters (R24, R45, R209) -/

/-- The LO registers of the 64-bit counters, each with its HI register. -/
def counterPairs : List (Reg × Reg) := [(.timeLo, .timeHi), (.countLo, .countHi), (.bBeatsLo, .bBeatsHi)]

theorem counterPairs_found : counterPairs.all (fun x => x.1 ∉ portRegs && x.2 ∉ portRegs && x.2 ∉ lowRegs
    && (rowOf x.1).fields.all (fun f => !f.stored) && (rowOf x.2).fields.all (fun f => !f.stored)
    && (List.range (rowOf x.1).n1).all (fun i => addrOf x.1 i 0 / 4 * 4 == addrOf x.1 i 0 && decide (addrOf x.1 i 0 + 8 ≤ 0x100000)
      && regAt (addrOf x.1 i 0) == some ⟨rowOf x.1, i, 0⟩ && regAt (addrOf x.1 i 0 + 4) == some ⟨rowOf x.2, i, 0⟩)) = true := by decide +kernel

/-- A HI register latches nothing. -/
theorem latchHigh_other (d : Dev) (r : RegAt) (h : r.row.reg ∉ lowRegs) : latchHigh d r = d := by
  unfold latchHigh
  split
  case h_4 => rfl
  all_goals exact absurd (by rw [‹r.row.reg = _›]; decide) h

/-- A read of a register without stored fields gives what it shows, and latches the upper half where it is a LO register. -/
theorem regRead_latches (c : Units) (d : Dev) (r : RegAt) (a : Nat) (hr : regAt a = some r) (hp : r.row.reg ∉ portRegs)
    (hf : r.row.fields.all (fun f => !f.stored) = true) : regRead c d a false = (latchHigh d r, roVal c d r false) := by
  have hst : r.row.fields.any FieldDef.stored = false := by simpa using hf
  unfold regRead
  rw [hr]
  dsimp only
  split
  case h_4 => simp [hst]
  all_goals exact absurd (by rw [‹r.row.reg = _›]; decide) hp

/-- A 64-bit value in bytes: its low word, then its upper one. -/
theorem leBytes_low_high (v : Nat) (hv : v < 2 ^ 64) :
    leBytes 4 (v % 2 ^ 32) = leBytes 4 v ∧ leBytes 4 (v % 2 ^ 32) ++ leBytes 4 (BitVec.ofNat 32 (v / 2 ^ 32)).toNat = leBytes 8 v := by
  have hlow : leBytes 4 (v % 2 ^ 32) = leBytes 4 v := leBytes_mod 4 v
  have hhigh : (BitVec.ofNat 32 (v / 2 ^ 32)).toNat = v / 256 ^ 4 := by
    rw [BitVec.toNat_ofNat, Nat.mod_eq_of_lt (by omega)]; rfl
  exact ⟨hlow, by rw [hlow, hhigh]; exact (leBytes_add 4 4 v).symm⟩

/-- The words of a counter that shows v in its LO register and, once that is latched, in its HI register. -/
theorem regWords_counter (c : Units) (d : Dev) (x : Reg × Reg) (i v : Nat) (hx : x ∈ counterPairs) (hi : i < (rowOf x.1).n1) (hv : v < 2 ^ 64)
    (hlo : roVal c d ⟨rowOf x.1, i, 0⟩ false = v % 2 ^ 32)
    (hhi : roVal c (latchHigh d ⟨rowOf x.1, i, 0⟩) ⟨rowOf x.2, i, 0⟩ false = (BitVec.ofNat 32 (v / 2 ^ 32)).toNat) :
    regWords c false 1 (addrOf x.1 i 0) d = (latchHigh d ⟨rowOf x.1, i, 0⟩, leBytes 4 v)
      ∧ regWords c false 2 (addrOf x.1 i 0) d = (latchHigh d ⟨rowOf x.1, i, 0⟩, leBytes 8 v)
      ∧ addrOf x.1 i 0 / 4 * 4 = addrOf x.1 i 0 ∧ addrOf x.1 i 0 + 8 ≤ 0x100000 := by
  have h := counterPairs_found
  simp only [List.all_eq_true, Bool.and_eq_true, decide_eq_true_eq, beq_iff_eq, List.mem_range] at h
  obtain ⟨⟨⟨⟨⟨hp1, hp2⟩, hl2⟩, hf1⟩, hf2⟩, ha⟩ := h x hx
  obtain ⟨⟨⟨hal, hlt⟩, hr1⟩, hr2⟩ := ha i hi
  obtain ⟨hlow, hboth⟩ := leBytes_low_high v hv
  have hw1 : regWord c d (addrOf x.1 i 0) false = (latchHigh d ⟨rowOf x.1, i, 0⟩, v % 2 ^ 32) := by
    rw [regWord_reg _ _ _ (by omega), regRead_latches c d ⟨rowOf x.1, i, 0⟩ _ hr1 (by rw [rowOf_reg]; exact hp1)
      (List.all_eq_true.2 hf1), hlo]
  have hw2 : regWord c (latchHigh d ⟨rowOf x.1, i, 0⟩) (addrOf x.1 i 0 + 4) false
      = (latchHigh d ⟨rowOf x.1, i, 0⟩, (BitVec.ofNat 32 (v / 2 ^ 32)).toNat) := by
    rw [regWord_reg _ _ _ (by omega), regRead_latches c _ ⟨rowOf x.2, i, 0⟩ _ hr2 (by rw [rowOf_reg]; exact hp2)
      (List.all_eq_true.2 hf2), hhi, latchHigh_other _ ⟨rowOf x.2, i, 0⟩ (by rw [rowOf_reg]; exact hl2)]
  refine ⟨by rw [regWords_one, hw1, hlow], ?_, hal, hlt⟩
  simp only [regWords, hw1, hw2, List.append_nil, hboth]

/-- A read of a counter's LO register, alone or with its HI register in one block: the value, on the device that has latched its upper half. -/
theorem readLow_counter (s : State) (b : Bus) (x : Reg × Reg) (i v : Nat) (block : Bool) (h : busTaken s.dev b rowRegRead)
    (hx : x ∈ counterPairs) (hi : i < (rowOf x.1).n1) (hv : v < 2 ^ 64)
    (hs : ∀ n, n = 1 ∨ n = 2 → sleepReach s.dev (addrOf x.1 i 0) n = true)
    (hlo : roVal s.committed (atRegs s.dev) ⟨rowOf x.1, i, 0⟩ false = v % 2 ^ 32)
    (hhi : roVal s.committed (latchHigh (atRegs s.dev) ⟨rowOf x.1, i, 0⟩) ⟨rowOf x.2, i, 0⟩ false = (BitVec.ofNat 32 (v / 2 ^ 32)).toNat) :
    onDev (fun c d => readLow c d b (addrOf x.1 i 0) block) s =
      readBack s b block (leBytes (if block then 8 else 4) v) (latchHigh (atRegs s.dev) ⟨rowOf x.1, i, 0⟩) := by
  obtain ⟨hone, htwo, hal, hlt⟩ := regWords_counter s.committed (atRegs s.dev) x i v hx hi hv hlo hhi
  rw [onDev_eq]
  cases block with
  | false =>
    obtain ⟨htk, ha, hflag⟩ := readPkt_taken s.dev b (addrOf x.1 i 0) (by omega) h
    show Host.Outcome.next { s with dev := regReadCmd _ _ _ } = _
    rw [regReadCmd_taken _ _ _ htk]
    simp only [ha, hflag, show ((0 : Nat) == 1) = false from rfl]
    rw [doRead_ok _ _ _ _ _ (by rw [hal]; exact hs 1 (.inl rfl)), hal, hone]
    rfl
  | true =>
    obtain ⟨htk, ha, hn, hflag⟩ := pairPkt_taken s.dev b (addrOf x.1 i 0) (by omega) ⟨h.1, h.2⟩
    show Host.Outcome.next { s with dev := readBlockCmd _ _ _ } = _
    rw [readBlockCmd_taken _ _ _ htk]
    simp only [ha, hn, hflag, show ((0 : Nat) == 1) = false from rfl]
    rw [doRead_ok _ _ _ _ _ (by rw [hal]; exact hs 2 (.inr rfl)), hal, htwo]
    rfl

/-- The time counter lies where reads reach in SLEEP (R426). -/
theorem sleepReach_time (d : Dev) (n : Nat) (h : n = 1 ∨ n = 2) : sleepReach d (addrOf .timeLo 0 0) n = true := by
  have ha : addrOf .timeLo 0 0 < 0x1000 := by decide +kernel
  unfold sleepReach
  have h1 : addrOf .timeLo 0 0 / 0x10000 = 0 := by omega
  have h2 : (addrOf .timeLo 0 0 + 4 * n - 4) / 0x10000 = 0 := by omega
  simp [h1, h2]

/-- Out of SLEEP every address is in reach. -/
theorem sleepReach_awake (d : Dev) (a n : Nat) (h : d.pwr.state ≠ .sleep) : sleepReach d a n = true := by
  unfold sleepReach
  simp [h]

/-- Settles O18: the words of a LO register and its HI register are `regWords_counter`, whatever the counter. -/
theorem countersReadConsistently : Obligations.CountersReadConsistently := by
  unfold Obligations.CountersReadConsistently
  intro b n s hb d time count beats
  have htime := fun block => readLow_counter s b (.timeLo, .timeHi) 0 d.clk.time.toNat block hb (by decide) (by decide +kernel)
    d.clk.time.isLt (sleepReach_time s.dev) rfl rfl
  refine ⟨htime false, htime true, fun hsl => ?_⟩
  have hreach := fun a k (_ : k = 1 ∨ k = 2) => sleepReach_awake s.dev a k hsl
  have hcount := fun block => readLow_counter s b (.countLo, .countHi) 0 d.clk.count.toNat block hb (by decide) (by decide +kernel)
    d.clk.count.isLt (hreach _) rfl rfl
  have hbeats := fun block => readLow_counter s b (.bBeatsLo, .bBeatsHi) n (sat 64 (bobOf d n).beats) block hb (by decide)
    (by rw [show (rowOf .bBeatsLo).n1 = 8 by decide +kernel]; exact n.isLt) (by unfold sat; omega) (hreach _) rfl (by
      show (bobOf beats n).beatsHi.toNat = _
      rw [bobOf_setBob _ _ _ n.isLt])
  exact ⟨hcount false, hcount true, hbeats false, hbeats true⟩

end Sys2Proof.Machine

namespace Sys2Proof.Machine

/-! ### Table windows (R33 to R37, R269) -/

/-- No register lies in a window. -/
theorem regAt_window (a : Nat) (h : 0x100000 ≤ a) : regAt a = none := by
  have hrows : ∀ x ∈ regTable, x.base + (x.n1 - 1) * x.s1 + (x.n2 - 1) * x.s2 < 0x100000 - 4 := by decide +kernel
  rw [Option.eq_none_iff_forall_ne_some]
  intro r hr
  obtain ⟨ha, hrow, hmem, hi, hj⟩ := regAt_addr a r hr
  have h1 : r.i * r.row.s1 ≤ (r.row.n1 - 1) * r.row.s1 := Nat.mul_le_mul_right _ (by omega)
  have h2 : r.j * r.row.s2 ≤ (r.row.n2 - 1) * r.row.s2 := Nat.mul_le_mul_right _ (by omega)
  have hlt := hrows _ hmem
  simp only [addrOf, hrow] at ha
  omega

/-- A window access lies in the windows' part of the register space. -/
theorem winAddr_bounds (n : Fin 4) (a : BitVec 18) : 0x100000 ≤ winAddr n a ∧ winAddr n a < 0x200000 := by
  have := a.isLt
  have := n.isLt
  unfold winAddr
  omega

/-- A window write that is taken: `winWrite`, and its reply. -/
theorem exec_tableWindowWrite (b : Bus) (n : Fin 4) (a : BitVec 18) (v : Word) (s : State) (h : busTaken s.dev b rowRegWrite) :
    exec (.tableWindowWrite b n a v) s =
      let x := winWrite s.committed (heard s.dev) (winAddr n a) v.toNat
      wrote s b x.2 x.1 := by
  obtain ⟨hlo, hhi⟩ := winAddr_bounds n a
  obtain ⟨htk, ha, hv⟩ := writePkt_taken s.dev b (winAddr n a) v.toNat hhi h fun r hr => by
    rw [regAt_word, regAt_window _ hlo] at hr
    cases hr
  show onDev (fun c d => regWriteCmd c d (writePkt b (winAddr n a) v.toNat)) s = _
  rw [onDev_eq, regWriteCmd_taken _ _ _ htk, ha, hv, Nat.mod_eq_of_lt v.isLt]
  unfold doWrite
  rw [if_pos hlo]
  rfl

section
variable (c : Units) (d : Dev) (a v : Nat)

/-- A window has no way to write DDR5 (R36). -/
theorem winWrite_ddr (h : (winAt d a).1 = 7) : winWrite c d a v = (d, stConflict) := by
  unfold winWrite
  simp [h]

/-- A write beyond its target does nothing (R35). -/
theorem winWrite_beyond (h7 : (winAt d a).1 ≠ 7) (h : (winAt d a).1 = 0 ∨ winSize d (winAt d a).1 ≤ (winAt d a).2) : winWrite c d a v = (d, stOk) := by
  unfold winWrite
  simp [h7, h]

section
variable (h7 : (winAt d a).1 ≠ 7) (h0 : (winAt d a).1 ≠ 0) (hin : (winAt d a).2 < winSize d (winAt d a).1)
include h7 h0 hin

/-- A target whose owner is not committed DISABLED is not written (R36). -/
theorem winWrite_owned (h : ownerOff c (winAt d a).1 = false) : winWrite c d a v = (d, stConflict) := by
  unfold winWrite
  simp [h7, h0, Nat.not_le.2 hin, h]

/-- The reserved part of the KV store is not written (R269). -/
theorem winWrite_hole (h : ownerOff c (winAt d a).1 = true) (hh : kvHole (winAt d a).1 (winAt d a).2 = true) : winWrite c d a v = (d, stOk) := by
  unfold winWrite
  simp [h7, h0, Nat.not_le.2 hin, h, hh]

/-- Any other write stores its word; in working storage of open layout the unit's list of words written grows besides. -/
theorem winWrite_stores (h : ownerOff c (winAt d a).1 = true) (hh : kvHole (winAt d a).1 (winAt d a).2 = false) :
    ∃ y, winWrite c d a v = (y, stOk) ∧ y.mem = (store c d whoCmd (key (winAt d a).1 (winAt d a).2) (leBytes 4 v)).mem
      ∧ (openLayout (winAt d a).1 (winAt d a).2 = false → y = store c d whoCmd (key (winAt d a).1 (winAt d a).2) (leBytes 4 v)) := by
  unfold winWrite
  simp only [beq_iff_eq, h7, if_false, h0, Nat.not_le.2 hin, decide_false, Bool.or_false, Bool.false_eq_true, h, Bool.not_true, hh, Bool.not_eq_true']
  split
  · exact ⟨_, rfl, rfl, fun _ => rfl⟩
  · rename_i hopen
    split
    · exact ⟨_, rfl, rfl, fun ho => absurd ho hopen⟩
    · exact ⟨_, rfl, rfl, fun ho => absurd ho hopen⟩

end
end

/-- Where no word of memory is in error a store writes its bytes and no other (R539). -/
theorem get_store_plain (c : Units) (d : Dev) (w : Who) (k : Nat) (bs : List Byte) (he : d.ecc = []) (hb : bs ≠ []) :
    (∀ i, i < bs.length → some (Memory.get (store c d w k bs).mem (k + i)) = bs[i]?)
      ∧ ∀ j, (j < k ∨ k + bs.length ≤ j) → Memory.get (store c d w k bs).mem j = Memory.get d.mem j := by
  rw [store_plain c d w k bs he hb]
  refine ⟨fun i hi => ?_, fun j hj => ?_⟩
  · rw [get_setAll, if_pos (by omega), Nat.add_sub_cancel_left, List.getD_eq_getElem _ _ hi, List.getElem?_eq_getElem hi]
  · rw [get_setAll, if_neg (by omega)]

/-- Settles O22: a taken window write is `winWrite`, case by case. -/
theorem windowWritesNeedADisabledOwner : Obligations.WindowWritesNeedADisabledOwner := by
  unfold Obligations.WindowWritesNeedADisabledOwner
  intro b n a v s hb d x e
  have he : e = wrote s b (winWrite s.committed d (winAddr n a) v.toNat).2 (winWrite s.committed d (winAddr n a) v.toNat).1 :=
    exec_tableWindowWrite b n a v s hb
  refine ⟨fun h => ?_, fun h7 h => ?_, fun h7 h0 hin h => ?_, fun h7 h0 hin h hh => ?_, fun h7 h0 hin hh h => ?_⟩
  · rw [he, winWrite_ddr _ _ _ _ h]
  · rw [he, winWrite_beyond _ _ _ _ h7 h]
  · rw [he, winWrite_owned _ _ _ _ h7 h0 hin h]
  · rw [he, winWrite_hole _ _ _ _ h7 h0 hin h hh]
  · obtain ⟨y, hy, hmem, hall⟩ := winWrite_stores s.committed d (winAddr n a) v.toNat h7 h0 hin h hh
    refine ⟨y, by rw [he, hy], hmem, hall, fun hecc => ?_⟩
    rw [hmem]
    exact get_store_plain s.committed d whoCmd _ (leBytes 4 v.toNat) hecc (List.cons_ne_nil _ _)

end Sys2Proof.Machine

namespace Sys2Proof.Machine

/-- The two low bits of a window address select nothing. -/
theorem winAt_word (d : Dev) (a : Nat) (h : 0x100000 ≤ a) : winAt d (a / 4 * 4) = winAt d a := by
  have hwin : (a / 4 * 4 - 0x100000) / 0x40000 = (a - 0x100000) / 0x40000 := by omega
  have hoff : (a / 4 * 4 - 0x100000) % 0x40000 / 4 * 4 = (a - 0x100000) % 0x40000 / 4 * 4 := by omega
  unfold winAt
  dsimp only
  rw [hwin, hoff]

/-- A window read depends on the window, its target and its offset only. -/
theorem winRead_word (c : Units) (d : Dev) (a : Nat) (h : 0x100000 ≤ a) : winRead c d (a / 4 * 4) = winRead c d a := by
  unfold winRead
  rw [winAt_word d a h]

/-- A window read that is taken out of SLEEP: `winRead`, and its reply. -/
theorem exec_tableWindowRead (b : Bus) (n : Fin 4) (a : BitVec 18) (s : State) (h : busTaken s.dev b rowRegRead) (hs : s.dev.pwr.state ≠ .sleep) :
    exec (.tableWindowRead b n a) s =
      let x := winRead s.committed (atRegs s.dev) (winAddr n a)
      readBack s b false (leBytes 4 x.2) x.1 := by
  obtain ⟨hlo, hhi⟩ := winAddr_bounds n a
  obtain ⟨htk, ha, hflag⟩ := readPkt_taken s.dev b (winAddr n a) hhi h
  have hword : regWord s.committed (atRegs s.dev) (winAddr n a / 4 * 4) false = winRead s.committed (atRegs s.dev) (winAddr n a) := by
    unfold regWord
    rw [if_pos (by omega), winRead_word _ _ _ hlo]
    rfl
  show onDev (fun c d => regReadCmd c d (readPkt b (winAddr n a))) s = _
  rw [onDev_eq, regReadCmd_taken _ _ _ htk]
  simp only [ha, hflag, show ((0 : Nat) == 1) = false from rfl]
  rw [doRead_ok _ _ _ _ _ (sleepReach_awake _ _ _ hs), regWords_one, hword]
  rfl

section
variable (c : Units) (d : Dev) (a : Nat)

/-- Beyond its target, and in the reserved part of the KV store, a window reads as zero (R35, R269). -/
theorem winRead_zero (h : (winAt d a).1 = 0 ∨ winSize d (winAt d a).1 ≤ (winAt d a).2 ∨ kvHole (winAt d a).1 (winAt d a).2 = true) :
    winRead c d a = (d, 0) := by
  have hcond : ((winAt d a).1 == 0 || decide (winSize d (winAt d a).1 ≤ (winAt d a).2) || kvHole (winAt d a).1 (winAt d a).2) = true := by
    simpa [or_assoc] using h
  unfold winRead
  dsimp only
  rw [if_pos hcond]

/-- DDR5 that is not READY reads as zero (R476). -/
theorem winRead_ddrDown (h7 : (winAt d a).1 = 7) (h : d.ddr.state ≠ .ready) : winRead c d a = (d, 0) := by
  unfold winRead
  simp [h7, h]

/-- READY DDR5 delivers its word, and is accessed. -/
theorem winRead_ddr (h7 : (winAt d a).1 = 7) (hin : (winAt d a).2 < winSize d (winAt d a).1) (h : d.ddr.state = .ready) (he : d.ecc = []) :
    winRead c d a = (ddrWake d, leNat (ddrPeek d (winAt d a).2 4)) := by
  rw [h7] at hin
  have hecc : eccRead c (ddrWake d) whoCmd (key 7 (winAt d a).2) 4 = (ddrWake d, false) := eccRead_plain _ _ _ _ _ he
  unfold winRead
  simp [h7, h, Nat.not_le.2 hin, hecc, kvHole]

/-- Elsewhere a window delivers the word that stands in memory. -/
theorem winRead_stored (h0 : (winAt d a).1 ≠ 0) (h7 : (winAt d a).1 ≠ 7) (hin : (winAt d a).2 < winSize d (winAt d a).1)
    (hh : kvHole (winAt d a).1 (winAt d a).2 = false) (ho : openWord d (winAt d a).1 (winAt d a).2 = false) (he : d.ecc = []) :
    winRead c d a = (d, leNat (Memory.getN d.mem (key (winAt d a).1 (winAt d a).2) 4)) := by
  unfold winRead
  simp [h0, h7, Nat.not_le.2 hin, hh, ho, eccRead_plain _ _ _ _ _ he, peekNat, peek_plain _ _ _ he]

end

/-- Settles O23: a taken window read is `winRead`, case by case. -/
theorem windowReadsReturnTheStoredWord : Obligations.WindowReadsReturnTheStoredWord := by
  unfold Obligations.WindowReadsReturnTheStoredWord
  intro b n a s hb hs d x e
  obtain ⟨-, -, -, hmem, hecc⟩ := atRegs_frame s.dev
  have he : ∀ y v, winRead s.committed d (winAddr n a) = (y, v) → e = readBack s b false (leBytes 4 v) y := fun y v hv => by
    have h := exec_tableWindowRead b n a s hb hs
    rw [show winRead s.committed (atRegs s.dev) (winAddr n a) = (y, v) from hv] at h
    exact h
  refine ⟨fun h => he _ _ (winRead_zero _ _ _ h), fun h0 h7 hin hh ho hnone => ?_, fun h7 _ hd => he _ _ (winRead_ddrDown _ _ _ h7 hd),
    fun h7 hin hr hnone => ⟨he _ _ (winRead_ddr _ _ _ h7 hin hr (hecc.trans hnone)), fun hk => ?_⟩⟩
  · rw [← hmem]
    exact he _ _ (winRead_stored _ _ _ h0 h7 hin hh ho (hecc.trans hnone))
  · rw [← hmem]
    unfold ddrPeek
    rw [if_pos hk, peek_plain _ _ _ (hecc.trans hnone)]

end Sys2Proof.Machine

namespace Sys2Proof.Machine

/-! ### The load of the time counter (R25, R32) -/

/-- Judging the staging guard moves no clock. -/
theorem atRegs_clk (d : Dev) : (atRegs d).clk = d.clk := by
  unfold atRegs adaptGuard
  split <;> rfl

/-- GLOBAL_TIME_CTRL: one shadowed bit. -/
theorem rowOf_timeCtrl : rowOf .timeCtrl = ⟨.timeCtrl, 0x20, 1, 1, 1, 1, [fd 0 0 .rws 0]⟩ := by decide +kernel

/-- The stored bits of GLOBAL_TIME_CTRL are LOAD. -/
theorem storedBits_timeCtrl (v : Nat) : storedBits (rowOf .timeCtrl).fields v = v % 2 := by
  rw [rowOf_timeCtrl]
  show putField 0 0 0 (bitsOf v 0 0) = v % 2
  simp [putField, bitsOf]

/-- A write of GLOBAL_TIME_CTRL that is carried out is its shadow. -/
theorem regWriteAt_timeCtrl (c : Units) (d : Dev) (v : Nat) (hres : reservedWrite d ⟨rowOf .timeCtrl, 0, 0⟩ v = false)
    (hconf : conflictWrite c d ⟨rowOf .timeCtrl, 0, 0⟩ (addrOf .timeCtrl 0 0) v = false) :
    regWriteAt c d (addrOf .timeCtrl 0 0) v = (putSha d .timeCtrl 0 0 (v % 2), stDeferred) := by
  obtain ⟨hreg, -, hal⟩ := regAt_named .timeCtrl 0 (by decide) (by decide +kernel)
  have hreg' : regAt (addrOf .timeCtrl 0 0 / 4 * 4) = some ⟨rowOf .timeCtrl, 0, 0⟩ := by rw [hal, hreg]
  have hsh : (rowOf .timeCtrl).fields.any FieldDef.shadowed = true := by decide +kernel
  have hask : ask c d ⟨rowOf .timeCtrl, 0, 0⟩ v = d := by
    unfold ask enableUnit
    simp only [rowOf_reg]
  rw [regWriteAt_shadow c d _ v _ hreg' hres (by rw [hal]; exact hconf) hsh,
    shadowWrite_stores _ _ _ _ _ (by rw [rowOf_reg]; decide), hask]
  simp only [rowOf_reg, storedBits_timeCtrl]

/-- A field of a committed word that has just been stored. -/
theorem cf_putCom (d : Dev) (r : Reg) (i j v hi lo : Nat) (hv : v < 2 ^ 32) : cf (putCom d r i j v) r i j hi lo = bitsOf v hi lo := by
  unfold cf
  rw [com_putCom _ _ _ _ _ hv]

/-- A load that waits is in the counter one cycle on. -/
theorem elapse_timeLoad (d : Dev) (v : BitVec 64) (h : d.clk.timeLoad = some v) : (elapse d 1).clk.time = v := by
  unfold elapse
  simp [h, tclkEdges]

/-- The value that a load gives the time counter. -/
def loadValue (d : Dev) : BitVec 64 := BitVec.ofNat 64 (com d .timeLoadLo 0 0 + 2 ^ 32 * com d .timeLoadHi 0 0)

/-- The boundary takes up a LOAD that has committed: at once on a TCLK edge, otherwise for the next cycle. -/
theorem commitTime_load (d : Dev) (h : cf d .timeCtrl 0 0 0 0 = 1) :
    commitTime d = { putCom d .timeCtrl 0 0 0 with
      clk := if d.clk.phase = 0 then { d.clk with time := loadValue d, timeLoad := none } else { d.clk with timeLoad := some (loadValue d) } } := by
  unfold commitTime
  by_cases hp : d.clk.phase = 0 <;> simp [h, hp, loadValue]

/-- Settles O24: the write is a `putSha`, the boundary's part is `commitTime`, and `elapse` carries out the load that waits. -/
theorem timeLoadsAtTheBoundary : Obligations.TimeLoadsAtTheBoundary := by
  unfold Obligations.TimeLoadsAtTheBoundary
  refine ⟨fun b v s q hw => ?_, fun d h => ?_, fun d h => ?_⟩
  · obtain ⟨hreg, hlt, -⟩ := regAt_named .timeCtrl 0 (by decide) (by decide +kernel)
    have hwrite := writeReg_taken s.committed s.dev b .timeCtrl 0 v.toNat q v.isLt hlt hw
    obtain ⟨-, hq, hres, hconf⟩ := hw
    obtain rfl : ⟨rowOf .timeCtrl, 0, 0⟩ = q := by rwa [hreg, Option.some.injEq] at hq
    rw [regWriteAt_timeCtrl _ _ _ hres hconf] at hwrite
    obtain ⟨hregs, -⟩ := atRegs_frame s.dev
    have hexec : exec (.timeLoad b v) s = wrote s b stDeferred (putSha (atRegs s.dev) .timeCtrl 0 0 (v.toNat % 2)) := by
      show onDev (fun c d => writeReg c d b .timeCtrl 0 v.toNat) s = _
      rw [onDev_eq, hwrite]
      rfl
    exact ⟨_, hexec, rfl, atRegs_clk s.dev, hregs, rfl, (shadow_putSha _ _ _ _ _ _).trans (if_pos rfl)⟩
  · unfold commitTime
    simp [h]
  · have he := commitTime_load d h
    have hload : cf (commitTime d) .timeCtrl 0 0 0 0 = 0 := by
      rw [he]
      exact cf_putCom d .timeCtrl 0 0 0 0 0 (by decide)
    refine ⟨hload, fun hp => ?_, fun hp => ?_⟩
    · rw [if_pos hp] at he
      rw [he]
      rfl
    · rw [if_neg hp] at he
      exact ⟨by rw [he], elapse_timeLoad _ _ (by rw [he]; rfl)⟩

end Sys2Proof.Machine

namespace Sys2Proof.Machine

/-! ### Power up and boot (R439, R448, R457 to R460) -/

/-- The time that a boot takes moves the clocks, and draws a free value. -/
theorem bootElapse_frame (d : Dev) (n : Nat) : bootElapse d n = { d with clk := (bootElapse d n).clk, free := (bootElapse d n).free } := by
  unfold bootElapse
  split
  · rw [elapse_clk]
  · rfl

/-- What boot leaves, before it is logged: the clocks, the power state and the firmware record are new (R457, R459). -/
def bootedDev (d : Dev) (f : FlashRead) (us : Word) (sel : Bool) (bank : Option Bool) (fell : Bool) : Dev :=
  let e := bootElapse d us.toNat
  let on := bank.getD true
  let rel := match bank with | some x => bankRelease (if x then f.bank1 else f.bank0) | none => 0
  { d with
    clk := { e.clk with pllLock := true, ticking := bank.isSome, offset := 0, count := 0 }, free := e.free
    pwr := { d.pwr with
      booting := false, booted := true, recovery := !bank.isSome, state := if d.pwr.bootKind == 3 then .idle else .run, waking := false
      cause := d.pwr.bootKind, micros := us, fallback := fell, selected := sel
      selValid := BitVec.ofNat 2 (b2n (selOf f.sel0).valid + 2 * b2n (selOf f.sel1).valid)
      bankValid := match bank with | some x => BitVec.ofNat 2 (if x then 2 else 1) | none => 0
      bank := bank.getD false, check := bank.isSome && !fell }
    fw := { active := on, release0 := if bank.isSome && !on then rel else 0, release1 := if bank.isSome && on then rel else 0
            sel0 := selOf f.sel0, sel1 := selOf f.sel1 } }

/-- A boot leaves `bootedDev`; one from the other bank is logged besides, with the bank selected and the bank taken (R459). -/
theorem bootWith_eq (d : Dev) (f : FlashRead) (us : Word) (sel : Bool) (bank : Option Bool) (fell : Bool) :
    let e := bootedDev d f us sel bank fell
    bootWith d f us sel bank fell = if bank.isSome && fell
      then logOnly e 0x0102 255 255 [b2n sel, b2n (bank.getD true), e.pwr.selValid.toNat, e.pwr.bankValid.toNat] else e := by
  intro e
  unfold bootWith
  rw [bootElapse_frame]
  rfl

/-- Beside the log a boot leaves `bootedDev`. -/
theorem bootWith_events (d : Dev) (f : FlashRead) (us : Word) (sel : Bool) (bank : Option Bool) (fell : Bool) :
    EventsOnly (bootedDev d f us sel bank fell) (bootWith d f us sel bank fell) := by
  rw [bootWith_eq]
  split
  · exact logOnly_events _ _ _ _ _
  · exact EventsOnly.refl _

/-- Erasing the selector copy leaves the banks' records. -/
theorem restoreSel_frame (d : Dev) : restoreSel d = { d with fw := (restoreSel d).fw } ∧ (restoreSel d).fw.active = d.fw.active
    ∧ (restoreSel d).fw.release0 = d.fw.release0 ∧ (restoreSel d).fw.release1 = d.fw.release1 := by
  unfold restoreSel
  split <;> exact ⟨rfl, rfl, rfl, rfl⟩

/-- The release served rests on the banks' records. -/
theorem fwRelease_congr {d e : Dev} (ha : e.fw.active = d.fw.active) (h0 : e.fw.release0 = d.fw.release0) (h1 : e.fw.release1 = d.fw.release1) :
    fwRelease e = fwRelease d := by
  unfold fwRelease
  rw [ha, h0, h1]

/-- The mask ROM has restarted: the copy that the switch wrote is erased, and the restart is logged (R3, R460). -/
def restarted (d : Dev) (wrote : Option Bool) : Dev :=
  logReset (restoreSel { d with i3c := { d.i3c with busy := none }, fw := { d.fw with wrote } }) 6 0

/-- Beside the firmware record and the log a restart leaves the device. -/
theorem restarted_frame (d : Dev) (wrote : Option Bool) :
    let u := restarted d wrote
    u.pwr = d.pwr ∧ u.clk = d.clk ∧ u.req = d.req ∧ u.mem = d.mem ∧ u.i3c.busy = none ∧ u.fw.active = d.fw.active ∧ u.fw.release0 = d.fw.release0
      ∧ u.fw.release1 = d.fw.release1 := by
  obtain ⟨hframe, ha, h0, h1⟩ := restoreSel_frame { d with i3c := { d.i3c with busy := none }, fw := { d.fw with wrote } }
  have hu : EventsOnly _ (restarted d wrote) := logOnly_events _ _ _ _ _
  intro u
  have hu' : EventsOnly _ u := hu
  rw [hu', hframe]
  exact ⟨rfl, rfl, rfl, rfl, rfl, ha, h0, h1⟩

/-- A switch whose boot ends in recovery has failed. -/
theorem switchEnd_recovery (d : Dev) (op tag : BitVec 16) (wrote : Option Bool) (h : d.pwr.recovery = true) :
    switchEnd d (some (op, tag)) wrote =
      giveReply { restarted d wrote with fw := { (restarted d wrote).fw with state := .failed, cause := 4 } } op tag stFirmware [] := by
  unfold switchEnd
  dsimp only
  rw [if_pos h]
  rfl

/-- A switch whose firmware runs is answered with its release and bank. -/
theorem switchEnd_up (d : Dev) (op tag : BitVec 16) (wrote : Option Bool) (h : d.pwr.recovery = false) :
    switchEnd d (some (op, tag)) wrote =
      giveReply { d with i3c := { d.i3c with busy := none } } op tag stOk (leBytes 2 (fwRelease d) ++ leBytes 1 (b2n d.fw.active) ++ [0]) := by
  unfold switchEnd
  dsimp only
  rw [if_neg (by rw [h]; decide)]
  rfl

/-- The end of a boot for the bus: beside the reply it touches what a restart in recovery touches (R439, R460). -/
theorem switchEnd_frame (d : Dev) (busy : Option (BitVec 16 × BitVec 16)) (wrote : Option Bool) :
    let u := switchEnd d busy wrote
    u.pwr = d.pwr ∧ u.clk = d.clk ∧ u.req = d.req ∧ u.mem = d.mem ∧ u.fw.active = d.fw.active ∧ fwRelease u = fwRelease d ∧ u.i3c.busy = none
      ∧ (d.pwr.recovery = false → u.health = d.health) := by
  match busy with
  | none => exact ⟨rfl, rfl, rfl, rfl, rfl, rfl, rfl, fun _ => rfl⟩
  | some (op, tag) =>
    cases hr : d.pwr.recovery with
    | true =>
      obtain ⟨hpwr, hclk, hreq, hmem, hbus, ha, h0, h1⟩ := restarted_frame d wrote
      rw [switchEnd_recovery _ _ _ _ hr]
      exact ⟨hpwr, hclk, hreq, hmem, ha, fwRelease_congr ha h0 h1, hbus, fun h => nomatch h⟩
    | false =>
      rw [switchEnd_up _ _ _ _ hr]
      exact ⟨rfl, rfl, rfl, rfl, rfl, rfl, rfl, fun _ => rfl⟩

/-- The reply of a FW_SWITCH from the mask ROM tells what runs once it has ended (R439). -/
theorem switchEnd_reply (d : Dev) (busy : Option (BitVec 16 × BitVec 16)) (op tag : BitVec 16) (wrote : Option Bool) (h : busy = some (op, tag)) :
    let u := switchEnd d busy wrote
    u.i3c.reply = if u.pwr.recovery then ⟨op, tag, BitVec.ofNat 16 stFirmware, []⟩
      else ⟨op, tag, BitVec.ofNat 16 stOk, leBytes 2 (fwRelease u) ++ leBytes 1 (b2n u.fw.active) ++ [0]⟩ := by
  subst h
  obtain ⟨hpwr, -, -, -, ha, hrel, -⟩ := switchEnd_frame d (some (op, tag)) wrote
  dsimp only
  rw [hpwr, ha, hrel]
  cases hr : d.pwr.recovery with
  | true => rw [switchEnd_recovery _ _ _ _ hr]; rfl
  | false => rw [switchEnd_up _ _ _ _ hr]; rfl

/-- The bank that boot takes: the selected one where it is valid, otherwise the other, otherwise none (R459). -/
def bootBank (f : FlashRead) : Option Bool :=
  let sel := selected (selOf f.sel0) (selOf f.sel1)
  if bankValid (if sel then f.bank1 else f.bank0) then some sel else if bankValid (if !sel then f.bank1 else f.bank0) then some (!sel) else none

/-- The selected bank is not the one booted. -/
def bootFell (f : FlashRead) : Bool := !bankValid (if selected (selOf f.sel0) (selOf f.sel1) then f.bank1 else f.bank0)

/-- The device at the end of a boot, before the reply of the FW_SWITCH that caused it. -/
def bootDone (d : Dev) (f : FlashRead) (us : Word) : Dev :=
  freshSession (bootWith d f us (selected (selOf f.sel0) (selOf f.sel1)) (bootBank f) (bootFell f))

/-- A boot in progress ends with its bank, a fresh session, and that reply. -/
theorem exec_bootComplete (f : FlashRead) (us : Word) (s : State) (hp : s.dev.pwr.powered = true) (hb : s.dev.pwr.booting = true)
    (hl : s.dev.pwr.resetLow = false) :
    exec (.bootComplete f us) s = .next { s with dev := switchEnd (bootDone s.dev f us) s.dev.i3c.busy s.dev.fw.wrote } := by
  show execBootComplete f us s = _
  unfold execBootComplete bootDone bootBank bootFell
  rw [onDev_eq]
  cases hsel : selected (selOf f.sel0) (selOf f.sel1)
  · cases h0 : bankValid f.bank0 <;> cases h1 : bankValid f.bank1 <;> simp [hp, hb, hl, h0, h1]
  · cases h1 : bankValid f.bank1 <;> cases h0 : bankValid f.bank0 <;> simp [hp, hb, hl, h0, h1]

/-- What a boot leaves (R457, R459). -/
theorem bootDone_events (d : Dev) (f : FlashRead) (us : Word) :
    EventsOnly (freshSession (bootedDev d f us (selected (selOf f.sel0) (selOf f.sel1)) (bootBank f) (bootFell f))) (bootDone d f us) := by
  have h := bootWith_events d f us (selected (selOf f.sel0) (selOf f.sel1)) (bootBank f) (bootFell f)
  unfold bootDone
  rw [h]
  rfl

/-- What of it stands once the bus has its reply. -/
theorem bootEnd_frame (d : Dev) (f : FlashRead) (us : Word) (busy : Option (BitVec 16 × BitVec 16)) (wrote : Option Bool) :
    let e := bootedDev d f us (selected (selOf f.sel0) (selOf f.sel1)) (bootBank f) (bootFell f)
    let u := switchEnd (bootDone d f us) busy wrote
    u.pwr = e.pwr ∧ u.clk = e.clk ∧ u.req = d.req ∧ u.mem = d.mem ∧ u.fw.active = e.fw.active ∧ fwRelease u = fwRelease e ∧ u.i3c.busy = none
      ∧ (e.pwr.recovery = false → u.health = (bootDone d f us).health) := by
  intro e u
  obtain ⟨hpwr, hclk, hreq, hmem, ha, hrel, hbus, hh⟩ := switchEnd_frame (bootDone d f us) busy wrote
  have hw := bootDone_events d f us
  have hwp : (bootDone d f us).pwr = e.pwr := by rw [hw]; rfl
  refine ⟨hpwr.trans hwp, hclk.trans ?_, hreq.trans ?_, hmem.trans ?_, ha.trans ?_, hrel.trans ?_, hbus, fun hr => hh (by rw [hwp, hr])⟩
  all_goals rw [hw]; rfl

/-- A log entry rests on the log that it is added to. -/
theorem Logged.to {d e e' : Dev} {is : LogEntry → Prop} (h : Logged d e is) (he : e'.health = e.health) : Logged d e' is := by
  unfold Logged at h ⊢
  rwa [he]

/-- A boot from the other bank is logged with the bank selected and the bank taken (R459). -/
theorem bootDone_logged (d : Dev) (f : FlashRead) (us : Word) (on : Bool) (hb : bootBank f = some on) (hf : bootFell f = true) :
    let sel := selected (selOf f.sel0) (selOf f.sel1)
    Logged { d with clk := (bootedDev d f us sel (some on) true).clk } (bootDone d f us)
      (fun e => e.code = 0x0102 ∧ e.detail.take 2 = [b2n sel, b2n on]) := by
  intro sel
  have heq := bootWith_eq d f us sel (some on) true
  have hlog := logAt_logged (bootedDev d f us sel (some on) true) 0x0102 255 255 0xFFFFFFFF 0xFFFFFFFF [b2n sel, b2n on,
    (bootedDev d f us sel (some on) true).pwr.selValid.toNat, (bootedDev d f us sel (some on) true).pwr.bankValid.toNat] 0
  have hdone : (bootDone d f us).health = (bootWith d f us sel (some on) true).health := by
    unfold bootDone
    rw [hb, hf]
    rfl
  refine Logged.to (((hlog.from rfl rfl rfl rfl).imp fun e he => ?_)) (hdone.trans (congrArg Dev.health heq))
  obtain ⟨hcode, -, -, -, -, hdetail, -⟩ := he
  exact ⟨hcode, by rw [hdetail]; rfl⟩

/-- RESET_N rises: a chip reset lasts 1 µs at least, and boot begins unless power-on reset stands (R448). -/
theorem exec_resetNRelease (s : State) (h : s.dev.pwr.resetLow = true) :
    let d := s.dev
    let e := if d.pwr.powered = true ∧ d.clk.pllLock = true then elapse d (d.pwr.resetAt + cyclesPerUs - d.clk.mono) else d
    exec .resetNRelease s = .next { s with dev := { e with pwr := { d.pwr with resetLow := false, booting := d.pwr.powered }, jtag := flashOff d.jtag } } := by
  have hclk := elapse_clk s.dev (s.dev.pwr.resetAt + cyclesPerUs - s.dev.clk.mono)
  show execResetNRelease s = _
  unfold execResetNRelease endReset
  rw [onDev_eq]
  cases hp : s.dev.pwr.powered with
  | false => simp [h, hp]
  | true =>
    cases hl : s.dev.clk.pllLock with
    | false => simp [h, hp, hl]
    | true =>
      simp only [h, if_true, and_self]
      rw [hclk]
      simp [hp]

/-- Settles O44: PWROK, RESET_N and REFCLK are one record each, and a boot is `bootedDev`, its log entry and the reply of `switchEnd`. -/
theorem bootRunsTheChosenBank : Obligations.BootRunsTheChosenBank := by
  unfold Obligations.BootRunsTheChosenBank
  intro sa f us s d
  refine ⟨fun h => ⟨?_, ?_⟩, fun h => ⟨?_, ?_⟩, fun h => ?_, exec_resetNRelease s, fun hp hb hl => ?_, fun h => ⟨?_, ?_⟩⟩
  · simp [exec, execPwrokRise, onDev_eq, show s.dev.pwr.pwrok = true from h]
  · simp [exec, execPwrokRise, onDev_eq, show s.dev.pwr.pwrok = true from h]
  · simp [exec, execPwrokRise, onDev_eq, show s.dev.pwr.pwrok = false from h, d]
  · simp [exec, execPwrokRise, onDev_eq, show s.dev.pwr.pwrok = false from h, d]
  · simp [exec, execResetNRelease, onDev_eq, show s.dev.pwr.resetLow = false from h]
  · intro sel good
    obtain ⟨hpwr, hclk, hreq, hmem, ha, hrel, hbus, hh⟩ := bootEnd_frame d f us d.i3c.busy d.fw.wrote
    have hbank : bootBank f = if good sel then some sel else if good (!sel) then some (!sel) else none := rfl
    have hfell : bootFell f = !good sel := rfl
    refine ⟨_, exec_bootComplete f us s hp hb hl, rfl, congrArg Pwr.booting hpwr, congrArg Pwr.booted hpwr, congrArg Clk.pllLock hclk,
      congrArg Pwr.cause hpwr, congrArg Pwr.micros hpwr, congrArg Pwr.selected hpwr, congrArg Clk.offset hclk, congrArg Clk.count hclk, hreq, hmem,
      fun h1 => ?_, fun h1 h2 => ?_, hbus, fun op tag hop => switchEnd_reply _ _ op tag _ hop, fun h1 h2 => ?_⟩
    · rw [if_pos h1] at hbank
      rw [h1] at hfell
      dsimp only
      rw [hpwr, hclk, ha, hbank, hfell]
      exact ⟨rfl, rfl, rfl, rfl, rfl⟩
    · rw [if_neg (by rw [h1]; decide), if_pos h2] at hbank
      rw [h1] at hfell
      have hlogged := bootDone_logged d f us _ hbank hfell
      rw [hbank, hfell] at hpwr hclk ha hh
      dsimp only
      rw [hpwr, hclk, ha]
      exact ⟨rfl, rfl, rfl, rfl, rfl, hlogged.to (hh rfl)⟩
    · rw [if_neg (by rw [h1]; decide), if_neg (by rw [h2]; decide)] at hbank
      dsimp only
      rw [hpwr, hclk, ha, hrel, hbank]
      exact ⟨rfl, rfl, rfl, rfl, rfl⟩
  · simp [exec, execRefclkLost, onDev_eq, show s.dev.pwr.powered = true from h, d]
  · simp [exec, execPllRelock, onDev_eq, show s.dev.pwr.powered = true from h, d]

end Sys2Proof.Machine

namespace Sys2Proof.Machine

/-! ### Release and PAGE_END (R355, R368, R369, R373, R374) -/

/-- Elements have come to wait on a channel of d once the port's quota in use is `used`; they bring the STREAM_HEADER that is due, where it fits. -/
def Waiting (d u : Dev) (x v : Nat) (items : List OutItem) (used : Nat) : Prop :=
  let q : TxVc := { txVcOf d x v with q := (txVcOf d x v).q ++ items }
  let opens := q.hasRec = true ∧ q.header = true ∧ 48 + reserveBytes d x ≤ quotaBytes d x - (used + leavingBytes d x)
  (txOf u x).used = (if opens then used + 48 else used) ∧ (¬ opens → txVcOf u x v = q)
    ∧ (opens → ∃ a, txVcOf u x v = { q with header := false, stream := some { bytes := recStream d x v, at_ := d.clk.mono, addr := a } })

/-- What comes to wait stands in the transmit ports. -/
theorem Waiting.congr {d u w : Dev} {x v : Nat} {items : List OutItem} {used : Nat} (h : Waiting d u x v items used) (ht : w.out.tx = u.out.tx) :
    Waiting d w x v items used := by
  unfold Waiting at h ⊢
  rwa [txOf_congr _ _ _ ht, txVcOf_congr _ _ _ _ ht]

/-- Queueing on a device that has spent quota, and logged it, since d. -/
theorem queueItems_waiting (d e : Dev) (x v : Nat) (items : List OutItem) (used : Nat) (hx : x < 2) (hv : v < 16)
    (he : e = { d with out := e.out, health := e.health }) (hvc : txVcOf e x v = txVcOf d x v) (hused : (txOf e x).used = used)
    (hleav : (txOf e x).leaving = (txOf d x).leaving) : Waiting d (queueItems e x v items) x v items used := by
  obtain ⟨-, -, huse, hno, hyes⟩ := queueItems_queued e x v items hx hv
  have hres : reserveBytes e x = reserveBytes d x := by rw [he]; rfl
  have hfree : freeBytes e x = quotaBytes d x - (used + leavingBytes d x) := by
    have hq : quotaBytes e x = quotaBytes d x := by rw [he]; rfl
    have hl : leavingBytes e x = leavingBytes d x := by
      unfold leavingBytes
      rw [hleav, he]
    unfold freeBytes
    rw [hq, hl, hused]
  have hstream : recStream e x v = recStream d x v := by rw [he]; rfl
  have hmono : e.clk.mono = d.clk.mono := by rw [he]
  rw [hvc, hres, hfree] at huse hno hyes
  rw [hused] at huse
  rw [hstream, hmono] at hyes
  exact ⟨huse, hno, hyes⟩

/-- Queueing touches its channel only. -/
theorem channelOnly_queueItems (d : Dev) (x v : Nat) (items : List OutItem) (hx : x < 2) (hv : v < 16) : ChannelOnly d (queueItems d x v items) x v :=
  (queueItems_queued d x v items hx hv).1

/-- Queueing is a matter of the output unit. -/
theorem queueItems_out (d : Dev) (x v : Nat) (items : List OutItem) (hx : x < 2) (hv : v < 16) :
    queueItems d x v items = { d with out := (queueItems d x v items).out } :=
  (queueItems_queued d x v items hx hv).2.1

/-- What a released job brings to its channel: the frame start, its PAGE_BEGIN, its events and, of a read job, its records. -/
def releaseItems (d : Dev) (x : OutJob) (j : Job) (a : Nat) : List OutItem :=
  OutItem.frameStart (frameNo j.seq)
      :: (if (outNow d x).firstLost ≠ some 0 then [OutItem.item { bytes := recPageBegin j x.reread, at_ := d.clk.mono, addr := a }] else [])
    ++ (x.evs ++ releasedRecs x j).map (fun r => OutItem.item { r with at_ := d.clk.mono, early := true })

section
variable (d : Dev) (p o : Nat) (x : OutJob) (j : Job) (hfi : firstOn d p o = some x) (hjo : jobOf d x.job = some j)
include hfi hjo

/-- A job that is released, or whose verdict is not published, is not released. -/
theorem release_idle (h : x.released = true ∨ j.pubVer = false) : release d p o = d := by
  unfold release
  rw [hfi]
  dsimp only
  rw [hjo]
  exact if_pos (by simpa using h)

/-- The release of an admitted job queues its elements, once an unread job's records have given back their quota. -/
theorem release_waits (hx : x.port < 2) (hv : x.vc < 16) (hr : x.released = false) (hp : j.pubVer = true) (ha : x.admitted = some true)
    (hd : (txVcOf d x.port x.vc).drop = none) :
    ∃ a, ChannelOnly d (release d p o) x.port x.vc ∧ release d p o = { d with out := (release d p o).out }
      ∧ Waiting d (release d p o) x.port x.vc (releaseItems d x j a) ((txOf d x.port).used - droppedQuota x j)
      ∧ ∀ y ∈ (release d p o).out.jobs, y.job = x.job → y.out = x.out → y.released = true ∧ y.evs = [] ∧ y.recs = []
        ∧ y.count = (if (outNow d x).firstLost ≠ some 0 then 1 else 0) + x.evs.length + (releasedRecs x j).length := by
  obtain ⟨e, a, he, hrel⟩ := release_admitted d p o x j hfi hjo hx hr hp ha hd
  have hite : ∀ {α : Type} (s t : α), @ite α (begun d x) (Classical.propDecidable _) s t = if (outNow d x).firstLost ≠ some 0 then s else t :=
    fun s t => by unfold begun; congr
  simp only [hite] at hrel
  have hew : ChannelOnly d e x.port x.vc := by
    rw [he]
    exact (channelOnly_setTx d x.port x.vc (fun t => { t with used := t.used - droppedQuota x j }) hx fun _ => rfl).trans (channelOnly_of_tx rfl rfl)
  have hevc : txVcOf e x.port x.vc = txVcOf d x.port x.vc := by
    rw [he]
    exact txVcOf_setTx d x.port x.vc (fun t => { t with used := t.used - droppedQuota x j }) hx fun _ => rfl
  have heport : txOf e x.port = { txOf d x.port with used := (txOf d x.port).used - droppedQuota x j } := by
    rw [he]
    exact txOf_setTx d x.port (fun t => { t with used := t.used - droppedQuota x j }) hx
  have hclear : txVcOf (setTxVc e x.port x.vc (fun t => { t with drop := none })) x.port x.vc = txVcOf d x.port x.vc := by
    rw [txVcOf_setTxVc _ _ _ _ hx hv, hevc, ← hd]
  have hwait := queueItems_waiting d (setTxVc e x.port x.vc (fun t => { t with drop := none })) x.port x.vc (releaseItems d x j a)
    ((txOf d x.port).used - droppedQuota x j) hx hv (by rw [he]; rfl) hclear (by rw [txOf_setTxVc _ _ _ _ hx, heport])
    (by rw [txOf_setTxVc _ _ _ _ hx, heport])
  refine ⟨a, ?_, ?_, ?_, ?_⟩
  · rw [hrel]
    exact ((hew.trans (channelOnly_setTxVc _ _ _ _ hx)).trans (channelOnly_queueItems _ _ _ _ hx hv)).trans (channelOnly_setOut _ _ _ _ _ _)
  · rw [hrel]
    unfold setOut
    rw [queueItems_out _ _ _ _ hx hv, he]
    rfl
  · rw [hrel]
    exact hwait.congr rfl
  · rw [hrel]
    intro y hy hjob hout
    obtain ⟨z, -, rfl⟩ := List.mem_map.1 hy
    by_cases hz : (z.job == x.job && z.out == x.out) = true
    · rw [if_pos hz]
      exact ⟨rfl, rfl, rfl, rfl⟩
    · rw [if_neg hz] at hjob hout
      exact absurd (by rw [hjob, hout]; simp) hz

/-- A job that is not released, or a read one that is not done, has no PAGE_END. -/
theorem pageEnd_idle (h : x.released = false ∨ (j.verdict = some true ∧ ¬ (j.doneNamed = true ∧ contextsDone d j = true))) : pageEnd d p o = d := by
  unfold pageEnd
  rw [hfi]
  dsimp only
  rw [hjo]
  refine if_pos ?_
  obtain h | ⟨hv, hd⟩ := h
  · simp [h]
  · simp only [hv, beq_self_eq_true, Bool.true_and, Bool.or_eq_true, Bool.not_eq_true']
    exact .inr (Bool.eq_false_iff.2 fun hand => hd (Bool.and_eq_true_iff.1 hand))

end

/-! What leaves with a job -/

/-- A job that leaves takes nothing from the ports. -/
theorem retire_frame (d : Dev) (n : Nat) : (retire d n).out.tx = d.out.tx ∧ (retire d n).health = d.health := by
  unfold Machine.retire
  dsimp only
  split <;> exact ⟨rfl, rfl⟩

/-- A job that has ended on every binding leaves the partition, and is remembered for the present cycle (R19, R369). -/
theorem retire_leaves (d : Dev) (n : Nat) (j : Job) (hj : jobOf d n = some j) (h : ∀ y ∈ d.out.jobs, y.job = n → y.ended = true) :
    (retire d n).jobs = d.jobs.filter (fun q => q.id != n) ∧ (d.clk.mono, j) ∈ (retire d n).gone ∧ ∀ y ∈ (retire d n).out.jobs, y.job ≠ n := by
  have hempty : (outsOf d n).isEmpty = true := by
    unfold outsOf
    rw [List.isEmpty_iff, List.filter_eq_nil_iff]
    intro y hy hc
    simp only [Bool.and_eq_true, beq_iff_eq, Bool.not_eq_true'] at hc
    rw [h y hy hc.1] at hc
    exact absurd hc.2 (by decide)
  unfold Machine.retire
  rw [if_pos hempty, hj]
  refine ⟨rfl, List.mem_append_right _ List.mem_cons_self, fun y hy => ?_⟩
  have := (List.mem_filter.1 hy).2
  simpa using this

/-- A record that is placed bears its cycle; its address is open. -/
theorem placeRec_lies (d : Dev) (bytes : List Byte) : ∃ a, (placeRec d { bytes := bytes }).2 = { bytes := bytes, at_ := d.clk.mono, addr := a } := ⟨_, rfl⟩

/-- A record that takes its quota and its place. -/
theorem takePlace_frame (d : Dev) (x v n : Nat) (bytes : List Byte) (hx : x < 2) :
    let q := placeRec (takeQuota d x n) { bytes := bytes }
    ChannelOnly d q.1 x v ∧ q.1 = { d with out := q.1.out } ∧ q.1.out.jobs = d.out.jobs ∧ txVcOf q.1 x v = txVcOf d x v
      ∧ txOf q.1 x = { txOf d x with used := (txOf d x).used + n } ∧ ∃ a, q.2 = { bytes := bytes, at_ := d.clk.mono, addr := a } :=
  ⟨(channelOnly_setTx d x v (fun t => { t with used := t.used + n }) hx fun _ => rfl).trans (channelOnly_of_tx rfl rfl), rfl, rfl,
    txVcOf_setTx d x v (fun t => { t with used := t.used + n }) hx fun _ => rfl, txOf_setTx d x (fun t => { t with used := t.used + n }) hx,
    placeRec_lies _ _⟩

/-- Queueing on a channel leaves the jobs. -/
theorem queueItems_jobs (d : Dev) (x v : Nat) (items : List OutItem) : (queueItems d x v items).out.jobs = d.out.jobs := by
  unfold queueItems openStream writeStream
  split
  · split <;> rfl
  · rfl

/-- A last record and its frame end come to wait on a device f that has spent quota since d; the job ends on its binding, and leaves once it
has ended on every binding. -/
theorem endItems_wait (d f : Dev) (x : OutJob) (j : Job) (n : Nat) (bytes : List Byte) (items : List OutItem) (last : OutItem)
    (hx : x.port < 2) (hv : x.vc < 16) (hjo : jobOf d x.job = some j) (hfchan : ChannelOnly d f x.port x.vc)
    (hfd : f = { d with out := f.out, health := f.health }) (hfjobs : f.out.jobs = d.out.jobs) (hfvc : txVcOf f x.port x.vc = txVcOf d x.port x.vc)
    (hfport : txOf f x.port = { txOf d x.port with used := (txOf d x.port).used + n }) :
    let q := placeRec (takeQuota f x.port 40) { bytes := bytes }
    let u := Machine.retire (setOut (queueItems q.1 x.port x.vc (items ++ [.item q.2, last])) x.job x.out (fun y => { y with ended := true })) x.job
    ∃ a, ChannelOnly d u x.port x.vc ∧ u.health = f.health
      ∧ Waiting d u x.port x.vc (items ++ [.item { bytes := bytes, at_ := d.clk.mono, addr := a }, last]) ((txOf d x.port).used + (n + 40))
      ∧ ((∀ y ∈ d.out.jobs, y.job = x.job → y.out ≠ x.out → y.ended = true) → u.jobs = d.jobs.filter (fun q => q.id != x.job)
          ∧ (d.clk.mono, j) ∈ u.gone ∧ ∀ y ∈ u.out.jobs, y.job ≠ x.job) := by
  intro q u
  obtain ⟨hechan, hed, hejobs, hevc, heport, a, hlies⟩ := takePlace_frame f x.port x.vc 40 bytes hx
  replace hlies : q.2 = { bytes := bytes, at_ := d.clk.mono, addr := a } := by
    show (placeRec _ _).2 = _
    rw [hlies, hfd]
  have hed' : q.1 = { d with out := q.1.out, health := f.health } := by
    show (placeRec _ _).1 = _
    rw [hed, hfd]
  have hwait := queueItems_waiting d q.1 x.port x.vc (items ++ [.item q.2, last]) ((txOf d x.port).used + (n + 40)) hx hv
    (by rw [hed']) (hevc.trans hfvc) (by rw [heport, hfport, Nat.add_assoc]) (by rw [heport, hfport])
  have hwchan := channelOnly_queueItems q.1 x.port x.vc (items ++ [.item q.2, last]) hx hv
  have hwd := queueItems_out q.1 x.port x.vc (items ++ [.item q.2, last]) hx hv
  have hwjobs := queueItems_jobs q.1 x.port x.vc (items ++ [.item q.2, last])
  have hu : u = Machine.retire (setOut (queueItems q.1 x.port x.vc (items ++ [.item q.2, last])) x.job x.out (fun y => { y with ended := true })) x.job := rfl
  generalize queueItems q.1 x.port x.vc (items ++ [.item q.2, last]) = w at hwait hwchan hwd hwjobs hu
  rw [hlies] at hwait
  obtain ⟨htx, hhealth⟩ := retire_frame (setOut w x.job x.out (fun y => { y with ended := true })) x.job
  rw [hu]
  refine ⟨a, ?_, hhealth.trans ?_, hwait.congr htx, fun hall => ?_⟩
  · exact (((hfchan.trans hechan).trans hwchan).trans (channelOnly_setOut _ _ _ _ _ _)).trans (channelOnly_retire _ _ _ _)
  · show w.health = _
    rw [hwd, hed']
  · have hwj : w.jobs = d.jobs := by rw [hwd, hed']
    have hmono : w.clk.mono = d.clk.mono := by rw [hwd, hed']
    rw [← hwj, ← hmono]
    refine retire_leaves (setOut w x.job x.out (fun y => { y with ended := true })) x.job j ?_ fun y hy hjob => ?_
    · exact (jobOf_congr d _ _ hwj).trans hjo
    · obtain ⟨z, hz, rfl⟩ := List.mem_map.1 hy
      by_cases hm : (z.job == x.job && z.out == x.out) = true
      · rw [if_pos hm]
      · rw [if_neg hm] at hjob ⊢
        rw [hwjobs, hejobs, hfjobs] at hz
        exact hall z hz hjob fun hout => hm (by rw [hjob, hout]; simp)

/-- The quota of the GAP that stands before the PAGE_END of a job that lost records. -/
def gapQuota (x : OutJob) : Nat := if x.firstLost.isSome then 32 else 0

/-- Noting the GAP takes its quota and logs it; the queue of the channel is left for its elements. -/
theorem gapNoted_frame (d : Dev) (x : OutJob) (j : Job) (hx : x.port < 2) :
    let e := (gapNoted d x j).1
    ChannelOnly d e x.port x.vc ∧ e = { d with out := e.out, health := e.health } ∧ e.out.jobs = d.out.jobs
      ∧ txVcOf e x.port x.vc = txVcOf d x.port x.vc
      ∧ txOf e x.port = { txOf d x.port with used := (txOf d x.port).used + gapQuota x } := by
  unfold gapNoted gapQuota
  cases x.firstLost with
  | none => exact ⟨ChannelOnly.refl _ _ _, rfl, rfl, rfl, rfl⟩
  | some i =>
    dsimp only
    have hchan := channelOnly_logAt (takeQuota d x.port 32) x.port x.vc 0x000D 0x1C x.part j.seq noWord
      [x.port, x.vc, sat 32 x.lost, sat 32 x.lostB, 0, j.seq.toNat, j.seq.toNat] 0
    have hlog := logAt_health (takeQuota d x.port 32) 0x000D 0x1C x.part j.seq noWord
      [x.port, x.vc, sat 32 x.lost, sat 32 x.lostB, 0, j.seq.toNat, j.seq.toNat] 0
    generalize logAt (takeQuota d x.port 32) _ _ _ _ _ _ _ = e at hlog hchan
    have htx : e.out.tx = (takeQuota d x.port 32).out.tx := by rw [hlog]
    refine ⟨?_, ?_, ?_, ?_, ?_⟩
    · exact ((channelOnly_setTx d x.port x.vc (fun t => { t with used := t.used + 32 }) hx fun _ => rfl).trans hchan).trans
        (channelOnly_of_tx rfl rfl)
    · rw [hlog]; rfl
    · rw [hlog]; rfl
    · exact (txVcOf_congr (takeQuota d x.port 32) _ x.port x.vc htx).trans (txVcOf_setTx d x.port x.vc (fun t => { t with used := t.used + 32 }) hx fun _ => rfl)
    · exact (txOf_congr (takeQuota d x.port 32) _ x.port htx).trans (txOf_setTx d x.port (fun t => { t with used := t.used + 32 }) hx)

/-- A job that lost no record has no GAP. -/
theorem gapNoted_none (d : Dev) (x : OutJob) (j : Job) (h : x.firstLost = none) : gapNoted d x j = (d, []) := by
  unfold gapNoted
  rw [h]

/-- The GAP of a job that lost records, and its log entry (R374). -/
theorem gapNoted_some (d : Dev) (x : OutJob) (j : Job) (i : Nat) (h : x.firstLost = some i) :
    (∃ a, (gapNoted d x j).2 = [OutItem.item { bytes := recGap x.reread j.seq x.lost x.lostB false i, at_ := d.clk.mono, addr := a }])
      ∧ Logged d (gapNoted d x j).1 (fun e => e.code = 0x000D ∧ e.unit = 0x1C ∧ e.job = j.seq) := by
  have hlog := logAt_logged (takeQuota d x.port 32) 0x000D 0x1C x.part j.seq noWord
    [x.port, x.vc, sat 32 x.lost, sat 32 x.lostB, 0, j.seq.toNat, j.seq.toNat] 0
  have hhealth := logAt_health (takeQuota d x.port 32) 0x000D 0x1C x.part j.seq noWord
    [x.port, x.vc, sat 32 x.lost, sat 32 x.lostB, 0, j.seq.toNat, j.seq.toNat] 0
  unfold gapNoted
  rw [h]
  dsimp only
  generalize logAt (takeQuota d x.port 32) _ _ _ _ _ _ _ = e at hlog hhealth
  obtain ⟨a, ha⟩ := placeRec_lies e (recGap x.reread j.seq x.lost x.lostB false i)
  have hclk : e.clk = d.clk := by rw [hhealth]; rfl
  refine ⟨⟨a, by rw [ha, hclk]⟩, ((hlog.imp fun y hy => ?_).from rfl rfl rfl rfl).to rfl⟩
  obtain ⟨hcode, hunit, -, hjob, -⟩ := hy
  exact ⟨hcode, hunit, hjob⟩

section
variable (d : Dev) (p o : Nat) (x : OutJob) (j : Job) (hfi : firstOn d p o = some x) (hjo : jobOf d x.job = some j)
include hfi hjo

/-- The PAGE_END of an admitted job comes to wait behind its GAP, and a job that has ended on every binding leaves. -/
theorem pageEnd_waits (hx : x.port < 2) (hv : x.vc < 16) (hr : x.released = true)
    (hc : j.verdict = some true → j.doneNamed = true ∧ contextsDone d j = true) (ha : x.admitted = some true) :
    let g := gapNoted d x j
    let u := pageEnd d p o
    let bytes := recPageEnd d j x.reread (x.count + g.2.length) x.crops x.firstLost.isSome false
    ∃ a, ChannelOnly d u x.port x.vc ∧ u.health = g.1.health
      ∧ Waiting d u x.port x.vc (g.2 ++ [.item { bytes := bytes, at_ := d.clk.mono, addr := a }, .frameEnd (frameNo j.seq)])
        ((txOf d x.port).used + (gapQuota x + 40))
      ∧ ((∀ y ∈ d.out.jobs, y.job = x.job → y.out ≠ x.out → y.ended = true) → u.jobs = d.jobs.filter (fun q => q.id != x.job)
          ∧ (d.clk.mono, j) ∈ u.gone ∧ ∀ y ∈ u.out.jobs, y.job ≠ x.job) := by
  intro g u bytes
  obtain ⟨e, pe, hpe, hu⟩ := pageEnd_admitted d p o x j hfi hjo hr hc ha
  obtain ⟨hgchan, hgd, hgjobs, hgvc, hgport⟩ := gapNoted_frame d x j hx
  have hbytes : recPageEnd (takeQuota g.1 x.port 40) j x.reread (x.count + g.2.length) x.crops x.firstLost.isSome false = bytes := by
    have : ∀ f : Dev, f = { d with out := f.out, health := f.health } →
      recPageEnd (takeQuota f x.port 40) j x.reread (x.count + g.2.length) x.crops x.firstLost.isSome false = bytes := fun f hf => by rw [hf]; rfl
    exact this g.1 hgd
  rw [hbytes] at hpe
  have h := endItems_wait d g.1 x j (gapQuota x) bytes g.2 (.frameEnd (frameNo j.seq)) hx hv hjo hgchan hgd hgjobs hgvc hgport
  rw [← hpe] at h
  have hu' : u = _ := hu
  rw [hu']
  exact h

end

end Sys2Proof.Machine

namespace Sys2Proof.Machine

/-! ### Sending (R350, R351, R355, R372, R373, R376) -/

/-- A count summed along a list, from a start. -/
theorem foldl_add_map {α : Type} (l : List α) (f : α → Nat) (n : Nat) : l.foldl (fun m y => m + f y) n = n + (l.map f).sum := by
  induction l generalizing n with
  | nil => rfl
  | cons y l ih => rw [List.foldl_cons, ih, List.map_cons, List.sum_cons, Nat.add_assoc]

/-- The last of a list, from a start, is its last element. -/
theorem foldl_last {α : Type} (l : List α) (f : α → Nat) (n : Nat) (h : l ≠ []) : l.foldl (fun _ y => f y) n = f (l.getLast h) := by
  induction l generalizing n with
  | nil => exact absurd rfl h
  | cons y l ih =>
    cases l with
    | nil => rfl
    | cons z l => rw [List.foldl_cons, ih _ (List.cons_ne_nil _ _), List.getLast_cons (List.cons_ne_nil _ _)]

/-- Packets are on the lanes of port x, for channel v, without gap from the present cycle of e, each with the quota that returns as it ends. -/
def OnLanes (e u : Dev) (x v : Nat) (ps : List (Packet × Nat)) : Prop :=
  (txOf u x).hs = true ∧ (txOf u x).last = v ∧ (txOf u x).wire = ps.map (·.1)
    ∧ (txOf u x).used = (txOf e x).used - (ps.map (·.2)).sum
    ∧ (∀ i, i < ps.length → (txOf u x).leaving[i]? = some
        (e.clk.mono + byteCycles e x ((ps.take (i + 1)).map (fun p => p.1.clocks)).sum, ((ps.map (·.2))[i]?).getD 0))
    ∧ (ps ≠ [] → (txOf u x).laneAt = e.clk.mono + byteCycles e x (ps.map (fun p => p.1.clocks)).sum)

/-- When packet i has left, and the quota that returns then. -/
theorem leaveAt_get (d : Dev) (x : Nat) (ps : List (Packet × Nat)) (i : Nat) (h : i < ps.length) : (leaveAt d x ps)[i]? = some
    (d.clk.mono + byteCycles d x ((ps.take (i + 1)).map (fun p => p.1.clocks)).sum, ((ps.map (·.2))[i]?).getD 0) := by
  unfold leaveAt
  rw [List.getElem?_mapIdx, List.getElem?_eq_getElem h, List.getElem?_map, List.getElem?_eq_getElem h]
  simp only [Option.map_some, Option.getD_some, foldl_add_map, Nat.zero_add]

/-- When the last packet has left. -/
theorem leaveAt_last (d : Dev) (x : Nat) (ps : List (Packet × Nat)) (n : Nat) (h : ps ≠ []) :
    (leaveAt d x ps).foldl (fun _ p => p.1) n = d.clk.mono + byteCycles d x (ps.map (fun p => p.1.clocks)).sum := by
  have hne : leaveAt d x ps ≠ [] := by
    unfold leaveAt
    simpa using h
  have hlen : (leaveAt d x ps).length = ps.length := by
    unfold leaveAt
    rw [List.length_mapIdx]
  have hpos : 0 < ps.length := List.length_pos_iff.2 h
  have hlast := leaveAt_get d x ps (ps.length - 1) (by omega)
  rw [show ps.length - 1 + 1 = ps.length by omega, List.take_length] at hlast
  rw [foldl_last _ _ _ hne, List.getLast_eq_getElem]
  have hget : (leaveAt d x ps)[(leaveAt d x ps).length - 1]? = some (leaveAt d x ps)[(leaveAt d x ps).length - 1] :=
    List.getElem?_eq_getElem _
  simp only [hlen] at hget ⊢
  rw [hlast, Option.some.injEq] at hget
  rw [← hget]

/-- A port that has sent packets, in HS and with its channel noted, has them on its lanes. -/
theorem onLanes_sent {e u : Dev} {x v : Nat} {ps : List (Packet × Nat)} (hhs : (txOf u x).hs = true) (hlast : (txOf u x).last = v)
    (hwire : (txOf u x).wire = ps.map (·.1)) (hused : (txOf u x).used = (txOf e x).used - ps.foldl (fun n p => n + p.2) 0)
    (hleav : (txOf u x).leaving = leaveAt e x ps) (hlane : (txOf u x).laneAt = (leaveAt e x ps).foldl (fun _ p => p.1) (txOf e x).laneAt) :
    OnLanes e u x v ps := by
  refine ⟨hhs, hlast, hwire, ?_, fun i hi => ?_, fun hne => ?_⟩
  · rw [hused, foldl_add_map, Nat.zero_add]
  · rw [hleav, leaveAt_get e x ps i hi]
  · rw [hlane, leaveAt_last e x ps _ hne]

/-- Packets on the lanes stand in the transmit port. -/
theorem OnLanes.congr {e u w : Dev} {x v : Nat} {ps : List (Packet × Nat)} (h : OnLanes e u x v ps) (ht : w.out.tx = u.out.tx) : OnLanes e w x v ps := by
  unfold OnLanes at h ⊢
  rwa [txOf_congr _ _ _ ht]

/-- Channel v of port x has given up its next element, and the port has entered HS for it. -/
def begins (e : Dev) (x v : Nat) (f : TxVc → TxVc) : Dev := setTxVc (entered e x v) x v f

section
variable (e : Dev) (x v : Nat) (f : TxVc → TxVc) (hx : x < 2)
include hx

theorem begins_channel : ChannelOnly e (begins e x v f) x v :=
  (channelOnly_setTx e x v (fun p => { p with hs := true, last := v }) hx fun _ => rfl).trans (channelOnly_setTxVc _ _ _ _ hx)

theorem begins_port : txOf (begins e x v f) x = { txOf e x with hs := true, last := v, vcs := (txOf (begins e x v f) x).vcs } := by
  have h := txOf_setTxVc (entered e x v) x v f hx
  rw [show txOf (entered e x v) x = { txOf e x with hs := true, last := v } from txOf_setTx e x _ hx] at h
  exact h

theorem begins_vc (hv : v < 16) : txVcOf (begins e x v f) x v = f (txVcOf e x v) := by
  unfold begins
  rw [txVcOf_setTxVc _ _ _ _ hx hv]
  exact congrArg f (txVcOf_setTx e x v (fun p => { p with hs := true, last := v }) hx fun _ => rfl)

/-- Packets that such a channel sends are on the lanes. -/
theorem onLanes_begins (ps : List (Packet × Nat)) : OnLanes e (sendPackets (begins e x v f) x ps) x v ps := by
  have h := sendPackets_tx (begins e x v f) x ps hx
  have hp := begins_port e x v f hx
  have hleave : leaveAt (begins e x v f) x ps = leaveAt e x ps := rfl
  rw [hleave] at h
  refine onLanes_sent ?_ ?_ ?_ ?_ ?_ ?_
  all_goals rw [h]
  all_goals rw [hp]

/-- Packets that such a channel sends leave its queues, and the port's count of records, as they are. -/
theorem sendPackets_begins (ps : List (Packet × Nat)) (hv : v < 16) :
    let u := sendPackets (begins e x v f) x ps
    ChannelOnly e u x v ∧ u = { e with out := u.out } ∧ txVcOf u x v = f (txVcOf e x v) ∧ (txOf u x).sent = (txOf e x).sent := by
  have h := sendPackets_tx (begins e x v f) x ps hx
  refine ⟨(begins_channel e x v f hx).trans (channelOnly_sendPackets _ _ _ _ hx), rfl, ?_, ?_⟩
  · rw [← begins_vc e x v f hx hv]
    unfold txVcOf
    rw [h]
  · rw [h, begins_port e x v f hx]

end

/-- A record goes onto the lanes as it is read from the buffer, its crop lines behind it (R350, R496). -/
theorem sendRec_wire (c : Units) (d : Dev) (x v : Nat) (r : Rec) (hx : x < 2) :
    (txOf (sendRec c d x v r) x).wire = .record v (readRec d r).bytes :: (readRec d r).lines.map (fun l => Packet.cropLine v l) := by
  have hsent : ∀ (e : Dev) (ps : List (Packet × Nat)), (txOf (setTx (sendPackets e x ps) x (fun t => { t with sent := t.sent + 1 })) x).wire = ps.map (·.1) :=
    fun e ps => by rw [txOf_setTx _ _ _ hx, sendPackets_tx _ _ _ hx]
  have hlines : (linePackets v (readRec d r).lines).map (·.1) = (readRec d r).lines.map (fun l => Packet.cropLine v l) := by
    unfold linePackets
    rw [List.map_map]
    rfl
  rw [← hlines]
  unfold sendRec
  dsimp only
  split
  · exact (congrArg TxPort.wire (txOf_congr _ _ x (noteFrame_tx _ _ _ _ _))).trans (hsent _ _)
  · exact hsent _ _

/-- What sending the record that a channel has given up leaves (R355, R373). -/
theorem sendRec_begins (c : Units) (e : Dev) (x v : Nat) (f : TxVc → TxVc) (r : Rec) (hx : x < 2) (hv : v < 16) :
    let u := sendRec c (begins e x v f) x v r
    (txOf u x).wire = .record v (readRec e r).bytes :: (readRec e r).lines.map (fun l => Packet.cropLine v l)
      ∧ (e.ecc = [] → ChannelOnly e u x v ∧ u = { e with out := u.out } ∧ txVcOf u x v = f (txVcOf e x v)
        ∧ (txOf u x).sent = (txOf e x).sent + 1 ∧ OnLanes e u x v (recPackets v r)) := by
  refine ⟨sendRec_wire c (begins e x v f) x v r hx, fun he => ?_⟩
  obtain ⟨hchan, hd, hport⟩ := sendRec_sent c (begins e x v f) x v r hx he
  obtain ⟨-, -, hvc, -⟩ := sendPackets_begins e x v f hx (recPackets v r) hv
  obtain ⟨hhs, hlast, hwire, hused, hleav, hlane⟩ := onLanes_begins e x v f hx (recPackets v r)
  refine ⟨(begins_channel e x v f hx).trans hchan, ?_, ?_, ?_, ?_, ?_, ?_, ?_, ?_, ?_⟩
  · rw [hd]; rfl
  · rw [← hvc]
    unfold txVcOf
    rw [hport]
  · rw [hport, begins_port e x v f hx]
  all_goals rw [hport]
  all_goals assumption

/-- What sending a frame packet leaves. -/
theorem sendFrame_begins (e : Dev) (x v : Nat) (f : TxVc → TxVc) (k : Packet) (a : Word → Bool) (b : OutJob → OutJob) (hx : x < 2) (hv : v < 16) :
    let u := noteFrame (sendPackets (begins e x v f) x [(k, 0)]) x v a b
    ChannelOnly e u x v ∧ u = { e with out := u.out } ∧ txVcOf u x v = f (txVcOf e x v) ∧ (txOf u x).sent = (txOf e x).sent
      ∧ OnLanes e u x v [(k, 0)] := by
  obtain ⟨hchan, hd, hvc, hsent⟩ := sendPackets_begins e x v f hx [(k, 0)] hv
  have htx := noteFrame_tx (sendPackets (begins e x v f) x [(k, 0)]) x v a b
  refine ⟨hchan.trans (channelOnly_of_tx (by rw [noteFrame_out]) htx), ?_, ?_, ?_, (onLanes_begins e x v f hx _).congr htx⟩
  · rw [noteFrame_out, hd]
  · rw [txVcOf_congr _ _ _ _ htx, hvc]
  · rw [txOf_congr _ _ _ htx, hsent]

/-- A virtual channel that is served next is one of the sixteen. -/
theorem nextVc_lt (t : TxPort) (now v : Nat) (h : nextVc t now = some v) : v < 16 := by
  obtain ⟨i, -, rfl⟩ := List.mem_map.1 (List.mem_of_find?_eq_some h)
  exact Nat.mod_lt _ (by decide)

section
variable (c : Units) (e : Dev) (x : Nat)

/-- A port that does not run, is held, or has nothing ready sends nothing (R372). -/
theorem sendNow_idle (h : ¬ (running c (0x18 + x) = true ∧ (txOf e x).held = false) ∨ (txOf e x).rest = none ∧ nextVc (txOf e x) e.clk.mono = none) :
    sendNow c e x = e := by
  unfold sendNow
  obtain h | ⟨hr, hn⟩ := h
  · refine if_pos ?_
    cases hrun : running c (0x18 + x) <;> cases hheld : (txOf e x).held <;> simp_all
  · dsimp only
    rw [hr, hn]
    exact ite_self _

/-- The lines of a crop unit that a hold has cut off go first (R376). -/
theorem sendNow_rest (v : Nat) (ls : List (List Byte)) (hx : x < 2) (hs : running c (0x18 + x) = true ∧ (txOf e x).held = false)
    (hr : (txOf e x).rest = some (v, ls)) :
    let u := sendNow c e x
    u = { e with out := u.out } ∧ OnLanes e u x v (linePackets v ls) ∧ (txOf u x).rest = none ∧ (txOf u x).vcs = (txOf e x).vcs
      ∧ (txOf u x).sent = (txOf e x).sent := by
  have hu : sendNow c e x = setTx (sendPackets e x (linePackets v ls)) x (fun p => { p with hs := true, last := v, rest := none }) := by
    unfold sendNow
    simp only [hs.1, hs.2, hr]
    rfl
  have hport : txOf (sendNow c e x) x = { txOf (sendPackets e x (linePackets v ls)) x with hs := true, last := v, rest := none } := by
    rw [hu]
    exact txOf_setTx _ _ _ hx
  rw [sendPackets_tx _ _ _ hx] at hport
  refine ⟨by rw [hu]; rfl, onLanes_sent ?_ ?_ ?_ ?_ ?_ ?_, ?_, ?_, ?_⟩
  all_goals rw [hport]

/-- Otherwise the port sends the next packet of the channel that is served next. -/
theorem sendNow_next (v : Nat) (hs : running c (0x18 + x) = true ∧ (txOf e x).held = false) (hr : (txOf e x).rest = none)
    (hn : nextVc (txOf e x) e.clk.mono = some v) : sendNow c e x = sendVc c e x v := by
  unfold sendNow
  simp only [hs.1, hs.2, hr, hn]
  rfl

end

section
variable (x : Fin 2) (s : State)

/-- A port that is not clocked, or has nothing to send, stands. -/
theorem exec_recordSend_idle (h : clocked s.dev = false ∨ portDue (txOf s.dev x) = none) : exec (.recordSend x) s = .next s := by
  show execRecordSend x s = _
  unfold execRecordSend
  rw [onDev_eq]
  obtain h | h := h <;> cases hc : clocked s.dev <;> simp_all

/-- A port that has something to send sends when its time has come, and stands where the Stitch ends before. -/
theorem exec_recordSend_due (n : Nat) (hc : clocked s.dev = true) (hn : portDue (txOf s.dev x) = some n) :
    exec (.recordSend x) s = match passCycles s.committed s.dev (startAt s.dev x n - s.dev.clk.mono) with
      | some e => .next { s with dev := sendNow s.committed e x }
      | none => .next s := by
  show execRecordSend x s = _
  unfold execRecordSend atCycle
  rw [onDev_eq, hc, hn]
  dsimp only [Bool.not_true, Bool.false_eq_true, if_false]
  cases passCycles s.committed s.dev (startAt s.dev x n - s.dev.clk.mono) <;> rfl

end

end Sys2Proof.Machine

namespace Sys2Proof.Machine

/-! ### The commands of the output unit (R368, R369, R372) -/

section
variable (s : State) (p : Fin 8) (o : Nat)

/-- Without a clock or an image nothing is released and no page ends. -/
theorem exec_release_idle (h : clocked s.dev = false ∨ hasImage s.dev p = false) : exec (.jobRelease p o) s = .next s ∧ exec (.pageEnd p o) s = .next s := by
  have hand : (clocked s.dev && hasImage s.dev p) = false := by
    obtain h | h := h
    · rw [h, Bool.false_and]
    · rw [h, Bool.and_false]
  constructor
  · show execJobRelease p o s = _
    unfold execJobRelease
    rw [onDev_eq, hand]
    rfl
  · show execPageEnd p o s = _
    unfold execPageEnd
    rw [onDev_eq, hand]
    rfl

variable (hc : clocked s.dev = true) (hi : hasImage s.dev p = true)
include hc hi

theorem exec_jobRelease : exec (.jobRelease p o) s = .next { s with dev := release s.dev p o } := by
  show execJobRelease p o s = _
  unfold execJobRelease
  rw [onDev_eq, hc, hi]
  rfl

theorem exec_pageEnd (x : OutJob) (hf : firstOn s.dev p o = some x) : exec (.pageEnd p o) s = .next { s with dev := pageEnd s.dev p o } := by
  show execPageEnd p o s = _
  unfold execPageEnd
  rw [onDev_eq, hc, hi, hf]
  rfl

end

/-- Settles O56: a release and a PAGE_END are what comes to wait on a channel, and a packet sent is what its port then has on the lanes. -/
theorem outputsReleaseEndAndSend : Obligations.OutputsReleaseEndAndSend := by
  unfold Obligations.OutputsReleaseEndAndSend
  intro s c d left chan elsewhere lies queued
  refine ⟨fun p o h => exec_release_idle s p o h, fun p o x j hc hi hfi hjo hx hv => ⟨fun h => ?_, fun hr hp ha hd => ?_, fun h => ?_, fun hr hdone ha => ?_⟩,
    fun x => ?_⟩
  · rw [exec_jobRelease s p o hc hi, release_idle d p o x j hfi hjo h]
  · obtain ⟨a, hchan, hout, hwait, hjobs⟩ := release_waits d p o x j hfi hjo hx hv hr hp ha hd
    exact ⟨_, a, exec_jobRelease s p o hc hi, hchan, by rw [hout], by rw [hout], by rw [hout], by rw [hout], hwait, hjobs⟩
  · rw [exec_pageEnd s p o hc hi x hfi, pageEnd_idle d p o x j hfi hjo h]
  · obtain ⟨a, hchan, hhealth, hwait, hleaves⟩ := pageEnd_waits d p o x j hfi hjo hx hv hr hdone ha
    cases hl : x.firstLost with
    | none =>
      refine ⟨_, 0, 40, [], a, exec_pageEnd s p o hc hi x hfi, hchan, fun _ => ⟨?_, rfl, rfl, rfl⟩, fun i hli => (nomatch hli), ?_, hleaves⟩
      · rw [hhealth, gapNoted_none d x j hl]
      · rw [gapNoted_none d x j hl, gapQuota, hl] at hwait
        exact hwait
    | some i =>
      obtain ⟨⟨b, hgap⟩, hlog⟩ := gapNoted_some d x j i hl
      refine ⟨_, 1, 72, (gapNoted d x j).2, a, exec_pageEnd s p o hc hi x hfi, hchan, fun hno => (nomatch hno), ?_, ?_, hleaves⟩
      · rintro _ ⟨⟩
        exact ⟨rfl, rfl, ⟨b, hgap⟩, hlog.to hhealth⟩
      · rw [gapQuota, hl, hgap] at hwait
        rw [hgap]
        exact hwait
  · intro due
    have hxlt : (x : Nat) < 2 := x.isLt
    refine ⟨fun h => exec_recordSend_idle x s h, fun n hn hdue => ?_, fun n e hc hn hdue => ?_⟩
    · cases hc : clocked d with
      | false => exact exec_recordSend_idle x s (.inl hc)
      | true =>
        have h := exec_recordSend_due x s n hc hn
        rwa [show passCycles _ _ (startAt s.dev x n - _) = none from hdue] at h
    · have hexec : exec (.recordSend x) s = .next (left (sendNow c e x)) := by
        have h := exec_recordSend_due x s n hc hn
        rwa [show passCycles _ _ (startAt s.dev x n - _) = some e from hdue] at h
      intro t sends go
      refine ⟨fun h => ?_, fun v ls hs hr => ⟨_, hexec, sendNow_rest c e x v ls hxlt hs hr⟩, fun v hs hr hv => ?_⟩
      · rw [hexec, sendNow_idle c e x h]
      · intro q
        refine ⟨_, hexec, ?_⟩
        have hvlt := nextVc_lt t e.clk.mono v hv
        rw [sendNow_next c e x v hs hr hv]
        intro sent frame
        have hsent : ∀ (r : Rec) (f : TxVc → TxVc), sendVc c e x v = sendRec c (begins e x v f) x v r → sent r (f q) := fun r f h => by
          obtain ⟨hwire, hplain⟩ := sendRec_begins c e x v f r hxlt hvlt
          rw [← h] at hwire hplain
          refine ⟨hwire, fun he => ?_⟩
          obtain ⟨hchan, hout, hvc, hcount, hgo⟩ := hplain he
          exact ⟨hchan, by rw [hout], by rw [hout], by rw [hout], by rw [hout], hvc, hcount, hgo⟩
        have hframe : ∀ (k : Packet) (rest : List OutItem) (a : Word → Bool) (b : OutJob → OutJob) (f : TxVc → TxVc), f q = { q with q := rest } →
            sendVc c e x v = noteFrame (sendPackets (begins e x v f) x [(k, 0)]) x v a b → frame k rest := fun k rest a b f hf h => by
          obtain ⟨hchan, hout, hvc, hcount, hgo⟩ := sendFrame_begins e x v f k a b hxlt hvlt
          rw [← h] at hchan hout hvc hcount hgo
          exact ⟨hchan, by rw [hout], by rw [hout], by rw [hout], by rw [hout], hvc.trans hf, hcount, hgo⟩
        have hdrop : ∀ i rest, q.q = i :: rest → { q with q := q.q.drop 1 } = { q with q := rest } := fun i rest h => by rw [h]; rfl
        refine ⟨fun h hn hst => hsent h _ (sendVc_stream c e x v h hn hst), fun r rest hst hf => hsent r _ (sendVc_free c e x v r rest hst hf),
          fun r rest hst hf hq => ?_, fun n rest hf hq => ?_, fun n rest hf hq => ?_⟩
        · rw [← hdrop _ _ hq]
          exact hsent r _ (sendVc_queued c e x v (.item r) rest hf hq fun _ _ => hst)
        · exact hframe _ _ _ _ _ (hdrop _ _ hq) (sendVc_queued c e x v (.frameStart n) rest hf hq fun _ h => nomatch h)
        · exact hframe _ _ _ _ _ (hdrop _ _ hq) (sendVc_queued c e x v (.frameEnd n) rest hf hq fun _ h => nomatch h)

end Sys2Proof.Machine

namespace Sys2Proof.Machine

/-! ### Memory and its words in error alone fix what a store leaves (R539) -/

/-- Two devices hold the same memory with the same words in error. -/
def SameMem (d e : Dev) : Prop := e.mem = d.mem ∧ e.ecc = d.ecc

theorem SameMem.symm {d e : Dev} (h : SameMem d e) : SameMem e d := ⟨h.1.symm, h.2.symm⟩

theorem SameMem.trans {a b c : Dev} (h : SameMem a b) (g : SameMem b c) : SameMem a c := ⟨g.1.trans h.1, g.2.trans h.2⟩

theorem ReportsOnly.sameMem {d e : Dev} (h : ReportsOnly d e) : SameMem d e := by
  unfold ReportsOnly at h
  constructor <;> rw [h]

/-- Steps that keep two memories alike do so along a list. -/
theorem SameMem.foldl {α : Type} (f : Dev → α → Dev) (hf : ∀ d e a, SameMem d e → SameMem (f d a) (f e a)) (l : List α) {d e : Dev}
    (h : SameMem d e) : SameMem (l.foldl f d) (l.foldl f e) := by
  induction l generalizing d e with
  | nil => exact h
  | cons a l ih => exact ih (hf d e a h)

theorem peek_sameMem {d e : Dev} (h : SameMem d e) (k n : Nat) : peek e k n = peek d k n := by
  obtain ⟨hm, he⟩ := h
  unfold peek peek1 flipsAt
  rw [hm, he]

/-- A write that covers a word in error in part merges it after a checked read (R539). -/
def mergeWord (c : Units) (w : Who) (d : Dev) (e : Nat × BitVec 72) : Dev :=
  let d := match (eccJudge e.2).2 with | 0 => d | 1 => noteCe d e.1 | _ => noteUe c d w e.1 e.2
  { d with mem := Memory.setAll d.mem (e.1 * 8) (peek d (e.1 * 8) 8) }

theorem mergeWord_sameMem (c : Units) (w : Who) (d e : Dev) (y : Nat × BitVec 72) (h : SameMem d e) :
    SameMem (mergeWord c w d y) (mergeWord c w e y) := by
  have merge : ∀ a b : Dev, SameMem a b → SameMem { a with mem := Memory.setAll a.mem (y.1 * 8) (peek a (y.1 * 8) 8) }
      { b with mem := Memory.setAll b.mem (y.1 * 8) (peek b (y.1 * 8) 8) } := by
    intro a b hab
    refine ⟨?_, hab.2⟩
    dsimp only
    rw [peek_sameMem hab, hab.1]
  unfold mergeWord
  refine merge _ _ ?_
  split
  · exact h
  · exact (noteCe_reports d y.1).sameMem.symm.trans (h.trans (noteCe_reports e y.1).sameMem)
  · exact (noteUe_reports c d w y.1 y.2).sameMem.symm.trans (h.trans (noteUe_reports c e w y.1 y.2).sameMem)

theorem store_sameMem (c : Units) {d e : Dev} (h : SameMem d e) (w : Who) (k : Nat) (bs : List Byte) :
    SameMem (store c d w k bs) (store c e w k bs) := by
  have hin : eccIn e k bs.length = eccIn d k bs.length := by unfold eccIn; rw [h.2]
  have empty : e.ecc.isEmpty = d.ecc.isEmpty := by rw [h.2]
  unfold store
  dsimp only
  rw [empty, hin]
  split
  · exact h
  split
  · exact ⟨congrArg (Memory.setAll · k bs) h.1, h.2⟩
  obtain ⟨hm, he⟩ := SameMem.foldl (mergeWord c w) (mergeWord_sameMem c w)
    ((eccIn d k bs.length).filter (fun e => e.1 * 8 < k || k + bs.length < e.1 * 8 + 8)) h
  exact ⟨congrArg (Memory.setAll · k bs) hm, congrArg (List.filter _) he⟩

theorem jobStore_sameMem (c : Units) {d e : Dev} (h : SameMem d e) (w : Who) (j : Job) (off : Nat) (bs : List Byte) :
    SameMem (jobStore c d w j off bs) (jobStore c e w j off bs) := by
  unfold jobStore
  generalize jobSpans j off bs.length = L
  have along : ∀ (L : List (Nat × Nat)) (a b : Dev) (bs : List Byte), SameMem a b →
      SameMem (L.foldl (fun (x : Dev × List Byte) y => (store c x.1 w y.1 (x.2.take y.2), x.2.drop y.2)) (a, bs)).1
        (L.foldl (fun (x : Dev × List Byte) y => (store c x.1 w y.1 (x.2.take y.2), x.2.drop y.2)) (b, bs)).1 := by
    intro L
    induction L with
    | nil => exact fun a b bs hab => hab
    | cons y L ih => exact fun a b bs hab => ih _ _ _ (store_sameMem c hab w y.1 (bs.take y.2))
  exact along L d e bs h

/-- Nothing to store stores nothing. -/
theorem jobStore_nil (c : Units) (d : Dev) (w : Who) (j : Job) (off : Nat) : jobStore c d w j off [] = d := rfl

/-! ### A packet takes the open job of its channel from one record to another -/

/-- From d to e the job open on a channel goes from j to j'; the registers, the clocks and the other jobs stay. -/
structure TakesJob (d e : Dev) (x : Fin 4) (v : Fin 16) (j j' : Job) : Prop where
  regs : e.regs = d.regs
  clk : e.clk = d.clk
  rest : ∀ q, q ≠ j.id → jobOf e q = jobOf d q
  chan : (vcOf e x v).job = (vcOf d x v).job
  named : (vcOf e x v).job = some j.id
  job : jobOf e j.id = some j'
  name : j'.id = j.id

theorem takesJob_refl {d : Dev} {x : Fin 4} {v : Fin 16} {j : Job} (h : openJobOf d x v = some j) : TakesJob d d x v j j :=
  ⟨rfl, rfl, fun _ _ => rfl, rfl, (openJobOf_job h).1, (openJobOf_job h).2, rfl⟩

theorem TakesJob.trans {a b c : Dev} {x : Fin 4} {v : Fin 16} {i j k : Job} (h : TakesJob a b x v i j) (g : TakesJob b c x v j k) :
    TakesJob a c x v i k where
  regs := g.regs.trans h.regs
  clk := g.clk.trans h.clk
  rest q hq := (g.rest q (h.name ▸ hq)).trans (h.rest q hq)
  chan := g.chan.trans h.chan
  named := h.name ▸ g.named
  job := h.name ▸ g.job
  name := g.name.trans h.name

section
variable {d e : Dev} {x : Fin 4} {v : Fin 16} {j j' : Job} (h : TakesJob d e x v j j')
include h

theorem TakesJob.openJob : openJobOf e x v = some j' := by
  unfold openJobOf
  rw [h.named]
  exact h.job

theorem TakesJob.setJob (f : Job → Job) (hf : ∀ q, (f q).id = q.id) : TakesJob d (setJob e j.id f) x v j (f j') :=
  have keeps : ∀ q : Job, q.id = j.id → (f q).id = j.id := fun q hq => (hf q).trans hq
  ⟨h.regs, h.clk, fun q hq => (jobOf_setJob_other e j.id q f keeps hq).trans (h.rest q hq), h.chan, h.named,
    jobOf_setJob e j.id f j' h.job keeps, (hf j').trans h.name⟩

theorem TakesJob.setVc (f : Vc → Vc) (hf : ∀ q, (f q).job = q.job) : TakesJob d (setVc e x v f) x v j j' := by
  have hv : (vcOf (Machine.setVc e x v f) x v).job = (vcOf e x v).job := by rw [vcOf_setVc, hf]
  exact ⟨h.regs, h.clk, h.rest, hv.trans h.chan, hv.trans h.named, h.job, h.name⟩

theorem TakesJob.setRx (f : RxPort → RxPort) (hf : ∀ q, (f q).vcs = q.vcs) : TakesJob d (setRx e x f) x v j j' := by
  have hv : vcOf (Machine.setRx e x f) x v = vcOf e x v := vcOf_setRx e x f v hf
  exact ⟨h.regs, h.clk, h.rest, by rw [hv]; exact h.chan, by rw [hv]; exact h.named, h.job, h.name⟩

theorem TakesJob.setTamb (t : Nat) (f : Tamb → Tamb) : TakesJob d (setTamb e t f) x v j j' :=
  ⟨h.regs, h.clk, h.rest, h.chan, h.named, h.job, h.name⟩

theorem TakesJob.stores {u : Dev} (hs : StoresOnly e u) : TakesJob d u x v j j' := by
  have hv : vcOf u x v = vcOf e x v := by unfold vcOf rxOf; rw [hs.rx]
  have hc : u.clk = e.clk := by rw [hs]
  have hj : ∀ q, jobOf u q = jobOf e q := fun q => jobOf_congr e u q hs.jobs
  exact ⟨hs.regs.trans h.regs, hc.trans h.clk, fun q hq => (hj q).trans (h.rest q hq), by rw [hv]; exact h.chan, by rw [hv]; exact h.named,
    (hj j.id).trans h.job, h.name⟩

end

/-! ### The row counter (R127, R133) -/

theorem vcMode_congr {d e : Dev} (h : e.regs = d.regs) (x v : Nat) : vcMode e x v = vcMode d x v := by
  show bitsOf (comAt e _ _) 31 30 = bitsOf (comAt d _ _) 31 30
  rw [comAt_congr h]

/-- The number of the line in hand is used up. -/
def lineUsed (q : Vc) : Vc := { q with curLn := none }

/-- Without line-start numbers a line takes the next row. -/
theorem lineRow_counts (d : Dev) (x v : Nat) (j : Job) (h : cf d .rxCfg x 0 12 12 = 0) : lineRow d x v j = (setVc d x v lineUsed, j.next) := by
  have hl : (cf (setVc d x v (fun q => { q with curLn := none })) .rxCfg x 0 12 12 != 1) = true := by
    show (cf d .rxCfg x 0 12 12 != 1) = true
    rw [h]; rfl
  unfold lineRow
  dsimp only
  split
  · rw [if_pos hl]; rfl
  · rfl

/-- A line opens no strip where the mode is another or a job is open. -/
theorem stripOpen_idle (c : Units) (d : Dev) (x v xa : Nat) (h : vcMode d x v ≠ 3 ∨ (vcOf d x v).job.isSome = true) :
    stripOpen c d x v xa = d := by
  unfold stripOpen
  rw [if_pos]
  obtain h | h := h
  · simp [h]
  · rw [h, Bool.or_true]

/-- A job with rows to come is not closed by its line. -/
theorem stripClose_idle (c : Units) {d : Dev} {x v : Nat} {j : Job} (hj : openJobOf d x v = some j) (h : vcMode d x v ≠ 3 ∨ j.next < j.height) :
    stripClose c d x v = d := by
  unfold stripClose
  rw [hj]
  dsimp only
  rw [if_neg]
  obtain h | h := h
  · simp [h]
  · simp [h]

theorem TakesJob.stripClose {d e : Dev} {x : Fin 4} {v : Fin 16} {j q : Job} (h : TakesJob d e x v j q) (c : Units)
    (hn : vcMode d x v ≠ 3 ∨ q.next < q.height) : Machine.stripClose c e x v = e :=
  stripClose_idle c h.openJob (by rw [vcMode_congr h.regs]; exact hn)

end Sys2Proof.Machine

namespace Sys2Proof.Machine

/-! ### A line that is skipped, and a line that is placed (R132, R133, R137, R140) -/

/-- The row counter stands behind a row; a row that is gone makes the job lose rows with its link. -/
def rowPassed (row : Nat) (gone : Bool) (j : Job) : Job := { j with next := row + 1, linkLost := j.linkLost || gone }

/-- The row counter stands behind a row. -/
def rowTaken (row : Nat) (j : Job) : Job := { j with next := row + 1 }

/-- A row is stored, readable from a cycle on, with the stamp of its job where it is the first. -/
def rowStored (row cycle : Nat) (stamp : BitVec 64) (j : Job) : Job :=
  rowsAt { j with
    stored := if j.stored.contains row then j.stored else j.stored ++ [row]
    stamp0 := if row == 0 then some stamp else j.stamp0 } [row] cycle

/-- The last accepted packet of a job came in a cycle. -/
def packetAt (cycle : Nat) (j : Job) : Job := { j with lastPkt := cycle }

theorem isStale_congr {d e : Dev} (hr : e.regs = d.regs) (hc : e.clk = d.clk) (x hop : Nat) (stamp : BitVec 64) :
    isStale e x hop stamp = isStale d x hop stamp := by
  have limit : cf e .rxStale x 0 23 0 = cf d .rxStale x 0 23 0 := by
    show bitsOf (comAt e _ _) 23 0 = bitsOf (comAt d _ _) 23 0
    rw [comAt_congr hr]
  have time : (elapse e hop).clk.time = (elapse d hop).clk.time := by
    unfold elapse
    split
    · rw [hc]
    · dsimp only; rw [hc]
  unfold isStale
  rw [limit, time]

theorem rxOf_setVc (d : Dev) (x : Fin 4) (v : Nat) (f : Vc → Vc) :
    rxOf (setVc d x v f) x = { rxOf d x with vcs := vmod (rxOf d x).vcs v f } := rxOf_setRx d x _

/-- The device behind a line that its job skips: a line that is not lost is a packet of the job. -/
def lineSkipped (d : Dev) (x v : Nat) (j : Job) (lost : Bool) : Dev :=
  setJob (setVc (if lost then d else notePkt d j.id) x v lineUsed) j.id (rowPassed j.next (lost && j.kind == 0 && j.next < j.height))

/-- The device once a line that is placed has taken the next row of its job. -/
def lineTaken (d : Dev) (x v : Nat) (j : Job) : Dev := setJob (setVc (notePkt d j.id) x v lineUsed) j.id (rowTaken j.next)

/-- The device once a line has been stored in the next row of its job. -/
def lineStored (c : Units) (d : Dev) (x v : Nat) (j : Job) (bytes : List Byte) (stamp : BitVec 64) : Dev :=
  setJob (jobStore c (lineTaken d x v j) (whoRx j) j (j.next * j.rowBytes) (bytes.take j.rowBytes)) j.id
    (rowStored j.next (d.clk.mono + rxHop) stamp)

section
variable (c : Units) {d : Dev} {x : Fin 4} {v : Fin 16} {j : Job} (hj : openJobOf d x v = some j)
include hj

theorem notePkt_takes : TakesJob d (notePkt d j.id) x v j (packetAt d.clk.mono j) :=
  (takesJob_refl hj).setJob (packetAt d.clk.mono) fun _ => rfl

/-- An open job needs no other on its channel. -/
theorem stripOpen_open (xa : Nat) : stripOpen c d x v xa = d :=
  stripOpen_idle c d x v xa (.inr (by rw [(openJobOf_job hj).1]; rfl))

/-- What a line that lands nowhere leaves. -/
theorem placeLine_dimBad (hk : j.kind = 0) (hd : j.dimBad = true) (bytes : List Byte) (stamp : BitVec 64) (xa : Nat) :
    placeLine c d x v bytes stamp xa = notePkt d j.id := by
  unfold placeLine
  rw [stripOpen_open c hj]
  dsimp only
  rw [hj]
  dsimp only
  rw [hk, if_neg (by decide), if_pos hd]

theorem lineSkipped_takes (lost : Bool) : TakesJob d (lineSkipped d x v j lost) x v j
    (rowPassed j.next (lost && j.kind == 0 && j.next < j.height) (if lost then j else packetAt d.clk.mono j)) := by
  have start : TakesJob d (if lost then d else notePkt d j.id) x v j (if lost then j else packetAt d.clk.mono j) := by
    cases lost
    · exact notePkt_takes hj
    · exact takesJob_refl hj
  exact (start.setVc lineUsed fun _ => rfl).setJob (rowPassed _ _) fun _ => rfl

theorem lineTaken_takes : TakesJob d (lineTaken d x v j) x v j (rowTaken j.next (packetAt d.clk.mono j)) :=
  ((notePkt_takes hj).setVc lineUsed fun _ => rfl).setJob (rowTaken j.next) fun _ => rfl

theorem lineStored_takes (bytes : List Byte) (stamp : BitVec 64) : TakesJob d (lineStored c d x v j bytes stamp) x v j
    (rowStored j.next (d.clk.mono + rxHop) stamp (rowTaken j.next (packetAt d.clk.mono j))) :=
  ((lineTaken_takes hj).stores (jobStore_stores c _ _ _ _ _)).setJob (rowStored _ _ _) fun _ => rfl

section
variable (hl : cf d .rxCfg x 0 12 12 = 0) (hn : vcMode d x v ≠ 3 ∨ j.next + 1 < j.height)
include hl hn

theorem skipRow_eq (lost : Bool) : skipRow c d x v lost = lineSkipped d x v j lost := by
  have row := lineRow_counts (if lost then d else notePkt d j.id) x v j (by cases lost <;> exact hl)
  have passed := lineSkipped_takes hj lost
  unfold skipRow
  rw [hj]
  dsimp only
  rw [row]
  cases lost <;> exact passed.stripClose c hn

/-- A line that fails check 5 or 6 is lost for the open job. -/
theorem lostLine_eq : lostLine c d x v = lineSkipped d x v j true := by
  unfold lostLine
  rw [stripOpen_open c hj, skipRow_eq c hj hl hn]

end

section
variable (hk : j.kind = 0) (hd : j.dimBad = false) (hl : cf d .rxCfg x 0 12 12 = 0) (bytes : List Byte) (stamp : BitVec 64) (xa : Nat)
include hk hd hl

/-- Behind the last row of its job a line counts in NO_JOB. -/
theorem placeLine_full (hn : vcMode d x v ≠ 3) (hf : j.height ≤ j.next) :
    placeLine c d x v bytes stamp xa = countNoJob (lineTaken d x v j) x 1 := by
  have taken := (lineTaken_takes hj).setRx (fun r => { r with noJob := r.noJob + 1 }) fun _ => rfl
  unfold placeLine
  rw [stripOpen_open c hj]
  dsimp only
  rw [hj]
  dsimp only
  rw [hk, if_neg (by decide), hd, if_neg (by decide), lineRow_counts (notePkt d j.id) x v j hl]
  dsimp only
  rw [if_pos hf]
  exact taken.stripClose c (.inl hn)

/-- A line that a row of a job with space waits for is stored there, unless it is stale. -/
theorem placeLine_stored (hn : vcMode d x v ≠ 3 ∨ j.next + 1 < j.height) (hf : j.next < j.height) (hp : j.pages ≠ [])
    (hs : isStale d x rxHop stamp = false) : placeLine c d x v bytes stamp xa = lineStored c d x v j bytes stamp := by
  have stored := lineStored_takes c hj bytes stamp
  have fresh : isStale (lineTaken d x v j) x rxHop stamp = false := by
    rw [isStale_congr (lineTaken_takes hj).regs (lineTaken_takes hj).clk, hs]
  have space : ¬ j.pages.isEmpty = true := by simpa using hp
  unfold placeLine
  rw [stripOpen_open c hj]
  dsimp only
  rw [hj]
  dsimp only
  rw [hk, if_neg (by decide), hd, if_neg (by decide), lineRow_counts (notePkt d j.id) x v j hl]
  dsimp only
  show stripClose c (if j.height ≤ j.next then _ else if isStale (lineTaken d x v j) x rxHop stamp then _ else _) x v = _
  rw [if_neg (by omega), fresh, if_neg (by decide), if_neg space]
  exact stored.stripClose c hn

end

end

/-- A line that finds no open job opens none outside STRIP, and counts in NO_JOB. -/
theorem placeLine_none (c : Units) (d : Dev) (x v : Nat) (hj : openJobOf d x v = none) (hm : vcMode d x v ≠ 3) (bytes : List Byte)
    (stamp : BitVec 64) (xa : Nat) : placeLine c d x v bytes stamp xa = countNoJob d x 1 := by
  unfold placeLine
  rw [stripOpen_idle c d x v xa (.inl hm)]
  dsimp only
  rw [hj]

/-- A Tambour in PATTERN mode discards a line of its channel. -/
theorem tambLine_pattern (c : Units) (d : Dev) (t ago : Nat) (frame : BitVec 64) (fx : Nat) (payload : List Byte)
    (ha : (tambOf d t).active = 2) (hs : (tambOf d t).stampDue = false) :
    tambLine c d t ago frame fx payload = (setTamb d t (fun m => { m with nDisc := m.nDisc + 1 }), none) := by
  have settled : settleStamp d t (tick200 d) = d := by
    unfold settleStamp
    rw [hs]
    split <;> rfl
  unfold tambLine
  dsimp only
  rw [settled, ha]
  rfl

end Sys2Proof.Machine

namespace Sys2Proof.Machine

/-! ### Memory outside the open job's granules (R132) -/

/-- Every byte of memory outside a job's granules is the same in both devices. -/
def SameOutside (d e : Dev) (j : Job) : Prop :=
  ∀ a, (∀ g ∈ j.pages, a < key 1 (g * 4096) ∨ key 1 (g * 4096) + 4096 ≤ a) → Memory.get e.mem a = Memory.get d.mem a

/-- A job's rows, its bitmap and its embedded data lie within its granules. -/
def FitsPages (j : Job) : Prop := embAt j + (if j.emb then 4096 else 0) ≤ 4096 * j.pages.length

/-- A device in which a packet has changed nothing but the open job, its channel's line number and counters. -/
def LeavesRest (d e : Dev) (x v : Nat) (j : Job) : Prop :=
  e.regs = d.regs ∧ (∀ q, q ≠ j.id → jobOf e q = jobOf d q) ∧ (vcOf e x v).job = (vcOf d x v).job
    ∧ (d.ecc = [] → FitsPages j → SameOutside d e j)

theorem TakesJob.leavesRest {d e : Dev} {x : Fin 4} {v : Fin 16} {j q : Job} (h : TakesJob d e x v j q)
    (hm : d.ecc = [] → FitsPages j → SameOutside d e j) : LeavesRest d e x v j :=
  ⟨h.regs, h.rest, h.chan, hm⟩

theorem sameOutside_of_mem {d e : Dev} (h : e.mem = d.mem) (j : Job) : SameOutside d e j := fun a _ => by rw [h]

/-- What is stored within a job's allocation stays within its granules. -/
theorem jobStore_sameOutside (c : Units) {d e : Dev} (h : SameMem d e) (he : d.ecc = []) (w : Who) (j : Job) (off : Nat) (bs : List Byte)
    (hb : off + bs.length ≤ 4096 * j.pages.length) : SameOutside d (jobStore c e w j off bs) j := fun a ha =>
  (congrArg (Memory.get · a) (jobStore_sameMem c h w j off bs).1).trans (jobStore_get_other c d w j off bs he hb a ha)

/-- A row of a job lies before its bitmap. -/
theorem row_fits {j : Job} (hf : FitsPages j) (hn : j.next < j.height) (bytes : List Byte) :
    j.next * j.rowBytes + (bytes.take j.rowBytes).length ≤ 4096 * j.pages.length := by
  have rows : (j.next + 1) * j.rowBytes ≤ j.height * j.rowBytes := Nat.mul_le_mul_right _ hn
  have len : (bytes.take j.rowBytes).length ≤ j.rowBytes := by rw [List.length_take]; omega
  rw [Nat.succ_mul] at rows
  unfold FitsPages embAt bitmapAt at hf
  omega

/-- Embedded data lies behind the bitmap, within the 4,096 bytes that stand for it. -/
theorem embedded_fits {j : Job} (hf : FitsPages j) (he : j.emb = true) (hu : j.embUsed ≤ 4096) (payload : List Byte) :
    embAt j + j.embUsed + (payload.take (4096 - j.embUsed)).length ≤ 4096 * j.pages.length := by
  have len : (payload.take (4096 - j.embUsed)).length ≤ 4096 - j.embUsed := by rw [List.length_take]; omega
  unfold FitsPages at hf
  rw [he, if_pos rfl] at hf
  omega

/-! ### A pixel line (R124 to R126, R132, R133, R137, R140) -/

/-- What a line that fails check 5 or 6 counts on its port: its length is checked first. -/
def lineFault (whole : Bool) (q : RxPort) : RxPort := if whole then { q with crcBad := q.crcBad + 1 } else { q with wcBad := q.wcBad + 1 }

/-- What a pixel line past checks 1 to 4 leaves of the device. -/
def lineLands (c : Units) (d : Dev) (r : RxHdr) (dt : BitVec 6) (payload : List Byte) : Dev :=
  let w := (lineFormat c d r.port r.vc).1
  let fmt := (lineFormat c d r.port r.vc).2
  let stamp := (vcOf d r.port r.vc).frame.getD d.clk.time
  if dt.toNat != formatType fmt then countNoJob d r.port 1
  else if payload.length != wordCount fmt w then lostLine c (setRx d r.port (lineFault false)) r.port r.vc
  else if r.crcBad then lostLine c (setRx d r.port (lineFault true)) r.port r.vc
  else if processed c d r.port r.vc then
    match tambLine c d r.port r.headAgo stamp (frameX d r.port r.vc) payload with
    | (d, some (bytes, st, xa)) => placeLine c d r.port r.vc bytes st xa
    | (d, none) => skipRow c d r.port r.vc false
  else placeLine c d r.port r.vc (plainLine fmt w payload) stamp (frameX d r.port r.vc)

theorem exec_pixelLine {r : RxHdr} (dt : BitVec 6) (payload : List Byte) {s : State} (h : longTaken s.committed s.dev r) :
    exec (.pixelLine r dt payload) s = .next { s with dev := lineLands s.committed (rxSeen s.dev r) r dt payload } := by
  show execPixelLine r dt payload s = _
  unfold execPixelLine
  rw [onDev_eq, rxLong_taken _ _ _ _ h]
  rfl

section
variable {c : Units} {d : Dev} {r : RxHdr} {dt : BitVec 6} {payload : List Byte}

/-- Check of the data type. -/
theorem lineLands_otherType (ht : dt.toNat ≠ formatType (lineFormat c d r.port r.vc).2) : lineLands c d r dt payload = countNoJob d r.port 1 := by
  unfold lineLands
  dsimp only
  rw [if_pos (by simpa using ht)]

variable (ht : dt.toNat = formatType (lineFormat c d r.port r.vc).2)
include ht

/-- Checks 5 and 6. -/
theorem lineLands_bad (hb : payload.length ≠ wordCount (lineFormat c d r.port r.vc).2 (lineFormat c d r.port r.vc).1 ∨ r.crcBad = true) :
    lineLands c d r dt payload = lostLine c (setRx d r.port
      (lineFault (payload.length == wordCount (lineFormat c d r.port r.vc).2 (lineFormat c d r.port r.vc).1))) r.port r.vc := by
  unfold lineLands
  dsimp only
  rw [if_neg (by simpa using ht)]
  by_cases hw : payload.length = wordCount (lineFormat c d r.port r.vc).2 (lineFormat c d r.port r.vc).1
  · rw [if_neg (by simpa using hw), if_pos (hb.resolve_left (not_not_intro hw)), beq_iff_eq.mpr hw]
  · rw [if_pos (by simpa using hw), beq_eq_false_iff_ne.mpr hw]

variable (hw : payload.length = wordCount (lineFormat c d r.port r.vc).2 (lineFormat c d r.port r.vc).1) (hc : r.crcBad = false)
include hw hc

theorem lineLands_plain (hp : processed c d r.port r.vc = false) : lineLands c d r dt payload
    = placeLine c d r.port r.vc (plainLine (lineFormat c d r.port r.vc).2 (lineFormat c d r.port r.vc).1 payload)
        ((vcOf d r.port r.vc).frame.getD d.clk.time) (frameX d r.port r.vc) := by
  unfold lineLands
  dsimp only
  rw [if_neg (by simpa using ht), if_neg (by simpa using hw), hc, if_neg (by decide), hp, if_neg (by decide)]

theorem lineLands_pattern (hp : processed c d r.port r.vc = true) (ha : (tambOf d r.port).active = 2) (hs : (tambOf d r.port).stampDue = false) :
    lineLands c d r dt payload = skipRow c (setTamb d r.port (fun m => { m with nDisc := m.nDisc + 1 })) r.port r.vc false := by
  unfold lineLands
  dsimp only
  rw [if_neg (by simpa using ht), if_neg (by simpa using hw), hc, if_neg (by decide), hp, if_pos rfl, tambLine_pattern _ _ _ _ _ _ _ ha hs]

end

/-- A line that fails check 5 or 6 leaves memory, and its fault is counted on its port. -/
theorem lineSkipped_rx (d : Dev) (x : Fin 4) (v : Nat) (j : Job) :
    rxOf (lineSkipped d x v j true) x = { rxOf d x with vcs := vmod (rxOf d x).vcs v lineUsed } :=
  rxOf_setVc d x v lineUsed

end Sys2Proof.Machine

namespace Sys2Proof.Machine

/-! ### What each pixel line does to the open job -/

section
variable {c : Units} {d : Dev} {r : RxHdr} {dt : BitVec 6} {payload : List Byte} {j : Job}
variable (hj : openJobOf d r.port r.vc = some j) (hl : cf d .rxCfg r.port 0 12 12 = 0)
variable (hn : vcMode d r.port r.vc ≠ 3 ∨ j.next + 1 < j.height) (ht : dt.toNat = formatType (lineFormat c d r.port r.vc).2)
include hj hl hn ht

/-- A line that fails check 5 or 6 counts, loses the row that it stood for, and stores nothing. -/
theorem lineLands_lost (hk : j.kind = 0)
    (hb : payload.length ≠ wordCount (lineFormat c d r.port r.vc).2 (lineFormat c d r.port r.vc).1 ∨ r.crcBad = true) :
    LeavesRest d (lineLands c d r dt payload) r.port r.vc j
      ∧ jobOf (lineLands c d r dt payload) j.id
        = some { j with next := j.next + 1, linkLost := j.linkLost || decide (j.next < j.height) }
      ∧ (rxOf (lineLands c d r dt payload) r.port).wcBad
        = (if payload.length = wordCount (lineFormat c d r.port r.vc).2 (lineFormat c d r.port r.vc).1 then (rxOf d r.port).wcBad
            else (rxOf d r.port).wcBad + 1)
      ∧ (rxOf (lineLands c d r dt payload) r.port).crcBad
        = (if payload.length = wordCount (lineFormat c d r.port r.vc).2 (lineFormat c d r.port r.vc).1 then (rxOf d r.port).crcBad + 1
            else (rxOf d r.port).crcBad) := by
  rw [lineLands_bad ht hb]
  generalize hf : (payload.length == wordCount (lineFormat c d r.port r.vc).2 (lineFormat c d r.port r.vc).1) = whole
  have counted : TakesJob d (setRx d r.port (lineFault whole)) r.port r.vc j j :=
    (takesJob_refl hj).setRx (lineFault whole) fun q => by cases whole <;> rfl
  have modes : vcMode (setRx d r.port (lineFault whole)) r.port r.vc ≠ 3 ∨ j.next + 1 < j.height := hn
  rw [lostLine_eq c counted.openJob hl modes]
  have lost := counted.trans (lineSkipped_takes counted.openJob true)
  have gone : jobOf (lineSkipped (setRx d r.port (lineFault whole)) r.port r.vc j true) j.id
      = some { j with next := j.next + 1, linkLost := j.linkLost || decide (j.next < j.height) } := by
    have pixels : (true && j.kind == 0 && decide (j.next < j.height)) = decide (j.next < j.height) := by rw [hk]; rfl
    rw [lost.job, pixels]; rfl
  refine ⟨lost.leavesRest fun _ _ => sameOutside_of_mem rfl j, gone, ?_⟩
  rw [lineSkipped_rx, rxOf_setRx]
  cases whole
  · rw [if_neg (beq_eq_false_iff_ne.mp hf), if_neg (beq_eq_false_iff_ne.mp hf)]
    exact ⟨rfl, rfl⟩
  · rw [if_pos (beq_iff_eq.mp hf), if_pos (beq_iff_eq.mp hf)]
    exact ⟨rfl, rfl⟩

variable (hk : j.kind = 0) (hd : j.dimBad = false) (hp : processed c d r.port r.vc = false)
variable (hw : payload.length = wordCount (lineFormat c d r.port r.vc).2 (lineFormat c d r.port r.vc).1) (hc : r.crcBad = false)
include hk hd hp hw hc

/-- A line behind the last row of its job counts in NO_JOB. -/
theorem lineLands_full (hf : j.height ≤ j.next) :
    LeavesRest d (lineLands c d r dt payload) r.port r.vc j
      ∧ jobOf (lineLands c d r dt payload) j.id = some { j with next := j.next + 1, lastPkt := d.clk.mono }
      ∧ (rxOf (lineLands c d r dt payload) r.port).noJob = (rxOf d r.port).noJob + 1 := by
  have mode : vcMode d r.port r.vc ≠ 3 := hn.resolve_right (by omega)
  rw [lineLands_plain ht hw hc hp, placeLine_full c hj hk hd hl _ _ _ mode hf]
  have taken := (lineTaken_takes hj).setRx (fun q => { q with noJob := q.noJob + 1 }) fun _ => rfl
  refine ⟨taken.leavesRest fun _ _ => sameOutside_of_mem rfl j, taken.job, ?_⟩
  have port : rxOf (lineTaken d r.port r.vc j) r.port = { rxOf d r.port with vcs := vmod (rxOf d r.port).vcs r.vc lineUsed } :=
    rxOf_setVc d r.port r.vc lineUsed
  unfold countNoJob
  rw [rxOf_setRx, port]

/-- A line that passes every check is written to the row that waits for it, readable 52 cycles on (R15). -/
theorem lineLands_stored (hs : isStale d r.port 52 ((vcOf d r.port r.vc).frame.getD d.clk.time) = false) (hf : j.next < j.height)
    (hg : j.pages ≠ []) :
    LeavesRest d (lineLands c d r dt payload) r.port r.vc j
      ∧ jobOf (lineLands c d r dt payload) j.id = some { j with
          next := j.next + 1, lastPkt := d.clk.mono, rowAt := j.rowAt ++ [(j.next, d.clk.mono + 52)]
          stored := if j.stored.contains j.next then j.stored else j.stored ++ [j.next]
          stamp0 := if j.next = 0 then some ((vcOf d r.port r.vc).frame.getD d.clk.time) else j.stamp0 }
      ∧ (d.ecc = [] → (lineLands c d r dt payload).mem = (jobStore c d (whoRx j) j (j.next * j.rowBytes)
          ((plainLine (lineFormat c d r.port r.vc).2 (lineFormat c d r.port r.vc).1 payload).take j.rowBytes)).mem) := by
  rw [lineLands_plain ht hw hc hp, placeLine_stored c hj hk hd hl _ _ _ hn hf hg hs]
  generalize plainLine (lineFormat c d r.port r.vc).2 (lineFormat c d r.port r.vc).1 payload = bytes
  generalize (vcOf d r.port r.vc).frame.getD d.clk.time = stamp
  have same : SameMem d (lineTaken d r.port r.vc j) := ⟨rfl, rfl⟩
  have stored := lineStored_takes c hj bytes stamp
  refine ⟨stored.leavesRest fun he fit => jobStore_sameOutside c same he _ j _ _ (row_fits fit hf bytes), ?_,
    fun _ => (jobStore_sameMem c same _ _ _ _).1⟩
  have first : (if (j.next == 0) = true then some stamp else j.stamp0) = if j.next = 0 then some stamp else j.stamp0 :=
    if_congr beq_iff_eq rfl rfl
  rw [stored.job, ← first]
  rfl

end

/-- A line that a Tambour in PATTERN mode discards counts there and renews the timeout of the open job, whose row counter advances. -/
theorem skipRow_pattern (c : Units) {d : Dev} {x : Fin 4} {v : Fin 16} {j : Job} (hj : openJobOf d x v = some j)
    (hm : vcMode d x v ≠ 3) (hl : cf d .rxCfg x 0 12 12 = 0) (f : Tamb → Tamb) :
    LeavesRest d (skipRow c (setTamb d x f) x v false) x v j
      ∧ jobOf (skipRow c (setTamb d x f) x v false) j.id = some { j with next := j.next + 1, lastPkt := d.clk.mono }
      ∧ tambOf (skipRow c (setTamb d x f) x v false) x = f (tambOf d x) := by
  have counted := (takesJob_refl hj).setTamb x f
  have mode : vcMode (setTamb d x f) x v ≠ 3 := hm
  rw [skipRow_eq c counted.openJob hl (.inl mode)]
  have skipped := counted.trans (lineSkipped_takes counted.openJob false)
  refine ⟨skipped.leavesRest fun _ _ => sameOutside_of_mem rfl j, ?_, tambOf_setTamb d x f⟩
  rw [skipped.job]
  show some { j with next := j.next + 1, lastPkt := d.clk.mono, linkLost := j.linkLost || false } = _
  rw [Bool.or_false]

/-! ### Embedded data (R136) -/

/-- Bytes of embedded data that the open job's 4,096 bytes still take. -/
def embeddedFit (j : Job) (payload : List Byte) : List Byte := payload.take (4096 - j.embUsed)

/-- The job has taken bytes of embedded data. -/
def embeddedTaken (n : Nat) (j : Job) : Job := { j with embUsed := j.embUsed + n }

/-- Embedded data of the open job where it has space. -/
def embeddedInto (c : Units) (d : Dev) (j : Job) (payload : List Byte) : Dev :=
  if j.pages.isEmpty then notePkt d j.id
  else jobStore c (notePkt d j.id) (whoRx j) j (embAt j + j.embUsed) (embeddedFit j payload)

/-- What embedded data past checks 1 to 4 and 6 leaves of the device where its channel stores any. -/
def embeddedLands (c : Units) (d : Dev) (x v : Nat) (payload : List Byte) : Dev :=
  match openJobOf d x v with
  | none => countNoJob d x payload.length
  | some j =>
    if j.dimBad || !j.emb then notePkt d j.id
    else countNoJob (setJob (embeddedInto c d j payload) j.id (embeddedTaken (embeddedFit j payload).length)) x
      (payload.length - (embeddedFit j payload).length)

section
variable {r : RxHdr} (payload : List Byte) {s : State} (h : longTaken s.committed s.dev r) (hc : r.crcBad = false)
include h hc

theorem exec_embeddedData_off (ho : cf (rxSeen s.dev r) .vcCfg r.port r.vc 29 29 = 0) :
    exec (.embeddedData r payload) s = .next { s with dev := rxSeen s.dev r } := by
  show execEmbeddedData r payload s = _
  unfold execEmbeddedData
  rw [onDev_eq, rxLong_taken _ _ _ _ h]
  dsimp only
  rw [hc, if_neg (by decide), ho]
  rfl

theorem exec_embeddedData_on (ho : cf (rxSeen s.dev r) .vcCfg r.port r.vc 29 29 = 1) :
    exec (.embeddedData r payload) s = .next { s with dev := embeddedLands s.committed (rxSeen s.dev r) r.port r.vc payload } := by
  show execEmbeddedData r payload s = _
  unfold execEmbeddedData
  rw [onDev_eq, rxLong_taken _ _ _ _ h]
  dsimp only
  rw [hc, if_neg (by decide), ho, if_neg (by decide)]
  unfold embeddedLands
  cases openJobOf (rxSeen s.dev r) r.port r.vc with
  | none => rfl
  | some j => rfl

end

theorem embeddedInto_stores (c : Units) (d : Dev) (j : Job) (payload : List Byte) : StoresOnly (notePkt d j.id) (embeddedInto c d j payload) := by
  unfold embeddedInto
  split
  · exact StoresOnly.refl _
  · exact jobStore_stores c _ _ _ _ _

theorem embeddedInto_mem (c : Units) (d : Dev) (j : Job) (payload : List Byte) : (embeddedInto c d j payload).mem
    = if j.pages = [] then d.mem else (jobStore c d (whoRx j) j (embAt j + j.embUsed) (embeddedFit j payload)).mem := by
  have same : SameMem d (notePkt d j.id) := ⟨rfl, rfl⟩
  unfold embeddedInto
  by_cases hp : j.pages = []
  · rw [if_pos hp, if_pos (by simp [hp])]; rfl
  · rw [if_neg hp, if_neg (by simpa using hp)]
    exact (jobStore_sameMem c same _ _ _ _).1

/-- Embedded data stays within the job's granules; once its 4,096 bytes are full it stores nothing. -/
theorem embeddedInto_sameOutside (c : Units) {d : Dev} {j : Job} (payload : List Byte) (hm : j.emb = true) (he : d.ecc = []) (hf : FitsPages j) :
    SameOutside d (embeddedInto c d j payload) j := by
  have same : SameMem d (notePkt d j.id) := ⟨rfl, rfl⟩
  unfold embeddedInto
  split
  · exact sameOutside_of_mem rfl j
  by_cases hu : j.embUsed ≤ 4096
  · exact jobStore_sameOutside c same he _ j _ _ (embedded_fits hf hm hu payload)
  · have full : embeddedFit j payload = [] := by
      unfold embeddedFit
      rw [Nat.sub_eq_zero_of_le (by omega), List.take_zero]
    rw [full, jobStore_nil]
    exact sameOutside_of_mem rfl j

/-- What the 4,096 bytes leave is filled, and the rest counts in NO_JOB. -/
theorem embeddedLands_open (c : Units) {d : Dev} {x : Fin 4} {v : Fin 16} {j : Job} (payload : List Byte) (hj : openJobOf d x v = some j)
    (hd : j.dimBad = false) (hm : j.emb = true) :
    LeavesRest d (embeddedLands c d x v payload) x v j
      ∧ jobOf (embeddedLands c d x v payload) j.id
        = some { j with embUsed := j.embUsed + Nat.min payload.length (4096 - j.embUsed), lastPkt := d.clk.mono }
      ∧ (rxOf (embeddedLands c d x v payload) x).noJob
        = (rxOf d x).noJob + (payload.length - Nat.min payload.length (4096 - j.embUsed))
      ∧ (embeddedLands c d x v payload).mem = if j.pages = [] then d.mem
          else (jobStore c d (whoRx j) j (embAt j + j.embUsed) (payload.take (Nat.min payload.length (4096 - j.embUsed)))).mem := by
  have fit : embeddedFit j payload = payload.take (Nat.min payload.length (4096 - j.embUsed)) := by
    unfold embeddedFit
    rw [List.take_eq_take_iff]
    show _ = min (min _ _) _
    omega
  have len : (embeddedFit j payload).length = Nat.min payload.length (4096 - j.embUsed) := by
    unfold embeddedFit
    rw [List.length_take, Nat.min_comm]
  have into := embeddedInto_stores c d j payload
  have counted := (((notePkt_takes hj).stores into).setJob (embeddedTaken (embeddedFit j payload).length) fun _ => rfl).setRx
    (fun q => { q with noJob := q.noJob + (payload.length - (embeddedFit j payload).length) }) fun _ => rfl
  have lands : embeddedLands c d x v payload = countNoJob (setJob (embeddedInto c d j payload) j.id
      (embeddedTaken (embeddedFit j payload).length)) x (payload.length - (embeddedFit j payload).length) := by
    unfold embeddedLands
    rw [hj]
    dsimp only
    rw [hd, hm]
    rfl
  have port : rxOf (setJob (embeddedInto c d j payload) j.id (embeddedTaken (embeddedFit j payload).length)) x = rxOf d x := by
    unfold rxOf
    rw [setJob_rx, into.rx]
    rfl
  rw [lands]
  refine ⟨counted.leavesRest fun he hf => embeddedInto_sameOutside c payload hm he hf, ?_, ?_, ?_⟩
  · rw [← len]; exact counted.job
  · unfold countNoJob
    rw [rxOf_setRx, port, len]
  · rw [← fit]; exact embeddedInto_mem c d j payload

end Sys2Proof.Machine

namespace Sys2Proof.Machine

/-! ### Coded data (R138 to R140) -/

/-- A job whose decoder still runs loses rows with its link. -/
def codedLost (j : Job) : Job := { j with linkLost := j.linkLost || j.coded.any (fun k => !k.stopped) }

/-- One packet more whose CRC was wrong. -/
def crcCounted (q : RxPort) : RxPort := { q with crcBad := q.crcBad + 1 }

/-- What coded data with a wrong CRC leaves of the device. -/
def codedFails (d : Dev) (x v : Nat) : Dev :=
  match openJobOf (setRx d x crcCounted) x v with
  | some j => setJob (setRx d x crcCounted) j.id codedLost
  | none => setRx d x crcCounted

/-- What coded data with the right CRC leaves of the device. -/
def codedLands (c : Units) (d : Dev) (x v : Nat) (payload : List Byte) : Dev :=
  match openJobOf d x v with
  | none => countNoJob d x 1
  | some j =>
    if j.kind == 0 then countNoJob d x 1
    else
      match j.coded with
      | none => notePkt d j.id
      | some k =>
        if k.stopped then notePkt d j.id
        else
          decodeRows c j.id (2 * (j.height + 1))
            (setCoded (notePkt d j.id) j.id (fun k => { k with bits := k.bits ++ bitsMsb payload, started := true }))

section
variable {r : RxHdr} (payload : List Byte) {s : State} (h : longTaken s.committed s.dev r)
include h

theorem exec_codedData_fails (hc : r.crcBad = true) :
    exec (.codedData r payload) s = .next { s with dev := codedFails (rxSeen s.dev r) r.port r.vc } := by
  show execCodedData r payload s = _
  unfold execCodedData
  rw [onDev_eq, rxLong_taken _ _ _ _ h]
  dsimp only
  rw [if_pos hc]
  rfl

theorem exec_codedData_lands (hc : r.crcBad = false) :
    exec (.codedData r payload) s = .next { s with dev := codedLands s.committed (rxSeen s.dev r) r.port r.vc payload } := by
  show execCodedData r payload s = _
  unfold execCodedData
  rw [onDev_eq, rxLong_taken _ _ _ _ h]
  dsimp only
  rw [hc, if_neg (by decide)]
  rfl

end

section
variable {d : Dev} {x : Fin 4} {v : Fin 16}

theorem openJobOf_crcCounted : openJobOf (setRx d x crcCounted) x v = openJobOf d x v := by
  have chan : vcOf (setRx d x crcCounted) x v = vcOf d x v := vcOf_setRx d x crcCounted v fun _ => rfl
  unfold openJobOf
  rw [chan]
  rfl

theorem codedFails_none (hj : openJobOf d x v = none) : codedFails d x v = setRx d x crcCounted := by
  unfold codedFails
  rw [openJobOf_crcCounted, hj]

/-- Only a row that the decoder still waits for is lost with a packet. -/
theorem codedFails_open {j : Job} (hj : openJobOf d x v = some j) : codedFails d x v = setJob (setRx d x crcCounted) j.id codedLost
    ∧ (∀ q, q ≠ j.id → jobOf (codedFails d x v) q = jobOf d q) ∧ jobOf (codedFails d x v) j.id = some (codedLost j) := by
  have lost : codedFails d x v = setJob (setRx d x crcCounted) j.id codedLost := by
    unfold codedFails
    rw [openJobOf_crcCounted, hj]
  have takes := ((takesJob_refl hj).setRx crcCounted fun _ => rfl).setJob codedLost fun _ => rfl
  rw [lost]
  exact ⟨rfl, takes.rest, takes.job⟩

variable (c : Units) (payload : List Byte)

theorem codedLands_none (hj : openJobOf d x v = none) : codedLands c d x v payload = countNoJob d x 1 := by
  unfold codedLands
  rw [hj]

variable {j : Job} (hj : openJobOf d x v = some j)
include hj

theorem codedLands_pixels (hk : j.kind = 0) : codedLands c d x v payload = countNoJob d x 1 := by
  unfold codedLands
  rw [hj]
  dsimp only
  rw [hk]
  rfl

variable (hk : j.kind ≠ 0)
include hk

theorem codedLands_noDecoder (hd : j.coded = none) : codedLands c d x v payload = notePkt d j.id := by
  unfold codedLands
  rw [hj]
  dsimp only
  rw [if_neg (by simpa using hk), hd]

theorem codedLands_stopped {k : Coded} (hd : j.coded = some k) (hs : k.stopped = true) : codedLands c d x v payload = notePkt d j.id := by
  unfold codedLands
  rw [hj]
  dsimp only
  rw [if_neg (by simpa using hk), hd]
  dsimp only
  rw [if_pos hs]

theorem codedLands_decodes {k : Coded} (hd : j.coded = some k) (hs : k.stopped = false) : codedLands c d x v payload
    = decodeRows c j.id (2 * (j.height + 1))
        (setCoded (notePkt d j.id) j.id (fun k => { k with bits := k.bits ++ bitsMsb payload, started := true })) := by
  unfold codedLands
  rw [hj]
  dsimp only
  rw [if_neg (by simpa using hk), hd]
  dsimp only
  rw [hs, if_neg (by decide)]

end

/-! ### Packets fill the open job -/

/-- Settles O51, by what each packet does to the record of the open job (TakesJob) and by the memory outside its granules. -/
theorem packetsFillTheOpenJob : Obligations.PacketsFillTheOpenJob := by
  intro r dt payload s h c d x v w fmt left others counted
  have line := exec_pixelLine dt payload h
  have next : ∀ {e : Dev}, lineLands c d r dt payload = e → exec (.pixelLine r dt payload) s = .next (left e) := fun he => he ▸ line
  refine ⟨fun ht => next (lineLands_otherType ht), fun ht hw hc hp hj hm => next ?noJob,
    fun j hj hk hd hp hl hn ht => ⟨fun hb => ?lost, fun hw hc hs => ⟨fun hf => ?full, fun hf hg => ?stored⟩⟩,
    fun j hj hk hd hp ht hw hc => next ?noSpace, fun hp ha hs ht hw hc => ⟨fun hj => next ?discardedNoJob, fun j hj hm hl => ?discarded⟩,
    exec_embeddedData_off payload h, fun hc ho => ⟨fun hj => ?embeddedNoJob, fun j hj hd => ?embeddedNoSpace, fun j hj hd hm => ?embeddedStored⟩,
    fun hc => ⟨fun hj => ?codedLostNoJob, fun j hj => ?codedLost⟩, fun hc => ?coded⟩
  case noJob => exact (lineLands_plain ht hw hc hp).trans (placeLine_none c d x v hj hm _ _ _)
  case lost =>
    obtain ⟨rest, job, wc, crc⟩ := lineLands_lost hj hl hn ht hk hb
    exact ⟨_, line, ⟨rfl, rest⟩, job, wc, crc⟩
  case full =>
    obtain ⟨rest, job, noJob⟩ := lineLands_full hj hl hn ht hk hd hp hw hc hf
    exact ⟨_, line, ⟨rfl, rest⟩, job, noJob⟩
  case stored =>
    obtain ⟨rest, job, mem⟩ := lineLands_stored hj hl hn ht hk hd hp hw hc hs hf hg
    exact ⟨_, line, ⟨rfl, rest⟩, job, mem⟩
  case noSpace => exact (lineLands_plain ht hw hc hp).trans (placeLine_dimBad c hj hk hd _ _ _)
  case discardedNoJob =>
    rw [lineLands_pattern ht hw hc hp ha hs]
    unfold skipRow
    rw [show openJobOf (setTamb d r.port _) r.port r.vc = none from hj]
  case discarded =>
    obtain ⟨rest, job, disc⟩ := skipRow_pattern c hj hm hl (fun m => { m with nDisc := m.nDisc + 1 })
    exact ⟨_, next (lineLands_pattern ht hw hc hp ha hs), ⟨rfl, rest⟩, job, congrArg Tamb.nDisc disc⟩
  case embeddedNoJob =>
    rw [exec_embeddedData_on payload h hc ho]
    unfold embeddedLands
    rw [show openJobOf (rxSeen s.dev r) r.port r.vc = none from hj]
  case embeddedNoSpace =>
    rw [exec_embeddedData_on payload h hc ho]
    unfold embeddedLands
    rw [show openJobOf (rxSeen s.dev r) r.port r.vc = some j from hj]
    dsimp only
    rw [if_pos (by simpa using hd)]
  case embeddedStored =>
    obtain ⟨rest, job, noJob, mem⟩ := embeddedLands_open c payload hj hd hm
    exact ⟨_, exec_embeddedData_on payload h hc ho, ⟨rfl, rest⟩, job, noJob, mem⟩
  case codedLostNoJob => rw [exec_codedData_fails payload h hc, codedFails_none hj]; rfl
  case codedLost =>
    obtain ⟨lost, rest, job⟩ := codedFails_open hj
    exact ⟨_, exec_codedData_fails payload h hc, by rw [lost]; rfl, rest, job⟩
  case coded =>
    have coded := exec_codedData_lands payload h hc
    have lands : ∀ {e : Dev}, codedLands c d x v payload = e → exec (.codedData r payload) s = .next (left e) := fun he => he ▸ coded
    exact ⟨fun hj => lands (codedLands_none c payload hj), fun j hj hk => lands (codedLands_pixels c payload hj hk),
      fun j hj hk hd => lands (codedLands_noDecoder c payload hj hk hd), fun j k hj hk hd =>
        ⟨fun hs => lands (codedLands_stopped c payload hj hk hd hs), fun hs => lands (codedLands_decodes c payload hj hk hd hs)⟩⟩

end Sys2Proof.Machine

namespace Sys2Proof.Machine

/-! ### The committed unit state table (R48, R49, R77) -/

/-- A meaning of the device alone leaves the committed table as it was. -/
theorem committed_of_onDev {f : Units → Dev → Dev} {s t : State} (h : onDev f s = .next t) : t.committed = s.committed := by
  rw [onDev_eq] at h; cases h; rfl

/-- The derived entry of SEQ is RUN or DISABLED (R51). -/
theorem ust_seq (c : Units) : ust c 31 = .run ∨ ust c 31 = .disabled := by
  unfold ust
  rw [if_pos (by rfl)]
  split
  · exact .inl rfl
  · exact .inr rfl

/-- A legal state keeps the table legal, whatever unit takes it. -/
theorem LegalUnits.setUnit {c : Units} {u : Nat} {x : UnitSt} (h : LegalUnits c) (hx : legalSt u x = true) : LegalUnits (setUnit c u x) := by
  intro v hv
  by_cases h31 : v = 31
  · subst h31
    rcases ust_seq (Machine.setUnit c u x) with e | e <;> rw [e] <;> rfl
  · rw [ust_setUnit c v u x h31]
    split
    case isTrue e => exact e.1 ▸ hx
    case isFalse => exact h v hv

/-- The table with every unit DISABLED. -/
theorem ust_allDisabled (u : Nat) (h : u ≠ 31) : ust allDisabled u = .disabled := by
  rw [ust_lt _ _ h]
  unfold allDisabled
  by_cases hu : u < 32 <;> simp [hu]

theorem legalUnits_allDisabled : LegalUnits allDisabled := by
  unfold LegalUnits; decide

/-- A row of R49 leads to a state of its kind of unit. -/
theorem legalSt_of_requestRow {u : Nat} {a b : UnitSt} (h : requestRow u a b = true) : legalSt u b = true := by
  unfold requestRow at h
  unfold legalSt
  split at h <;> [skip; split at h] <;> cases b <;> simp_all

/-- A fold over units keeps the table legal where each of its steps does. -/
theorem legalUnits_foldl (f : Units × Dev → Nat → Units × Dev) (l : List Nat) (hf : ∀ x a, a ∈ l → LegalUnits x.1 → LegalUnits (f x a).1)
    {x : Units × Dev} (h : LegalUnits x.1) : LegalUnits (l.foldl f x).1 :=
  foldl_inv (fun y : Units × Dev => LegalUnits y.1) f l hf x h

/-! What the work of offset 0 makes of the table. -/

theorem legalUnits_judgePart {x : Units × Dev} {p : Nat} (hp : p < 8) (h : LegalUnits x.1) : LegalUnits (judgePart x p).1 := by
  have faulted : LegalUnits (Machine.setUnit x.1 p .faulted) := h.setUnit (by simp [legalSt, hp])
  unfold judgePart
  dsimp only
  split
  · exact h
  · split
    · exact faulted
    · split
      · exact h
      · exact faulted

theorem legalUnits_markBob {x : Units × Dev} {n : Nat} (hn : n < 8) (h : LegalUnits x.1) : LegalUnits (markBob x n).1 := by
  have legal : ∀ y, y = .failed ∨ y = .disabled → LegalUnits (Machine.setUnit x.1 (8 + n) y) := fun y hy => h.setUnit (by
    unfold legalSt
    rw [if_neg (by omega), if_pos (by omega)]
    rcases hy with rfl | rfl <;> rfl)
  unfold markBob
  dsimp only
  split
  · exact legal _ (.inl rfl)
  · split
    · exact h
    · dsimp only
      split
      · exact legal _ (.inr rfl)
      · exact h

theorem legalUnits_tripHalt {x : Units × Dev} (h : LegalUnits x.1) : LegalUnits (tripHalt x).1 := by
  unfold tripHalt
  dsimp only
  split
  · exact h
  · generalize hy : List.foldl _ _ _ = y
    show LegalUnits y.1
    rw [← hy]
    refine legalUnits_foldl _ _ (fun z p hp hz => ?_) h
    dsimp only
    split
    · exact hz.setUnit (by simp [legalSt, List.mem_range.mp hp])
    · exact hz

theorem legalUnits_commitReq {x : Units × Dev} {u : Nat} (h : LegalUnits x.1) : LegalUnits (commitReq x u).1 := by
  cases hr : reqOf x.2 u with
  | none => unfold commitReq; simpa [hr] using h
  | some r =>
    rw [show x = (x.1, x.2) from rfl, commitReq_eq _ _ _ _ hr]
    dsimp only
    split
    case isTrue row => exact h.setUnit (legalSt_of_requestRow row)
    case isFalse => exact h

/-- The Bobbins of a partition that follow it take RUN or DISABLED. -/
theorem legalUnits_followPart {c0 : Units} {x : Units × Dev} {p : Nat} (h : LegalUnits x.1) : LegalUnits (followPart c0 x p).1 := by
  have move : ∀ (l : List Nat) (d : Dev) (a b : UnitSt), b = .run ∨ b = .disabled → LegalUnits (l.foldl (fun c n =>
      if ust c (8 + n) == a && !(bobOf d n).bistBusy then Machine.setUnit c (8 + n) b else c) x.1) := by
    intro l d a b hb
    refine foldl_inv LegalUnits _ _ (fun c n _ hc => ?_) _ h
    split
    · refine hc.setUnit ?_
      unfold legalSt
      rw [if_neg (by omega)]
      rcases hb with rfl | rfl <;> split <;> rfl
    · exact hc
  unfold followPart
  dsimp only
  split
  · exact move _ _ _ _ (.inr rfl)
  · split
    · exact move _ _ _ _ (.inl rfl)
    · split
      · show LegalUnits x.1
        exact h
      · show LegalUnits x.1
        exact h

/-- The table that the work of offset 0 forms from a legal one is legal. -/
theorem legalUnits_boundaryUnits {c : Units} (d : Dev) (h : LegalUnits c) : LegalUnits (boundaryUnits c d).1 := by
  unfold boundaryUnits
  generalize earlyTime _ = e
  extract_lets ps x y z
  have hx : LegalUnits x.1 := legalUnits_foldl markBob ps (fun _ _ hn => legalUnits_markBob (List.mem_range.mp hn))
    (legalUnits_foldl judgePart ps (fun _ _ hp => legalUnits_judgePart (List.mem_range.mp hp)) h)
  clear_value x
  have hy : LegalUnits y.1 := legalUnits_tripHalt hx
  clear_value y
  have hz : LegalUnits z.1 := legalUnits_foldl commitReq _ (fun _ _ _ => legalUnits_commitReq) hy
  clear_value z
  exact legalUnits_foldl (followPart c) ps (fun _ _ _ => legalUnits_followPart) hz

theorem legalUnits_boundary {s : State} (h : LegalUnits s.committed) : LegalUnits (boundary s).committed :=
  boundary_committed s ▸ legalUnits_boundaryUnits s.dev h

/-- A cycle of the device's own time keeps the table, unless it ends the Stitch. -/
theorem legalUnits_tick {s : State} (h : LegalUnits s.committed) : LegalUnits (tick s).committed := by
  unfold tick
  dsimp only
  split
  · exact h
  · split
    · split <;> exact h
    · split
      · split
        · exact legalUnits_boundary h
        · exact h
      · exact h

/-! The commands that write the table. -/

/-- A POWER_STATE outside SLEEP leaves the note of a wake as it is. -/
theorem powerCmd_waking {c : Units} {d : Dev} {w : HostWrite} (h : d.pwr.state ≠ .sleep) : (powerCmd c d w).pwr.waking = d.pwr.waking := by
  unfold powerCmd takeCmd
  split
  · rfl
  · dsimp only
    split
    · unfold refusePacket
      dsimp only
      split <;> rfl
    · rw [if_neg (by simp [h])]
      unfold doPower
      dsimp only
      split
      · rfl
      · split <;> rfl

theorem execPowerState_committed {w : HostWrite} {s t : State} (h : execPowerState w s = .next t) :
    t.committed = allDisabled ∨ t.committed = s.committed := by
  unfold execPowerState at h
  cases h
  dsimp only
  split
  · exact .inl rfl
  · exact .inr rfl

/-- Settles O6: every other command is a meaning of the device alone, and a POWER_STATE forms a new table only where it wakes the device. -/
theorem onlyResetsAndBoundariesWriteTheUnitTable : Obligations.OnlyResetsAndBoundariesWriteTheUnitTable := by
  unfold Obligations.OnlyResetsAndBoundariesWriteTheUnitTable
  intro i s t h
  cases i with
  | powerOnReset => exact .inl rfl
  | chipReset => exact .inr (.inl rfl)
  | targetReset => exact .inr (.inr (.inl rfl))
  | stitchBoundary => exact .inr (.inr (.inr (.inl rfl)))
  | powerState w =>
    refine .inr (.inr (.inr (.inr ?_)))
    by_cases hs : s.dev.pwr.state = .sleep
    · exact .inl ⟨w, rfl, hs⟩
    · right
      change execPowerState w s = _ at h
      unfold execPowerState at h
      cases h
      dsimp only
      rw [powerCmd_waking hs, if_neg (by simp)]
  | _ => cases h; exact .inr (.inr (.inr (.inr (.inr rfl))))

/-- What a chip reset leaves of the table. -/
theorem execChipReset_committed {s t : State} (h : execChipReset s = .next t) : t.committed = allDisabled ∨ t.committed = s.committed := by
  unfold execChipReset at h
  split at h
  · cases h; exact .inr rfl
  · split at h
    · cases h; exact .inr rfl
    · cases h; exact .inl rfl

/-- What a target reset leaves of the table. -/
theorem execTargetReset_committed {s t : State} (h : execTargetReset s = .next t) : t.committed = allDisabled ∨ t.committed = s.committed := by
  unfold execTargetReset at h
  dsimp only at h
  split at h
  · cases h; exact .inr rfl
  · split at h
    · cases h; exact .inl rfl
    · split at h <;> (cases h; exact .inr rfl)

/-- A command forms no table but the one with every unit DISABLED and the one that a boundary forms. -/
theorem exec_committed {i : Instr} {s t : State} (h : exec i s = .next t) :
    t.committed = s.committed ∨ t.committed = allDisabled ∨ ∃ d, t.committed = (boundaryUnits s.committed d).1 := by
  rcases onlyResetsAndBoundariesWriteTheUnitTable i s t h with rfl | rfl | rfl | rfl | ⟨w, rfl, -⟩ | same
  · cases h; exact .inr (.inl rfl)
  · exact (execChipReset_committed h).symm.imp_right .inl
  · exact (execTargetReset_committed h).symm.imp_right .inl
  · change execStitchBoundary s = _ at h
    unfold execStitchBoundary at h
    split at h
    · cases h; exact .inr (.inr ⟨_, boundary_committed _⟩)
    · cases h; exact .inl rfl
  · exact (execPowerState_committed h).symm.imp_right .inl
  · exact .inl same

/-- Settles O4: a command keeps the table, disables every unit or forms a boundary's table, and a cycle of the device's own time does no more. -/
theorem everyStepKeepsLegalUnitStates : Obligations.EveryStepKeepsLegalUnitStates := by
  unfold Obligations.EveryStepKeepsLegalUnitStates
  intro s t legal h
  unfold step at h
  split at h
  case h_1 => cases h; exact legalUnits_tick legal
  case h_2 i rest _ =>
    rcases exec_committed h with same | reset | ⟨d, formed⟩
    · exact same ▸ legal
    · exact reset ▸ legalUnits_allDisabled
    · exact formed ▸ legalUnits_boundaryUnits d legal

/-- Settles O7, by the equation of `commitReq` for a pending request. -/
theorem requestsCommitByTheTransitionTable : Obligations.RequestsCommitByTheTransitionTable := by
  unfold Obligations.RequestsCommitByTheTransitionTable
  intro c d u r hu hr
  rw [commitReq_eq c d u r hr]
  refine ⟨fun v hv hne => ?others, ?used, fun row => ?commits, fun row => ?keeps⟩
  case others =>
    dsimp only
    split
    · rw [ust_setUnit c v u r (by omega), if_neg (by simp [hne])]
    · rfl
  case used => simp [reqOf_setReq, show u < 32 by omega]
  case commits => simp [row, ust_setUnit c u u r (by omega), show u < 32 by omega]
  case keeps => simp [row]

/-- Settles O3: the reset state lists no register, no shadow and no cell, and its tables hold one value throughout. -/
theorem resetLeavesEveryUnitDisabled : Obligations.ResetLeavesEveryUnitDisabled := by
  unfold Obligations.ResetLeavesEveryUnitDisabled
  refine ⟨legalUnits_allDisabled, ?_, fun u => ?_, rfl, fun _ _ => rfl, rfl⟩
  · decide
  · show ((Vector.replicate 32 (none : Option UnitSt))[u]?).getD none = none
    by_cases hu : u < 32 <;> simp [hu]

end Sys2Proof.Machine

namespace Sys2Proof.Machine

/-! ### Register writes that make requests (R46, R47, R49, R77, R205) -/

/-- A write that is carried out at a register with one index whose fields are shadowed, other than BOBn_CTRL: its requests, and its word in the
shadow. -/
theorem regWriteAt_stores {c : Units} {d : Dev} {r : Reg} {i v : Nat} (hreg : regAt (addrOf r i 0) = some ⟨rowOf r, i, 0⟩) (hb : r ≠ .bCtrl)
    (hsh : (rowOf r).fields.any FieldDef.shadowed = true) (hres : reservedWrite d ⟨rowOf r, i, 0⟩ v = false)
    (hconf : conflictWrite c d ⟨rowOf r, i, 0⟩ (addrOf r i 0) v = false) :
    regWriteAt c d (addrOf r i 0) v = (putSha (ask c d ⟨rowOf r, i, 0⟩ v) r i 0 (storedBits (rowOf r).fields v), stDeferred) := by
  have hal : addrOf r i 0 / 4 * 4 = addrOf r i 0 := by simpa only [rowOf_reg] using (regAt_addr _ _ hreg).1.symm
  rw [regWriteAt_shadow c d _ v ⟨rowOf r, i, 0⟩ (by rw [hal, hreg]) hres (by rw [hal]; exact hconf) hsh,
    shadowWrite_stores _ _ _ _ _ (by rw [rowOf_reg]; exact hb), rowOf_reg]

/-- The registers that hold an ENABLE field. -/
def enableRegs : List Reg := [.tCtrl, .rxCfg, .oCfg, .oCtrl, .xCtrl, .kCtrl, .aCtrl, .dCtrl]

theorem enableRegs_shadowed : ∀ r ∈ enableRegs, r ∈ namedRegs ∧ r ≠ .bCtrl ∧ (rowOf r).fields.any FieldDef.shadowed = true := by decide +kernel

theorem enableRegs_n1 : (rowOf .tCtrl).n1 = 4 ∧ (rowOf .rxCfg).n1 = 4 ∧ (rowOf .oCfg).n1 = 2
    ∧ ∀ r ∈ [Reg.oCtrl, .xCtrl, .kCtrl, .aCtrl, .dCtrl], (rowOf r).n1 = 1 := by decide +kernel

/-- A command that writes an ENABLE field is a write of its register, and the field is its unit's. -/
theorem enableWrite_row {i : Instr} {b : Bus} {r : Reg} {k u : Nat} {v : Word} (h : enableWrite i = some (b, r, k, u, v)) :
    (∀ s, exec i s = .next { s with dev := writeReg s.committed s.dev b r k v.toNat })
      ∧ r ∈ enableRegs ∧ k < (rowOf r).n1 ∧ enableUnit ⟨rowOf r, k, 0⟩ = some u ∧ u < 32 := by
  obtain ⟨tamb, rx, tx, single⟩ := enableRegs_n1
  cases i <;> cases h
  case tambEnable t => exact ⟨fun _ => rfl, by decide, t.isLt.trans_eq tamb.symm, by simp only [enableUnit, rowOf_reg], by omega⟩
  case tambMode t => exact ⟨fun _ => rfl, by decide, t.isLt.trans_eq tamb.symm, by simp only [enableUnit, rowOf_reg], by omega⟩
  case coefSwap t => exact ⟨fun _ => rfl, by decide, t.isLt.trans_eq tamb.symm, by simp only [enableUnit, rowOf_reg], by omega⟩
  case rxinEnable x => exact ⟨fun _ => rfl, by decide, x.isLt.trans_eq rx.symm, by simp only [enableUnit, rowOf_reg], by omega⟩
  case txPortEnable x => exact ⟨fun _ => rfl, by decide, x.isLt.trans_eq tx.symm, by simp only [enableUnit, rowOf_reg], by omega⟩
  case outEnable => exact ⟨fun _ => rfl, by decide, by simp [single], by simp only [enableUnit, rowOf_reg], by decide⟩
  case txtEnable => exact ⟨fun _ => rfl, by decide, by simp [single], by simp only [enableUnit, rowOf_reg], by decide⟩
  case kvmEnable => exact ⟨fun _ => rfl, by decide, by simp [single], by simp only [enableUnit, rowOf_reg], by decide⟩
  case adaptEnable => exact ⟨fun _ => rfl, by decide, by simp [single], by simp only [enableUnit, rowOf_reg], by decide⟩
  case ddrEnable => exact ⟨fun _ => rfl, by decide, by simp [single], by simp only [enableUnit, rowOf_reg], by decide⟩

/-- The lowest bit of a word. -/
theorem bitOf_toNat (v : Word) : bitOf v.toNat 0 = v.getLsbD 0 := by
  simp [bitOf, BitVec.getLsbD, Nat.testBit_zero, beq_eq_decide]

/-- Settles O15: each of the ten commands is a write of its register, which is `enableReq` and a shadow word. -/
theorem enableWritesOnlyRequest : Obligations.EnableWritesOnlyRequest := by
  unfold Obligations.EnableWritesOnlyRequest
  intro i b r k u v s h q hw
  obtain ⟨hexec, hr, hk, hu, hu32⟩ := enableWrite_row h
  obtain ⟨hnamed, hb, hsh⟩ := enableRegs_shadowed r hr
  obtain ⟨hreg, hlt, -⟩ := regAt_named r k hnamed hk
  have hwrite := writeReg_taken s.committed s.dev b r k v.toNat q v.isLt hlt hw
  obtain ⟨-, hq, hres, hconf⟩ := hw
  obtain rfl : ⟨rowOf r, k, 0⟩ = q := by rwa [hreg, Option.some.injEq] at hq
  have hask : ask s.committed (atRegs s.dev) ⟨rowOf r, k, 0⟩ v.toNat = enableReq s.committed (atRegs s.dev) u (v.getLsbD 0) := by
    unfold ask
    rw [hu, bitOf_toNat]
  rw [regWriteAt_stores hreg hb hsh hres hconf, hask] at hwrite
  obtain ⟨hregs, -, hreq, -⟩ := atRegs_frame s.dev
  have request : ∀ x, reqOf (enableReq s.committed (atRegs s.dev) u (v.getLsbD 0)) x =
      if x = u ∧ u < 32 then (if v.getLsbD 0 = running s.committed u then none else some (if v.getLsbD 0 then .run else .disabled))
      else reqOf s.dev x := fun x => by
    unfold enableReq
    rw [reqOf_setReq, show reqOf (atRegs s.dev) x = reqOf s.dev x by unfold reqOf; rw [hreq]]
    simp only [beq_iff_eq]
  refine ⟨_, hexec s, rfl, ?regs, ?reply, ?own, fun x hx => ?others, ?shadow⟩ <;> dsimp only <;> rw [hwrite]
  case regs => exact hregs
  case reply => rfl
  case own => exact (request u).trans (if_pos ⟨rfl, hu32⟩)
  case others => exact (request x).trans (if_neg fun e => hx e.1)
  case shadow => exact (shadow_putSha _ _ _ _ _ _).trans (if_pos rfl)

/-! ### PARTITION_SET (R46, R47, R49) -/

/-- A packet that is well formed but for its fields is refused with BAD_VALUE. -/
theorem hostCmd_badFields {r : CmdRow} {ok : Dev → List Byte → Bool} {d : Dev} {w : HostWrite} {act : Dev → List Byte → Dev × Nat × List Byte}
    (hreach : reaches d w.da w.hdr = true) (hlen : pktLenOk w.pkt = true) (hcrc : pktCrcOk r.op.toNat w.pkt = true) (hm : r.minor = 0)
    (hlo : r.least ≤ w.pkt.payload.length) (hhi : w.pkt.payload.length ≤ r.most) (hbad : ok (heard d) w.pkt.payload = false) :
    hostCmd r ok d w act = giveReply (heard d) r.op w.pkt.tag stValue [] := by
  unfold hostCmd
  rw [takeCmd_ref r ok d w _ stValue hreach (by simp [packetStatus, hlen, hcrc, hm, hlo, hhi, hbad])]
  rfl

/-- A byte is zero, as a field and as a range. -/
theorem zeroAt_one (b : List Byte) (o : Nat) : zeroAt b o 1 = decide (fld b o 1 = 0) := by
  unfold zeroAt fld
  cases b.drop o with
  | nil => rfl
  | cons x t => simp [leNat, beq_eq_decide, BitVec.toNat_eq]

/-- The fields of PARTITION_SET lie in their ranges. -/
theorem setBody_iff (d : Dev) (b : List Byte) :
    setBody d b = true ↔ fld b 0 1 < 8 ∧ fld b 1 1 < 8 ∧ fld b 1 1 + fld b 2 1 < 9 ∧ fld b 3 1 = 0 := by
  simp only [setBody, zeroAt_one, Bool.and_eq_true, decide_eq_true_eq]
  omega

theorem rowOf_partCfg : rowOf .partCfg = ⟨.partCfg, 0x10100, 8, 32, 1, 1, [fd 7 4 .rwl 0, fd 2 0 .rwl 0]⟩ := by decide +kernel

theorem regAt_partCfg : ∀ p < 8, addrOf .partCfg p 0 < 0x100000 ∧ regAt (addrOf .partCfg p 0) = some ⟨rowOf .partCfg, p, 0⟩ := by decide +kernel

section
variable {p first n : Nat} (hf : first < 8) (hn : first + n < 9)
include hf hn

/-- FIRST and COUNT as SEQ_PARTn_CFG holds them. -/
theorem partCfg_fields : bitsOf (first + 16 * n) 7 4 = n ∧ bitsOf (first + 16 * n) 2 0 = first := by
  simp only [bitsOf]
  omega

theorem partCfg_notReserved (d : Dev) : reservedWrite d ⟨rowOf .partCfg, p, 0⟩ (first + 16 * n) = false := by
  obtain ⟨hcount, hfirst⟩ := partCfg_fields hf hn
  unfold reservedWrite
  rw [rowOf_partCfg, if_pos (show 0x10100 < 0x30000 by decide)]
  simp only [badLow, hcount, hfirst, Bool.or_eq_false_iff, decide_eq_false_iff_not]
  omega

theorem storedBits_partCfg : storedBits (rowOf .partCfg).fields (first + 16 * n) = first + 16 * n := by
  obtain ⟨hcount, hfirst⟩ := partCfg_fields hf hn
  rw [rowOf_partCfg]
  show putField (putField 0 7 4 (bitsOf (first + 16 * n) 7 4)) 2 0 (bitsOf (first + 16 * n) 2 0) = _
  rw [hcount, hfirst]
  simp only [putField, bitsOf]
  omega

end

/-- An extent requests of its own partition only. -/
theorem reqOf_extentReq_other (c : Units) (d : Dev) (p n q : Nat) (h : q ≠ p) : reqOf (extentReq c d p n) q = reqOf d q := by
  unfold extentReq
  split_ifs <;> simp [reqOf_setReq, h]

/-- From DISABLED an extent of at least one Bobbin requests IDLE. -/
theorem reqOf_extentReq_disabled (c : Units) (d : Dev) (p n : Nat) (hp : p < 8) (h : ust c p = .disabled) :
    reqOf (extentReq c d p n) p = if n = 0 then none else some .idle := by
  have hon : partOn c p = false := by simp [partOn, h]
  unfold extentReq
  simp [hon, h, reqOf_setReq, show p < 32 by omega]

/-- From IDLE or HALTED an empty extent requests DISABLED. -/
theorem reqOf_extentReq_empty (c : Units) (d : Dev) (p : Nat) (hp : p < 8) (h : ust c p = .idle ∨ ust c p = .halted) :
    reqOf (extentReq c d p 0) p = some .disabled := by
  have hon : partOn c p = false := by rcases h with h | h <;> simp [partOn, h]
  have hne : ust c p ≠ .disabled := by rcases h with h | h <;> simp [h]
  unfold extentReq
  simp [hon, hne, reqOf_setReq, show p < 32 by omega]

/-- A PARTITION_SET that is taken is a write of SEQ_PARTn_CFG. -/
theorem exec_partitionSet {s : State} {w : HostWrite} (h : taken s.dev rowPartSet setBody w) (hp : fld w.pkt.payload 0 1 < 8) :
    exec (.partitionSet w) s =
      let x := regWriteAt s.committed (atRegs s.dev) (addrOf .partCfg (fld w.pkt.payload 0 1) 0) (fld w.pkt.payload 1 1 + 16 * fld w.pkt.payload 2 1)
      answered s w 0x0012 x.2 [] x.1 := by
  show execPartitionSet w s = _
  unfold execPartitionSet
  rw [onDev_eq, hostCmd_taken _ _ _ _ _ h, doWrite_reg _ _ _ _ (regAt_partCfg _ hp).1]
  rfl

/-- Settles O29: a PARTITION_SET is a write of SEQ_PARTn_CFG, which is `extentReq` and a shadow word. -/
theorem partitionSetWaitsForTheBoundary : Obligations.PartitionSetWaitsForTheBoundary := by
  unfold Obligations.PartitionSetWaitsForTheBoundary
  intro s w c d p first n v r
  have fields : taken s.dev rowPartSet setBody w → p < 8 ∧ first < 8 ∧ first + n < 9 := fun h => by
    obtain ⟨hp, hf, hn, -⟩ := (setBody_iff _ _).1 (taken_body h)
    exact ⟨hp, hf, hn⟩
  refine ⟨fun hreach hlen hcrc h4 hz hbad => ?value, fun h hconf => ?conflict, fun h hconf => ?accepted⟩
  case value =>
    have hbody : setBody (heard s.dev) w.pkt.payload = false := by
      rw [← Bool.not_eq_true, setBody_iff]
      omega
    show execPartitionSet w s = _
    unfold execPartitionSet
    rw [onDev_eq, hostCmd_badFields (r := rowPartSet) hreach hlen hcrc rfl (by rw [h4]; decide) (by rw [h4]; decide) hbody]
    rfl
  case conflict =>
    obtain ⟨hp, hf, hn⟩ := fields h
    obtain ⟨-, hreg⟩ := regAt_partCfg p hp
    have hal : addrOf .partCfg p 0 / 4 * 4 = addrOf .partCfg p 0 := by simpa only [rowOf_reg] using (regAt_addr _ _ hreg).1.symm
    rw [exec_partitionSet h hp, regWriteAt_conflict c d _ v r (by rw [hal, hreg]) (partCfg_notReserved hf hn d) (by rw [hal]; exact hconf)]
  case accepted =>
    obtain ⟨hp, hf, hn⟩ := fields h
    obtain ⟨-, hreg⟩ := regAt_partCfg p hp
    obtain ⟨hregs, -, hreq, -⟩ := atRegs_frame s.dev
    have hask : ask c d r v = extentReq c d p n := by
      unfold ask enableUnit
      simp only [r, v, rowOf_reg, (partCfg_fields hf hn).1]
    have hwrite := regWriteAt_stores hreg (by decide) (by decide +kernel) (partCfg_notReserved hf hn d) hconf
    rw [storedBits_partCfg hf hn] at hwrite
    refine ⟨putSha (extentReq c d p n) .partCfg p 0 v, ?_, ?_, (shadow_putSha _ _ _ _ _ _).trans (if_pos rfl), fun hdis => ?_, fun hidle hz => ?_,
      fun q hq => ?_⟩
    · rw [exec_partitionSet h hp]
      show (let x := regWriteAt c d (addrOf .partCfg p 0) v; answered s w 0x0012 x.2 [] x.1) = _
      rw [hwrite, ← hask]
    · rw [← hregs, ← hask, ask_frame]
      rfl
    · exact reqOf_extentReq_disabled c d p n hp hdis
    · rw [hz]
      exact reqOf_extentReq_empty c d p hp hidle
    · refine (reqOf_extentReq_other c d p n q hq).trans ?_
      unfold reqOf
      rw [hreq]

end Sys2Proof.Machine

namespace Sys2Proof.Machine

/-! ### Host commands that answer at once (R49, R64, R103, R314, R507) -/

/-- A packet command that is taken answers what its meaning gives. -/
theorem onDev_hostCmd_taken {r : CmdRow} {ok : Dev → List Byte → Bool} {s : State} {w : HostWrite}
    (act : Units → Dev → List Byte → Dev × Nat × List Byte) (h : taken s.dev r ok w) :
    onDev (fun c d => hostCmd r ok d w (act c)) s =
      let x := act s.committed (heard s.dev) w.pkt.payload
      answered s w r.op x.2.1 x.2.2 x.1 := by
  rw [onDev_eq, hostCmd_taken _ _ _ _ _ h]
  rfl

/-- PARTITION_START's own conditions (R49, R507). -/
def StartOk (c : Units) (d : Dev) (p : Nat) : Prop :=
  (ust c p = .idle ∨ ust c p = .halted) ∧ d.health.trip = false ∧ runBlocked d = false ∧ hasImage d p = true

/-- The code of the first binding check that a partition's image fails as it stands. -/
def startCode (c : Units) (d : Dev) (p : Nat) : Nat := bindCheck d (viewNext c d p) (imgOf d p) p

theorem doStart_refused {c : Units} {d : Dev} {b : List Byte} (h : ¬ StartOk c d (fld b 0 1)) : doStart c d b = (d, stConflict, []) := by
  unfold doStart
  refine if_pos ?_
  unfold StartOk at h
  simp only [Bool.or_eq_true, Bool.not_eq_true', Bool.or_eq_false_iff, beq_eq_false_iff_ne]
  by_contra hn
  simp only [not_or, Bool.not_eq_true, Bool.not_eq_false, ne_eq, not_and, not_not] at hn
  tauto

theorem doStart_allowed {c : Units} {d : Dev} {b : List Byte} (h : StartOk c d (fld b 0 1)) :
    doStart c d b = if startCode c d (fld b 0 1) ≠ 0 then
        (setPart d (fld b 0 1) (fun x => { x with detail := BitVec.ofNat 8 (startCode c d (fld b 0 1)) }), stRejected, [])
      else (setReq d (fld b 0 1) (some .run), stDeferred, []) := by
  obtain ⟨hst, htrip, hrun, himg⟩ := h
  unfold doStart
  have hcond : (!(ust c (fld b 0 1) == .idle || ust c (fld b 0 1) == .halted) || d.health.trip || runBlocked d || !hasImage d (fld b 0 1)) = false := by
    rcases hst with e | e <;> simp [e, htrip, hrun, himg]
  simp only [hcond, bne_iff_ne, startCode]
  rfl

/-- A partition counts as enabled in RUN and FAULTED (R52). -/
theorem partOn_iff (c : Units) (p : Nat) : partOn c p = true ↔ ust c p = .run ∨ ust c p = .faulted := by
  simp [partOn]

/-- Settles O28: the two commands are `doStart` and `doHalt`, case by case. -/
theorem partitionsStartAndHaltByRequest : Obligations.PartitionsStartAndHaltByRequest := by
  unfold Obligations.PartitionsStartAndHaltByRequest
  intro s w c d p
  refine ⟨fun h => ?start, fun h => ?halt⟩
  case start =>
    intro ok code
    have run : exec (.partitionStart w) s = _ := onDev_hostCmd_taken doStart h
    refine ⟨fun hno => ?_, fun hok hcode => ?_, fun hok hcode => ?_⟩
    · rw [run, doStart_refused (show ¬ StartOk c d p from hno)]
      rfl
    · rw [run, doStart_allowed (show StartOk c d p from hok), if_pos (show startCode c d p ≠ 0 from hcode)]
      rfl
    · rw [run, doStart_allowed (show StartOk c d p from hok), if_neg (show ¬ startCode c d p ≠ 0 from not_not.2 hcode)]
      rfl
  case halt =>
    have run : exec (.partitionHalt w) s = _ := onDev_hostCmd_taken doHalt h
    refine ⟨fun hon => ?_, fun hoff => ?_⟩
    · rw [run, show doHalt c d w.pkt.payload = (setReq d p (some .halted), stDeferred, []) from if_pos ((partOn_iff c p).2 hon)]
      rfl
    · rw [run, show doHalt c d w.pkt.payload = (d, stConflict, []) from if_neg fun hon => hoff ((partOn_iff c p).1 hon)]
      rfl

/-! ### DDR5 behind a command (R434, R435, R476) -/

/-- STAGE may be read: the range lies in it and DDR5 is READY. -/
theorem stagedStatus_none {d : Dev} {a n : Nat} : stagedStatus d a n = none ↔ stageReady d = true ∧ inRegions d regsStage a n = true := by
  unfold stagedStatus
  cases stageReady d <;> cases inRegions d regsStage a n <;> simp

/-- A read of STAGE that is allowed, without a word in error. -/
theorem ddrRead_staged {c : Units} {d : Dev} {w : Who} {a n : Nat} (h : stagedStatus d a n = none) (he : d.ecc = []) :
    ddrRead c d w regsStage a n = (ddrWake d, ddrPeek d a n, false) := by
  obtain ⟨hready, hin⟩ := stagedStatus_none.1 h
  have hst : d.ddr.state = .ready := by
    unfold stageReady at hready
    simp only [Bool.and_eq_true, beq_iff_eq] at hready
    exact hready.1
  unfold ddrRead
  rw [if_neg (by rw [hst]; decide), if_neg (by rw [hin]; decide)]
  dsimp only
  rw [eccRead_plain _ (ddrWake d) _ _ _ he]

/-! ### PRICKING_VERIFY, TABLE_SWAP and CALIBRATE (R64, R103, R314, R436) -/

theorem doVerify_noImage {c : Units} {d : Dev} {b : List Byte} (h1 : fld b 1 1 = 1) (h : hasImage d (fld b 0 1) = false) :
    doVerify c d b = (d, stConflict, leBytes 4 0) := by
  unfold doVerify
  simp only [h1, h]
  rfl

theorem doVerify_loaded {c : Units} {d : Dev} {b : List Byte} (h1 : fld b 1 1 = 1) (h : hasImage d (fld b 0 1) = true) (he : d.ecc = []) :
    doVerify c d b =
      let code := verifyImage c d (fld b 0 1) (imgSeen d (fld b 0 1))
      (d, if code = 0 then stOk else stRejected, leBytes 4 code) := by
  unfold doVerify
  simp only [h1, h, eccRead_plain c d _ _ _ he, BEq.rfl, if_true, Bool.not_true, Bool.false_eq_true, if_false, beq_iff_eq]
  rfl

theorem doVerify_unstaged {c : Units} {d : Dev} {b : List Byte} {st : Nat} (h1 : fld b 1 1 = 0)
    (h : stagedStatus d (fld b 8 8) (ldTotal b) = some st) : doVerify c d b = (d, st, leBytes 4 0) := by
  unfold doVerify
  simp only [h1, h]
  rfl

theorem doVerify_staged {c : Units} {d : Dev} {b : List Byte} (h1 : fld b 1 1 = 0) (h : stagedStatus d (fld b 8 8) (ldTotal b) = none)
    (he : d.ecc = []) :
    doVerify c d b =
      let code := verifyImage c (ddrWake d) (fld b 0 1) (ddrPeek d (fld b 8 8) (ldTotal b))
      (ddrWake d, if code = 0 then stOk else stRejected, leBytes 4 code) := by
  unfold doVerify
  simp only [h1, h, ddrRead_staged h he, beq_iff_eq]
  rfl

/-- CALIBRATE's conditions on the state of its Tambour (R103). -/
def CalFree (c : Units) (d : Dev) (t : Nat) : Prop :=
  running c (0x10 + t) = true ∧ (tambOf d t).cal.state ≠ .running ∧ (tambOf d t).active ≠ 2 ∧ cf d .tLineCfg t 0 27 24 ≠ 6
    ∧ ¬ (cf d .tCalCfg t 0 25 25 = 1 ∧ (tambOf d t).active = 0) ∧ sf d .tCtrl t 0 7 7 ≠ 1

/-- The black and the white window meet. -/
def CalMeets (d : Dev) (t : Nat) : Prop :=
  (calWin d t).1 < (calWin d t).2.2.1 + (calWin d t).2.2.2 ∧ (calWin d t).2.2.1 < (calWin d t).1 + (calWin d t).2.1

theorem not_calFree_iff (c : Units) (d : Dev) (t : Nat) :
    ¬ CalFree c d t ↔ (!running c (0x10 + t) || (tambOf d t).cal.state == .running || (tambOf d t).active == 2 || cf d .tLineCfg t 0 27 24 == 6
      || (cf d .tCalCfg t 0 25 25 == 1 && (tambOf d t).active == 0) || sf d .tCtrl t 0 7 7 == 1) = true := by
  simp only [CalFree, Bool.or_eq_true, Bool.not_eq_true', beq_iff_eq, Bool.and_eq_true, ← Bool.not_eq_true]
  tauto

theorem doCalibrate_refused {c : Units} {d : Dev} {b : List Byte} (h : ¬ CalFree c d (fld b 0 1)) : doCalibrate c d b = (d, stConflict, []) :=
  if_pos ((not_calFree_iff _ _ _).1 h)

theorem doCalibrate_free {c : Units} {d : Dev} {b : List Byte} (h : CalFree c d (fld b 0 1)) :
    (CalMeets d (fld b 0 1) → doCalibrate c d b = (d, stValue, []))
      ∧ (¬ CalMeets d (fld b 0 1) →
        doCalibrate c d b = (setTamb d (fld b 0 1) (fun m => { m with cal := { m.cal with due := true } }), stDeferred, [])) := by
  have hfree := mt (not_calFree_iff c d (fld b 0 1)).2 (not_not.2 h)
  exact ⟨fun hm => (if_neg hfree).trans (if_pos (by simpa [CalMeets] using hm)),
    fun hm => (if_neg hfree).trans (if_neg (by simpa [CalMeets] using hm))⟩

/-- Settles O34: each command is its own meaning at receipt, case by case. -/
theorem verifySwapAndCalibrate : Obligations.VerifySwapAndCalibrate := by
  unfold Obligations.VerifySwapAndCalibrate
  intro s w c d b p
  refine ⟨fun h h1 => ?loaded, fun h h1 => ?staged, fun h => ?swap, fun h => ?calibrate⟩
  case loaded =>
    have run : exec (.prickingVerify w) s = _ := onDev_hostCmd_taken doVerify h
    refine ⟨fun hno => ?_, fun himg he => ?_⟩
    · rw [run, doVerify_noImage h1 hno]
      rfl
    · rw [run, doVerify_loaded h1 himg he]
      rfl
  case staged =>
    have run : exec (.prickingVerify w) s = _ := onDev_hostCmd_taken doVerify h
    refine ⟨fun st hst => ?_, fun hst he => ?_⟩
    · rw [run, doVerify_unstaged h1 hst]
      rfl
    · rw [run, doVerify_staged h1 hst he]
      rfl
  case swap =>
    have run : exec (.tableSwap w) s = _ := onDev_hostCmd_taken doTableSwap h
    refine ⟨fun hok => ?_, fun hno => ?_⟩
    · rw [run, show doTableSwap c d b = ({ d with txt := { d.txt with swap := true } }, stDeferred, []) from if_pos hok]
      rfl
    · rw [run, show doTableSwap c d b = (d, stConflict, []) from if_neg (by rw [hno]; decide)]
      rfl
  case calibrate =>
    intro m win free meet
    have run : exec (.calibrate w) s = _ := onDev_hostCmd_taken doCalibrate h
    refine ⟨fun hno => ?_, fun hfree hmeet => ?_, fun hfree hmeet => ?_⟩
    · rw [run, doCalibrate_refused (show ¬ CalFree c d p from hno)]
      rfl
    · rw [run, (doCalibrate_free (show CalFree c d p from hfree)).1 hmeet]
      rfl
    · rw [run, (doCalibrate_free (show CalFree c d p from hfree)).2 hmeet]
      rfl

end Sys2Proof.Machine

namespace Sys2Proof.Machine

/-! ### Fragments of a load (R435, R436) -/

section
variable {c : Units} {d : Dev} {x : Xfer} {b : List Byte} {finish : Finish}

/-- A fragment that stays within TOTAL and is not the last is gathered. -/
theorem loadMore_gathers (hl : ldLast b = false) (h : x.got + (b.drop 16).length ≤ x.total) :
    loadMore c d x b finish =
      let e := gather c { d with xfer := some x } x.rom x.got (b.drop 16)
      ({ e with xfer := some { x with got := x.got + (b.drop 16).length, at_ := e.clk.mono } }, stOk, []) := by
  unfold loadMore
  simp only [hl, Nat.not_lt.2 h, Bool.false_and, decide_false, Bool.or_false, Bool.false_eq_true, if_false]

/-- The last fragment, which completes TOTAL, ends the load. -/
theorem loadMore_ends (hl : ldLast b = true) (h : x.got + (b.drop 16).length = x.total) :
    loadMore c d x b finish =
      let g := gathered c (gather c { d with xfer := some x } x.rom x.got (b.drop 16)) x
      let f := finish c { g.1 with xfer := none } b g.2
      (f.1, f.2.1, leBytes 4 f.2.2) := by
  unfold loadMore
  simp only [hl, h, bne_self_eq_false, Bool.and_false, Nat.lt_irrefl, decide_false, Bool.or_false, Bool.false_eq_true, if_false, if_true]
  rfl

/-- A fragment beyond TOTAL, and a last one short of it, abandon the transfer. -/
theorem loadMore_length (h : x.total < x.got + (b.drop 16).length ∨ (ldLast b = true ∧ x.got + (b.drop 16).length ≠ x.total)) :
    loadMore c d x b finish = (dropXfer { d with xfer := some x }, stLength, detailOf (ldFirst b || ldLast b) 0) := by
  unfold loadMore
  exact if_pos (by simpa using h)

variable {op : BitVec 16} {refused : Dev → Bool} {start : Dev → Dev}

/-! A fragment that is not the first. -/

theorem loadCmd_lost (hf : ldFirst b = false) (h : d.xferLost = true) :
    loadCmd op c d b refused start finish = ({ d with xferLost := false }, stConflict, detailOf (ldLast b) 0) := by
  simp only [loadCmd, hf, h, Bool.false_eq_true, if_false, if_true]

theorem loadCmd_noTransfer (hf : ldFirst b = false) (hl : d.xferLost = false) (h : d.xfer = none) :
    loadCmd op c d b refused start finish = (d, stValue, detailOf (ldLast b) 0) := by
  simp only [loadCmd, hf, hl, h, Bool.false_eq_true, if_false]

/-- The header of a fragment agrees with the transfer in progress (R435). -/
def Agrees (op : BitVec 16) (b : List Byte) (x : Xfer) : Prop :=
  x.opcode = op ∧ x.target.toNat = fld b 0 1 ∧ x.total = ldTotal b ∧ x.got = fld b 8 4

theorem agrees_iff (op : BitVec 16) (b : List Byte) (x : Xfer) :
    (x.opcode == op && x.target.toNat == fld b 0 1 && x.total == ldTotal b && x.got == fld b 8 4) = true ↔ Agrees op b x := by
  simp only [Agrees, Bool.and_eq_true, beq_iff_eq, and_assoc]

theorem loadCmd_agrees (hf : ldFirst b = false) (hl : d.xferLost = false) (h : d.xfer = some x) (ha : Agrees op b x) :
    loadCmd op c d b refused start finish = loadMore c d x b finish := by
  simp only [loadCmd, hf, hl, h, (agrees_iff op b x).2 ha, Bool.false_eq_true, if_false, if_true]

theorem loadCmd_disagrees (hf : ldFirst b = false) (hl : d.xferLost = false) (h : d.xfer = some x) (ha : ¬ Agrees op b x) :
    loadCmd op c d b refused start finish = (dropXfer d, stValue, detailOf (ldLast b) 0) := by
  simp only [loadCmd, hf, hl, h, mt (agrees_iff op b x).1 ha, Bool.false_eq_true, if_false]

/-! A first fragment, and a staged load. -/

theorem loadCmd_held (hf : ldFirst b = true) (h : refused d = true) :
    loadCmd op c d b refused start finish = (if op = 0x10 then dropXfer d else d, stConflict, leBytes 4 0) := by
  simp only [loadCmd, hf, h, if_true, beq_iff_eq]
  rfl

theorem loadCmd_notReady (hf : ldFirst b = true) (h : refused d = false)
    (hr : (if (d.pwr.recovery && op == 0x70) = true then ldStaged b else !stageReady d) = true) :
    loadCmd op c d b refused start finish = (d, stConflict, leBytes 4 0) := by
  simp only [loadCmd, hf, h, hr, Bool.false_eq_true, if_false, if_true]
  rfl

theorem loadCmd_tooLong (hf : ldFirst b = true) (h : refused d = false)
    (hr : (if (d.pwr.recovery && op == 0x70) = true then ldStaged b else !stageReady d) = false) (hs : ldStaged b = false) (hl : ldLast b = false)
    (ht : ldTotal b < (b.drop 16).length) :
    loadCmd op c d b refused start finish = (d, stLength, leBytes 4 0) := by
  have hlen : ldTotal b + 16 < b.length := by rw [List.length_drop] at ht; omega
  rw [hs] at hr
  simp only [loadCmd, hf, h, hr, hs, hl, hlen, Bool.false_and, Bool.false_eq_true, if_false, if_true, Bool.not_false, Bool.true_and, decide_true]
  rfl

theorem loadCmd_starts (hf : ldFirst b = true) (h : refused d = false)
    (hr : (if (d.pwr.recovery && op == 0x70) = true then ldStaged b else !stageReady d) = false) (hs : ldStaged b = false)
    (ht : ldLast b = true ∨ (b.drop 16).length ≤ ldTotal b) :
    loadCmd op c d b refused start finish = loadMore c (start { dropXfer d with xferLost := false })
      { opcode := op, target := BitVec.ofNat 8 (fld b 0 1), total := ldTotal b, got := 0, rom := d.pwr.recovery && op == 0x70 } b finish := by
  have hlong : (!ldLast b && decide (ldTotal b + 16 < b.length)) = false := by
    rw [List.length_drop] at ht
    rcases ht with e | e
    · simp [e]
    · rw [decide_eq_false (by omega), Bool.and_false]
  rw [hs] at hr
  simp only [loadCmd, hf, h, hr, hs, hlong, Bool.false_and, Bool.false_eq_true, if_false, if_true]

theorem loadCmd_outside (hf : ldFirst b = true) (h : refused d = false)
    (hr : (if (d.pwr.recovery && op == 0x70) = true then ldStaged b else !stageReady d) = false) (hs : ldStaged b = true)
    (hst : stagedStatus d (fld b 8 8) (ldTotal b) ≠ none) :
    loadCmd op c d b refused start finish = (d, stValue, leBytes 4 0) := by
  rw [hs] at hr
  simp only [loadCmd, hf, h, hr, hs, Option.isSome_iff_ne_none.2 hst, Bool.and_true, Bool.false_eq_true, if_false, if_true]
  rfl

theorem loadCmd_staged (hf : ldFirst b = true) (h : refused d = false)
    (hr : (if (d.pwr.recovery && op == 0x70) = true then ldStaged b else !stageReady d) = false) (hs : ldStaged b = true) (hl : ldLast b = true)
    (hst : stagedStatus d (fld b 8 8) (ldTotal b) = none) :
    loadCmd op c d b refused start finish = loadStaged c (start { dropXfer d with xferLost := false }) b finish := by
  rw [hs] at hr
  simp only [loadCmd, hf, h, hr, hs, hl, hst, Option.isSome_none, Bool.and_false, Bool.not_true, Bool.false_and, Bool.false_eq_true, if_false, if_true]

/-- A staged load of a range that may be read, without a word in error, ends with the bytes of that range. -/
theorem loadStaged_reads (hst : stagedStatus d (fld b 8 8) (ldTotal b) = none) (he : d.ecc = []) :
    loadStaged c d b finish =
      let f := finish c (ddrWake d) b (ddrPeek d (fld b 8 8) (ldTotal b))
      (f.1, f.2.1, leBytes 4 f.2.2) := by
  unfold loadStaged
  simp only [hst, ddrRead_staged hst he]
  rfl

end

/-! ### The three load opcodes (R58, R313, R437) -/

/-- A load opcode's own condition refuses it. -/
def loadHeld (op : BitVec 16) (c : Units) (b : List Byte) (d : Dev) : Bool :=
  if op = 0x10 then loadRefused c (fld b 0 1) else if op = 0x30 then tableRefused d else d.fw.state == .programming

/-- What a FIRST fragment does beside beginning a transfer. -/
def loadStart (op : BitVec 16) : Dev → Dev := if op = 0x70 then fwStart else id

/-- What an opcode does with its whole image. -/
def loadFinish (op : BitVec 16) : Finish := if op = 0x10 then finishPricking else if op = 0x30 then finishTable else finishFw

/-- A load that is taken is `loadCmd` for its opcode. -/
theorem exec_load {i : Instr} {r : CmdRow} {ok : Dev → List Byte → Bool} {w : HostWrite} {s : State} (hi : loadRow i = some (r, ok, w))
    (h : taken s.dev r ok w) :
    exec i s =
      let x := loadCmd r.op s.committed (heard s.dev) w.pkt.payload (loadHeld r.op s.committed w.pkt.payload) (loadStart r.op) (loadFinish r.op)
      answered s w r.op x.2.1 x.2.2 x.1 := by
  cases i <;> cases hi
  case prickingLoad =>
    exact onDev_hostCmd_taken (fun c d b => loadCmd 0x0010 c d b (fun _ => loadRefused c (fld b 0 1)) id finishPricking) h
  case tableLoad =>
    exact onDev_hostCmd_taken (fun c d b => loadCmd 0x0030 c d b tableRefused id finishTable) h
  case fwUpdate =>
    exact onDev_hostCmd_taken (fun c d b => loadCmd 0x0070 c d b (fun d => d.fw.state == .programming) fwStart finishFw) h

section
variable {s : State} {w : HostWrite} {u : Dev} {img : List Byte}

/-- The search for room does not look at the partition's own record. -/
theorem firstFit_setPart (d : Dev) (p n : Nat) (f : Part → Part) : firstFit (setPart d p f) p n = firstFit d p n := by
  have h : (fun q => if (q == p || !hasImage (setPart d p f) q) = true then none else some ((partOf (setPart d p f) q).base, (partOf (setPart d p f) q).size))
      = fun q => if (q == p || !hasImage d q) = true then none else some ((partOf d q).base, (partOf d q).size) := by
    funext q
    by_cases hq : q = p
    · simp [hq]
    · simp only [hasImage, partOf_setPart_other d p q f hq]
      rfl
  unfold firstFit
  rw [h]

/-- The staging guard moves nothing but adaptation. -/
theorem adaptGuard_frame (d : Dev) : adaptGuard d = { d with adapt := (adaptGuard d).adapt } := by
  unfold adaptGuard
  split <;> rfl

/-- A partition whose last load is not yet judged: DETAIL, CHECK and FAULT_OP cleared (R66). -/
def unjudged (d : Dev) (p : Nat) : Dev := setPart d p (fun x => { x with detail := 0, check := 0, faultOp := 0 })

theorem partOf_unjudged (d : Dev) (p : Nat) (h : p < 8) : partOf (unjudged d p) p = { partOf d p with detail := 0, check := 0, faultOp := 0 } :=
  partOf_setPart d p _ h

theorem partOf_unjudged_other (d : Dev) (p q : Nat) (h : q ≠ p) : partOf (unjudged d p) q = partOf d q :=
  partOf_setPart_other d p q _ h

section
variable {c : Units} {d : Dev} {b : List Byte}

theorem finishPricking_refused (h : loadRefused c (fld b 0 1) = true) : finishPricking c d b img = (d, stConflict, 0) :=
  if_pos h

theorem finishPricking_rejected (h : loadRefused c (fld b 0 1) = false) (hc : imageCheck img ≠ 0) :
    finishPricking c d b img = (setPart (unjudged d (fld b 0 1)) (fld b 0 1) (fun x => { x with detail := BitVec.ofNat 8 (imageCheck img) }),
      stRejected, imageCheck img) := by
  unfold finishPricking
  simp only [h, bne_iff_ne.2 hc, Bool.false_eq_true, if_false, if_true]
  rfl

theorem finishPricking_exhausted (h : loadRefused c (fld b 0 1) = false) (hc : imageCheck img = 0)
    (hf : firstFit d (fld b 0 1) (cdiv img.length 256) = none) :
    finishPricking c d b img = (unjudged d (fld b 0 1), stExhausted, 0) := by
  unfold finishPricking
  simp only [h, hc, firstFit_setPart, hf, bne_self_eq_false, Bool.false_eq_true, if_false]
  rfl

/-- The record of a partition whose image has just been placed. -/
def placedPart (d : Dev) (p a : Nat) (img : List Byte) (x : Part) : Part :=
  { x with base := a, size := cdiv img.length 256, bytes := img.length
           dens := densities img (fun lb => cf d .bCtrl (physIn img (extent d p).1 lb) 0 6 0) }

/-- The device with a partition's image placed in memory without a word in error. -/
def placedDev (d : Dev) (p a : Nat) (img : List Byte) : Dev :=
  setPart { unjudged d p with mem := Memory.setAll d.mem (key 5 (a * 256)) img } p (placedPart (unjudged d p) p a img)

theorem partOf_placedDev (d : Dev) (p a : Nat) (img : List Byte) (q : Nat) :
    partOf (adaptGuard (placedDev d p a img)) q = partOf (setPart (unjudged d p) p (placedPart (unjudged d p) p a img)) q := by
  rw [adaptGuard_frame]
  rfl

theorem finishPricking_placed {a : Nat} (h : loadRefused c (fld b 0 1) = false) (hc : imageCheck img = 0)
    (hf : firstFit d (fld b 0 1) (cdiv img.length 256) = some a) (he : d.ecc = []) (hi : img ≠ []) :
    finishPricking c d b img = (adaptGuard (placedDev d (fld b 0 1) a img), stOk, 0) := by
  have hstore : store c (unjudged d (fld b 0 1)) whoCmd (key 5 (a * 256)) img =
      { unjudged d (fld b 0 1) with mem := Memory.setAll d.mem (key 5 (a * 256)) img } := store_plain _ (unjudged d _) _ _ _ he hi
  unfold placedDev
  rw [← hstore]
  unfold finishPricking
  simp only [h, hc, firstFit_setPart, hf, bne_self_eq_false, Bool.false_eq_true, if_false]
  rfl

end

theorem prickingEnds_of (hp : fld w.pkt.payload 0 1 < 8)
    (h : exec (.prickingLoad w) s =
      let f := finishPricking s.committed u w.pkt.payload img
      answered s w 0x0010 f.2.1 (leBytes 4 f.2.2) f.1) : PrickingEnds s w u img := by
  unfold PrickingEnds
  intro p n ends others
  refine ⟨fun href => ?refused, fun href hcode => ?rejected, fun href hcode hfit => ?exhausted, fun a href hcode hfit he himg => ?placed⟩
  case refused => exact h.trans (by rw [finishPricking_refused href])
  case rejected =>
    refine ⟨_, h.trans (by rw [finishPricking_rejected href hcode]), rfl, fun q hq => ?_, ?_⟩
    · exact (partOf_setPart_other _ p q _ hq).trans (partOf_unjudged_other u p q hq)
    · rw [partOf_setPart _ p _ hp, partOf_unjudged u p hp]
  case exhausted =>
    exact ⟨_, h.trans (by rw [finishPricking_exhausted href hcode hfit]), rfl, fun q hq => partOf_unjudged_other u p q hq, partOf_unjudged u p hp⟩
  case placed =>
    have hown := (partOf_placedDev u p a img p).trans ((partOf_setPart _ p _ hp).trans (congrArg _ (partOf_unjudged u p hp)))
    refine ⟨_, h.trans (by rw [finishPricking_placed href hcode hfit he himg]), ?_, fun q hq => ?_, ?_⟩
    · rw [adaptGuard_frame]
      rfl
    · exact (partOf_placedDev u p a img q).trans ((partOf_setPart_other _ p q _ hq).trans (partOf_unjudged_other u p q hq))
    · rw [hown]
      exact ⟨rfl, rfl, rfl, rfl, rfl, rfl⟩

theorem bufSt_putBuf_empty (t : Txt) (b : Bool) (id : Word) : bufSt (putBuf t b .empty id) b = .empty := by
  cases b <;> rfl

theorem bufSt_putBuf_valid (t : Txt) (b : Bool) (id : Word) : bufSt (putBuf t b .valid id) b = .valid := by
  cases b <;> rfl

theorem bufSet_putBuf (t : Txt) (b : Bool) (st : BufSt) (id : Word) : bufSet (putBuf t b st id) b = id := by
  cases b <;> rfl

/-- Setting one buffer leaves the other, and everything else of the text unit, as it was. -/
theorem putBuf_others (t : Txt) (b : Bool) (st : BufSt) (id : Word) (detail : Byte) :
    let v := { putBuf t b st id with detail := detail }
    bufSt v (!b) = bufSt t (!b) ∧ bufSet v (!b) = bufSet t (!b)
      ∧ v = { t with buf0 := v.buf0, buf1 := v.buf1, set0 := v.set0, set1 := v.set1, detail := v.detail } := by
  cases b <;> exact ⟨rfl, rfl, rfl⟩

section
variable {c : Units} {d : Dev} {b : List Byte}

/-- The device with a table set written to its standby buffer. -/
def tableWritten (c : Units) (d : Dev) (img : List Byte) : Dev :=
  store c d whoCmd (key 3 (if (!d.txt.active) = true then 0x700000 else 0)) img

theorem finishTable_refused (h : tableRefused d = true) : finishTable c d b img = (d, stConflict, 0) :=
  if_pos h

theorem finishTable_bad (h : tableRefused d = false) (hc : setCheck img ≠ 0) :
    finishTable c d b img =
      let y := tableWritten c d img
      ({ y with txt := { putBuf y.txt (!d.txt.active) .empty 0 with detail := BitVec.ofNat 8 (setCheck img) } },
        if setCheck img = 2 then stCrc else stValue, setCheck img) := by
  have hk : b2n (!d.txt.active) * 0x700000 = if (!d.txt.active) = true then 0x700000 else 0 := by cases d.txt.active <;> rfl
  unfold finishTable
  simp only [h, hk, bne_iff_ne.2 hc, beq_iff_eq, Bool.false_eq_true, if_false, if_true]
  rfl

theorem finishTable_good (h : tableRefused d = false) (hc : setCheck img = 0) :
    finishTable c d b img =
      let y := tableWritten c d img
      ({ y with txt := putBuf y.txt (!d.txt.active) .valid (BitVec.ofNat 32 (fld img 16 4)) }, stOk, 0) := by
  have hk : b2n (!d.txt.active) * 0x700000 = if (!d.txt.active) = true then 0x700000 else 0 := by cases d.txt.active <;> rfl
  unfold finishTable
  simp only [h, hk, hc, bne_self_eq_false, Bool.false_eq_true, if_false]
  rfl

end

theorem tableEnds_of
    (h : exec (.tableLoad w) s =
      let f := finishTable s.committed u w.pkt.payload img
      answered s w 0x0030 f.2.1 (leBytes 4 f.2.2) f.1) : TableEnds s w u img := by
  unfold TableEnds
  intro ends b y code others
  refine ⟨fun href => ?refused, fun href hcode => ?bad, fun href hcode => ?good⟩
  case refused => exact h.trans (by rw [finishTable_refused href])
  case bad =>
    exact ⟨_, h.trans (by rw [finishTable_bad href hcode]), rfl, putBuf_others y.txt b .empty 0 _, bufSt_putBuf_empty y.txt b 0,
      bufSet_putBuf y.txt b .empty 0, rfl⟩
  case good =>
    have hsame : (putBuf y.txt b .valid (BitVec.ofNat 32 (fld img 16 4))).detail = y.txt.detail := by unfold putBuf; split <;> rfl
    exact ⟨_, h.trans (by rw [finishTable_good href hcode]), rfl, putBuf_others y.txt b .valid _ (putBuf y.txt b .valid _).detail,
      bufSt_putBuf_valid y.txt b _, bufSet_putBuf y.txt b .valid _, hsame⟩

/-- The device that has begun to program a firmware image into its standby bank (R437). -/
def programming (d : Dev) (img : List Byte) : Dev :=
  let f := setStandby d.fw 0
  { d with fw := { f with state := .programming, cause := 0, progRel := bankRelease img, flash := f.flash ++ [(bankFlash (!f.active), img)] } }

theorem finishFw_length {c : Units} {d : Dev} {b : List Byte} (h : bankSize img ≠ some (ldTotal b)) :
    finishFw c d b img = ({ d with fw := { d.fw with state := .failed, cause := 2 } }, stLength, 0) :=
  if_pos (bne_iff_ne.2 h)

theorem finishFw_crc {c : Units} {d : Dev} {b : List Byte} (h : bankSize img = some (ldTotal b)) (hv : bankValid img = false) :
    finishFw c d b img = ({ d with fw := { d.fw with state := .failed, cause := 1 } }, stCrc, 0) :=
  (if_neg (by simp [h])).trans (if_pos (by simp [hv]))

theorem finishFw_programs {c : Units} {d : Dev} {b : List Byte} (h : bankSize img = some (ldTotal b)) (hv : bankValid img = true) :
    finishFw c d b img = (programming d img, stOk, 0) :=
  (if_neg (by simp [h])).trans (if_neg (by simp [hv]))

theorem firmwareEnds_of
    (h : exec (.fwUpdate w) s =
      let f := finishFw s.committed u w.pkt.payload img
      answered s w 0x0070 f.2.1 (leBytes 4 f.2.2) f.1) : FirmwareEnds s w u img := by
  unfold FirmwareEnds
  intro ends failed sized
  refine ⟨fun hsize => ?length, fun hsize hbad => ?crc, fun hsize hgood => ⟨programming u img, ?programs, ?bank⟩⟩
  case length => exact h.trans (by rw [finishFw_length hsize])
  case crc => exact h.trans (by rw [finishFw_crc hsize hbad])
  case programs => exact h.trans (by rw [finishFw_programs hsize hgood])
  case bank =>
    unfold programming setStandby bankFlash
    cases u.fw.active <;> exact ⟨rfl, rfl, rfl, rfl, rfl, rfl, rfl⟩

end

/-- A load whose image is whole ends as its opcode's loads do. -/
theorem loadEnds_of {i : Instr} {r : CmdRow} {ok : Dev → List Byte → Bool} {w : HostWrite} {s : State} (hi : loadRow i = some (r, ok, w))
    (ht : taken s.dev r ok w) {u : Dev} {img : List Byte}
    (h : exec i s =
      let f := loadFinish r.op s.committed u w.pkt.payload img
      answered s w r.op f.2.1 (leBytes 4 f.2.2) f.1) : LoadEnds i s w u img := by
  cases i <;> cases hi
  case prickingLoad =>
    refine ⟨fun _ => prickingEnds_of ?_ h, nofun, nofun⟩
    have hb := taken_body ht
    simp only [loadBody, Bool.and_eq_true, decide_eq_true_eq] at hb
    omega
  case tableLoad => exact ⟨nofun, fun _ => tableEnds_of h, nofun⟩
  case fwUpdate => exact ⟨nofun, nofun, fun _ => firmwareEnds_of h⟩

end Sys2Proof.Machine

namespace Sys2Proof.Machine

/-! ### Later fragments, first fragments and staged loads (R435, R436) -/

/-- Naming the transfer in progress again changes nothing. -/
theorem withXfer_same {d : Dev} {x : Xfer} (h : d.xfer = some x) : { d with xfer := some x } = d := by
  rw [← h]

/-- Settles O31: a later fragment is `loadMore` of the transfer in progress where it agrees with it, and the last one ends its opcode's load. -/
theorem fragmentsFollowTheTransfer : Obligations.FragmentsFollowTheTransfer := by
  unfold Obligations.FragmentsFollowTheTransfer
  intro i r ok w s hi ht c d b more agrees hf
  have run := exec_load hi ht
  refine ⟨fun hl => ?lost, fun hl => ⟨fun x hx ha => ?agrees, fun x hx ha => ?disagrees, fun hx => ?none⟩⟩
  case lost => rw [run, loadCmd_lost hf hl]
  case none => rw [run, loadCmd_noTransfer hf hl hx]
  case disagrees => rw [run, loadCmd_disagrees hf hl hx (show ¬ Agrees r.op b x from ha)]
  case agrees =>
    rw [loadCmd_agrees hf hl hx (show Agrees r.op b x from ha)] at run
    refine ⟨fun hlast hin => ?gathers, fun hlast hall => ?ends, fun hlen => ?length⟩
    case gathers =>
      rw [run, loadMore_gathers hlast hin, withXfer_same hx]
    case ends =>
      rw [loadMore_ends hlast hall, withXfer_same hx] at run
      exact loadEnds_of hi ht run
    case length =>
      rw [run, loadMore_length hlen, withXfer_same hx, hf, Bool.false_or]

section
variable {i : Instr} {r : CmdRow} {ok : Dev → List Byte → Bool} {w : HostWrite} {s : State} (hi : loadRow i = some (r, ok, w))
  (ht : taken s.dev r ok w) (hf : ldFirst w.pkt.payload = true)
include hi ht hf

/-- A FIRST fragment that its opcode's condition refuses. -/
theorem exec_load_held (h : loadHeld r.op s.committed w.pkt.payload (heard s.dev) = true) :
    exec i s = answered s w r.op stConflict (leBytes 4 0) (if r.op = 0x10 then dropXfer (heard s.dev) else heard s.dev) := by
  rw [exec_load hi ht, loadCmd_held hf h]

variable (h : loadHeld r.op s.committed w.pkt.payload (heard s.dev) = false)
include h

/-- A FIRST fragment that DDR5, or the mask ROM, refuses. -/
theorem exec_load_notReady
    (hr : (if ((heard s.dev).pwr.recovery && r.op == 0x70) = true then ldStaged w.pkt.payload else !stageReady (heard s.dev)) = true) :
    exec i s = answered s w r.op stConflict (leBytes 4 0) (heard s.dev) := by
  rw [exec_load hi ht, loadCmd_notReady hf h hr]

/-- A FIRST fragment of inline data that may start a transfer: it is refused for its length, or it is the transfer's first part. -/
theorem exec_load_inline {rom : Bool} {e : Dev} (hs : ldStaged w.pkt.payload = false)
    (hr : (if ((heard s.dev).pwr.recovery && r.op == 0x70) = true then ldStaged w.pkt.payload else !stageReady (heard s.dev)) = false)
    (hrom : ((heard s.dev).pwr.recovery && r.op == 0x70) = rom) (he : loadStart r.op { dropXfer (heard s.dev) with xferLost := false } = e) :
    let b := w.pkt.payload
    let more := b.drop 16
    let x : Xfer := { opcode := r.op, target := BitVec.ofNat 8 (fld b 0 1), total := ldTotal b, got := 0, rom }
    let g := gather s.committed { e with xfer := some x } rom 0 more
    (ldLast b = false → more.length ≤ ldTotal b →
        exec i s = answered s w r.op stOk [] { g with xfer := some { x with got := more.length, at_ := g.clk.mono } })
      ∧ (ldLast b = true → more.length = ldTotal b → let y := gathered s.committed g x; LoadEnds i s w { y.1 with xfer := none } y.2)
      ∧ (ldLast b = true → more.length ≠ ldTotal b → exec i s = answered s w r.op stLength (leBytes 4 0) (dropXfer { e with xfer := some x }))
      ∧ (ldLast b = false → ldTotal b < more.length → exec i s = answered s w r.op stLength (leBytes 4 0) (heard s.dev)) := by
  intro b more x g
  have run : ldLast b = true ∨ more.length ≤ ldTotal b → exec i s =
      let y := loadMore s.committed e x b (loadFinish r.op)
      answered s w r.op y.2.1 y.2.2 y.1 := fun hlen => by
    rw [exec_load hi ht, loadCmd_starts hf h hr hs hlen, he, hrom]
  have hgot : ∀ m, x.got + m = m := Nat.zero_add
  refine ⟨fun hl hlen => ?_, fun hl hlen => ?_, fun hl hlen => ?_, fun hl hlen => ?_⟩
  · rw [run (.inr hlen), loadMore_gathers hl (by rw [hgot]; exact hlen), hgot]
  · have whole := run (.inl hl)
    rw [loadMore_ends hl (by rw [hgot]; exact hlen)] at whole
    exact loadEnds_of hi ht whole
  · rw [run (.inl hl), loadMore_length (.inr ⟨hl, by rw [hgot]; exact hlen⟩), hl, Bool.or_true]
    rfl
  · rw [exec_load hi ht, loadCmd_tooLong hf h hr hs hl hlen]

end

/-- Settles O32: each opcode's FIRST fragment is refused as `loadCmd` orders its checks, and one that is allowed begins a transfer. -/
theorem firstFragmentsStartATransfer : Obligations.FirstFragmentsStartATransfer := by
  unfold Obligations.FirstFragmentsStartATransfer
  intro s w c h d b more fresh starts refused hf hs
  refine ⟨fun ht => ⟨fun hready hok => ?pricking, fun hbad => ?prickingHeld, fun hnot hok => ?prickingDown⟩,
    fun ht => ⟨fun hready hok => ?table, fun hbad => ?tableRefused⟩, fun ht => ⟨fun hready hok => ?firmware, fun hbad => ?firmwareRefused⟩⟩
  case pricking => exact exec_load_inline (i := .prickingLoad w) rfl ht hf hok hs (by simpa [rowPrickingLoad] using hready) (by simp [rowPrickingLoad]) rfl
  case prickingHeld => exact exec_load_held (i := .prickingLoad w) rfl ht hf hbad
  case prickingDown => exact exec_load_notReady (i := .prickingLoad w) rfl ht hf hok (by simpa [rowPrickingLoad] using hnot)
  case table => exact exec_load_inline (i := .tableLoad w) rfl ht hf hok hs (by simpa [rowTableLoad] using hready) (by simp [rowTableLoad]) rfl
  case tableRefused =>
    by_cases hheld : tableRefused h = true
    · exact exec_load_held (i := .tableLoad w) rfl ht hf hheld
    · have hnot := hbad.resolve_right hheld
      exact exec_load_notReady (i := .tableLoad w) rfl ht hf (Bool.eq_false_iff.2 hheld) (by simpa [rowTableLoad] using hnot)
  case firmware =>
    refine exec_load_inline (i := .fwUpdate w) rfl ht hf (beq_false_of_ne hok) hs ?_ (by simp [rowFwUpdate, h]) rfl
    cases hrec : h.pwr.recovery with
    | true => simpa [rowFwUpdate, h, hrec] using hs
    | false => simpa [rowFwUpdate, h, hrec] using hready.resolve_right (by simp [hrec])
  case firmwareRefused =>
    by_cases hheld : h.fw.state = .programming
    · exact exec_load_held (i := .fwUpdate w) rfl ht hf (beq_iff_eq.2 hheld)
    · have hnot := hbad.resolve_right hheld
      simp only [not_or, Bool.not_eq_true] at hnot
      exact exec_load_notReady (i := .fwUpdate w) rfl ht hf (beq_false_of_ne hheld) (by simp [rowFwUpdate, h, hnot])

/-! ### STAGED loads (R434) -/

/-- A STAGED load that is taken is FIRST and LAST too. -/
theorem staged_firstLast {i : Instr} {r : CmdRow} {ok : Dev → List Byte → Bool} {w : HostWrite} {d : Dev} (hi : loadRow i = some (r, ok, w))
    (ht : taken d r ok w) (hs : ldStaged w.pkt.payload = true) : ldFirst w.pkt.payload = true ∧ ldLast w.pkt.payload = true := by
  have flags : ∀ {n lo hi : Nat}, loadBody n lo hi (heard d) w.pkt.payload = true → fld w.pkt.payload 1 1 = 7 := fun hb => by
    simp only [loadBody, hs, if_true, Bool.and_eq_true, beq_iff_eq] at hb
    exact hb.2.1.1
  have h7 : fld w.pkt.payload 1 1 = 7 := by
    have hb := taken_body ht
    cases i <;> cases hi
    all_goals exact flags hb
  unfold ldFirst ldLast
  rw [h7]
  exact ⟨rfl, rfl⟩

/-- What begins a load touches neither STAGE and DDR5 nor the words in error. -/
theorem loadStart_frame (op : BitVec 16) (d : Dev) :
    let e := loadStart op { dropXfer d with xferLost := false }
    e = { d with xfer := e.xfer, xferLost := e.xferLost, fw := e.fw, pwr := e.pwr } := by
  have hdrop : dropXfer d = { d with xfer := (dropXfer d).xfer, fw := (dropXfer d).fw } := by
    unfold dropXfer
    split <;> rfl
  intro e
  unfold e loadStart
  rw [hdrop]
  split <;> rfl

/-- A staged range is judged, and its bytes are read, on what beginning a load leaves alone. -/
theorem staged_loadStart (op : BitVec 16) (d : Dev) (a n : Nat) :
    let e := loadStart op { dropXfer d with xferLost := false }
    stagedStatus e a n = stagedStatus d a n ∧ ddrPeek e a n = ddrPeek d a n ∧ e.ecc = d.ecc := by
  intro e
  rw [show e = _ from loadStart_frame op d]
  exact ⟨rfl, rfl, rfl⟩

/-- Settles O33: a STAGED load is refused as `loadCmd` orders its checks, and otherwise ends with the bytes that DDR5 delivers. -/
theorem stagedImagesAreCheckedAndPlaced : Obligations.StagedImagesAreCheckedAndPlaced := by
  unfold Obligations.StagedImagesAreCheckedAndPlaced
  intro i r ok w s hi ht c h d b a n held ready e hs
  obtain ⟨hf, hl⟩ := staged_firstLast hi ht hs
  have hheld : held ↔ loadHeld r.op c b h = true := by
    cases i <;> cases hi
    all_goals simp [held, loadHeld, rowPrickingLoad, rowTableLoad, rowFwUpdate, b]
  have hready : ready ↔ (if (h.pwr.recovery && r.op == 0x70) = true then ldStaged b else !stageReady h) = false := by
    cases i <;> cases hi
    case fwUpdate => cases hrec : h.pwr.recovery <;> simp [ready, rowFwUpdate, hrec, b, hs]
    all_goals simp [ready, rowPrickingLoad, rowTableLoad]
  have refusedStage : ready → inRegions h regsStage a n = false → stagedStatus h a n ≠ none := fun _ hin hno => by
    rw [(stagedStatus_none.1 hno).2] at hin
    exact absurd hin (by decide)
  refine ⟨fun hh => ?held, fun hno hnot => ?notReady, fun hno hgo hin => ?outside, fun hno hgo hin he => ?staged, fun he hk => ?peeks⟩
  case held => exact exec_load_held hi ht hf (hheld.1 hh)
  case notReady =>
    exact exec_load_notReady hi ht hf (Bool.eq_false_iff.2 (mt hheld.2 hno)) (by simpa using mt hready.2 hnot)
  case outside =>
    rw [exec_load hi ht, loadCmd_outside hf (Bool.eq_false_iff.2 (mt hheld.2 hno)) (hready.1 hgo) hs (refusedStage hgo hin)]
  case staged =>
    have hst : stagedStatus h a n = none := by
      refine stagedStatus_none.2 ⟨?_, hin⟩
      exact hgo.1
    obtain ⟨hstatus, hpeek, hecc⟩ := staged_loadStart r.op h a n
    have run := exec_load hi ht
    rw [loadCmd_staged hf (Bool.eq_false_iff.2 (mt hheld.2 hno)) (hready.1 hgo) hs hl hst,
      loadStaged_reads (hstatus.trans hst) (hecc.trans he), hpeek] at run
    have hstart : loadStart r.op d = e := by
      show loadStart r.op d = if r.op = 0x70 then fwStart d else d
      unfold loadStart
      split <;> rfl
    rw [← hstart]
    exact loadEnds_of hi ht run
  case peeks =>
    unfold ddrPeek
    rw [if_pos hk, peek_plain _ _ _ he]

end Sys2Proof.Machine

namespace Sys2Proof.Machine

/-! ### In-band job commands (R78, R79, R127, R129, R131) -/

section
variable {r : RxHdr} {k : Pkt} {p : Nat} {s : State}

/-- A refused in-band command counts and leaves jobs, memory, partitions and its channel's job as they were. -/
def InbandRefused (s : State) (r : RxHdr) (i : Instr) : Prop :=
  ∃ u, exec i s = .next u ∧ u.committed = s.committed ∧ u.dev.jobs = (rxSeen s.dev r).jobs ∧ u.dev.mem = (rxSeen s.dev r).mem
    ∧ u.dev.parts = (rxSeen s.dev r).parts ∧ (rxOf u.dev r.port).inband = (rxOf (rxSeen s.dev r) r.port).inband + 1
    ∧ (vcOf u.dev r.port r.vc).job = (vcOf (rxSeen s.dev r) r.port r.vc).job

theorem inbandRefused_of {i : Instr} {op why seq : Nat}
    (h : exec i s = .next { s with dev := refuseInband (rxSeen s.dev r) r.port r.vc op why seq }) : InbandRefused s r i := by
  obtain ⟨hjobs, hmem, hparts, hcount, hvc⟩ := refuseInband_frame (rxSeen s.dev r) r.port r.vc op why seq
  exact ⟨_, h, rfl, hjobs, hmem, hparts, hcount, hvc r.vc⟩

/-- What a JOB_BEGIN that passes its checks does (R127, R129, R131). -/
def jobBegins (c : Units) (d : Dev) (x v p : Nat) (b : List Byte) : Dev :=
  if vcMode d x v != 2 then d
  else if (heldJob d p (BitVec.ofNat 32 (fld b 0 4))).isSome then
    let d := refuseInband d x v 0x0022 7 (fld b 0 4)
    if (vcOf d x v).job.isSome then closeJob c d x v else d
  else beginJob c d x v p b ((vcOf d x v).frame.getD d.clk.time)

theorem exec_jobBegin (h : inbandTaken s.committed s.dev r 0x0022 16 k beginOk p) :
    exec (.jobBegin r k) s = .next { s with dev := jobBegins s.committed (rxSeen s.dev r) r.port r.vc p k.payload } := by
  show execJobBegin r k s = _
  unfold execJobBegin
  rw [onDev_eq, inbandPacket_taken _ _ _ _ _ _ _ _ _ h]
  rfl

theorem jobBegins_otherMode {c : Units} {d : Dev} {x v p : Nat} {b : List Byte} (h : vcMode d x v ≠ 2) : jobBegins c d x v p b = d :=
  if_pos (bne_iff_ne.2 h)

theorem jobBegins_held {c : Units} {d : Dev} {x v p : Nat} {b : List Byte} (hm : vcMode d x v = 2)
    (hh : heldJob d p (BitVec.ofNat 32 (fld b 0 4)) ≠ none) :
    jobBegins c d x v p b =
      let e := refuseInband d x v 0x0022 7 (fld b 0 4)
      if (vcOf e x v).job.isSome then closeJob c e x v else e :=
  (if_neg (by simp [hm])).trans (if_pos (Option.isSome_iff_ne_none.2 hh))

theorem jobBegins_opens {c : Units} {d : Dev} {x v p : Nat} {b : List Byte} (hm : vcMode d x v = 2)
    (hh : heldJob d p (BitVec.ofNat 32 (fld b 0 4)) = none) :
    jobBegins c d x v p b = beginJob c d x v p b ((vcOf d x v).frame.getD d.clk.time) :=
  (if_neg (by simp [hm])).trans (if_neg (by simp [hh]))

theorem exec_jobEnd (h : inbandTaken s.committed s.dev r 0x0023 4 k (fun _ => true) p) :
    exec (.jobEnd r k) s = .next { s with dev := namedJob (rxSeen s.dev r) r.port r.vc 0x0023 k.payload (fun _ =>
      if vcMode (rxSeen s.dev r) r.port r.vc = 2 then closeJob s.committed (rxSeen s.dev r) r.port r.vc else rxSeen s.dev r) } := by
  show execJobEnd r k s = _
  unfold execJobEnd
  rw [onDev_eq, inbandPacket_taken _ _ _ _ _ _ _ _ _ h]
  simp only [beq_iff_eq]

/-- The row that a mark stands at: the next of the job (R131). -/
def markRow (j : Job) : Nat := match j.coded with | some q => q.row | none => j.next

/-- A job with a mark kept. -/
def withMark (row : Nat) (mark : Word) (j : Job) : Job := { j with marks := j.marks ++ [(row, mark)] }

theorem exec_pageMark (h : inbandTaken s.committed s.dev r 0x0024 8 k (fun _ => true) p) :
    exec (.pageMark r k) s = .next { s with dev := namedJob (rxSeen s.dev r) r.port r.vc 0x0024 k.payload (fun j =>
      setJob (notePkt (rxSeen s.dev r) j.id) j.id (withMark (markRow j) (BitVec.ofNat 32 (fld k.payload 4 4)))) } := by
  show execPageMark r k s = _
  unfold execPageMark
  rw [onDev_eq, inbandPacket_taken _ _ _ _ _ _ _ _ _ h]
  rfl

theorem namedJob_none {d : Dev} {x v op : Nat} {b : List Byte} {f : Job → Dev} (h : openJobOf d x v = none) :
    namedJob d x v op b f = refuseInband d x v op 6 (fld b 0 4) := by
  unfold namedJob
  rw [h]

theorem namedJob_other {d : Dev} {x v op : Nat} {b : List Byte} {f : Job → Dev} {j : Job} (h : openJobOf d x v = some j)
    (hs : j.seq.toNat ≠ fld b 0 4) : namedJob d x v op b f = refuseInband d x v op 5 (fld b 0 4) := by
  unfold namedJob
  rw [h]
  exact if_pos (bne_iff_ne.2 hs)

theorem namedJob_same {d : Dev} {x v op : Nat} {b : List Byte} {f : Job → Dev} {j : Job} (h : openJobOf d x v = some j)
    (hs : j.seq.toNat = fld b 0 4) : namedJob d x v op b f = f j := by
  unfold namedJob
  rw [h]
  exact if_neg (by simp [hs])

end

/-- Settles O49: each in-band command acts as its meaning does past the checks, and a refusal is `refuseInband`. -/
theorem inbandCommandsActOnTheirJob : Obligations.InbandCommandsActOnTheirJob := by
  unfold Obligations.InbandCommandsActOnTheirJob
  intro r k p s c d b seq left refused
  refine ⟨fun h => ?begins, fun h => ⟨fun j hj => ⟨fun hs => ?ends, fun hs => ?endsOther⟩, fun hj => ?endsNone⟩,
    fun h => ⟨fun j hj => ?marks, fun hj => ?marksNone⟩⟩
  case begins =>
    intro e
    have run := exec_jobBegin h
    refine ⟨fun hm => ?_, fun hm hh => ?_, fun hm hh hn => ?_, fun hm hh hn => ?_⟩
    · rw [run, jobBegins_otherMode hm]
    · rw [jobBegins_opens hm hh] at run
      obtain ⟨j, hopened, hkind, hk, hflags, hstamp, -, hregs, hheight, -⟩ := openJob_opened c e r.port r.vc p (fld b 4 1) (fld b 5 1) (fld b 6 1) seq
        (some (fld b 8 4, fld b 12 4)) ((vcOf d r.port r.vc).frame.getD d.clk.time) (lineX e r.port r.vc)
      exact ⟨_, j, run, rfl, hopened, hkind, hk, hflags, hheight, hstamp, hregs⟩
    · obtain ⟨-, -, -, -, hjob⟩ := refuseInband_frame d r.port r.vc 0x0022 7 (fld b 0 4)
      have kept : jobBegins c d r.port r.vc p b = refuseInband d r.port r.vc 0x0022 7 (fld b 0 4) :=
        (jobBegins_held hm hh).trans (if_neg (by rw [hjob r.vc, hn]; decide))
      exact inbandRefused_of (run.trans (by rw [kept]))
    · obtain ⟨-, -, -, -, hjob⟩ := refuseInband_frame d r.port r.vc 0x0022 7 (fld b 0 4)
      have closes : jobBegins c d r.port r.vc p b = closeJob c (refuseInband d r.port r.vc 0x0022 7 (fld b 0 4)) r.port r.vc :=
        (jobBegins_held hm hh).trans (if_pos (by rw [hjob r.vc]; exact Option.isSome_iff_ne_none.2 hn))
      rw [run, closes]
  case ends => rw [exec_jobEnd h, namedJob_same hj hs]
  case endsOther => exact inbandRefused_of ((exec_jobEnd h).trans (by rw [namedJob_other hj hs]))
  case endsNone => exact inbandRefused_of ((exec_jobEnd h).trans (by rw [namedJob_none hj]))
  case marks =>
    intro row
    refine ⟨fun hs => ?_, fun hs => ?_⟩
    · rw [exec_pageMark h, namedJob_same hj hs]
      rfl
    · exact inbandRefused_of ((exec_pageMark h).trans (by rw [namedJob_other hj hs]))
  case marksNone => exact inbandRefused_of ((exec_pageMark h).trans (by rw [namedJob_none hj]))

end Sys2Proof.Machine

namespace Sys2Proof.Machine

/-! ### Words and slab operations are offered at their cycle (R62, R63, R71, R174, R204) -/

/-- A command for an OPS word issues the word of its partition, class and function. -/
theorem exec_opsWord {i : Instr} {p k cls op : Nat} (h : opsWord i = some (p, k, cls, op)) (s : State) :
    p < 8 ∧ exec i s = .next { s with dev := issueWord s.committed s.dev p k cls op } := by
  cases i <;> cases h
  all_goals exact ⟨Fin.isLt _, rfl⟩

/-- A replay word that is not offered leaves idle what a DDR5 move would take (R62). -/
theorem idleWord_eq (d : Dev) (p w : Nat) (desc : List Byte) :
    idleWord d p w desc = if wClass w = 3 ∧ 3 ≤ wOp w then (takeDdr d p d.clk.offset (moveD desc).size).1 else d := by
  unfold idleWord
  simp only [Bool.and_eq_true, beq_iff_eq, decide_eq_true_eq]

section
variable {c : Units} {d : Dev} {p k cls op w : Nat}

/-- The device at the cycle in which a word is offered, the word marked and read, and what the read met. -/
def wordRead (c : Units) (d : Dev) (p k w : Nat) : Dev × Bool :=
  readWord c (markIssued (reachIssue c d (offerAt d p w)) p k none) (imgOf d p) p k

/-- A word is to be offered: it is the one that the command names, not judged before in this Stitch, and its cycle has not passed. -/
def WordDue (d : Dev) (p k cls op w : Nat) : Prop :=
  wClass w = cls ∧ wOp w = op ∧ (partOf d p).issued.contains (k, none) = false ∧ d.clk.offset ≤ offerAt d p w

theorem not_wordDue_iff :
    ¬ WordDue d p k cls op w ↔
      (wClass w != cls || wOp w != op || (partOf d p).issued.contains (k, none) || decide (offerAt d p w < d.clk.offset)) = true := by
  simp only [WordDue, Bool.or_eq_true, bne_iff_ne, decide_eq_true_eq, ← Bool.not_eq_true, ← Nat.not_lt]
  tauto

/-- A replay word whose guard has not tripped is not offered (R62). -/
def WordIdle (c : Units) (d : Dev) (p k w : Nat) : Prop :=
  wReplay w = true ∧ replayDue (wordRead c d p k w).1 (imgOf d p) p w = false

theorem wordIdle_iff : WordIdle c d p k w ↔ (wReplay w && !replayDue (wordRead c d p k w).1 (imgOf d p) p w) = true := by
  rw [WordIdle, Bool.and_eq_true, Bool.not_eq_true']

variable (hi : issuing c d p = true) (ho : opAt (imgOf d p) k = some w)
include hi ho

theorem issueWord_notDue (h : ¬ WordDue d p k cls op w) : issueWord c d p k cls op = d :=
  (issueWord_cases c d p k cls op w hi ho).trans (if_pos (not_wordDue_iff.1 h))

theorem issueWord_due (h : WordDue d p k cls op w) :
    issueWord c d p k cls op =
      if (wReplay w && !replayDue (wordRead c d p k w).1 (imgOf d p) p w) = true then
        idleWord (wordRead c d p k w).1 p w (descAt (imgOf d p) (wDesc w))
      else if (wordRead c d p k w).2 = true then fault (wordRead c d p k w).1 p (offerAt d p w) 1 k
      else
        offer c (readDescs c (wordRead c d p k w).1 (imgOf d p) p (wDescs w)) p k w (descAt (imgOf d p) (wDesc w)) (auxOf (imgOf d p) w) (wDur w)
          none :=
  (issueWord_cases c d p k cls op w hi ho).trans (if_neg (mt not_wordDue_iff.2 (not_not.2 h)))

theorem issueWord_idle (h : WordDue d p k cls op w) (hidle : WordIdle c d p k w) (r : Dev) (hr : (wordRead c d p k w).1 = r) :
    issueWord c d p k cls op =
      if wClass w = 3 ∧ 3 ≤ wOp w then (takeDdr r p r.clk.offset (moveD (descAt (imgOf d p) (wDesc w))).size).1 else r := by
  rw [issueWord_due hi ho h, if_pos (wordIdle_iff.1 hidle), idleWord_eq, hr]

theorem issueWord_faulted (h : WordDue d p k cls op w) (hidle : ¬ WordIdle c d p k w) (hbad : (wordRead c d p k w).2 = true) :
    issueWord c d p k cls op = fault (wordRead c d p k w).1 p (offerAt d p w) 1 k :=
  ((issueWord_due hi ho h).trans (if_neg (mt wordIdle_iff.2 hidle))).trans (if_pos hbad)

theorem issueWord_offered (h : WordDue d p k cls op w) (hidle : ¬ WordIdle c d p k w) (hbad : ¬ (wordRead c d p k w).2 = true) :
    issueWord c d p k cls op =
      offer c (readDescs c (wordRead c d p k w).1 (imgOf d p) p (wDescs w)) p k w (descAt (imgOf d p) (wDesc w)) (auxOf (imgOf d p) w) (wDur w)
        none :=
  ((issueWord_due hi ho h).trans (if_neg (mt wordIdle_iff.2 hidle))).trans (if_neg hbad)

end

/-! The cycle of an offer. -/

/-- Reads of a cycle in which nothing is due do nothing. -/
theorem drainReads_idle (c : Units) (t n : Nat) (d : Dev) (h : ∀ v ∈ d.agenda, t < v.at_) : drainReads c t n d = d := by
  cases n with
  | zero => rfl
  | succ n =>
    rw [drainReads]
    split
    · rfl
    · rename_i v rest hv
      rw [if_pos (by simp [h v (by rw [hv]; exact List.mem_cons_self)])]

/-- With nothing due up to it, time passes to the cycle of an offer. -/
theorem reachIssue_offset (c : Units) (d : Dev) (t : Nat) (h : ∀ v ∈ d.agenda, t < v.at_) (ht : d.clk.offset ≤ t) :
    (reachIssue c d t).clk.offset = t := by
  have hidle : ∀ v ∈ d.agenda, t ≤ v.at_ := fun v hv => Nat.le_of_lt (h v hv)
  have hagenda : (advanceTo c d t).agenda = d.agenda := by
    rw [advanceTo_none c d t hidle, tamboursDue_tambours c (elapse d _), elapse_clk]
  unfold reachIssue
  rw [drainReads_idle c t _ _ (by rw [hagenda]; exact h)]
  exact advanceTo_idle c d t hidle ht

theorem ReportsOnly.clk {d e : Dev} (h : ReportsOnly d e) : e.clk = d.clk := by
  rw [show e = _ from h]

theorem markIssued_clk (d : Dev) (p k : Nat) (o : Option Nat) : (markIssued d p k o).clk = d.clk := rfl

/-- With nothing due up to it, a word is read at the cycle of its offer. -/
theorem wordRead_offset (c : Units) (d : Dev) (p k w : Nat) (h : ∀ v ∈ d.agenda, offerAt d p w < v.at_) (ht : d.clk.offset ≤ offerAt d p w) (r : Dev)
    (hr : (wordRead c d p k w).1 = r) : r.clk.offset = offerAt d p w := by
  have hread := readWord_reports c (markIssued (reachIssue c d (offerAt d p w)) p k none) (imgOf d p) p k
  rw [← hr, wordRead, hread.clk, markIssued_clk, reachIssue_offset c d _ h ht]

/-- The sequencer's reads of descriptors touch reports only. -/
theorem readDescs_reports (c : Units) (d : Dev) (img : List Byte) (p : Nat) (is : List Nat) : ReportsOnly d (readDescs c d img p is) := by
  unfold readDescs
  exact foldl_inv (ReportsOnly d) _ is (fun e i _ he => he.trans (eccRead_reports _ _ _ _ _)) d (ReportsOnly.refl d)

theorem readDescs_clk (c : Units) (d : Dev) (img : List Byte) (p : Nat) (is : List Nat) : (readDescs c d img p is).clk = d.clk :=
  (readDescs_reports c d img p is).clk

/-! The operations that a slab step expands. -/

section
variable {i : Instr} {s : State} {p k di w offset slab dur : Nat} {ok : Bool} (h : slabRow s.dev i = some (p, k, di, w, offset, slab, dur, ok))
include h

/-- A command for such an operation issues it from its descriptor, with the slab and OFFSET that the descriptor of its class names. -/
theorem exec_slabRow :
    p < 8 ∧ exec i s = .next { s with dev := issueSlabWork s.committed s.dev p k di w (slabClass i) dur ok }
      ∧ slabPlace (imgOf s.dev p) (slabClass i) di = (slab, offset) := by
  cases i <;> cases h
  all_goals exact ⟨Fin.isLt _, rfl, rfl⟩

end

/-- An operation of a slab step is to be offered. -/
def SlabDue (d : Dev) (p k di kind offset slab : Nat) (ok : Bool) (t : StepSt) : Prop :=
  t.slab = slab ∧ slabKind (imgOf d p) di = some kind ∧ ok = true ∧ (partOf d p).issued.contains (k, some di) = false
    ∧ d.clk.offset ≤ t.issue + offset ∧ t.issue + offset < periodOf d

section
variable {c : Units} {d : Dev} {p k di w kind dur offset slab : Nat} {ok : Bool} {t : StepSt}

theorem not_slabDue_iff :
    ¬ SlabDue d p k di kind offset slab ok t ↔
      (t.slab != slab || slabKind (imgOf d p) di != some kind || !ok || (partOf d p).issued.contains (k, some di)
        || decide (t.issue + offset < d.clk.offset) || decide (periodOf d ≤ t.issue + offset)) = true := by
  simp only [SlabDue, Bool.or_eq_true, bne_iff_ne, decide_eq_true_eq, Bool.not_eq_true', ← Bool.not_eq_true, ← Nat.not_lt]
  tauto

/-- Nothing is expanded where the partition does not issue or the slab has no step. -/
theorem issueSlabWork_none (h : issuing c d p = false ∨ (partOf d p).steps.find? (fun t => t.op == k) = none) :
    issueSlabWork c d p k di w kind dur ok = d := by
  unfold issueSlabWork
  rcases h with h | h
  · rw [h]; rfl
  · split
    · rfl
    · rw [h]

variable (hi : issuing c d p = true) (ht : (partOf d p).steps.find? (fun t => t.op == k) = some t)
  (hplace : slabPlace (imgOf d p) kind di = (slab, offset))
include hi ht hplace

theorem issueSlabWork_notDue (h : ¬ SlabDue d p k di kind offset slab ok t) : issueSlabWork c d p k di w kind dur ok = d := by
  rw [issueSlabWork_cases c d p k di w kind dur ok t hi ht, hplace]
  exact if_pos (not_slabDue_iff.1 h)

theorem issueSlabWork_due (h : SlabDue d p k di kind offset slab ok t) :
    issueSlabWork c d p k di w kind dur ok =
      offer c (readDescs c (markIssued (reachIssue c d (t.issue + offset)) p k (some di)) (imgOf d p) p [di]) p k w (descAt (imgOf d p) di) [] dur
        (some k) := by
  rw [issueSlabWork_cases c d p k di w kind dur ok t hi ht, hplace]
  exact if_neg (mt not_slabDue_iff.2 (not_not.2 h))

end

/-- Settles O54: a word that is due is idle, faulted or offered, and an offer is refused or accepted; the same of a slab step's operations. -/
theorem wordsIssueAtTheirCycle : Obligations.WordsIssueAtTheirCycle := by
  unfold Obligations.WordsIssueAtTheirCycle
  intro i s c d left
  refine ⟨fun p k cls op h => ?words, fun p k di w offset slab dur ok h => ?slabs⟩
  case words =>
    obtain ⟨hp, hexec⟩ := exec_opsWord h s
    refine ⟨fun hno => by rw [hexec, issueWord_none _ _ _ _ _ _ hno], fun w hi ho => ?_⟩
    intro at_ due m r bad idle e cycles
    refine ⟨fun hd => ?notDue, fun hd hid => ?idle, fun hd hid hbad => ?bad, fun hd hid hbad => ⟨fun hr => ?refused, fun hr => ?accepted⟩,
      fun hfree hd => ?cycle⟩
    case notDue => rw [hexec, issueWord_notDue hi ho hd]
    case idle => exact hexec.trans (congrArg (fun x => Host.Outcome.next (left x)) (issueWord_idle hi ho hd hid r rfl))
    case bad => exact hexec.trans (congrArg (fun x => Host.Outcome.next (left x)) (issueWord_faulted hi ho hd hid hbad))
    case refused =>
      rw [hexec, issueWord_offered hi ho hd hid hbad]
      exact congrArg (fun x => Host.Outcome.next (left x)) (offer_refused _ _ _ _ _ _ _ _ _ hr)
    case accepted =>
      refine ⟨_, hexec, ?_⟩
      rw [issueWord_offered hi ho hd hid hbad]
      exact offer_accepted _ _ _ _ _ _ _ _ _ hp hr
    case cycle =>
      obtain ⟨-, -, -, hnow⟩ := hd
      have hr : r.clk.offset = at_ := wordRead_offset c d p k w hfree hnow r rfl
      have he : e.clk = r.clk := readDescs_clk c r (imgOf d p) p (wDescs w)
      exact ⟨hr, by rw [he, hr]⟩
  case slabs =>
    obtain ⟨hp, hexec, hplace⟩ := exec_slabRow h
    intro step
    refine ⟨fun hno => by rw [hexec, issueSlabWork_none hno], fun t hi ht => ?_⟩
    intro at_ due e
    refine ⟨fun hd => ?notDue, fun hd hr => ?refused, fun hd hr => ?accepted⟩
    case notDue => rw [hexec, issueSlabWork_notDue hi ht hplace (show ¬ SlabDue d p k di (slabClass i) offset slab ok t from hd)]
    case refused =>
      rw [hexec, issueSlabWork_due hi ht hplace (show SlabDue d p k di (slabClass i) offset slab ok t from hd), offer_refused _ _ _ _ _ _ _ _ _ hr]
    case accepted =>
      refine ⟨_, hexec, ?_⟩
      rw [issueSlabWork_due hi ht hplace (show SlabDue d p k di (slabClass i) offset slab ok t from hd)]
      exact offer_accepted _ _ _ _ _ _ _ _ _ hp hr

end Sys2Proof.Machine

namespace Sys2Proof.Machine

/-! ### Operations complete at their cycle or are recorded LATE (R63, R174, R201) -/

/-- The device as the first entry of its agenda comes due: the rest of the agenda stays, and time has passed to the cycle. -/
def comeDue (d : Dev) (a : Nat) (rest : List Ev) : Dev := elapse { d with agenda := rest } (a - d.clk.offset)

theorem comeDue_eq (d : Dev) (a : Nat) (rest : List Ev) : comeDue d a rest = { d with agenda := rest, clk := (comeDue d a rest).clk } :=
  elapse_clk _ _

theorem comeDue_offset {d : Dev} {a : Nat} (rest : List Ev) (h : d.clk.offset ≤ a) : (comeDue d a rest).clk.offset = a :=
  (elapse_offset _ _).trans (Nat.add_sub_cancel' h)

@[simp] theorem comeDue_agenda (d : Dev) (a : Nat) (rest : List Ev) : (comeDue d a rest).agenda = rest := by rw [comeDue_eq]
@[simp] theorem comeDue_ecc (d : Dev) (a : Nat) (rest : List Ev) : (comeDue d a rest).ecc = d.ecc := by rw [comeDue_eq]
@[simp] theorem comeDue_mem (d : Dev) (a : Nat) (rest : List Ev) : (comeDue d a rest).mem = d.mem := by rw [comeDue_eq]
@[simp] theorem comeDue_parts (d : Dev) (a : Nat) (rest : List Ev) : (comeDue d a rest).parts = d.parts := by rw [comeDue_eq]
@[simp] theorem comeDue_bobs (d : Dev) (a : Nat) (rest : List Ev) : (comeDue d a rest).bobs = d.bobs := by rw [comeDue_eq]
@[simp] theorem comeDue_flightOf (d : Dev) (a : Nat) (rest : List Ev) (id : Nat) : flightOf (comeDue d a rest) id = flightOf d id := by
  rw [comeDue_eq]; rfl
@[simp] theorem comeDue_bobOf (d : Dev) (a : Nat) (rest : List Ev) (n : Nat) : bobOf (comeDue d a rest) n = bobOf d n := by rw [comeDue_eq]; rfl
@[simp] theorem comeDue_partOf (d : Dev) (a : Nat) (rest : List Ev) (p : Nat) : partOf (comeDue d a rest) p = partOf d p := by rw [comeDue_eq]; rfl
@[simp] theorem comeDue_imgOf (d : Dev) (a : Nat) (rest : List Ev) (p : Nat) : imgOf (comeDue d a rest) p = imgOf d p := by rw [comeDue_eq]; rfl

/-- Nothing of an operation's Bobbin keeps its steps from being taken (R204). -/
def FlightRuns (d : Dev) (f : Flight) : Prop := ∀ n, f.bob = some n → (bobOf d n).accepting = true

section
variable {c : Units} {d : Dev} {f : Flight} {a t pr o : Nat} {k : Act} {rest : List Ev}

/-- A step that comes first on the agenda is taken at its cycle. -/
theorem drainTo_takes (ha : d.agenda = ⟨a, o, f.id, k⟩ :: rest) (hk : (k == .publish || k == .refill || k == .govern) = false)
    (hk2 : (k == .tambours) = false) (hf : flightOf d f.id = some f) (hr : FlightRuns d f) (hat : a < t) (n : Nat) :
    drainTo c t (n + 1) d = drainTo c t n (runAct c (comeDue d a rest) f k) := by
  rw [drainTo_cons c t n d _ rest ha hat]
  exact congrArg (drainTo c t n)
    (runEv_accepting c (comeDue d a rest) f a o k hk hk2 (by simpa using hf) (fun n hn => by simpa using hr n hn))

/-- What the steps here can touch beside time: the agenda, memory, partitions and Bobbins. -/
def StepFrame (d X : Dev) : Prop :=
  X = { d with clk := X.clk, agenda := X.agenda, mem := X.mem, parts := X.parts, bobs := X.bobs }

theorem StepFrame.trans {d X Y : Dev} (h : StepFrame d X) (h2 : StepFrame X Y) : StepFrame d Y := by
  unfold StepFrame at *
  rw [h] at h2
  exact h2

theorem StepFrame.flightOf {d X : Dev} (h : StepFrame d X) (id : Nat) : flightOf X id = flightOf d id := by
  rw [show X = _ from h]
  rfl

theorem comeDue_frame (d : Dev) (a : Nat) (rest : List Ev) : StepFrame d (comeDue d a rest) := by
  unfold StepFrame
  rw [comeDue_eq]

/-- Time passes until an operation completes: it leaves, with its entries of the agenda; beside what comes due at a Tambour the steps before
have left memory, partitions and Bobbins as X has them. -/
def CompletesWith (s : State) (f : Flight) (t : Nat) (rest : List Ev) (X : Dev) : Prop :=
  ∃ u, exec .operationComplete s = .next { s with dev := u }
    ∧ u = { s.dev with
        clk := u.clk, tambs := u.tambs, flights := s.dev.flights.filter (fun g => g.id != f.id), agenda := rest.filter (fun v => v.fl != f.id),
        mem := X.mem, parts := X.parts, bobs := X.bobs }
    ∧ u.clk.offset = t ∧ ((∀ i, i < 4 → (tambOf s.dev i).edge = none ∧ (tambOf s.dev i).trigAt = none) → u.tambs = s.dev.tambs)

/-- Where the steps before it lead to an operation's end, the operation completes at that cycle and leaves what the steps made. -/
theorem operationComplete_after {s : State} {X : Dev} (hclk : clocked s.dev = true) (hfirst : firstAt s.dev (fun a => a == .finish) = some t)
    (hper : t < periodOf s.dev) (hf : flightOf s.dev f.id = some f) (hrest : ∀ v ∈ rest, t < v.at_)
    (hsteps : ∃ n, drainTo s.committed t fuel s.dev = drainTo s.committed t n X) (hframe : StepFrame s.dev X)
    (hag : X.agenda = ⟨t, pr, f.id, .finish⟩ :: rest) (hoff : X.clk.offset ≤ t) :
    CompletesWith s f t rest X := by
  obtain ⟨n, hsteps⟩ := hsteps
  have hidle : drainTo s.committed t n X = X := by
    refine drainTo_none s.committed t n X (fun v hv => ?_)
    rw [hag] at hv
    rcases List.mem_cons.1 hv with rfl | hv
    · exact Nat.le_refl t
    · exact Nat.le_of_lt (hrest v hv)
  obtain ⟨k, m, hlast, hk, hm⟩ :=
    drainTo_last s.committed X f X.clk.offset t pr rest hoff hrest hag ((hframe.flightOf f.id).trans hf) rfl
  refine ⟨_, operationComplete_runs s t hclk hfirst hper, ?_⟩
  rw [advanceTo, hsteps, hidle, hlast]
  unfold StepFrame at hframe
  refine ⟨?_, hk, fun htambs => ?_⟩
  · conv_lhs => rw [hframe]
  · have hX : X.tambs = s.dev.tambs := by rw [hframe]
    refine (hm fun i hi => ?_).trans hX
    rw [tambOf, hX]
    exact htambs i hi

end

/-! What the steps do. -/

/-- A write of one stretch of memory without words in error. -/
theorem runAct_put_one (c : Units) (d : Dev) (f : Flight) (k : Nat) (bytes : List Byte) (he : d.ecc = []) (hb : bytes ≠ []) :
    runAct c d f (.put [(k, bytes)]) = { d with mem := Memory.setAll d.mem k bytes } :=
  store_plain c d (whoOf f) k bytes he hb

section
variable {d : Dev} {f : Flight} {n lim : Nat} {x : Nat} {r : Bool}

theorem runAct_guard (c : Units) (hc : wClass f.word.toNat = 10) : runAct c d f .whole = actGuard d f := by
  show actWhole c d f = _
  rw [actWhole, hc]
  rfl

/-- A GUARD word does nothing, or touches the trips of its Bobbin and of its partition. -/
theorem actGuard_sets (d : Dev) (f : Flight) : actGuard d f = d ∨ ∃ n b p, actGuard d f = setPart (setBob d n b) f.part p := by
  unfold actGuard
  dsimp only
  split
  · exact .inl rfl
  · split
    · exact .inl rfl
    · exact .inr ⟨_, _, _, rfl⟩

theorem actGuard_frame (d : Dev) (f : Flight) : StepFrame d (actGuard d f) := by
  rcases actGuard_sets d f with h | ⟨n, b, p, h⟩ <;> rw [h] <;> rfl

@[simp] theorem actGuard_agenda (d : Dev) (f : Flight) : (actGuard d f).agenda = d.agenda := by
  rcases actGuard_sets d f with h | ⟨n, b, p, h⟩ <;> simp [h]

@[simp] theorem actGuard_clk (d : Dev) (f : Flight) : (actGuard d f).clk = d.clk := by
  rcases actGuard_sets d f with h | ⟨n, b, p, h⟩ <;> simp [h]

@[simp] theorem actGuard_mem (d : Dev) (f : Flight) : (actGuard d f).mem = d.mem := by
  rcases actGuard_sets d f with h | ⟨n, b, p, h⟩ <;> simp [h]

variable (hb : f.bob = some n) (hg : guardEntry (imgOf d f.part) (bitsOf f.word.toNat 5 0) = some (x, r, lim))
include hb hg

theorem actGuard_within (h : (assoc (bobOf d n).guards (bitsOf f.word.toNat 5 0)).getD 0 ≤ lim) : actGuard d f = d := by
  unfold actGuard
  simp only [hb, hg, Option.getD_some]
  rw [if_pos h]

theorem actGuard_trips (h : lim < (assoc (bobOf d n).guards (bitsOf f.word.toNat 5 0)).getD 0) :
    actGuard d f =
      setPart
        (setBob d n (fun b => { b with
          tripNow := b.tripNow ||| BitVec.ofNat 64 (2 ^ bitsOf f.word.toNat 5 0), replay := b.replay + 1 }))
        f.part
        (fun p => { p with
          trips := p.trips ++ [(bitsOf f.word.toNat 5 0, (assoc (bobOf d n).guards (bitsOf f.word.toNat 5 0)).getD 0)] }) := by
  unfold actGuard
  simp only [hb, hg, Option.getD_some]
  rw [if_neg (Nat.not_le.2 h)]

theorem bobOf_actGuard_trips (hn : n < 8) (h : lim < (assoc (bobOf d n).guards (bitsOf f.word.toNat 5 0)).getD 0) :
    bobOf (actGuard d f) n = { bobOf d n with
      tripNow := (bobOf d n).tripNow ||| BitVec.ofNat 64 (2 ^ bitsOf f.word.toNat 5 0), replay := (bobOf d n).replay + 1 } := by
  rw [actGuard_trips hb hg h]
  exact bobOf_setBob d n _ hn

theorem partOf_actGuard_trips (hp : f.part < 8) (h : lim < (assoc (bobOf d n).guards (bitsOf f.word.toNat 5 0)).getD 0) :
    partOf (actGuard d f) f.part = { partOf d f.part with
      trips := (partOf d f.part).trips ++ [(bitsOf f.word.toNat 5 0, (assoc (bobOf d n).guards (bitsOf f.word.toNat 5 0)).getD 0)] } := by
  rw [actGuard_trips hb hg h]
  exact partOf_setPart (setBob d n _) f.part _ hp

end

/-- LATE is recorded against an operation once (R63). -/
theorem runAct_late (c : Units) (d : Dev) (f : Flight) (h : f.late = false) :
    runAct c d f .late = fault (setFlight d f.id (fun x => { x with late := true })) f.part (f.limit + 1) 2 f.op := by
  show (if f.late = true then d else _) = _
  rw [h]
  rfl

/-- LATE is recorded even of an operation whose Bobbin accepts no word. -/
theorem runEv_late (c : Units) (d : Dev) (f : Flight) (t pr : Nat) (hf : flightOf d f.id = some f) :
    runEv c d ⟨t, pr, f.id, .late⟩ = runAct c d f .late := by
  unfold runEv
  dsimp only
  rw [if_neg (by decide), if_neg (by decide), hf]
  dsimp only
  exact if_neg (by simp)

/-- The write of a one-row LS_COPY waits for the cycle before its end. -/
theorem addEv_first (d : Dev) (a t o pr id : Nat) (k e : Act) (rest : List Ev) (ha : d.agenda = ⟨t, pr, id, e⟩ :: rest) (h : a < t) :
    addEv d a o id k = { d with agenda := ⟨a, o, id, k⟩ :: d.agenda } := by
  rw [addEv, ha, insertEv, if_pos (by simp [Ev.before, h])]

/-- The word of a flight is an LS_COPY of one row of at most 512 bytes on a Bobbin. -/
structure CopiesRow (f : Flight) (n fr de : Nat) : Prop where
  move : wClass f.word.toNat = 3
  copy : wOp f.word.toNat = 0
  bobbin : f.bob = some n
  held : n < 8
  source : placeOf (moveD f.desc).src = .localStore fr
  destination : placeOf (moveD f.desc).dst = .localStore de
  oneRow : (moveD f.desc).rows = 1
  notEmpty : 1 ≤ (moveD f.desc).rowBytes
  oneChunk : (moveD f.desc).rowBytes ≤ 512
  sourceIn : fr + (moveD f.desc).rowBytes ≤ 20971520
  destinationIn : de + (moveD f.desc).rowBytes ≤ 20971520

theorem runAct_chunk_copies (c : Units) {d : Dev} {f : Flight} {n fr de t pr : Nat} {rest : List Ev} (h : CopiesRow f n fr de)
    (hdone : f.done = some t) (hag : d.agenda = ⟨t, pr, f.id, .finish⟩ :: rest) (ht : 0 < t) (hecc : d.ecc = []) :
    runAct c d f (.chunk 0) = { d with
      agenda := ⟨t - 1, 11, f.id, .put [(key (8 + n) de, Memory.getN d.mem (key (8 + n) fr) (moveD f.desc).rowBytes)]⟩ :: d.agenda } := by
  have hchunk := actChunk_copy c d f n fr de t hecc h.copy h.bobbin h.held hdone h.source h.destination h.oneRow h.notEmpty h.oneChunk
    h.sourceIn h.destinationIn
  rw [addEv_first d _ _ _ _ _ _ _ _ hag (Nat.sub_lt ht Nat.one_pos)] at hchunk
  rw [← hchunk]
  show actCycle c d f 0 = _
  rw [actCycle, h.move]
  rfl

/-! Steps and the end behind them. -/

section
variable {s : State} {f : Flight} {a t o pr n : Nat} {rest : List Ev} (hclk : clocked s.dev = true) (hper : t < periodOf s.dev)
  (hf : flightOf s.dev f.id = some f) (hrest : ∀ v ∈ rest, t < v.at_)
include hclk hper hf hrest

/-- From a device that earlier steps have reached, one step and the end behind it. -/
theorem operationComplete_step {Z X : Dev} {k : Act} (hfirst : firstAt s.dev (fun a => a == .finish) = some t)
    (hreach : ∃ n, drainTo s.committed t fuel s.dev = drainTo s.committed t (n + 1) Z) (hZ : StepFrame s.dev Z) (ha : Z.clk.offset ≤ a)
    (hruns : FlightRuns Z f) (hat : a < t) (hag : Z.agenda = ⟨a, o, f.id, k⟩ :: ⟨t, pr, f.id, .finish⟩ :: rest)
    (hk : (k == .publish || k == .refill || k == .govern) = false) (hk2 : (k == .tambours) = false)
    (hX : runAct s.committed (comeDue Z a (⟨t, pr, f.id, .finish⟩ :: rest)) f k = X)
    (hframe : StepFrame (comeDue Z a (⟨t, pr, f.id, .finish⟩ :: rest)) X)
    (hagenda : X.agenda = (comeDue Z a (⟨t, pr, f.id, .finish⟩ :: rest)).agenda)
    (hoff : X.clk = (comeDue Z a (⟨t, pr, f.id, .finish⟩ :: rest)).clk) :
    CompletesWith s f t rest X := by
  obtain ⟨n, hreach⟩ := hreach
  rw [drainTo_takes hag hk hk2 ((hZ.flightOf f.id).trans hf) hruns hat n, hX] at hreach
  have hsoon : X.clk.offset ≤ t := by rw [hoff, comeDue_offset _ ha]; exact Nat.le_of_lt hat
  exact operationComplete_after hclk hfirst hper hf hrest ⟨n, hreach⟩ (hZ.trans ((comeDue_frame _ _ _).trans hframe))
    (hagenda.trans (comeDue_agenda _ _ _)) hsoon

/-- From a device that earlier steps have reached, one write and the end behind it. -/
theorem operationComplete_write {Z : Dev} {k : Nat} {bytes : List Byte} (hfirst : firstAt s.dev (fun a => a == .finish) = some t)
    (hreach : ∃ n, drainTo s.committed t fuel s.dev = drainTo s.committed t (n + 1) Z) (hZ : StepFrame s.dev Z) (ha : Z.clk.offset ≤ a)
    (hruns : FlightRuns Z f) (hat : a < t) (hag : Z.agenda = ⟨a, o, f.id, .put [(k, bytes)]⟩ :: ⟨t, pr, f.id, .finish⟩ :: rest)
    (hecc : Z.ecc = []) (hbytes : bytes ≠ []) :
    CompletesWith s f t rest { Z with mem := Memory.setAll Z.mem k bytes } := by
  have hput := runAct_put_one s.committed (comeDue Z a (⟨t, pr, f.id, .finish⟩ :: rest)) f k bytes (by simpa using hecc) hbytes
  simpa [CompletesWith] using operationComplete_step hclk hper hf hrest hfirst hreach hZ ha hruns hat hag rfl rfl hput rfl rfl rfl

variable (ha : s.dev.clk.offset ≤ a) (hruns : FlightRuns s.dev f)
include ha hruns

theorem operationComplete_put {k : Nat} {bytes : List Byte} (hat : a < t)
    (hag : s.dev.agenda = ⟨a, o, f.id, .put [(k, bytes)]⟩ :: ⟨t, pr, f.id, .finish⟩ :: rest) (hecc : s.dev.ecc = []) (hbytes : bytes ≠ []) :
    CompletesWith s f t rest { s.dev with mem := Memory.setAll s.dev.mem k bytes } :=
  operationComplete_write hclk hper hf hrest (firstAt_second s.dev _ _ rest .finish hag (by simp) rfl) ⟨1073741823, rfl⟩ rfl ha hruns hat hag hecc
    hbytes

theorem operationComplete_guard (hat : a < t) (hag : s.dev.agenda = ⟨a, o, f.id, .whole⟩ :: ⟨t, pr, f.id, .finish⟩ :: rest)
    (hclass : wClass f.word.toNat = 10) :
    CompletesWith s f t rest (actGuard (comeDue s.dev a (⟨t, pr, f.id, .finish⟩ :: rest)) f) :=
  operationComplete_step hclk hper hf hrest (firstAt_second s.dev _ _ rest .finish hag (by simp) rfl) ⟨1073741823, rfl⟩ rfl ha hruns hat hag rfl rfl
    (runAct_guard _ hclass) (actGuard_frame _ f) (actGuard_agenda _ f)
    (actGuard_clk _ f)

/-- The chunk of a one-row LS_COPY puts its write on the agenda, the write is taken, and the end behind it. -/
theorem operationComplete_copy {fr de : Nat} (hcopy : CopiesRow f n fr de) (hdone : f.done = some t) (hat : a + 1 < t)
    (hag : s.dev.agenda = ⟨a, o, f.id, .chunk 0⟩ :: ⟨t, pr, f.id, .finish⟩ :: rest) (hecc : s.dev.ecc = []) :
    CompletesWith s f t rest { s.dev with
      mem := Memory.setAll s.dev.mem (key (8 + n) de) (Memory.getN s.dev.mem (key (8 + n) fr) (moveD f.desc).rowBytes) } := by
  have hread := drainTo_takes (c := s.committed) hag rfl rfl hf hruns (Nat.lt_of_succ_lt hat) 1073741823
  rw [runAct_chunk_copies s.committed hcopy hdone (comeDue_agenda s.dev a _) (by omega) (by simpa using hecc)] at hread
  have hfull : Memory.getN (comeDue s.dev a (⟨t, pr, f.id, .finish⟩ :: rest)).mem (key (8 + n) fr) (moveD f.desc).rowBytes ≠ [] :=
    List.ne_nil_of_length_pos (by rw [getN_length]; exact hcopy.notEmpty)
  have hwrite := operationComplete_write (a := t - 1) hclk hper hf hrest (firstAt_second s.dev _ _ rest .finish hag (by simp) rfl) ⟨_, hread⟩
    ((comeDue_frame s.dev a _).trans rfl) (by rw [comeDue_offset _ ha]; omega)
    (fun m hm => (congrArg Bob.accepting (comeDue_bobOf _ _ _ m)).trans (hruns m hm)) (by omega) (congrArg _ (comeDue_agenda _ _ _)) (by simpa using hecc) hfull
  simpa [CompletesWith] using hwrite

end

/-! The agenda with one entry that comes first. -/

/-- A cycle of a device: what comes due at the Tambours has come before anything else (R81). -/
def cameTo (c : Units) (d : Dev) (t : Nat) : Dev := tamboursDue c (elapse d (t - d.clk.offset))

theorem cameTo_eq {c : Units} {d e : Dev} {t : Nat} (he : cameTo c d t = e) : e = { d with clk := e.clk, tambs := e.tambs } := by
  have htambs := tamboursDue_tambours c (elapse d (t - d.clk.offset))
  unfold TamboursOnly at htambs
  rw [← he, cameTo, htambs, elapse_clk d]

theorem cameTo_offset (c : Units) {d : Dev} {t : Nat} (h : d.clk.offset ≤ t) : (cameTo c d t).clk.offset = t := by
  rw [cameTo, tamboursDue_tambours c (elapse d _), elapse_offset]
  exact Nat.add_sub_cancel' h

section
variable {s : State} {f : Flight} {t pr : Nat} {rest : List Ev} (hclk : clocked s.dev = true) (hper : t < periodOf s.dev)
  (hnow : s.dev.clk.offset ≤ t) (hf : flightOf s.dev f.id = some f) (hrest : ∀ v ∈ rest, t < v.at_)

include hrest in
theorem advanceTo_first (c : Units) {d : Dev} {v : Ev} (hag : d.agenda = v :: rest) (hv : v.at_ = t) : advanceTo c d t = cameTo c d t := by
  refine advanceTo_none c d t (fun w hw => ?_)
  rw [hag] at hw
  rcases List.mem_cons.1 hw with rfl | hw
  · exact Nat.le_of_eq hv.symm
  · exact Nat.le_of_lt (hrest w hw)

variable {e : Dev} (he : cameTo s.committed s.dev t = e)
include hclk hper hnow hf hrest he

theorem operationComplete_first (hag : s.dev.agenda = ⟨t, pr, f.id, .finish⟩ :: rest) :
    exec .operationComplete s = .next { s with
      dev := { e with flights := s.dev.flights.filter (fun g => g.id != f.id), agenda := rest.filter (fun v => v.fl != f.id) } } := by
  have heq := cameTo_eq he
  have hoff := cameTo_offset s.committed hnow
  rw [operationComplete_runs s t hclk (firstAt_head s.dev _ rest .finish hag rfl) hper, advanceTo_first hrest s.committed hag rfl]
  rw [he] at hoff ⊢
  have hleave := drainTo_finish s.committed e f t pr rest fuel (by decide) (by rw [heq]; exact hag) (by rw [heq]; exact hf) hrest
  rw [hleave, elapse_zero e _ (by rw [hoff, Nat.sub_self]), show e.flights = s.dev.flights by rw [heq]]

theorem late_first (hag : s.dev.agenda = ⟨t, pr, f.id, .late⟩ :: rest) (hlate : f.late = false) :
    exec .late s = .next { s with
      dev := fault (setFlight { e with agenda := rest } f.id (fun x => { x with late := true })) f.part (f.limit + 1) 2 f.op } := by
  have heq := cameTo_eq he
  have hoff := cameTo_offset s.committed hnow
  rw [late_runs s t hclk (firstAt_head s.dev _ rest .late hag rfl) hper, advanceTo_first hrest s.committed hag rfl]
  rw [he] at hoff ⊢
  have hrun := drainTo_cons s.committed (t + 1) 1073741823 e ⟨t, pr, f.id, .late⟩ rest (by rw [heq]; exact hag) (Nat.lt_succ_self t)
  have hstay : elapse { e with agenda := rest } (t - e.clk.offset) = { e with agenda := rest } := elapse_zero _ _ (by rw [hoff, Nat.sub_self])
  have hfe : flightOf { e with agenda := rest } f.id = some f := by rw [heq]; exact hf
  rw [show fuel = 1073741823 + 1 from rfl, hrun, hstay, runEv_late s.committed _ f t pr hfe, runAct_late _ _ _ hlate, drainTo_none]
  exact fun v hv => hrest v hv

end

/-- With no end on the agenda nothing completes. -/
theorem operationComplete_none (s : State) (h : clocked s.dev = false ∨ s.dev.agenda.all (fun v => v.act != .finish) = true) :
    exec .operationComplete s = .next s := by
  show execOperationComplete s = _
  unfold execOperationComplete onDev
  rcases h with h | h
  · simp only [h, Bool.false_and]
    split <;> rfl
  · dsimp only
    rw [firstAt_none s.dev .finish h]

/-- With no limit on the agenda nothing is recorded LATE. -/
theorem late_none (s : State) (h : clocked s.dev = false ∨ s.dev.agenda.all (fun v => v.act != .late) = true) : exec .late s = .next s := by
  show execLate s = _
  unfold execLate onDev
  rcases h with h | h
  · simp only [h, Bool.false_and]
    split <;> rfl
  · dsimp only
    rw [firstAt_none s.dev .late h]

/-- Settles O55: the agenda up to the operation's end is run entry by entry, and the end makes it leave. -/
theorem operationsCompleteOrRunLate : Obligations.OperationsCompleteOrRunLate := by
  unfold Obligations.OperationsCompleteOrRunLate
  intro s d left tambsDue
  refine ⟨?complete, ?late, fun f t pr rest hclk hnow hper hf hrest => ?_⟩
  case complete => exact operationComplete_none s
  case late => exact late_none s
  intro e others later runs
  have he : cameTo s.committed s.dev t = e := rfl
  clear_value e
  refine ⟨fun hag => ?finish, fun hag hlate hp => ?recorded, fun a k bytes hag ha hat hruns hecc hbytes => ?put,
    fun a ord n x r lim hag ha hat hruns hclass hbob hn hp hg => ?guard,
    fun a n from_ dest hag ha hat hruns hecc hclass hop hbob hn hdone hsrc hdst hrows => ?copy⟩
  case finish => exact operationComplete_first hclk hper hnow hf hrest he hag
  case recorded =>
    have heq : e = { d with clk := e.clk, tambs := e.tambs } := cameTo_eq he
    have hparts : ∀ q, partOf e q = partOf d q := fun q => by rw [heq]; rfl
    refine ⟨_, late_first hclk hper hnow hf hrest he hag hlate, rfl, ?_, fun q hq => ?_, ?_⟩
    · exact flightOf_setFlight { e with agenda := rest } f (fun x => { x with late := true }) (fun _ => rfl) (by rw [heq]; exact hf)
    · rw [fault, partOf_setPart_other _ _ _ _ hq]
      exact hparts q
    · rw [fault, partOf_setPart _ _ _ hp]
      rw [← hparts]
      rfl
  case put =>
    obtain ⟨u, hexec, hu, hoff, htambs⟩ := operationComplete_put hclk hper hf hrest ha hruns hat hag hecc hbytes
    exact ⟨u, hexec, htambs, hu, hoff⟩
  case guard =>
    intro g count
    obtain ⟨u, hexec, hu, hoff, htambs⟩ := operationComplete_guard hclk hper hf hrest ha hruns hat hag hclass
    have hparts := congrArg Dev.parts hu
    have hbobs := congrArg Dev.bobs hu
    dsimp only at hparts hbobs
    have hg' : guardEntry (imgOf (comeDue d a (⟨t, pr, f.id, .finish⟩ :: rest)) f.part) g = some (x, r, lim) := by rw [comeDue_imgOf]; exact hg
    refine ⟨u, hexec, htambs, hu.trans ?_, hoff, fun hle => ?_, fun hlt => ⟨?_, ?_⟩⟩
    · rw [hparts, hbobs, actGuard_mem, comeDue_mem]
    · rw [hparts, hbobs, actGuard_within hbob hg' (by rw [comeDue_bobOf]; exact hle)]
      exact ⟨comeDue_parts d a _, comeDue_bobs d a _⟩
    · rw [bobOf, hbobs]
      refine (bobOf_actGuard_trips hbob hg' hn (by rw [comeDue_bobOf]; exact hlt)).trans ?_
      rw [comeDue_bobOf]
    · rw [partOf, hparts]
      refine (partOf_actGuard_trips hbob hg' hp (by rw [comeDue_bobOf]; exact hlt)).trans ?_
      rw [comeDue_bobOf, comeDue_partOf]
  case copy =>
    intro m h1 h2 h3 h4
    have hcopy : CopiesRow f n from_ dest := ⟨hclass, hop, hbob, hn, hsrc, hdst, hrows, h1, h2, h3, h4⟩
    obtain ⟨u, hexec, hu, hoff, htambs⟩ := operationComplete_copy hclk hper hf hrest ha hruns hcopy hdone hat hag hecc
    exact ⟨u, hexec, hoff, htambs, hu⟩

end Sys2Proof.Machine

namespace Sys2Proof.Machine

/-! ### What the operations of the device make of its memory (R102, R449)

Each operation is taken once, in the order of the model's files. Most leave the memory as it is (`_mem`); what writes it does so by
`Memory.setAll`, `Memory.keep` and `Memory.erase`, and keeps it in canonical form (`_wf`). Where every branch of a function ends in functions
already taken, the proof splits the branches and leaves each to their lemmas. -/

/-- The memory that an outcome leaves is in canonical form. -/
def LeavesWf (o : Host.Outcome State Fault Refusal) : Prop := ∀ t, o = .next t → Memory.wf t.dev.mem = true

@[simp] theorem leavesWf_next (s : State) : LeavesWf (.next s) ↔ Memory.wf s.dev.mem = true :=
  ⟨fun h => h s rfl, fun h t e => by cases e; exact h⟩

@[simp] theorem leavesWf_onDev (f : Units → Dev → Dev) (s : State) : LeavesWf (onDev f s) ↔ Memory.wf (f s.committed s.dev).mem = true :=
  leavesWf_next _

@[simp] theorem leavesWf_ite (p : Prop) [Decidable p] (a b : Host.Outcome State Fault Refusal) :
    LeavesWf (if p then a else b) ↔ if p then LeavesWf a else LeavesWf b := by
  split <;> rfl

@[simp] theorem mem_ite (p : Prop) [Decidable p] (a b : Dev) : (if p then a else b).mem = if p then a.mem else b.mem := apply_ite _ _ _ _

@[simp] theorem mem_ite_fst {α : Type} (p : Prop) [Decidable p] (a b : Dev × α) : (if p then a else b).1.mem = if p then a.1.mem else b.1.mem :=
  apply_ite (fun x : Dev × α => x.1.mem) _ _ _

@[simp] theorem wf_ite (p : Prop) [Decidable p] (a b : List Host.Cell) : Memory.wf (if p then a else b) = if p then Memory.wf a else Memory.wf b :=
  apply_ite _ _ _ _

theorem EventsOnly.mem {d e : Dev} (h : EventsOnly d e) : e.mem = d.mem := by rw [h]
theorem ReportsOnly.mem {d e : Dev} (h : ReportsOnly d e) : e.mem = d.mem := by rw [h]
theorem TamboursOnly.mem {d e : Dev} (h : TamboursOnly d e) : e.mem = d.mem := by rw [h]

@[simp] theorem wf_setAll_of {m : List Host.Cell} {a : Nat} {bs : List Byte} (h : Memory.wf m = true) : Memory.wf (Memory.setAll m a bs) = true :=
  wf_setAll m a bs h
@[simp] theorem wf_keep_of {m : List Host.Cell} {p : Nat → Bool} (h : Memory.wf m = true) : Memory.wf (Memory.keep m p) = true := wf_keep m p h
@[simp] theorem wf_erase_of {m : List Host.Cell} {a n : Nat} (h : Memory.wf m = true) : Memory.wf (Memory.erase m a n) = true := wf_erase m a n h

/-! A fold over any list leaves the memory alone, or keeps its form, where each of its steps does. -/

@[simp] theorem foldl_mem {α : Type} {f : Dev → α → Dev} {l : List α} {d : Dev} (hf : ∀ e a, (f e a).mem = e.mem) : (l.foldl f d).mem = d.mem :=
  foldl_inv (fun e => e.mem = d.mem) f l (fun e a _ he => (hf e a).trans he) d rfl

@[simp] theorem foldl_mem_fst {α β : Type} {f : Dev × β → α → Dev × β} {l : List α} {x : Dev × β} (hf : ∀ e a, (f e a).1.mem = e.1.mem) :
    (l.foldl f x).1.mem = x.1.mem := foldl_inv (fun e => e.1.mem = x.1.mem) f l (fun e a _ he => (hf e a).trans he) x rfl

@[simp] theorem foldl_mem_snd {α β : Type} {f : β × Dev → α → β × Dev} {l : List α} {x : β × Dev} (hf : ∀ e a, (f e a).2.mem = e.2.mem) :
    (l.foldl f x).2.mem = x.2.mem := foldl_inv (fun e => e.2.mem = x.2.mem) f l (fun e a _ he => (hf e a).trans he) x rfl

@[simp] theorem foldl_wf {α : Type} {f : Dev → α → Dev} {l : List α} {d : Dev} (h : Memory.wf d.mem = true)
    (hf : ∀ e a, Memory.wf e.mem = true → Memory.wf (f e a).mem = true) : Memory.wf (l.foldl f d).mem = true :=
  foldl_inv (fun e : Dev => Memory.wf e.mem = true) f l (fun e a _ => hf e a) d h

@[simp] theorem foldl_wf_fst {α β : Type} {f : Dev × β → α → Dev × β} {l : List α} {x : Dev × β} (h : Memory.wf x.1.mem = true)
    (hf : ∀ e a, Memory.wf e.1.mem = true → Memory.wf (f e a).1.mem = true) : Memory.wf (l.foldl f x).1.mem = true :=
  foldl_inv (fun e : Dev × β => Memory.wf e.1.mem = true) f l (fun e a _ => hf e a) x h

@[simp] theorem foldl_wf_snd {α β : Type} {f : β × Dev → α → β × Dev} {l : List α} {x : β × Dev} (h : Memory.wf x.2.mem = true)
    (hf : ∀ e a, Memory.wf e.2.mem = true → Memory.wf (f e a).2.mem = true) : Memory.wf (l.foldl f x).2.mem = true :=
  foldl_inv (fun e : β × Dev => Memory.wf e.2.mem = true) f l (fun e a _ => hf e a) x h

section
variable {c : Units} {d : Dev}

/-! Counts and the log. -/

@[simp] theorem forgetCounts_mem {at_ n : Nat} : (forgetCounts d at_ n).mem = d.mem := rfl
@[simp] theorem lowerCounts_mem : (lowerCounts d).mem = d.mem := rfl
@[simp] theorem logAt_mem {code unit part : Nat} {job ctx : Word} {detail : List Nat} {flags : Nat} :
    (logAt d code unit part job ctx detail flags).mem = d.mem := by
  simp [logAt]
@[simp] theorem logOnly_mem {code unit part : Nat} {detail : List Nat} : (logOnly d code unit part detail).mem = d.mem := by simp [logOnly]
@[simp] theorem logReset_mem {kind unit : Nat} : (logReset d kind unit).mem = d.mem := by simp [logReset]

/-! Registers. -/

@[simp] theorem resetRegs_mem {p : Nat → Bool} : (resetRegs d p).mem = d.mem := rfl

/-! Flags and stops of a Bobbin. -/

@[simp] theorem noteSummary_mem : (noteSummary c d).mem = d.mem := by
  unfold noteSummary
  exact rfl
@[simp] theorem settleBob_mem {n : Nat} : (settleBob d n).mem = d.mem := rfl
@[simp] theorem cutPlan_mem {n : Nat} : (cutPlan d n).mem = d.mem := rfl
@[simp] theorem stopBob_mem {n : Nat} : (stopBob d n).mem = d.mem := rfl

/-! Records of the output units. -/

@[simp] theorem takeQuota_mem {x n : Nat} : (takeQuota d x n).mem = d.mem := rfl
@[simp] theorem giveQuota_mem {x n : Nat} : (giveQuota d x n).mem = d.mem := rfl
@[simp] theorem countLost_mem {x n : Nat} : (countLost d x n).mem = d.mem := rfl
@[simp] theorem placeRec_mem {r : Rec} : (placeRec d r).1.mem = d.mem := rfl
@[simp] theorem writeStream_mem {x v : Nat} : (writeStream d x v).mem = d.mem := by simp [writeStream]
@[simp] theorem openStream_mem {x v : Nat} : (openStream d x v).mem = d.mem := by simp [openStream]
@[simp] theorem renewStream_mem {x v : Nat} : (renewStream d x v).mem = d.mem := by simp [renewStream]
@[simp] theorem queueItems_mem {x v : Nat} {items : List OutItem} : (queueItems d x v items).mem = d.mem := by simp [queueItems]
@[simp] theorem bindJob_mem {j : Job} : (bindJob d j).mem = d.mem := rfl
@[simp] theorem takeJob_mem {x : OutJob} : (takeJob d x).1.mem = d.mem := by
  unfold takeJob
  split <;> simp
@[simp] theorem handOut_mem {x : OutJob} {r : Rec} {isEvent : Bool} : (handOut d x r isEvent).mem = d.mem := by simp [handOut]
@[simp] theorem handRec_mem {job o : Nat} {r : Rec} : (handRec d job o r).mem = d.mem := by
  unfold handRec
  split
  · rfl
  · split <;> simp
@[simp] theorem handFree_mem {x v : Nat} {r : Rec} : (handFree d x v r).mem = d.mem := (handFree_events d x v r).mem
@[simp] theorem handSnap_mem {r : Rec} : (handSnap c d r).mem = d.mem := by simp [handSnap]
@[simp] theorem drainSnap_mem : (drainSnap c d).mem = d.mem := by simp [drainSnap]
@[simp] theorem release_mem {p o : Nat} : (release d p o).mem = d.mem := by
  unfold release
  dsimp only
  (repeat' split) <;> simp
@[simp] theorem retire_mem {job : Nat} : (retire d job).mem = d.mem := by simp [retire]
@[simp] theorem pageEnd_mem {p o : Nat} : (pageEnd d p o).mem = d.mem := by
  unfold pageEnd
  dsimp only
  (repeat' split) <;> simp
@[simp] theorem retireBare_mem {p : Nat} : (retireBare d p).mem = d.mem := by
  unfold retireBare
  split <;> simp
@[simp] theorem discardUnsent_mem {x : OutJob} {seq : Word} : (discardUnsent d x seq).1.mem = d.mem := rfl
@[simp] theorem rereadOut_mem {j : Job} : (rereadOut d j).mem = d.mem := by simp [rereadOut]
@[simp] theorem cancelOut_mem {j : Job} : (cancelOut d j).mem = d.mem := by simp [cancelOut]

/-! Events and the store with its ECC words. -/

@[simp] theorem raise_mem {tie : Tie} {e : Event} : (raise c d tie e).mem = d.mem := (raise_events c d tie e).mem
@[simp] theorem noteCe_mem {word : Nat} : (noteCe d word).mem = d.mem := by simp [noteCe]
@[simp] theorem judgeLimit_mem {n : Nat} : (judgeLimit c d n).mem = d.mem := by simp [judgeLimit]
@[simp] theorem noteUe_mem {w : Who} {word : Nat} {flips : BitVec 72} : (noteUe c d w word flips).mem = d.mem := by simp [noteUe]
@[simp] theorem eccRead_mem {w : Who} {k n : Nat} : (eccRead c d w k n).1.mem = d.mem := (eccRead_reports c d w k n).mem
@[simp] theorem store_wf {w : Who} {k : Nat} {bs : List Byte} (h : Memory.wf d.mem = true) : Memory.wf (store c d w k bs).mem = true := by
  unfold store
  split
  · exact h
  · split
    · exact wf_setAll _ _ _ h
    · refine wf_setAll _ _ _ (foldl_wf h fun e x he => wf_setAll _ _ _ ?_)
      split <;> simpa
@[simp] theorem storeAll_wf {w : Who} {ws : List (Nat × List Byte)} (h : Memory.wf d.mem = true) : Memory.wf (storeAll c d w ws).mem = true := by
  simp +contextual [storeAll, h]

/-! Time, flights and tallies. -/

@[simp] theorem elapse_mem {n : Nat} : (elapse d n).mem = d.mem := by simp [elapse]
@[simp] theorem putAt_mem {readable prio fl : Nat} {ws : List (Nat × List Byte)} : (putAt d readable prio fl ws).mem = d.mem := by simp [putAt]
@[simp] theorem fault_mem {p cycle kind op : Nat} : (fault d p cycle kind op).mem = d.mem := rfl
@[simp] theorem completeAt_mem {f : Flight} {cycle : Nat} : (completeAt d f cycle).mem = d.mem := rfl
@[simp] theorem lsNote_mem {w : Who} {n a len : Nat} : (lsNote c d w n a len).1.mem = d.mem := by simp [lsNote]
@[simp] theorem countNum_mem {n : Nat} {t : Tally} : (countNum d n t).mem = d.mem := rfl
@[simp] theorem book_mem {f : Flight} {ccw : Ccw} {t : Tally} : (book d f ccw t).mem = d.mem := by simp [book]

/-! The array. -/

@[simp] theorem noteBeat_mem {n : Nat} : (noteBeat d n).mem = d.mem := rfl
@[simp] theorem noteOperands_mem {f : Flight} {n bank act wt : Nat} {pair : Nat × Nat × Nat} {r b : Nat} :
    (noteOperands c d f n bank act wt pair r b).mem = d.mem := by
  simp [noteOperands]
@[simp] theorem noteAcc_mem {f : Flight} {n entry : Nat} : (noteAcc c d f n entry).mem = d.mem := by simp [noteAcc]
@[simp] theorem noteScales_mem {f : Flight} {n : Nat} : (noteScales c d f n).mem = d.mem := by simp [noteScales]
@[simp] theorem actBeat_mem {f : Flight} {r b : Nat} : (actBeat c d f r b).mem = d.mem := by
  unfold actBeat
  dsimp only
  split <;> simp
@[simp] theorem actWload_wf {f : Flight} {k : Nat} (h : Memory.wf d.mem = true) : Memory.wf (actWload c d f k).mem = true := by
  unfold actWload
  extract_lets w n bank lines fmt src stride dpus l who z e b e2
  have he : Memory.wf e.mem = true := foldl_wf h fun x i hx => by
    dsimp only
    split <;> split <;> simp [hx]
  have h2 : e2.mem = e.mem := by unfold e2; split <;> rfl
  clear_value e2 e
  split <;> simpa [h2]
@[simp] theorem startArray_mem {f : Flight} : (startArray d f).mem = d.mem := by simp [startArray]

/-! The DDR5 controller. -/

@[simp] theorem ddrRefuse_mem {w : Who} {a : Nat} {write : Bool} : (ddrRefuse d w a write).mem = d.mem := by simp [ddrRefuse]
@[simp] theorem ddrWake_mem : (ddrWake d).mem = d.mem := rfl
@[simp] theorem ddrRead_mem {w : Who} {ks : List Nat} {a n : Nat} : (ddrRead c d w ks a n).1.mem = d.mem := by simp [ddrRead]
@[simp] theorem ddrWrite_wf {w : Who} {ks : List Nat} {a : Nat} {bs : List Byte} (h : Memory.wf d.mem = true) :
    Memory.wf (ddrWrite c d w ks a bs).mem = true := by
  simp [ddrWrite, h]
@[simp] theorem addServed_mem {r : Nat} {f : Flight} {k prio : Nat} {act : Act} : (addServed d r f k prio act).mem = d.mem := by
  unfold addServed
  split <;> rfl
@[simp] theorem completeServed_mem {r : Nat} {f : Flight} {n : Nat} : (completeServed d r f n).mem = d.mem := by
  unfold completeServed
  split
  · split <;> rfl
  · rfl
@[simp] theorem takeDdr_mem {p issue bytes : Nat} : (takeDdr d p issue bytes).1.mem = d.mem := by
  unfold takeDdr
  dsimp only
  split <;> rfl
@[simp] theorem trainDone_wf (h : Memory.wf d.mem = true) : Memory.wf (trainDone d).mem = true := by simp [trainDone, h]
@[simp] theorem trainReady_mem : (trainReady d).mem = d.mem := rfl
@[simp] theorem scrubAt_wf {u : Nat} (h : Memory.wf d.mem = true) : Memory.wf (scrubAt c d u).mem = true := by
  unfold scrubAt
  refine foldl_wf h fun e x he => ?_
  split <;> simp [he]

/-! Operands of jobs. -/

@[simp] theorem jobStore_wf {w : Who} {j : Job} {off : Nat} {bs : List Byte} (h : Memory.wf d.mem = true) :
    Memory.wf (jobStore c d w j off bs).mem = true := by
  simp +contextual [jobStore, h]
@[simp] theorem noteSpans_mem {w : Who} {sp : List (Nat × Nat)} : (noteSpans c d w sp).1.mem = d.mem := by simp [noteSpans]
@[simp] theorem jobNote_mem {w : Who} {j : Job} {off n : Nat} : (jobNote c d w j off n).1.mem = d.mem := by simp [jobNote]
@[simp] theorem noteRow_mem {w : Who} {j : Job} {r o n : Nat} : (noteRow c d w j r o n).1.mem = d.mem := by simp [noteRow]

/-! Contexts of the KV unit. -/

@[simp] theorem setCtx_mem {n : Nat} {f : Ctx → Ctx} : (setCtx d n f).mem = d.mem := rfl
@[simp] theorem putHead_wf {p id o : Nat} {bs : List Byte} (h : Memory.wf d.mem = true) : Memory.wf (putHead c d p id o bs).mem = true := by
  simp [putHead, h]
@[simp] theorem takeFrame_mem {p : Nat} : (takeFrame d p).1.mem = d.mem := rfl
@[simp] theorem takeSpill_mem {p : Nat} : (takeSpill d p).1.mem = d.mem := rfl
@[simp] theorem freePage_wf {p id : Nat} (h : Memory.wf d.mem = true) : Memory.wf (freePage c d p id).mem = true := by simp [freePage, h]
@[simp] theorem dropRef_wf {p id : Nat} (h : Memory.wf d.mem = true) : Memory.wf (dropRef c d p id).mem = true := by simp [dropRef, h]
@[simp] theorem leavePage_wf {p id : Nat} (h : Memory.wf d.mem = true) : Memory.wf (leavePage c d p id).mem = true := by simp [leavePage, h]
@[simp] theorem setLayer_mem {cid layer : Nat} {l : List Nat} : (setLayer d cid layer l).mem = d.mem := rfl
@[simp] theorem addFrame_wf {cid layer : Nat} (h : Memory.wf d.mem = true) : Memory.wf (addFrame c d cid layer).mem = true := by
  unfold addFrame
  split <;> simp +contextual [h]
@[simp] theorem copySlot_wf {cid layer slot : Nat} (h : Memory.wf d.mem = true) : Memory.wf (copySlot c d cid layer slot).mem = true := by
  unfold copySlot
  dsimp only
  split
  · exact h
  · split
    · exact h
    · simp [h]
@[simp] theorem addCopy_wf {cid layer : Nat} (h : Memory.wf d.mem = true) : Memory.wf (addCopy c d cid layer).mem = true := by
  unfold addCopy
  split <;> simp +contextual [h]
@[simp] theorem takeLayer_wf {cid layer k : Nat} (h : Memory.wf d.mem = true) : Memory.wf (takeLayer c d cid layer k).mem = true := by
  unfold takeLayer
  split <;> simp +contextual [h]
@[simp] theorem takeSeq_wf {cid k : Nat} (h : Memory.wf d.mem = true) : Memory.wf (takeSeq c d cid k).mem = true := by
  unfold takeSeq
  split <;> simp +contextual [h]
@[simp] theorem countKv_mem {t : Tally} : (countKv d t).mem = d.mem := rfl
@[simp] theorem markEcc_wf {p cid id : Nat} (h : Memory.wf d.mem = true) : Memory.wf (markEcc c d p cid id).mem = true := by simp [markEcc, h]
@[simp] theorem makeCopy_wf {cid id : Nat} (h : Memory.wf d.mem = true) : Memory.wf (makeCopy c d cid id).mem = true := by
  unfold makeCopy
  split
  case h_1 x shared _ _ =>
    dsimp only
    generalize hy : List.foldl _ (d, false) _ = y
    have wf : Memory.wf y.1.mem = true := hy ▸ foldl_wf_fst h fun e s he => by simp [he]
    clear hy
    refine dropRef_wf (putHead_wf ?_)
    split <;> split <;> simp [wf]
  case h_2 => exact h
@[simp] theorem flushPage_wf {cid : Nat} {x : Ctx} {id : Nat} (h : Memory.wf d.mem = true) : Memory.wf (flushPage c d cid x id).mem = true := by
  unfold flushPage
  extract_lets k n base e
  have he : Memory.wf e.mem = true := putHead_wf h
  clear_value e
  split
  · exact he
  · dsimp only
    refine putHead_wf (putHead_wf (foldl_wf ?_ fun y t hy => ?_))
    · split <;> simp [he]
    · simp [hy]
@[simp] theorem unshare_wf {cid layer slot : Nat} (h : Memory.wf d.mem = true) : Memory.wf (unshare c d cid layer slot).mem = true := by
  unfold unshare
  split
  · exact h
  · split <;> simp [h]
@[simp] theorem putPos_wf {cid layer pos : Nat} {ks vs : List (List Xv)} {bad : Bool} (h : Memory.wf d.mem = true) :
    Memory.wf (putPos c d cid layer pos ks vs bad).mem = true := by
  unfold putPos
  split
  · exact h
  · split
    · exact h
    · extract_lets e
      have he : Memory.wf e.mem = true := unshare_wf h
      clear_value e
      split
      · exact he
      · extract_lets e1 e2 base e3 e4 e5
        have h1 : Memory.wf e1.mem = true := makeCopy_wf he
        have h2 : Memory.wf e2.mem = true := by unfold e2; split <;> simp [h1]
        have h3 : Memory.wf e3.mem = true := foldl_wf h2 fun y r hy => by simp [hy]
        have h4 : Memory.wf e4.mem = true := foldl_wf h3 fun y r hy => by simp [hy]
        have h5 : Memory.wf e5.mem = true := putHead_wf h4
        split
        · exact flushPage_wf h5
        · exact h5

/-! Pieces of text. -/

@[simp] theorem noteTab_mem {p cid b : Nat} {spans : List (Nat × Nat)} : (noteTab c d p cid b spans).mem = d.mem := by simp [noteTab]
@[simp] theorem setSlot_mem {cid : Nat} {f : Slot → Slot} : (setSlot d cid f).mem = d.mem := rfl
@[simp] theorem handText_mem {p : Nat} {job : Word} {mk : Bool → List Byte} : (handText d p job mk).mem = d.mem := by
  unfold handText
  split <;> split <;> simp
@[simp] theorem handAll_mem {cid : Nat} {x : Ctx} {flags cause : Nat} {inc : Bool} {hs : List Hand} :
    (handAll d cid x flags cause inc hs).mem = d.mem := by
  refine foldl_mem fun e h => ?_
  split <;> simp
@[simp] theorem finishText_mem {cid cause : Nat} {stopIn : Bool} : (finishText c d cid cause stopIn).mem = d.mem := by
  unfold finishText
  dsimp only
  (repeat' split) <;> simp
@[simp] theorem endSeq_mem {cid cause : Nat} {stopIn : Bool} : (endSeq c d cid cause stopIn).mem = d.mem := by
  unfold endSeq
  dsimp only
  (repeat' split) <;> simp
@[simp] theorem endLimit_mem {cid limit : Nat} : (endLimit c d cid limit).mem = d.mem := by
  unfold endLimit
  split <;> simp

/-! KV words and the service. -/

@[simp] theorem kvRefuse_mem {p cause : Nat} {job : Word} : (kvRefuse d p cause job).mem = d.mem := by simp [kvRefuse]
@[simp] theorem createEntry_wf {p : Nat} {desc e : List Byte} (h : Memory.wf d.mem = true) : Memory.wf (createEntry c d p desc e).1.mem = true := by
  unfold createEntry
  extract_lets job parent nl shape formats ks vs par parOk pages n ready len x kvm f g
  have hg : Memory.wf g.mem = true := foldl_wf (d := f) h fun y i hy => putHead_wf hy
  clear_value g parOk
  split_ifs <;> simpa
@[simp] theorem appendEntry_wf {p bob : Nat} {desc e : List Byte} (h : Memory.wf d.mem = true) :
    Memory.wf (appendEntry c d p bob desc e).1.mem = true := by
  unfold appendEntry
  extract_lets cid t layer fmt commit shape
  split
  · exact h
  · extract_lets from_ need len g
    have hg : Memory.wf g.mem = true := foldl_wf (takeLayer_wf h) fun y i hy => by simp [hy]
    clear_value g
    split_ifs <;> simpa
@[simp] theorem freeEntry_mem {p : Nat} {e : List Byte} : (freeEntry c d p e).1.mem = d.mem := by
  unfold freeEntry
  split <;> simp
@[simp] theorem kvPut_mem {f : Flight} {w : Nat × List Byte} : (kvPut d f w).mem = d.mem := rfl
@[simp] theorem actKvEntry_wf {f : Flight} {k : Nat} (h : Memory.wf d.mem = true) : Memory.wf (actKvEntry c d f k).mem = true := by
  unfold actKvEntry
  extract_lets op desc p bob w e n e2 ra a e3 b
  have he : e.mem = d.mem := by unfold e; split <;> simp
  have h2 : Memory.wf e2.mem = true := by unfold e2; split <;> simpa [he]
  have h3 : Memory.wf e3.mem = true := by simpa [e3]
  clear_value e2 e3
  rw [kvPut_mem]
  split
  · exact h2
  · split
    · have h4 := createEntry_wf (c := c) (p := p) (desc := desc) (e := b) h3
      dsimp only
      split <;> exact h4
    · split
      · exact appendEntry_wf h3
      · simpa
@[simp] theorem actKvWrite_wf {f : Flight} {i : Nat} (h : Memory.wf d.mem = true) : Memory.wf (actKvWrite c d f i).mem = true := by
  unfold actKvWrite
  dsimp only
  split
  · exact h
  · split
    · exact h
    · split
      · exact h
      · split
        · split <;> simp [h]
        · simp [h]
@[simp] theorem setPage_mem {cid layer slot id : Nat} : (setPage d cid layer slot id).mem = d.mem := rfl
@[simp] theorem copyPage_wf {p cid from_ dest : Nat} (h : Memory.wf d.mem = true) : Memory.wf (copyPage c d p cid from_ dest).mem = true := by
  simp [copyPage, h]
theorem serviceOne_wf {d e : Dev} {p left n : Nat} (h : Memory.wf d.mem = true) (hs : serviceOne c d p left = some (e, n)) :
    Memory.wf e.mem = true := by
  unfold serviceOne at hs
  extract_lets mine copy at hs
  split at hs
  · split at hs
    · cases hs
    · cases hs
      exact freePage_wf (copyPage_wf h)
  · split at hs
    · split at hs
      · cases hs
      · split at hs
        · cases hs
        · cases hs
          exact freePage_wf (copyPage_wf h)
    · split at hs
      · cases hs
      · split at hs
        · cases hs
        · extract_lets at hs

          rename_i cid x _ _ out rec_ last
          rcases lineAt d cid rec_ x.moved with ⟨a, bs⟩
          dsimp -zeta only at hs
          extract_lets e1 e2 e3 at hs
          have h1 : Memory.wf e1.mem = true := ddrWrite_wf h
          have h2 : Memory.wf e2.mem = true := by
            unfold e2
            split
            · split
              · exact foldl_wf h1 fun _ _ he => ddrWrite_wf he
              · exact h1
            · simpa
          have h3 : Memory.wf e3.mem = true := h2
          cases hs
          split <;> exact h3
@[simp] theorem serviceAll_wf {p : Nat} (n : Nat) {left : Nat} (h : Memory.wf d.mem = true) : Memory.wf (serviceAll c p n d left).mem = true := by
  induction n generalizing d left with
  | zero => exact h
  | succ n ih =>
    unfold serviceAll
    split
    · exact h
    · exact ih (serviceOne_wf h (by assumption))
@[simp] theorem actKvService_wf {f : Flight} (h : Memory.wf d.mem = true) : Memory.wf (actKvService c d f).mem = true := by simp [actKvService, h]
@[simp] theorem actKv_wf {f : Flight} {k : Nat} (h : Memory.wf d.mem = true) : Memory.wf (actKv c d f k).mem = true := by simp [actKv, h]
@[simp] theorem startKv_mem {f : Flight} : (startKv d f).mem = d.mem := by
  unfold startKv
  dsimp only
  (repeat' split) <;> simp
@[simp] theorem freeCtx_wf {cid : Nat} (h : Memory.wf d.mem = true) : Memory.wf (freeCtx c d cid).mem = true := by
  unfold freeCtx
  split
  · exact h
  · exact foldl_wf (foldl_wf h fun _ _ he => leavePage_wf he) fun _ _ he => freePage_wf he
@[simp] theorem reserveSlotted_wf {p : Nat} (h : Memory.wf d.mem = true) : Memory.wf (reserveSlotted c d p).1.mem = true := by
  unfold reserveSlotted
  refine foldl_wf_fst h fun x s hx => ?_
  dsimp only
  split
  · exact hx
  · split <;> simp [hx]
@[simp] theorem placeReady_wf {p : Nat} {l : List Nat} {d : Dev} (h : Memory.wf d.mem = true) : Memory.wf (placeReady c p l d).mem = true := by
  induction l generalizing d with
  | nil => exact h
  | cons cid l ih =>
    unfold placeReady
    split
    · exact ih h
    · dsimp only
      split
      · exact ih h
      · split
        · exact ih (by simpa)
        · split
          · exact ih h
          · split
            · exact h
            · exact ih (by simp [h])
@[simp] theorem markVictims_mem {p : Nat} {stalls : List (Nat × Nat)} : (markVictims c d p stalls).mem = d.mem := by simp [markVictims]
@[simp] theorem startResume_mem {p : Nat} {stalled : Bool} : (startResume d p stalled).mem = d.mem := by
  unfold startResume
  dsimp only
  split
  · rfl
  · split
    · rfl
    · split
      · rfl
      · rw [setCtx_mem]
        exact foldl_mem_fst fun _ _ => rfl
@[simp] theorem kvBoundary_wf {p : Nat} (h : Memory.wf d.mem = true) : Memory.wf (kvBoundary c d p).mem = true := by
  unfold kvBoundary
  dsimp only
  rw [startResume_mem, markVictims_mem]
  exact placeReady_wf (reserveSlotted_wf (foldl_wf h fun _ _ he => freeCtx_wf he))
@[simp] theorem kvUse_mem : (kvUse d).mem = d.mem := rfl

/-! Attention words. -/

@[simp] theorem attnStep_mem {f : Flight} {k prio : Nat} {act : Act} : (attnStep d f k prio act).mem = d.mem := by simp [attnStep]
@[simp] theorem setRows_mem {f : Flight} {rows : List (List Word)} : (setRows d f rows).mem = d.mem := rfl
@[simp] theorem putNext_mem {f : Flight} {ws : List (Nat × List Byte)} : (putNext d f ws).mem = d.mem := by simp [putNext]
@[simp] theorem attnOut_mem {f : Flight} {a : AttnD} {rows : List (List Word)} : (attnOut d f a rows).mem = d.mem := by simp [attnOut]
@[simp] theorem noteRows_mem {f : Flight} {n fmt base row0 cnt hdim : Nat} : (noteRows c d f n fmt base row0 cnt hdim).mem = d.mem := by
  simp [noteRows]
@[simp] theorem takeQueries_mem {f : Flight} {a : AttnD} {first : Bool} {row0 : Nat} : (takeQueries c d f a first row0).1.mem = d.mem := by
  simp [takeQueries]
@[simp] theorem ringTake_mem {f : Flight} {a : AttnD} {r : Nat} : (ringTake c d f a r).mem = d.mem := by simp [ringTake]
@[simp] theorem fwdBlock_mem {f : Flight} {k : Nat} : (fwdBlock c d f k).1.mem = d.mem := by simp [fwdBlock]
@[simp] theorem openEnd_mem {f : Flight} {a : AttnD} : (openEnd d f a).mem = d.mem := by simp [openEnd]
@[simp] theorem pageKeys_wf {f : Flight} {a : AttnD} {cid id : Nat} (h : Memory.wf d.mem = true) :
    Memory.wf (pageKeys c d f a cid id).1.mem = true := by
  simp [pageKeys, h]
@[simp] theorem endWide_mem {f : Flight} {a : AttnD} {cid : Nat} {x : Ctx} {fm : Nat} : (endWide c d f a cid x fm).mem = d.mem := by simp [endWide]
@[simp] theorem decodeBlock_wf {f : Flight} {k : Nat} (h : Memory.wf d.mem = true) : Memory.wf (decodeBlock c d f k).1.mem = true := by
  unfold decodeBlock
  extract_lets _ a i b t before mine e pad
  have he : Memory.wf e.mem = true := by unfold e; split <;> simpa
  clear_value e
  split
  · simpa
  · dsimp only
    split
    · simpa
    · split
      · simpa
      · split
        · simpa
        · rw [setRows_mem]
          exact foldl_wf_fst (by simpa) fun x i hx => pageKeys_wf hx
@[simp] theorem bwdRead_mem {f : Flight} {a : AttnD} : (bwdRead c d f a).1.mem = d.mem := by simp [bwdRead]
@[simp] theorem keepBwd_mem {f : Flight} {xs : List BwdRow} : (keepBwd d f xs).mem = d.mem := rfl
@[simp] theorem bwdBlock_mem {f : Flight} {k : Nat} : (bwdBlock c d f k).1.mem = d.mem := by simp [bwdBlock]
@[simp] theorem bwdEnd_mem {f : Flight} : (bwdEnd d f).mem = d.mem := by
  unfold bwdEnd
  exact putNext_mem
@[simp] theorem nextBeat_mem {f : Flight} {k j : Nat} : (nextBeat d f k j).mem = d.mem := by simp [nextBeat]
@[simp] theorem actAttnBeat_mem {f : Flight} {k j : Nat} : (actAttnBeat d f k j).mem = d.mem := by simp [actAttnBeat]
@[simp] theorem actBlock_wf {f : Flight} {k : Nat} (h : Memory.wf d.mem = true) : Memory.wf (actBlock c d f k).mem = true := by simp [actBlock, h]
@[simp] theorem actAttnEnd_mem {f : Flight} : (actAttnEnd d f).mem = d.mem := by simp [actAttnEnd]
@[simp] theorem startAttn_mem {f : Flight} : (startAttn d f).mem = d.mem := by simp [startAttn]

/-! Text tables. -/

@[simp] theorem countDropped_mem : (countDropped d).mem = d.mem := rfl
@[simp] theorem startStr_mem : (startStr d).mem = d.mem := by
  unfold startStr
  split <;> simp
@[simp] theorem handString_mem {port vc kind : Nat} {job : Word} {text : List Byte} {excess : Bool} :
    (handString c d port vc kind job text excess).mem = d.mem := by
  simp [handString]
@[simp] theorem tokenizeFront_mem : (tokenizeFront d).mem = d.mem := by
  unfold tokenizeFront
  split <;> simp
@[simp] theorem publishText_mem {cycle : Nat} : (publishText c cycle d).mem = d.mem := by
  refine foldl_mem (d := { d with txt := _ }) fun e x => ?_
  split
  · simp
  · split
    · simp
    · dsimp only
      split
      · split
        · simp
        · split <;> simp
      · rfl
@[simp] theorem actFetch_mem {f : Flight} : (actFetch d f).mem = d.mem := by
  unfold actFetch
  dsimp only
  split <;> simp

/-! Decided tokens. -/

@[simp] theorem textEvent_mem {x : Ctx} {cid bit code : Nat} {detail : List Nat} : (textEvent c d x cid bit code detail).mem = d.mem := by
  simp [textEvent]
@[simp] theorem emitToken_mem {cid v : Nat} : (emitToken c d cid v).mem = d.mem := by
  unfold emitToken
  dsimp only
  (repeat' split) <;> simp
@[simp] theorem decideToken_mem {cid v : Nat} {forced : Bool} : (decideToken c d cid v forced).mem = d.mem := by
  unfold decideToken
  split <;> simp
@[simp] theorem noteDecide_mem {s : Slot} : (noteDecide c d s).mem = d.mem := by simp [noteDecide]
@[simp] theorem actLogits_mem {f : Flight} {j : Nat} : (actLogits c d f j).mem = d.mem := by
  unfold actLogits
  extract_lets desc p img e got e2 x w s
  have he : e2.mem = d.mem := by simp only [e2, setFlight_mem]; unfold e; split <;> simp
  split
  · exact he
  · refine (foldl_mem fun e k => ?_).trans he
    dsimp only
    split <;> simp
@[simp] theorem actSlot_mem {f : Flight} {i : Nat} : (actSlot c d f i).mem = d.mem := by
  unfold actSlot
  dsimp only
  (repeat' split) <;> simp
@[simp] theorem startText_mem {f : Flight} : (startText d f).mem = d.mem := by simp [startText]

/-! Output words and packets. -/

@[simp] theorem outBad_mem {p op k reason : Nat} : (outBad d p op k reason).mem = d.mem := by simp [outBad]
@[simp] theorem emitEntry_mem {f : Flight} {bob k : Nat} : (emitEntry c d f bob k).mem = d.mem := by
  unfold emitEntry
  dsimp only
  (repeat' split) <;> simp
@[simp] theorem doneEntry_mem {f : Flight} {bob k : Nat} : (doneEntry c d f bob k).mem = d.mem := by
  unfold doneEntry
  dsimp only
  split <;> simp
@[simp] theorem actOutCount_mem {f : Flight} : (actOutCount c d f).mem = d.mem := by simp [actOutCount]
@[simp] theorem actOutEntry_mem {f : Flight} {k : Nat} : (actOutEntry c d f k).mem = d.mem := by simp [actOutEntry]
@[simp] theorem startOut_mem {f : Flight} : (startOut d f).mem = d.mem := by
  unfold startOut
  rw [addServed_mem, addServed_mem, completeServed_mem]
@[simp] theorem noteFrame_mem {x v : Nat} {f : Word → Bool} {g : OutJob → OutJob} : (noteFrame d x v f g).mem = d.mem := rfl
@[simp] theorem sendPackets_mem {x : Nat} {ps : List (Packet × Nat)} : (sendPackets d x ps).mem = d.mem := rfl
@[simp] theorem sendRec_mem {x v : Nat} {r : Rec} : (sendRec c d x v r).mem = d.mem := by simp [sendRec]
@[simp] theorem sendVc_mem {x v : Nat} : (sendVc c d x v).mem = d.mem := by
  unfold sendVc
  dsimp only
  (repeat' split) <;> simp
@[simp] theorem sendNow_mem {x : Nat} : (sendNow c d x).mem = d.mem := by
  unfold sendNow
  dsimp only
  (repeat' split) <;> simp

/-! The Tambours. -/

@[simp] theorem seen_mem {t : Nat} : (seen d t).mem = d.mem := rfl
@[simp] theorem feedStart_mem {t now : Nat} : (feedStart d t now).mem = d.mem := by simp [feedStart]
@[simp] theorem flipBank_mem {t : Nat} : (flipBank d t).mem = d.mem := rfl
@[simp] theorem calStart_mem {t : Nat} : (calStart d t).mem = d.mem := rfl
@[simp] theorem calFail_mem {t cause bad first last : Nat} : (calFail d t cause bad first last).mem = d.mem := rfl
@[simp] theorem reportCal_mem {t cause bad first last : Nat} : (reportCal c d t cause bad first last).mem = d.mem := by
  unfold reportCal
  split <;> simp
@[simp] theorem calFinish_wf {t : Nat} (h : Memory.wf d.mem = true) : Memory.wf (calFinish c d t).mem = true := by simp [calFinish, h]
@[simp] theorem pushStamp_mem {t : Nat} : (pushStamp d t).mem = d.mem := by
  unfold pushStamp
  split <;> simp
@[simp] theorem settleStamp_mem {t upTo : Nat} : (settleStamp d t upTo).mem = d.mem := by
  unfold settleStamp
  split <;> simp
@[simp] theorem acceptTrigger_mem {t now : Nat} : (acceptTrigger d t now).mem = d.mem := by simp [acceptTrigger]
@[simp] theorem timerRoll_mem {t before k : Nat} : (timerRoll t before k d).mem = d.mem := (timerRoll_tambours t before k d).mem
@[simp] theorem encTrigger_mem {t t0 : Nat} : (encTrigger d t t0).mem = d.mem := by
  unfold encTrigger
  split <;> simp
@[simp] theorem encFire_mem {t upTo : Nat} : (encFire d t upTo).mem = d.mem := by
  unfold encFire
  split <;> simp
@[simp] theorem encDue_mem {t n : Nat} : (encDue d t n).mem = d.mem := rfl
@[simp] theorem patFinish_mem {t : Nat} : (patFinish d t).mem = d.mem := rfl
@[simp] theorem patBegin_mem {t j now : Nat} : (patBegin d t j now).mem = d.mem := rfl
@[simp] theorem patNext_mem {t : Nat} : (patNext d t).mem = d.mem := by simp [patNext]
@[simp] theorem patRoll_mem {t before k : Nat} : (patRoll t before k d).mem = d.mem := (patRoll_tambours t before k d).mem
@[simp] theorem enterMode_mem {t mode now : Nat} : (enterMode d t mode now).mem = d.mem := by simp [enterMode]
@[simp] theorem takeMode_mem {t now : Nat} : (takeMode d t now).mem = d.mem := by simp [takeMode]
@[simp] theorem tambCommit_mem {t e : Nat} : (tambCommit d t e).mem = d.mem := by
  unfold tambCommit
  dsimp only
  (repeat' split) <;> simp
@[simp] theorem encGap_mem {t n : Nat} : (encGap d t n).mem = d.mem := rfl
@[simp] theorem tambRoll_mem {t e : Nat} : (tambRoll d t e).mem = d.mem := (tambRoll_tambours d t e).mem
@[simp] theorem tambTakes_mem {t e : Nat} : (tambTakes c d t e).mem = d.mem := rfl
@[simp] theorem tambEdge_mem {t e : Nat} : (tambEdge c d t e).mem = d.mem := by simp [tambEdge]
@[simp] theorem tambDue_mem {t : Nat} : (tambDue c d t).mem = d.mem := by
  unfold tambDue
  split <;> simp
@[simp] theorem tamboursDue_mem : (tamboursDue c d).mem = d.mem := (tamboursDue_tambours c d).mem
@[simp] theorem tamboursLater_mem : (tamboursLater d).mem = d.mem := foldl_mem fun _ _ => rfl
@[simp] theorem tambLine_mem {t headAgo : Nat} {frame : BitVec 64} {frameX : Nat} {payload : List Byte} :
    (tambLine c d t headAgo frame frameX payload).1.mem = d.mem := by
  unfold tambLine
  dsimp only
  (repeat' split) <;> simp

/-! Input streams. -/

@[simp] theorem countNoJob_mem {x n : Nat} : (countNoJob d x n).mem = d.mem := rfl
theorem rxIn_wf {r : RxHdr} {f : Dev → Dev} (h : Memory.wf d.mem = true) (hf : ∀ e, Memory.wf e.mem = true → Memory.wf (f e).mem = true) :
    Memory.wf (rxIn c d r f).mem = true := by
  unfold rxIn
  split
  · exact hf _ (by split <;> exact h)
  · exact h
theorem rxLong_wf {r : RxHdr} {f : Dev → Dev} (h : Memory.wf d.mem = true) (hf : ∀ e, Memory.wf e.mem = true → Memory.wf (f e).mem = true) :
    Memory.wf (rxLong c d r f).mem = true :=
  rxIn_wf h fun e he => by
    split
    · exact he
    · exact hf e he
@[simp] theorem notePkt_mem {id : Nat} : (notePkt d id).mem = d.mem := rfl
@[simp] theorem openEvents_mem {j : Job} : (openEvents c d j).mem = d.mem := by simp [openEvents]
@[simp] theorem closeEvents_mem {j : Job} : (closeEvents c d j).mem = d.mem := by simp [closeEvents]
@[simp] theorem openJob_mem {x v p kind k flags : Nat} {seq : Word} {decl : Option (Nat × Nat)} {opened : BitVec 64} {xa : Nat} :
    (openJob c d x v p kind k flags seq decl opened xa).mem = d.mem := by
  simp [openJob]
@[simp] theorem nextSeq_mem {x v : Nat} : (nextSeq d x v).1.mem = d.mem := by simp [nextSeq]
@[simp] theorem markStale_mem {j : Job} {rows : List Nat} {cycle : Nat} : (markStale d j rows cycle).mem = d.mem := rfl
@[simp] theorem setCoded_mem {id : Nat} {f : Coded → Coded} : (setCoded d id f).mem = d.mem := rfl
@[simp] theorem flushBand_wf {id : Nat} (h : Memory.wf d.mem = true) : Memory.wf (flushBand c d id).mem = true := by
  unfold flushBand
  split <;> simp +contextual [h]
@[simp] theorem overlapRows_mem {j : Job} {n : Nat} : (overlapRows c d j n).1.mem = d.mem := by simp [overlapRows]
@[simp] theorem finishCoded_wf {id : Nat} (h : Memory.wf d.mem = true) : Memory.wf (finishCoded c d id).mem = true := by
  unfold finishCoded
  refine flushBand_wf ?_
  split
  · split
    · exact h
    · split <;> exact h
  · exact h
@[simp] theorem closeJob_wf {x v : Nat} (h : Memory.wf d.mem = true) : Memory.wf (closeJob c d x v).mem = true := by
  unfold closeJob
  split
  · simpa
  · extract_lets e e1 j1 miss good read j2 e2 e3 e4 e5
    have h1 : Memory.wf e1.mem = true := finishCoded_wf h
    have h4 : Memory.wf e4.mem = true := by
      unfold e4
      split
      · exact h1
      · exact jobStore_wf (foldl_wf h1 fun y r hy => jobStore_wf hy)
    have h5 : e5.mem = e4.mem := by unfold e5; split <;> simp
    simpa [h5]
@[simp] theorem copyOverlap_wf {x v : Nat} {prior : Option (List (Option (List Byte)))} (h : Memory.wf d.mem = true) :
    Memory.wf (copyOverlap c d x v prior).mem = true := by
  unfold copyOverlap
  split
  · refine foldl_wf h fun e y he => ?_
    split
    · exact he
    · dsimp only
      split <;> simp [he]
  · exact h
@[simp] theorem stripOpen_wf {x v xa : Nat} (h : Memory.wf d.mem = true) : Memory.wf (stripOpen c d x v xa).mem = true := by
  unfold stripOpen
  dsimp only
  split
  · exact h
  · split
    · exact h
    · simp [h]
@[simp] theorem stripClose_wf {x v : Nat} (h : Memory.wf d.mem = true) : Memory.wf (stripClose c d x v).mem = true := by
  unfold stripClose
  split <;> simp +contextual [h]
@[simp] theorem lineRow_mem {x v : Nat} {j : Job} : (lineRow d x v j).1.mem = d.mem := by
  unfold lineRow
  dsimp only
  (repeat' split) <;> simp
@[simp] theorem skipRow_wf {x v : Nat} {lost : Bool} (h : Memory.wf d.mem = true) : Memory.wf (skipRow c d x v lost).mem = true := by
  unfold skipRow
  split <;> simp +contextual [h]
@[simp] theorem lostLine_wf {x v : Nat} (h : Memory.wf d.mem = true) : Memory.wf (lostLine c d x v).mem = true := by simp [lostLine, h]
@[simp] theorem placeLine_wf {x v : Nat} {bytes : List Byte} {stamp : BitVec 64} {xa : Nat} (h : Memory.wf d.mem = true) :
    Memory.wf (placeLine c d x v bytes stamp xa).mem = true := by
  unfold placeLine
  extract_lets e
  have he : Memory.wf e.mem = true := stripOpen_wf h
  clear_value e
  split
  · simpa
  · split
    · simpa
    · split
      · simpa
      · dsimp -zeta only
        extract_lets y at_ y2 z
        have hy : Memory.wf y.mem = true := by simpa [y]
        clear_value y
        refine stripClose_wf ?_
        unfold z
        split
        · exact hy
        · split
          · exact hy
          · split
            · exact hy
            · simp [y2, hy]
@[simp] theorem passRow_wf {j : Job} {row next : Nat} (h : Memory.wf d.mem = true) : Memory.wf (passRow c d j row next).mem = true := by
  simp [passRow, h]
@[simp] theorem missRows_mem {j : Job} {row next : Nat} : (missRows d j row next).mem = d.mem := rfl
@[simp] theorem decodeRows_wf {id : Nat} (n : Nat) (h : Memory.wf d.mem = true) : Memory.wf (decodeRows c id n d).mem = true := by
  induction n generalizing d with
  | zero => exact h
  | succ n ih =>
    unfold decodeRows
    split
    · exact h
    · split
      · exact h
      · split
        · exact h
        · split
          · exact h
          · dsimp only
            split
            · split
              · exact h
              · exact ih (by simp [h])
            · split
              · exact h
              · exact h
              · exact ih (by simp [h])
              · split
                · exact ih h
                · exact h

/-! In-band packets. -/

@[simp] theorem refuseInband_mem {x v op reason seq : Nat} : (refuseInband d x v op reason seq).mem = d.mem := by simp [refuseInband]
@[simp] theorem beginJob_wf {x v p : Nat} {b : List Byte} {opened : BitVec 64} (h : Memory.wf d.mem = true) :
    Memory.wf (beginJob c d x v p b opened).mem = true := by
  simp [beginJob, h]
theorem inbandPacket_wf {r : RxHdr} {op len : Nat} {k : Pkt} {okFields : List Byte → Bool} {act : Dev → Nat → List Byte → Dev}
    (h : Memory.wf d.mem = true)
    (hf : ∀ e p b, Memory.wf e.mem = true → Memory.wf (act e p b).mem = true) : Memory.wf (inbandPacket c d r op len k okFields act).mem = true :=
  rxLong_wf h fun e he => by
    dsimp only
    split_ifs
    iterate 5 simpa
    split
    · simpa
    · split
      · simpa
      · exact hf _ _ _ he
theorem namedJob_wf {x v op : Nat} {b : List Byte} {f : Job → Dev} (h : Memory.wf d.mem = true) (hf : ∀ j, Memory.wf (f j).mem = true) :
    Memory.wf (namedJob d x v op b f).mem = true := by
  unfold namedJob
  split
  · simpa
  · split
    · simpa
    · exact hf _
@[simp] theorem strayInband_wf {r : RxHdr} {bs : List Byte} (h : Memory.wf d.mem = true) : Memory.wf (strayInband c d r bs).mem = true :=
  rxLong_wf h fun e he => by
    dsimp only
    split_ifs <;> simpa
@[simp] theorem bulkFail_mem {x id cause : Nat} : (bulkFail d x id cause).mem = d.mem := by simp [bulkFail]

/-! Adaptation. -/

@[simp] theorem adaptGuard_mem : (adaptGuard d).mem = d.mem := by simp [adaptGuard]
@[simp] theorem zeroPages_wf {x1 n : Nat} (h : Memory.wf d.mem = true) : Memory.wf (zeroPages d x1 n).mem = true := by simp [zeroPages, h]
@[simp] theorem checkSample_mem {i : Nat} : (checkSample c d i).1.mem = d.mem := by simp [checkSample]
@[simp] theorem skipSample_mem {i cause : Nat} : (skipSample d i cause).mem = d.mem := by simp [skipSample]
@[simp] theorem fillSlots_mem {b n : Nat} {got : List Sample} : (fillSlots c b n d got).1.mem = d.mem := by
  induction n generalizing d got with
  | zero => rfl
  | succ n ih =>
    unfold fillSlots
    split
    · rfl
    · dsimp only
      split <;> rw [ih] <;> simp
@[simp] theorem nextEpoch_mem : (nextEpoch d).mem = d.mem := rfl
@[simp] theorem unstage_mem : (unstage d).mem = d.mem := by simp [unstage]
@[simp] theorem stageBatch_wf (h : Memory.wf d.mem = true) : Memory.wf (stageBatch c d).mem = true := by
  unfold stageBatch
  extract_lets e
  have he : Memory.wf e.mem = true := by unfold e; split <;> simpa
  clear_value e
  split
  · exact he
  · dsimp only
    split
    · split
      · split <;> simpa
      · simpa
    · exact foldl_wf (store_wf (zeroPages_wf (by simpa))) fun y x hy => store_wf hy
@[simp] theorem restoreFail_mem {cause : Nat} : (restoreFail d cause).mem = d.mem := by simp [restoreFail]
@[simp] theorem reportFlag_mem {f : Nat} : (reportFlag d f).mem = d.mem := rfl
@[simp] theorem stopRun_mem : (stopRun d).mem = d.mem := rfl
@[simp] theorem endEpoch_mem : (endEpoch d).mem = d.mem := by simp [endEpoch]
@[simp] theorem applyBatch_mem : (applyBatch c d).mem = d.mem := by
  unfold applyBatch
  dsimp only
  split <;> simp
@[simp] theorem endTails_mem {n : Nat} : (endTails n d).mem = d.mem := by
  induction n generalizing d with
  | zero => rfl
  | succ n ih =>
    unfold endTails
    split
    · rw [ih]; simp
    · rfl
@[simp] theorem adaptAction_mem {x : Nat} : (adaptAction c d x).mem = d.mem := by simp [adaptAction]
@[simp] theorem swapHalf_wf (h : Memory.wf d.mem = true) : Memory.wf (swapHalf c d).mem = true := by simp [swapHalf, h]
@[simp] theorem adaptReport_mem : (adaptReport c d).mem = d.mem := by simp [adaptReport]
@[simp] theorem adaptBoundary_mem {c0 : Units} : (adaptBoundary c0 c d).mem = d.mem := by simp [adaptBoundary]
@[simp] theorem adaptSwap_wf (h : Memory.wf d.mem = true) : Memory.wf (adaptSwap c d).mem = true := by simp [adaptSwap, h]

/-! Health. -/

@[simp] theorem eraseBob_wf {n : Nat} (h : Memory.wf d.mem = true) : Memory.wf (eraseBob d n).mem = true := by simp [eraseBob, h]
@[simp] theorem takeSamples_mem {now : List (BitVec 16)} : (takeSamples c d now).mem = d.mem := by
  unfold takeSamples
  dsimp only
  split <;> simp
@[simp] theorem clearTrip_mem : (clearTrip d).mem = d.mem := by simp [clearTrip]
@[simp] theorem planBob_mem {n : Nat} : (planBob c d n).mem = d.mem := rfl
@[simp] theorem govern_mem : (govern c d).mem = d.mem := by
  unfold govern
  extract_lets on ps rateAt lim best r est e e1 low h demand amps e2 mask _ e3
  have he : e.mem = d.mem := foldl_mem fun _ _ => rfl
  have h1 : e1.mem = d.mem := by
    unfold e1
    split
    · exact (foldl_mem fun _ _ => planBob_mem).trans he
    · exact he
  have h2 : e2.mem = d.mem := h1
  have h3 : e3.mem = d.mem := h2
  clear_value e2 e3
  split
  · rw [raise_mem, h3]
  · split
    · rw [logOnly_mem, h2]
    · exact h2
@[simp] theorem logFixes_mem : (logFixes d).mem = d.mem := by simp [logFixes]
@[simp] theorem healthTurn_mem : (healthTurn d).mem = d.mem := rfl

/-! What a unit does in a phase. -/

@[simp] theorem publishJobs_mem {cycle : Nat} : (publishJobs c cycle d).mem = d.mem := rfl
@[simp] theorem refill_wf (h : Memory.wf d.mem = true) : Memory.wf (refill c d).mem = true := by
  unfold refill
  extract_lets e e1 _ e2
  have he : Memory.wf e.mem = true := foldl_wf h fun _ _ hx => freeCtx_wf hx
  have h1 : e1.mem = e.mem := foldl_mem fun _ _ => rfl
  rw [kvUse_mem]
  refine foldl_wf (d := e2) (h1 ▸ he) fun x p hx => ?_
  split
  · exact kvBoundary_wf hx
  · exact hx
@[simp] theorem publish_wf (h : Memory.wf d.mem = true) : Memory.wf (publish c d).mem = true := by simp [publish, h]
@[simp] theorem runPhase_wf {a : Act} (h : Memory.wf d.mem = true) : Memory.wf (runPhase c d a).mem = true := by
  unfold runPhase
  split <;> simp +contextual [h]

/-! Moves. -/

@[simp] theorem moveRead_mem {f : Flight} {m : MoveD} {r o n : Nat} : (moveRead c d f m r o n).1.mem = d.mem := by
  unfold moveRead
  dsimp only
  (repeat' split) <;> simp
@[simp] theorem actChunk_mem {f : Flight} {j : Nat} : (actChunk c d f j).mem = d.mem := by simp [actChunk]
@[simp] theorem ddrMove_wf {f : Flight} {n : Nat} (h : Memory.wf d.mem = true) : Memory.wf (ddrMove c d f n).mem = true := by
  unfold ddrMove
  split <;> simp +contextual [h]
@[simp] theorem actMove_wf {f : Flight} (h : Memory.wf d.mem = true) : Memory.wf (actMove c d f).mem = true := by
  unfold actMove
  split <;> simp +contextual [h]
@[simp] theorem startMove_mem {f : Flight} : (startMove d f).mem = d.mem := by
  unfold startMove
  dsimp only
  (repeat' split) <;> simp
@[simp] theorem idleWord_mem {p w : Nat} {desc : List Byte} : (idleWord d p w desc).mem = d.mem := by simp [idleWord]

/-! Vector words. -/

@[simp] theorem noteVec_mem {f : Flight} {v : VecD} {op r lo cnt : Nat} : (noteVec c d f v op r lo cnt).mem = d.mem := by simp [noteVec]
@[simp] theorem actGroup_mem {f : Flight} {i : Nat} : (actGroup c d f i).mem = d.mem := by simp [actGroup]
@[simp] theorem actMaxabs_mem {f : Flight} {i : Nat} : (actMaxabs c d f i).mem = d.mem := by simp [actMaxabs]
@[simp] theorem actRowstat_mem {f : Flight} {i : Nat} : (actRowstat c d f i).mem = d.mem := by simp [actRowstat]
@[simp] theorem startVector_mem {f : Flight} : (startVector d f).mem = d.mem := rfl
@[simp] theorem actVector_mem {f : Flight} {i : Nat} : (actVector c d f i).mem = d.mem := by simp [actVector]

/-! Window words. -/

@[simp] theorem noteTaps_mem {f : Flight} {p : Plane} {ts : List Tap} : (noteTaps c d f p ts).mem = d.mem := by
  unfold noteTaps
  dsimp only
  (repeat' split) <;> simp
@[simp] theorem noteFilter_mem {f : Flight} {v : WinD} : (noteFilter c d f v).mem = d.mem := by simp [noteFilter]
@[simp] theorem actWindow_mem {f : Flight} : (actWindow c d f).mem = d.mem := by simp [actWindow]
@[simp] theorem startWindow_mem {f : Flight} : (startWindow d f).mem = d.mem := rfl

/-! Flights run and words offered. -/

@[simp] theorem abandon_mem {id : Nat} : (abandon d id).mem = d.mem := rfl
@[simp] theorem addSats_mem {n g k : Nat} : (addSats d n g k).mem = d.mem := rfl
@[simp] theorem actSlabEnd_mem {f : Flight} : (actSlabEnd c d f).mem = d.mem := by simp [actSlabEnd]
@[simp] theorem actWhole_wf {f : Flight} (h : Memory.wf d.mem = true) : Memory.wf (actWhole c d f).mem = true := by
  unfold actWhole
  split <;> simp +contextual [h]
@[simp] theorem actPart_wf {f : Flight} {i : Nat} (h : Memory.wf d.mem = true) : Memory.wf (actPart c d f i).mem = true := by
  unfold actPart
  split <;> simp +contextual [h]
@[simp] theorem actCycle_wf {f : Flight} {j : Nat} (h : Memory.wf d.mem = true) : Memory.wf (actCycle c d f j).mem = true := by
  unfold actCycle
  split <;> simp +contextual [h]
@[simp] theorem actEntry_wf {f : Flight} {k : Nat} (h : Memory.wf d.mem = true) : Memory.wf (actEntry c d f k).mem = true := by
  unfold actEntry
  split <;> simp +contextual [h]
@[simp] theorem runAct_wf {f : Flight} {a : Act} (h : Memory.wf d.mem = true) : Memory.wf (runAct c d f a).mem = true := by
  unfold runAct
  split <;> simp +contextual [h]
@[simp] theorem runEv_wf {e : Ev} (h : Memory.wf d.mem = true) : Memory.wf (runEv c d e).mem = true := by
  unfold runEv
  dsimp only
  split
  · exact runPhase_wf h
  · split
    · simpa
    · split
      · exact h
      · split
        · split
          · simpa
          · exact runAct_wf h
        · split
          · simpa
          · exact runAct_wf h
@[simp] theorem drainTo_wf {stop n : Nat} {d : Dev} (h : Memory.wf d.mem = true) : Memory.wf (drainTo c stop n d).mem = true := by
  induction n generalizing d with
  | zero => exact h
  | succ n ih =>
    unfold drainTo
    split
    · exact h
    · split
      · exact h
      · exact ih (runEv_wf (by simpa))
@[simp] theorem advanceTo_wf {cycle : Nat} (h : Memory.wf d.mem = true) : Memory.wf (advanceTo c d cycle).mem = true := by
  unfold advanceTo
  rw [tamboursDue_mem, elapse_mem]
  exact drainTo_wf h
@[simp] theorem drainReads_wf {cycle n : Nat} {d : Dev} (h : Memory.wf d.mem = true) : Memory.wf (drainReads c cycle n d).mem = true := by
  induction n generalizing d with
  | zero => exact h
  | succ n ih =>
    unfold drainReads
    split
    · exact h
    · split
      · exact h
      · exact ih (runEv_wf h)
@[simp] theorem reachIssue_wf {cycle : Nat} (h : Memory.wf d.mem = true) : Memory.wf (reachIssue c d cycle).mem = true :=
  drainReads_wf (advanceTo_wf h)
@[simp] theorem readWord_mem {img : List Byte} {p i : Nat} : (readWord c d img p i).1.mem = d.mem := by simp [readWord]
@[simp] theorem readDescs_mem {img : List Byte} {p : Nat} {is : List Nat} : (readDescs c d img p is).mem = d.mem := by simp [readDescs]
@[simp] theorem startWord_mem {f : Flight} : (startWord d f).mem = d.mem := by
  unfold startWord
  split <;> simp
@[simp] theorem offer_mem {p i w : Nat} {desc aux : List Byte} {dur : Nat} {step : Option Nat} :
    (offer c d p i w desc aux dur step).mem = d.mem := by
  unfold offer
  dsimp only
  (repeat' split) <;> simp
@[simp] theorem markIssued_mem {p i : Nat} {desc : Option Nat} : (markIssued d p i desc).mem = d.mem := rfl
@[simp] theorem issueWord_wf {p i cls op : Nat} (h : Memory.wf d.mem = true) : Memory.wf (issueWord c d p i cls op).mem = true := by
  unfold issueWord
  dsimp only
  split
  · exact h
  · split
    · exact h
    · split
      · exact h
      · split
        · simp [h]
        · split <;> simp [h]
@[simp] theorem issueSlabWork_wf {s : Dev} {p i di w kind dur : Nat} {ok : Bool} (h : Memory.wf s.mem = true) :
    Memory.wf (issueSlabWork c s p i di w kind dur ok).mem = true := by
  unfold issueSlabWork
  dsimp only
  split
  · exact h
  · split
    · exact h
    · split
      · exact h
      · simp [h]

/-! Time passes. -/

theorem passCycles_wf {e : Dev} {k : Nat} (h : Memory.wf d.mem = true) (he : passCycles c d k = some e) : Memory.wf e.mem = true := by
  have h1 : Memory.wf (elapse d k).mem = true := by simpa
  unfold passCycles at he
  generalize elapse d k = x at he h1
  generalize hy : advanceTo c d (d.clk.offset + k) = y at he
  split_ifs at he
  · cases he; exact h
  · cases he; exact h1
  · cases he; rw [← hy]; exact advanceTo_wf h
theorem atTick_wf {n : Nat} {f : Dev → Dev} (h : Memory.wf d.mem = true) (hf : ∀ e, Memory.wf e.mem = true → Memory.wf (f e).mem = true) :
    Memory.wf (atTick c d n f).mem = true := by
  unfold atTick
  split
  case h_1 e he => exact hf e (passCycles_wf h he)
  case h_2 => exact h
theorem atDue_wf {due : Dev → Option Nat} {f : Dev → Nat → Dev} (h : Memory.wf d.mem = true)
    (hf : ∀ e n, Memory.wf e.mem = true → Memory.wf (f e n).mem = true) : Memory.wf (atDue c d due f).mem = true := by
  unfold atDue
  split
  · refine atTick_wf h fun e he => ?_
    split
    · exact hf _ _ he
    · exact he
  · exact h
theorem atCycle_wf {n : Nat} {f : Dev → Dev} (h : Memory.wf d.mem = true) (hf : ∀ e, Memory.wf e.mem = true → Memory.wf (f e).mem = true) :
    Memory.wf (atCycle c d n f).mem = true := by
  unfold atCycle
  split
  case h_1 e he => exact hf e (passCycles_wf h he)
  case h_2 => exact h

/-! Power, boot and resets. -/

@[simp] theorem freshSession_mem : (freshSession d).mem = d.mem := rfl
@[simp] theorem dropXfer_mem : (dropXfer d).mem = d.mem := by
  unfold dropXfer
  split <;> simp
@[simp] theorem coreReset_wf : Memory.wf (coreReset d).mem = true := rfl
@[simp] theorem cutBoot_mem : (cutBoot d).mem = d.mem := by simp [cutBoot]
@[simp] theorem endReset_mem : (endReset d).mem = d.mem := by simp [endReset]
@[simp] theorem sessionReset_mem : (sessionReset d).mem = d.mem := by simp [sessionReset]
@[simp] theorem bootElapse_mem {micros : Nat} : (bootElapse d micros).mem = d.mem := by simp [bootElapse]
@[simp] theorem bootWith_mem {f : FlashRead} {micros : Word} {sel : Bool} {bank : Option Bool} {fell : Bool} :
    (bootWith d f micros sel bank fell).mem = d.mem := by
  simp [bootWith]
@[simp] theorem restoreSel_mem : (restoreSel d).mem = d.mem := by
  unfold restoreSel
  split <;> simp
@[simp] theorem switchEnd_mem {busy : Option (BitVec 16 × BitVec 16)} {wrote : Option Bool} : (switchEnd d busy wrote).mem = d.mem := by
  unfold switchEnd
  split <;> simp
@[simp] theorem formerBank_mem : (formerBank d).mem = d.mem := by
  unfold formerBank
  dsimp only
  split <;> simp
@[simp] theorem ddrOnly_wf (h : Memory.wf d.mem = true) : Memory.wf (ddrOnly d).mem = true := by simp [ddrOnly, h]
@[simp] theorem enterSleep_wf (h : Memory.wf d.mem = true) : Memory.wf (enterSleep c d).mem = true := by simp [enterSleep, h]
@[simp] theorem wake_wf (h : Memory.wf d.mem = true) : Memory.wf (wake d).mem = true := by simp [wake, h]
@[simp] theorem resetShared_mem : (resetShared d).mem = d.mem := rfl
@[simp] theorem emptyTx_mem {x : Nat} : (emptyTx d x).mem = d.mem := rfl
@[simp] theorem unitToReset_wf {u : Nat} (h : Memory.wf d.mem = true) : Memory.wf (unitToReset d u).mem = true := by simp [unitToReset, h]

/-! The Stitch boundary. -/

@[simp] theorem lateLeft_mem : (lateLeft d).mem = d.mem := by simp [lateLeft]
@[simp] theorem judgePart_mem {x : Units × Dev} {p : Nat} : (judgePart x p).2.mem = x.2.mem := by
  unfold judgePart
  dsimp only
  (repeat' split) <;> simp
@[simp] theorem markBob_mem {x : Units × Dev} {n : Nat} : (markBob x n).2.mem = x.2.mem := by
  unfold markBob
  dsimp only
  (repeat' split) <;> simp
@[simp] theorem reportPart_mem {p : Nat} : (reportPart c d p).mem = d.mem := by simp [reportPart]
@[simp] theorem clearStitch_mem : (clearStitch d).mem = d.mem := by
  have he : ((List.range 8).foldl cutPlan d).mem = d.mem := foldl_mem fun _ _ => cutPlan_mem
  unfold clearStitch
  generalize (List.range 8).foldl cutPlan d = e at he ⊢
  exact he
@[simp] theorem tripHalt_mem {x : Units × Dev} : (tripHalt x).2.mem = x.2.mem := by
  unfold tripHalt
  dsimp only
  split <;> simp
@[simp] theorem commitSwap_mem : (commitSwap c d).mem = d.mem := by simp [commitSwap]
@[simp] theorem recheck_mem {p : Nat} : (recheck c d p).mem = d.mem := by simp [recheck]
@[simp] theorem commitReq_mem {x : Units × Dev} {u : Nat} : (commitReq x u).2.mem = x.2.mem := by
  unfold commitReq
  dsimp only
  split <;> simp
@[simp] theorem commitWord_mem {e : Nat × Word} : (commitWord d e).mem = d.mem := by
  unfold commitWord
  dsimp only
  (repeat' split) <;> simp
@[simp] theorem holdTamb_mem {l : List (Nat × Word)} {t : Nat} : (holdTamb l d t).mem = d.mem := rfl
@[simp] theorem commitShadows_mem : (commitShadows d).mem = d.mem := by
  unfold commitShadows
  refine (foldl_mem fun _ _ => commitWord_mem).trans ?_
  exact foldl_mem fun _ _ => holdTamb_mem
@[simp] theorem earlyTime_mem : (earlyTime d).mem = d.mem := by simp [earlyTime]
@[simp] theorem commitTime_mem : (commitTime d).mem = d.mem := by simp [commitTime]
@[simp] theorem followPart_wf {c0 : Units} {x : Units × Dev} {p : Nat} (h : Memory.wf x.2.mem = true) :
    Memory.wf (followPart c0 x p).2.mem = true := by
  unfold followPart
  dsimp only
  split
  · exact h
  · split
    · simpa
    · split
      · rw [setPart_mem]
        exact foldl_wf h fun _ _ he => freeCtx_wf he
      · exact h
@[simp] theorem followRx_wf {c0 : Units} {x : Nat} (h : Memory.wf d.mem = true) : Memory.wf (followRx c0 c d x).mem = true := by
  simp +contextual [followRx, h]
@[simp] theorem followTx_mem {c0 : Units} {x : Nat} : (followTx c0 c d x).mem = d.mem := by simp [followTx]
@[simp] theorem followDdr_mem {c0 : Units} : (followDdr c0 c d).mem = d.mem := by simp [followDdr]
@[simp] theorem followStores_mem : (followStores c d).mem = d.mem := by simp [followStores]
@[simp] theorem followTamb_mem {t : Nat} : (followTamb c d t).mem = d.mem := by simp [followTamb]
@[simp] theorem followTambs_mem : (followTambs c d).mem = d.mem := by
  unfold followTambs
  rw [tamboursLater_mem, tamboursDue_mem]
  exact foldl_mem fun _ _ => followTamb_mem
@[simp] theorem commitSubmit_wf {s : Submit} (h : Memory.wf d.mem = true) : Memory.wf (commitSubmit c d s).mem = true := by
  unfold commitSubmit
  extract_lets seq drop
  have hdrop : Memory.wf drop.mem = true := by simpa [drop]
  clear_value drop
  split
  · exact hdrop
  · split
    · exact hdrop
    · split
      · split
        · exact hdrop
        · exact beginJob_wf h
      · split
        · split
          · exact closeJob_wf h
          · exact hdrop
        · exact hdrop
@[simp] theorem endJobSeqs_mem {j : Job} {cause : Nat} : (endJobSeqs c d j cause).mem = d.mem := by simp [endJobSeqs]
@[simp] theorem commitCancel_mem {e : Nat × Word} : (commitCancel c d e).mem = d.mem := by
  unfold commitCancel
  split <;> simp
@[simp] theorem rereadPart_wf {c0 : Units} {p : Nat} (h : Memory.wf d.mem = true) : Memory.wf (rereadPart c0 c d p).mem = true := by
  unfold rereadPart
  split
  · exact h
  · refine foldl_wf h fun e j he => ?_
    extract_lets e1 e2 e3 e4
    have h2 : Memory.wf e2.mem = true := foldl_wf (by simpa [e1]) fun _ _ hx => freeCtx_wf hx
    have h4 : e4.mem = e2.mem := by simp [e4, e3]
    clear_value e4
    split <;> simpa [h4]
@[simp] theorem commitPower_wf (h : Memory.wf d.mem = true) : Memory.wf (commitPower c d).mem = true := by
  unfold commitPower
  split <;> simp +contextual [h]
@[simp] theorem numberJobs_mem : (numberJobs d).mem = d.mem := foldl_mem fun _ _ => rfl
@[simp] theorem snapshot_mem : (snapshot c d).mem = d.mem := by simp [snapshot]
@[simp] theorem boundaryUnits_wf {c0 : Units} (h : Memory.wf d.mem = true) : Memory.wf (boundaryUnits c0 d).2.mem = true := by
  unfold boundaryUnits
  extract_lets ps _ x y z
  have hx : x.2.mem = d.mem := by simp [x]
  have hy : y.2.mem = x.2.mem := by simp [y]
  have hz : z.2.mem = y.2.mem := by simp [z]
  clear_value z
  exact foldl_wf_snd (by rw [hz, hy, hx]; exact h) fun _ _ he => followPart_wf he
@[simp] theorem boundaryRest_wf {c0 : Units} (h : Memory.wf d.mem = true) : Memory.wf (boundaryRest c0 c d).mem = true := by
  unfold boundaryRest
  extract_lets e1 e2 e3 e4 subs cans e5 e6 e7 e8
  have h2 : Memory.wf e2.mem = true := foldl_wf (d := e1) (by simpa [e1]) fun _ _ he => followRx_wf he
  have h4 : e4.mem = e2.mem := by simp [e4, e3]
  have h5 : Memory.wf e5.mem = true := foldl_wf (by rw [h4]; exact h2) fun _ _ he => rereadPart_wf he
  clear_value e5
  have h6 : Memory.wf e6.mem = true := foldl_wf (d := { e5 with submits := [], cancels := [] }) h5 fun _ _ he => commitSubmit_wf he
  have h7 : e7.mem = e6.mem := by simp [e7]
  rw [← h7] at h6
  clear_value e7
  have h8 : Memory.wf e8.mem = true := commitPower_wf (by simpa)
  simpa
@[simp] theorem boundaryZero_wf {c0 : Units} (h : Memory.wf d.mem = true) : Memory.wf (boundaryZero c0 d).2.mem = true :=
  boundaryRest_wf (boundaryUnits_wf h)
@[simp] theorem boundary_wf {s : State} (h : Memory.wf s.dev.mem = true) : Memory.wf (boundary s).dev.mem = true := by simp [boundary, h]
@[simp] theorem tick_wf {s : State} (h : Memory.wf s.dev.mem = true) : Memory.wf (tick s).dev.mem = true := by
  unfold tick
  dsimp only
  split
  · exact h
  · split
    · split <;> exact h
    · split
      · split
        · simp [h]
        · simp [h]
      · simpa

/-! Host commands. -/

@[simp] theorem refusePacket_mem {op tag : BitVec 16} {status : Nat} : (refusePacket d op tag status).mem = d.mem := by simp [refusePacket]
theorem takeCmd_wf {r : CmdRow} {ok : Dev → List Byte → Bool} {w : HostWrite} {act : Dev → BitVec 16 → List Byte → Dev} (h : Memory.wf d.mem = true)
    (hf : ∀ e tag b, Memory.wf e.mem = true → Memory.wf (act e tag b).mem = true) : Memory.wf (takeCmd r ok d w act).mem = true := by
  unfold takeCmd
  split
  · exact h
  · dsimp only
    split
    · simpa
    · exact hf _ _ _ h
theorem hostCmd_wf {r : CmdRow} {ok : Dev → List Byte → Bool} {w : HostWrite} {act : Dev → List Byte → Dev × Nat × List Byte}
    (h : Memory.wf d.mem = true)
    (hf : ∀ e b, Memory.wf e.mem = true → Memory.wf (act e b).1.mem = true) : Memory.wf (hostCmd r ok d w act).mem = true :=
  takeCmd_wf h fun e _ b he => hf e b he
@[simp] theorem doHello_mem {b : List Byte} : (doHello d b).1.mem = d.mem := by simp [doHello]
@[simp] theorem doStart_mem {b : List Byte} : (doStart c d b).1.mem = d.mem := by simp [doStart]
@[simp] theorem doHalt_mem {b : List Byte} : (doHalt c d b).1.mem = d.mem := by simp [doHalt]
@[simp] theorem doSubmit_mem {b : List Byte} : (doSubmit c d b).1.mem = d.mem := by simp [doSubmit]
@[simp] theorem doCancel_mem {b : List Byte} : (doCancel d b).1.mem = d.mem := by simp [doCancel]
@[simp] theorem doTableSwap_mem {x : List Byte} : (doTableSwap c d x).1.mem = d.mem := by simp [doTableSwap]
@[simp] theorem doCalibrate_mem {b : List Byte} : (doCalibrate c d b).1.mem = d.mem := by simp [doCalibrate]
@[simp] theorem doAdapt_mem {b : List Byte} : (doAdapt c d b).1.mem = d.mem := by
  unfold doAdapt
  dsimp only
  split <;> simp
@[simp] theorem doPower_mem {b : List Byte} : (doPower c d b).1.mem = d.mem := by simp [doPower]
@[simp] theorem powerCmd_wf {w : HostWrite} (h : Memory.wf d.mem = true) : Memory.wf (powerCmd c d w).mem = true :=
  takeCmd_wf h fun e tag b he => by
    split <;> simp [he]
@[simp] theorem doStatus_mem {x : List Byte} : (doStatus c d x).1.mem = d.mem := rfl
@[simp] theorem ackLog_mem {upto : Nat} : (ackLog d upto).mem = d.mem := by simp [ackLog]
@[simp] theorem doLog_mem {b : List Byte} : (doLog d b).1.mem = d.mem := by simp [doLog]

/-! The bus. -/

theorem directCmd_wf {da : BitVec 7} {f : Dev → Dev × List Byte} (h : Memory.wf d.mem = true) (hf : Memory.wf (f d).1.mem = true) :
    Memory.wf (directCmd d da f).mem = true := by
  unfold directCmd
  split
  · exact hf
  · exact h

/-! Register reads. -/

@[simp] theorem winRead_mem {a : Nat} : (winRead c d a).1.mem = d.mem := by simp [winRead]
@[simp] theorem coefNext_mem {t : Nat} : (coefNext d t).mem = d.mem := rfl
@[simp] theorem ctxWord_mem : (ctxWord c d).1.mem = d.mem := by
  unfold ctxWord
  dsimp only
  split <;> simp
@[simp] theorem ctxNext_mem : (ctxNext d).mem = d.mem := rfl
@[simp] theorem latchHigh_mem {r : RegAt} : (latchHigh d r).mem = d.mem := by
  unfold latchHigh
  split <;> simp
@[simp] theorem regRead_mem {a : Nat} {shadow : Bool} : (regRead c d a shadow).1.mem = d.mem := by
  unfold regRead
  dsimp only
  (repeat' split) <;> simp
@[simp] theorem regWord_mem {a : Nat} {shadow : Bool} : (regWord c d a shadow).1.mem = d.mem := by simp [regWord]
@[simp] theorem regWords_mem {sh : Bool} {n a : Nat} : (regWords c sh n a d).1.mem = d.mem := by
  induction n generalizing a d with
  | zero => rfl
  | succ n ih => exact ih.trans regWord_mem
@[simp] theorem doRead_mem {a n : Nat} {shadow : Bool} : (doRead c d a n shadow).1.mem = d.mem := by
  unfold doRead
  dsimp only
  split <;> simp
@[simp] theorem regReadCmd_wf {w : HostWrite} (h : Memory.wf d.mem = true) : Memory.wf (regReadCmd c d w).mem = true :=
  hostCmd_wf h fun _ _ he => by simpa
@[simp] theorem readBlockCmd_wf {w : HostWrite} (h : Memory.wf d.mem = true) : Memory.wf (readBlockCmd c d w).mem = true :=
  hostCmd_wf h fun e b he => by simpa
@[simp] theorem readLow_wf {b : Bus} {a : Nat} {block : Bool} (h : Memory.wf d.mem = true) : Memory.wf (readLow c d b a block).mem = true := by
  unfold readLow
  split
  · exact readBlockCmd_wf h
  · exact regReadCmd_wf h

/-! Register writes. -/

@[simp] theorem enableReq_mem {u : Nat} {on : Bool} : (enableReq c d u on).mem = d.mem := rfl
@[simp] theorem extentReq_mem {p count : Nat} : (extentReq c d p count).mem = d.mem := by simp [extentReq]
@[simp] theorem clearBits_mem {r : RegAt} {v : Nat} : (clearBits d r v).mem = d.mem := by
  unfold clearBits
  split <;> simp
@[simp] theorem clearTamb_mem {t : Nat} : (clearTamb d t).mem = d.mem := rfl
@[simp] theorem clearCounts_mem {r : RegAt} {v : Nat} : (clearCounts d r v).mem = d.mem := by
  unfold clearCounts
  dsimp only
  (repeat' split) <;> simp
@[simp] theorem actNow_wf {r : RegAt} {v : Nat} (h : Memory.wf d.mem = true) : Memory.wf (actNow c d r v).mem = true := by
  unfold actNow
  split <;> simp +contextual [h]
@[simp] theorem ask_mem {r : RegAt} {v : Nat} : (ask c d r v).mem = d.mem := by
  unfold ask
  split
  · simp
  · split <;> simp
@[simp] theorem shadowWrite_mem {r : RegAt} {a v : Nat} : (shadowWrite c d r a v).1.mem = d.mem := by simp [shadowWrite]
@[simp] theorem regWriteAt_wf {a v : Nat} (h : Memory.wf d.mem = true) : Memory.wf (regWriteAt c d a v).1.mem = true := by
  unfold regWriteAt
  dsimp only
  split <;> simp +contextual [h]
@[simp] theorem winWrite_wf {a v : Nat} (h : Memory.wf d.mem = true) : Memory.wf (winWrite c d a v).1.mem = true := by simp [winWrite, h]
@[simp] theorem doWrite_wf {a v : Nat} (h : Memory.wf d.mem = true) : Memory.wf (doWrite c d a v).1.mem = true := by simp [doWrite, h]
@[simp] theorem regWriteCmd_wf {w : HostWrite} (h : Memory.wf d.mem = true) : Memory.wf (regWriteCmd c d w).mem = true :=
  hostCmd_wf h fun _ _ he => doWrite_wf he
@[simp] theorem writeReg_wf {b : Bus} {r : Reg} {i v : Nat} (h : Memory.wf d.mem = true) : Memory.wf (writeReg c d b r i v).mem = true := by
  simp [writeReg, h]

/-! Loads. -/

theorem loadStaged_wf {b : List Byte} {finish : Finish} (h : Memory.wf d.mem = true)
    (hf : ∀ e img, Memory.wf e.mem = true → Memory.wf (finish c e b img).1.mem = true) : Memory.wf (loadStaged c d b finish).1.mem = true := by
  unfold loadStaged
  dsimp only
  split
  · exact h
  · exact hf _ _ (by simpa)
@[simp] theorem gather_wf {rom : Bool} {o : Nat} {bs : List Byte} (h : Memory.wf d.mem = true) : Memory.wf (gather c d rom o bs).mem = true := by
  simp [gather, h]
@[simp] theorem gathered_mem {x : Xfer} : (gathered c d x).1.mem = d.mem := by simp [gathered]
theorem loadMore_wf {x : Xfer} {b : List Byte} {finish : Finish} (h : Memory.wf d.mem = true)
    (hf : ∀ e img, Memory.wf e.mem = true → Memory.wf (finish c e b img).1.mem = true) : Memory.wf (loadMore c d x b finish).1.mem = true := by
  unfold loadMore
  dsimp only
  split
  · simpa
  · split
    · exact hf _ _ (by simp [h])
    · exact gather_wf h
theorem loadCmd_wf {op : BitVec 16} {b : List Byte} {refused : Dev → Bool} {start : Dev → Dev} {finish : Finish} (h : Memory.wf d.mem = true)
    (hs : ∀ e, (start e).mem = e.mem) (hf : ∀ e img, Memory.wf e.mem = true → Memory.wf (finish c e b img).1.mem = true) :
    Memory.wf (loadCmd op c d b refused start finish).1.mem = true := by
  have hx : Memory.wf (dropXfer d).mem = true := by simpa
  unfold loadCmd
  generalize dropXfer d = x at hx ⊢
  extract_lets rom _ y
  have hy : Memory.wf y.mem = true := by simpa [y, hs]
  clear_value y rom
  generalize (if rom = true then ldStaged b else !stageReady d) = unready
  split
  · split
    · split <;> assumption
    · split
      · exact h
      · split
        · exact h
        · split
          · exact h
          · split
            · exact loadStaged_wf hy hf
            · exact loadMore_wf hy hf
  · split
    · exact h
    · split
      · exact h
      · split
        · exact loadMore_wf h hf
        · exact hx
theorem finishPricking_wf {b img : List Byte} (h : Memory.wf d.mem = true) : Memory.wf (finishPricking c d b img).1.mem = true := by
  unfold finishPricking
  dsimp only
  split
  · exact h
  · split
    · simpa
    · split
      · simpa
      · simp [h]
@[simp] theorem doVerify_mem {b : List Byte} : (doVerify c d b).1.mem = d.mem := by
  unfold doVerify
  dsimp only
  (repeat' split) <;> simp
theorem finishTable_wf {b img : List Byte} (h : Memory.wf d.mem = true) : Memory.wf (finishTable c d b img).1.mem = true := by
  unfold finishTable
  dsimp only
  split
  · exact h
  · split <;> simp [h]
@[simp] theorem fwStart_mem : (fwStart d).mem = d.mem := rfl
theorem finishFw_wf {b img : List Byte} (h : Memory.wf d.mem = true) : Memory.wf (finishFw c d b img).1.mem = true := by
  unfold finishFw
  dsimp only
  split
  · exact h
  · split <;> exact h
@[simp] theorem doSwitch_mem {op tag : BitVec 16} : (doSwitch d op tag).mem = d.mem := by simp [doSwitch]

end

/-! ### No command leaves a memory out of its canonical form -/

section
variable {s : State} (h : Memory.wf s.dev.mem = true)
include h

theorem leavesWf_onDev_of {f : Units → Dev → Dev} (hf : ∀ c d, Memory.wf d.mem = true → Memory.wf (f c d).mem = true) : LeavesWf (onDev f s) :=
  (leavesWf_onDev f s).2 (hf _ _ h)

theorem leavesWf_writeReg {b : Bus} {r : Reg} {i v : Nat} : LeavesWf (onDev (fun c d => writeReg c d b r i v) s) :=
  leavesWf_onDev_of h fun _ _ hd => writeReg_wf hd

theorem leavesWf_directCmd {da : BitVec 7} {f : Dev → Dev × List Byte} (hf : ∀ d, (f d).1.mem = d.mem) :
    LeavesWf (onDev (fun _ d => directCmd d da f) s) :=
  leavesWf_onDev_of h fun _ d hd => directCmd_wf hd ((hf d).symm ▸ hd)

/-- An event of a Tambour at its tick. -/
theorem leavesWf_atDue {due : Dev → Option Nat} {f : Dev → Nat → Dev} (hf : ∀ d n, (f d n).mem = d.mem) :
    LeavesWf (onDev (fun c d => atDue c d due f) s) :=
  leavesWf_onDev_of h fun _ _ hd => atDue_wf hd fun e n he => (hf e n).symm ▸ he

theorem leavesWf_opsWord {i : Instr} {p k cls op : Nat} (hi : opsWord i = some (p, k, cls, op)) : LeavesWf (exec i s) := by
  rw [(exec_opsWord hi s).2]
  exact (leavesWf_next _).2 (issueWord_wf h)

/-! The packets of the input streams. -/

theorem execFrameStart_leavesWf {r : RxHdr} {number : BitVec 16} : LeavesWf (execFrameStart r number s) :=
  leavesWf_onDev_of h fun c d hd => rxIn_wf hd fun e he => by
    extract_lets x v mode now e1 e2 e3
    have h1 : Memory.wf e2.mem = true := by
      unfold e2
      split <;> exact he
    have h3 : Memory.wf e3.mem = true := by
      unfold e3
      split
      · exact closeJob_wf h1
      · exact h1
    clear_value e3
    split
    · exact he
    · split
      · exact h1
      · split
        · exact h3
        · simpa

theorem execFrameEnd_leavesWf {r : RxHdr} {number : BitVec 16} : LeavesWf (execFrameEnd r number s) :=
  leavesWf_onDev_of h fun c d hd => rxIn_wf hd fun e he => by
    split
    · exact closeJob_wf he
    · exact he

theorem execLineStart_leavesWf {r : RxHdr} {number : BitVec 16} : LeavesWf (execLineStart r number s) :=
  leavesWf_onDev_of h fun c d hd => rxIn_wf hd fun e he => by
    split <;> exact he

theorem execPixelLine_leavesWf {r : RxHdr} {dt : BitVec 6} {payload : List Byte} : LeavesWf (execPixelLine r dt payload s) :=
  leavesWf_onDev_of h fun c d hd => rxLong_wf hd fun e he => by
    extract_lets x v
    dsimp -zeta only
    split
    · exact he
    · split
      · exact lostLine_wf he
      · split
        · exact lostLine_wf he
        · split
          · split
            next y bytes st xa hy =>
              have hm := congrArg (fun q => q.1.mem) hy
              exact placeLine_wf (hm ▸ (tambLine_mem (d := e)).symm ▸ he)
            next y hy =>
              have hm := congrArg (fun q => q.1.mem) hy
              exact skipRow_wf (hm ▸ (tambLine_mem (d := e)).symm ▸ he)
          · exact placeLine_wf he

theorem execEmbeddedData_leavesWf {r : RxHdr} {payload : List Byte} : LeavesWf (execEmbeddedData r payload s) :=
  leavesWf_onDev_of h fun c d hd => rxLong_wf hd fun e he => by
    dsimp only
    split
    · exact he
    · split
      · exact he
      · split
        · exact he
        · split
          · exact he
          · rw [countNoJob_mem, setJob_mem]
            split
            · exact he
            · exact jobStore_wf he

theorem execCodedData_leavesWf {r : RxHdr} {payload : List Byte} : LeavesWf (execCodedData r payload s) :=
  leavesWf_onDev_of h fun c d hd => rxLong_wf hd fun e he => by
    dsimp only
    split
    · split <;> exact he
    · split
      · exact he
      · split
        · exact he
        · split
          · exact he
          · split
            · exact he
            · exact decodeRows_wf _ he

theorem execJobBegin_leavesWf {r : RxHdr} {pkt : Pkt} : LeavesWf (execJobBegin r pkt s) :=
  leavesWf_onDev_of h fun c d hd => inbandPacket_wf hd fun e p b he => by
    dsimp only
    split
    · exact he
    · split
      · split
        · exact closeJob_wf (by simpa)
        · simpa
      · exact beginJob_wf he

theorem execJobEnd_leavesWf {r : RxHdr} {pkt : Pkt} : LeavesWf (execJobEnd r pkt s) :=
  leavesWf_onDev_of h fun c d hd => inbandPacket_wf hd fun e p b he => namedJob_wf he fun j => by
    split
    · exact closeJob_wf he
    · exact he

theorem execPageMark_leavesWf {r : RxHdr} {pkt : Pkt} : LeavesWf (execPageMark r pkt s) :=
  leavesWf_onDev_of h fun _ _ hd => inbandPacket_wf hd fun _ _ _ he => namedJob_wf he fun _ => he

theorem execPacketDiscarded_leavesWf {r : RxHdr} {cause : DropCause} : LeavesWf (execPacketDiscarded r cause s) :=
  leavesWf_onDev_of h fun c d hd => by
    split
    · exact rxIn_wf hd fun e he => he
    · exact strayInband_wf hd
    · split <;> exact hd

theorem execTextInput_leavesWf {r : RxHdr} {payload : List Byte} : LeavesWf (execTextInput r payload s) :=
  leavesWf_onDev_of h fun c d hd => rxLong_wf hd fun e he => by
    extract_lets x v seq kind flags frag held take
    have ht : ∀ y g, (take y g).mem = y.mem := fun y g => by
      simp only [take]
      split <;> simp
    clear_value take
    split
    · exact he
    · split
      · simpa
      · split
        · simpa
        · split <;> (repeat' split) <;> simpa [ht]

theorem execBulkLoad_leavesWf {r : RxHdr} {payload : List Byte} : LeavesWf (execBulkLoad r payload s) :=
  leavesWf_onDev_of h fun c d hd => rxIn_wf hd fun e he => by
    extract_lets x e1 target flags id a data n first e2 b level crc e3 w e4
    have h1 : Memory.wf e1.mem = true := by unfold e1; split <;> exact he
    have h2 : Memory.wf e2.mem = true := by unfold e2; split <;> exact h1
    have h4 : Memory.wf e4.mem = true := by
      unfold e4
      split
      · exact ddrWrite_wf h2
      · exact store_wf h2
    have hf : ∀ k, Memory.wf (bulkFail e2 x id k).mem = true := fun k => by simpa
    clear_value e4 e2
    split
    · exact he
    · split
      · exact h2
      · split
        · exact hf _
        · split
          · exact hf _
          · split
            · exact hf _
            · split
              · exact hf _
              · split
                · exact hf _
                · split
                  · exact hf _
                  · split
                    · exact hf _
                    · exact h4

/-! Events that time brings. -/

theorem execDdrTrainingEnd_leavesWf {failed : Option (BitVec 4)} {sub : BitVec 3} : LeavesWf (execDdrTrainingEnd failed sub s) :=
  leavesWf_onDev_of h fun _ d hd => by
    split
    · exact hd
    · split
      · split
        · exact hd
        · simpa
      · simpa using trainDone_wf hd

theorem execPatrolScrub_leavesWf : LeavesWf (execPatrolScrub s) :=
  leavesWf_onDev_of h fun c d hd => by
    split
    · exact hd
    · split
      · exact scrubAt_wf hd
      · exact hd

theorem execPageEnd_leavesWf {p : Fin 8} {o : Nat} : LeavesWf (execPageEnd p o s) :=
  leavesWf_onDev_of h fun c d hd => by
    split
    · exact hd
    · split <;> simpa

theorem execOperationComplete_leavesWf : LeavesWf (execOperationComplete s) :=
  leavesWf_onDev_of h fun c d hd => by
    split
    · split
      · exact drainTo_wf (advanceTo_wf hd)
      · exact hd
    · exact hd

theorem execLate_leavesWf : LeavesWf (execLate s) :=
  leavesWf_onDev_of h fun c d hd => by
    split
    · split
      · exact drainTo_wf (advanceTo_wf hd)
      · exact hd
    · exact hd

theorem execCalComplete_leavesWf {t : Fin 4} : LeavesWf (execCalComplete t s) :=
  leavesWf_onDev_of h fun c d hd => by
    split
    · refine atCycle_wf hd fun e he => ?_
      split
      · exact calFinish_wf he
      · exact he
    · exact hd

theorem execCalTimeout_leavesWf {t : Fin 4} : LeavesWf (execCalTimeout t s) :=
  leavesWf_onDev_of h fun c d hd => by
    split
    · refine atCycle_wf hd fun e he => ?_
      split <;> simpa
    · exact hd

theorem execJobTimeout_leavesWf {port : Fin 4} {vc : Fin 16} : LeavesWf (execJobTimeout port vc s) :=
  leavesWf_onDev_of h fun c d hd => by
    split
    · split
      · exact atCycle_wf hd fun e he => closeJob_wf he
      · exact hd
    · exact hd

theorem execRecordSend_leavesWf {x : Fin 2} : LeavesWf (execRecordSend x s) :=
  leavesWf_onDev_of h fun c d hd => by
    split
    · exact hd
    · split
      · exact atCycle_wf hd fun e he => by simpa
      · exact hd

theorem execHsExit_leavesWf {x : Fin 2} : LeavesWf (execHsExit x s) :=
  leavesWf_onDev_of h fun c d hd => by
    split
    · refine atCycle_wf hd fun e he => ?_
      split <;> exact he
    · exact hd

theorem execHoldTimeout_leavesWf {x : Fin 2} : LeavesWf (execHoldTimeout x s) :=
  leavesWf_onDev_of h fun c d hd => by
    dsimp only
    split
    · exact atCycle_wf hd fun e he => by simpa
    · exact hd

theorem execSensorSample_leavesWf {now : List (BitVec 16)} : LeavesWf (execSensorSample now s) :=
  leavesWf_onDev_of h fun c d hd => by
    split
    · exact atCycle_wf hd fun e he => by simpa
    · exact hd

theorem execSelfRefreshReturn_leavesWf : LeavesWf (execSelfRefreshReturn s) :=
  leavesWf_onDev_of h fun c d hd => by
    split
    · exact atCycle_wf hd fun e he => he
    · exact hd

theorem execDramTempRead_leavesWf {hot : Bool} : LeavesWf (execDramTempRead hot s) :=
  leavesWf_onDev_of h fun c d hd => by
    split
    · exact atCycle_wf hd fun e he => he
    · exact hd

theorem execLoadTransferTimeout_leavesWf : LeavesWf (execLoadTransferTimeout s) :=
  leavesWf_onDev_of h fun c d hd => by
    split
    · split
      · exact atCycle_wf hd fun e he => by simpa
      · exact hd
    · exact hd

theorem execFwStartTimeout_leavesWf : LeavesWf (execFwStartTimeout s) :=
  leavesWf_onDev_of h fun c d hd => by
    split
    · exact atCycle_wf hd fun e he => by simpa
    · exact hd

theorem execNewFirmwareStarted_leavesWf {u : Unit} : LeavesWf (execNewFirmwareStarted u s) :=
  leavesWf_onDev_of h fun c d hd => by
    split
    · exact hd
    · dsimp only
      split <;> simpa

theorem execFwSwitch_leavesWf {w : HostWrite} : LeavesWf (execFwSwitch w s) :=
  leavesWf_onDev_of h fun _ _ hd => takeCmd_wf hd fun e tag b he => by
    split <;> simpa

theorem execEnecDisec_leavesWf {broadcast : Bool} {da : BitVec 7} {enable : Bool} {events : Byte} :
    LeavesWf (execEnecDisec broadcast da enable events s) :=
  leavesWf_onDev_of h fun _ _ hd => by
    split
    · exact hd
    · exact directCmd_wf hd hd

theorem execCoefDataAccess_leavesWf {b : Bus} {t : Fin 4} {write : Option Word} : LeavesWf (execCoefDataAccess b t write s) :=
  leavesWf_onDev_of h fun c _ hd => by
    split
    · exact writeReg_wf hd
    · exact regReadCmd_wf hd


/-! Host commands and register accesses. -/

theorem execHello_leavesWf {w : HostWrite} : LeavesWf (execHello w s) :=
  leavesWf_onDev_of h fun _ _ hd => hostCmd_wf hd fun _ _ he => by simpa
theorem execPartitionStart_leavesWf {w : HostWrite} : LeavesWf (execPartitionStart w s) :=
  leavesWf_onDev_of h fun _ _ hd => hostCmd_wf hd fun _ _ he => by simpa
theorem execPartitionHalt_leavesWf {w : HostWrite} : LeavesWf (execPartitionHalt w s) :=
  leavesWf_onDev_of h fun _ _ hd => hostCmd_wf hd fun _ _ he => by simpa
theorem execJobSubmitBegin_leavesWf {w : HostWrite} : LeavesWf (execJobSubmitBegin w s) :=
  leavesWf_onDev_of h fun _ _ hd => hostCmd_wf hd fun _ _ he => by simpa
theorem execJobSubmitEnd_leavesWf {w : HostWrite} : LeavesWf (execJobSubmitEnd w s) :=
  leavesWf_onDev_of h fun _ _ hd => hostCmd_wf hd fun _ _ he => by simpa
theorem execJobCancel_leavesWf {w : HostWrite} : LeavesWf (execJobCancel w s) :=
  leavesWf_onDev_of h fun _ _ hd => hostCmd_wf hd fun _ _ he => by simpa
theorem execTableSwap_leavesWf {w : HostWrite} : LeavesWf (execTableSwap w s) :=
  leavesWf_onDev_of h fun _ _ hd => hostCmd_wf hd fun _ _ he => by simpa
theorem execCalibrate_leavesWf {w : HostWrite} : LeavesWf (execCalibrate w s) :=
  leavesWf_onDev_of h fun _ _ hd => hostCmd_wf hd fun _ _ he => by simpa
theorem execAdaptRunStart_leavesWf {w : HostWrite} : LeavesWf (execAdaptRunStart w s) :=
  leavesWf_onDev_of h fun _ _ hd => hostCmd_wf hd fun _ _ he => by simpa
theorem execAdaptRunStop_leavesWf {w : HostWrite} : LeavesWf (execAdaptRunStop w s) :=
  leavesWf_onDev_of h fun _ _ hd => hostCmd_wf hd fun _ _ he => by simpa
theorem execAdaptRunCheckpoint_leavesWf {w : HostWrite} : LeavesWf (execAdaptRunCheckpoint w s) :=
  leavesWf_onDev_of h fun _ _ hd => hostCmd_wf hd fun _ _ he => by simpa
theorem execAdaptRunResume_leavesWf {w : HostWrite} : LeavesWf (execAdaptRunResume w s) :=
  leavesWf_onDev_of h fun _ _ hd => hostCmd_wf hd fun _ _ he => by simpa
theorem execStatusGet_leavesWf {w : HostWrite} : LeavesWf (execStatusGet w s) :=
  leavesWf_onDev_of h fun _ _ hd => hostCmd_wf hd fun _ _ he => by simpa
theorem execErrorLogRead_leavesWf {w : HostWrite} : LeavesWf (execErrorLogRead w s) :=
  leavesWf_onDev_of h fun _ _ hd => hostCmd_wf hd fun _ _ he => by simpa
theorem execPrickingVerify_leavesWf {w : HostWrite} : LeavesWf (execPrickingVerify w s) :=
  leavesWf_onDev_of h fun _ _ hd => hostCmd_wf hd fun _ _ he => by simpa
theorem execPartitionSet_leavesWf {w : HostWrite} : LeavesWf (execPartitionSet w s) :=
  leavesWf_onDev_of h fun _ _ hd => hostCmd_wf hd fun _ _ he => doWrite_wf he
theorem execPrickingLoad_leavesWf {w : HostWrite} : LeavesWf (execPrickingLoad w s) :=
  leavesWf_onDev_of h fun _ _ hd => hostCmd_wf hd fun _ _ he => loadCmd_wf he (fun _ => rfl) fun _ _ hx => finishPricking_wf hx
theorem execTableLoad_leavesWf {w : HostWrite} : LeavesWf (execTableLoad w s) :=
  leavesWf_onDev_of h fun _ _ hd => hostCmd_wf hd fun _ _ he => loadCmd_wf he (fun _ => rfl) fun _ _ hx => finishTable_wf hx
theorem execFwUpdate_leavesWf {w : HostWrite} : LeavesWf (execFwUpdate w s) :=
  leavesWf_onDev_of h fun _ _ hd => hostCmd_wf hd fun _ _ he => loadCmd_wf he (fun _ => fwStart_mem) fun _ _ hx => finishFw_wf hx
theorem execPowerState_leavesWf {w : HostWrite} : LeavesWf (execPowerState w s) :=
  (leavesWf_next _).2 (powerCmd_wf h)
theorem execRegRead_leavesWf {w : HostWrite} : LeavesWf (execRegRead w s) :=
  leavesWf_onDev_of h fun _ _ hd => regReadCmd_wf hd
theorem execRegReadBlock_leavesWf {w : HostWrite} : LeavesWf (execRegReadBlock w s) :=
  leavesWf_onDev_of h fun _ _ hd => readBlockCmd_wf hd
theorem execRegWrite_leavesWf {w : HostWrite} : LeavesWf (execRegWrite w s) :=
  leavesWf_onDev_of h fun _ _ hd => regWriteCmd_wf hd
theorem execGlobalTimeLoRead_leavesWf {b : Bus} {block : Bool} : LeavesWf (execGlobalTimeLoRead b block s) :=
  leavesWf_onDev_of h fun _ _ hd => readLow_wf hd
theorem execStitchCountLoRead_leavesWf {b : Bus} {block : Bool} : LeavesWf (execStitchCountLoRead b block s) :=
  leavesWf_onDev_of h fun _ _ hd => readLow_wf hd
theorem execBeatsLoRead_leavesWf {b : Bus} {n : Fin 8} {block : Bool} : LeavesWf (execBeatsLoRead b n block s) :=
  leavesWf_onDev_of h fun _ _ hd => readLow_wf hd
theorem execTableWindowRead_leavesWf {b : Bus} {n : Fin 4} {a : BitVec 18} : LeavesWf (execTableWindowRead b n a s) :=
  leavesWf_onDev_of h fun _ _ hd => regReadCmd_wf hd
theorem execCtxDataRead_leavesWf {b : Bus} : LeavesWf (execCtxDataRead b s) :=
  leavesWf_onDev_of h fun _ _ hd => regReadCmd_wf hd
theorem execTableWindowWrite_leavesWf {b : Bus} {n : Fin 4} {a : BitVec 18} {value : Word} : LeavesWf (execTableWindowWrite b n a value s) :=
  leavesWf_onDev_of h fun _ _ hd => regWriteCmd_wf hd

/-! Commands of the bus and of the test port. -/

theorem execPrivateRead_leavesWf {da : BitVec 7} {hdr : Bool} {code : Byte} {count : Nat} : LeavesWf (execPrivateRead da hdr code count s) := by
  simp [execPrivateRead, h]
theorem execPrivateWriteDiscarded_leavesWf {da : BitVec 7} : LeavesWf (execPrivateWriteDiscarded da s) := by
  simp [execPrivateWriteDiscarded, h]
theorem execUnknownOpcode_leavesWf {da : BitVec 7} {hdr : Option Byte} {bytes : List Byte} : LeavesWf (execUnknownOpcode da hdr bytes s) :=
  leavesWf_onDev_of h fun _ _ hd => by
    split
    · exact hd
    · dsimp only
      rw [refusePacket_mem]
      split <;> exact hd
theorem execEntdaa_leavesWf {da : BitVec 7} : LeavesWf (execEntdaa da s) :=
  leavesWf_onDev_of h fun _ _ hd => by
    split <;> exact hd
theorem execSetdasa_leavesWf {static da : BitVec 7} : LeavesWf (execSetdasa static da s) :=
  leavesWf_onDev_of h fun _ _ hd => by
    split <;> exact hd
theorem execRstdaa_leavesWf : LeavesWf (execRstdaa s) :=
  leavesWf_onDev_of h fun _ _ hd => by
    split <;> exact hd
theorem execEnthdr0_leavesWf : LeavesWf (execEnthdr0 s) :=
  leavesWf_onDev_of h fun _ _ hd => by
    split <;> exact hd
theorem execHdrExitPattern_leavesWf : LeavesWf (execHdrExitPattern s) :=
  leavesWf_onDev_of h fun _ _ hd => by
    split <;> exact hd
theorem execRstact_leavesWf {broadcast : Bool} {da : BitVec 7} {action : Byte} : LeavesWf (execRstact broadcast da action s) :=
  leavesWf_onDev_of h fun _ _ hd => by
    dsimp only
    split <;> exact hd
theorem execJtagUpdateIr_leavesWf {code : Byte} : LeavesWf (execJtagUpdateIr code s) :=
  leavesWf_onDev_of h fun _ _ hd => by
    dsimp only
    split <;> exact hd
theorem execJtagUpdateDr_leavesWf {value : BitVec 10} : LeavesWf (execJtagUpdateDr value s) :=
  leavesWf_onDev_of h fun _ _ hd => by
    split
    · split <;> exact hd
    · split <;> exact hd
theorem execJtagCaptureDr_leavesWf : LeavesWf (execJtagCaptureDr s) :=
  leavesWf_onDev_of h fun _ _ hd => by
    split <;> exact hd
theorem execFlashSpiTransferEnd_leavesWf {captured : Byte} : LeavesWf (execFlashSpiTransferEnd captured s) :=
  leavesWf_onDev_of h fun _ _ hd => by
    split <;> exact hd
theorem execTrstNLow_leavesWf : LeavesWf (execTrstNLow s) := leavesWf_onDev_of h fun _ _ hd => hd

/-! Resets, the boot and the clocks. -/

omit h in
theorem execPowerOnReset_leavesWf : LeavesWf (execPowerOnReset s) := (leavesWf_next _).2 rfl
theorem execPwrokRise_leavesWf {sa : BitVec 2} {testen : Bool} : LeavesWf (execPwrokRise sa testen s) :=
  leavesWf_onDev_of h fun _ _ hd => by
    split
    · exact hd
    · dsimp only
      split <;> exact hd
theorem execChipReset_leavesWf : LeavesWf (execChipReset s) := by simp [execChipReset, h]
theorem execResetNRelease_leavesWf : LeavesWf (execResetNRelease s) := by simp [execResetNRelease, h]
theorem execTargetReset_leavesWf : LeavesWf (execTargetReset s) := by simp [execTargetReset, h]
theorem execBootComplete_leavesWf {flash : FlashRead} {micros : Word} : LeavesWf (execBootComplete flash micros s) := by
  simp [execBootComplete, h]
theorem execStandbyCheckDone_leavesWf {bank : List Byte} : LeavesWf (execStandbyCheckDone bank s) :=
  leavesWf_onDev_of h fun _ _ hd => by
    split
    · exact hd
    · dsimp only
      split
      · exact hd
      · split <;> exact hd
theorem execFwProgramDone_leavesWf {matched : Bool} : LeavesWf (execFwProgramDone matched s) :=
  leavesWf_onDev_of h fun _ _ hd => by
    split
    · exact hd
    · split <;> exact hd
theorem execRefclkLost_leavesWf : LeavesWf (execRefclkLost s) :=
  leavesWf_onDev_of h fun _ _ hd => by
    split <;> exact hd
theorem execPllRelock_leavesWf : LeavesWf (execPllRelock s) :=
  leavesWf_onDev_of h fun _ _ hd => by
    split <;> exact hd
theorem execUnitResetDone_leavesWf : LeavesWf (execUnitResetDone s) := by simp [execUnitResetDone, h]
theorem execBistDone_leavesWf {n : Fin 8} {pass : Bool} {area : BitVec 4} {loc : Word} : LeavesWf (execBistDone n pass area loc s) := by
  simp [execBistDone, h]
theorem execStitchBoundary_leavesWf : LeavesWf (execStitchBoundary s) := by
  simp [execStitchBoundary, h]

/-! What the units do. -/

theorem execEncEdge_leavesWf {t : Fin 4} {a b : Bool} : LeavesWf (execEncEdge t a b s) :=
  leavesWf_onDev_of h fun _ _ hd => by simpa
theorem execTokenizeDone_leavesWf : LeavesWf (execTokenizeDone s) :=
  leavesWf_onDev_of h fun _ _ hd => by
    split <;> simpa
theorem execJobRelease_leavesWf {p : Fin 8} {o : Nat} : LeavesWf (execJobRelease p o s) :=
  leavesWf_onDev_of h fun _ _ hd => by
    split <;> simpa
theorem execOutHold_leavesWf {x : Fin 2} : LeavesWf (execOutHold x s) :=
  leavesWf_onDev_of h fun _ _ hd => by
    split <;> exact hd
theorem execOutHoldRelease_leavesWf {x : Fin 2} : LeavesWf (execOutHoldRelease x s) :=
  leavesWf_onDev_of h fun _ _ hd => by
    split <;> exact hd
theorem execDecode_leavesWf {p : Fin 8} {k d : Nat} : LeavesWf (execDecode p k d s) :=
  leavesWf_onDev_of h fun _ _ hd => issueSlabWork_wf hd
theorem execKvWrite_leavesWf {p : Fin 8} {k d : Nat} : LeavesWf (execKvWrite p k d s) :=
  leavesWf_onDev_of h fun _ _ hd => issueSlabWork_wf hd
theorem execDecide_leavesWf {p : Fin 8} {k d : Nat} : LeavesWf (execDecide p k d s) :=
  leavesWf_onDev_of h fun _ _ hd => issueSlabWork_wf hd
theorem execStageFillDone_leavesWf : LeavesWf (execStageFillDone s) := by simp [execStageFillDone, h]
theorem execBatchStaged_leavesWf : LeavesWf (execBatchStaged s) := by simp [execBatchStaged, h]
theorem execCheckpointDone_leavesWf : LeavesWf (execCheckpointDone s) := by
  simp [execCheckpointDone, h]
theorem execRestoreDone_leavesWf : LeavesWf (execRestoreDone s) := by simp [execRestoreDone, h]

end

/-! Every command, and every step. -/

theorem exec_leavesWf (i : Instr) {s : State} (h : Memory.wf s.dev.mem = true) : LeavesWf (exec i s) := by
  cases i with
  | nop | matmul | wload | add | sub | mul | fma | max | min | convert | exp | recip | rsqrt | maxabs | rowstat | lsCopy | psRead | psWrite
  | ddrRead | ddrWrite | ddrBcast | gather | depthwise | maxpool | avgpool | resample | crop | fwd | bwd | kvCreate | kvAppend | kvFree
  | kvService | txtFetch | emit | jobDone | slab | guard => exact leavesWf_opsWord h rfl
  | tambEnable | tambMode | coefSwap | rxinEnable | txPortEnable | outEnable | txtEnable | kvmEnable | adaptEnable | ddrEnable | bobbinOffline
  | encPosClear | tambCountsClear | rxinCountsClear | numCountsClear | perfCountsClear | kvmCountsClear | txtCountsClear | outCountsClear
  | adaptCountsClear | cmdCountsClear | ddrCountsClear | healthCountsClear | seccCountsClear | unitReset | bistStart | thermalTripClear
  | timeLoad => exact leavesWf_writeReg h
  | lineTrigger t => exact leavesWf_atDue h fun _ _ => acceptTrigger_mem
  | encTimeout t => exact leavesWf_atDue h fun _ _ => encGap_mem
  | stampCapture t => exact leavesWf_atDue h fun _ _ => pushStamp_mem
  | modeEffect t => exact leavesWf_atDue h fun _ _ => takeMode_mem
  | patternDone t => exact leavesWf_atDue h fun _ _ => patFinish_mem
  | patternStepEnd t => exact leavesWf_atDue h fun _ _ => patNext_mem
  | feedPeriodEnd t k => exact leavesWf_atDue h fun _ _ => rfl
  | getpid | getbcr | getdcr | getcaps | getmxds | getstatus => exact leavesWf_directCmd h fun _ => rfl
  | hello => exact execHello_leavesWf h
  | regRead => exact execRegRead_leavesWf h
  | regWrite => exact execRegWrite_leavesWf h
  | regReadBlock => exact execRegReadBlock_leavesWf h
  | prickingLoad => exact execPrickingLoad_leavesWf h
  | prickingVerify => exact execPrickingVerify_leavesWf h
  | partitionSet => exact execPartitionSet_leavesWf h
  | partitionStart => exact execPartitionStart_leavesWf h
  | partitionHalt => exact execPartitionHalt_leavesWf h
  | jobSubmitBegin => exact execJobSubmitBegin_leavesWf h
  | jobSubmitEnd => exact execJobSubmitEnd_leavesWf h
  | jobCancel => exact execJobCancel_leavesWf h
  | jobBegin => exact execJobBegin_leavesWf h
  | jobEnd => exact execJobEnd_leavesWf h
  | pageMark => exact execPageMark_leavesWf h
  | tableLoad => exact execTableLoad_leavesWf h
  | tableSwap => exact execTableSwap_leavesWf h
  | calibrate => exact execCalibrate_leavesWf h
  | adaptRunStart => exact execAdaptRunStart_leavesWf h
  | adaptRunStop => exact execAdaptRunStop_leavesWf h
  | adaptRunCheckpoint => exact execAdaptRunCheckpoint_leavesWf h
  | adaptRunResume => exact execAdaptRunResume_leavesWf h
  | powerState => exact execPowerState_leavesWf h
  | fwUpdate => exact execFwUpdate_leavesWf h
  | fwSwitch => exact execFwSwitch_leavesWf h
  | statusGet => exact execStatusGet_leavesWf h
  | errorLogRead => exact execErrorLogRead_leavesWf h
  | privateRead => exact execPrivateRead_leavesWf h
  | privateWriteDiscarded => exact execPrivateWriteDiscarded_leavesWf h
  | entdaa => exact execEntdaa_leavesWf h
  | setdasa => exact execSetdasa_leavesWf h
  | rstdaa => exact execRstdaa_leavesWf h
  | enecDisec _ _ enable events => exact execEnecDisec_leavesWf (enable := enable) (events := events) h
  | enthdr0 => exact execEnthdr0_leavesWf h
  | rstact => exact execRstact_leavesWf h
  | targetReset => exact execTargetReset_leavesWf h
  | globalTimeLoRead => exact execGlobalTimeLoRead_leavesWf h
  | stitchCountLoRead => exact execStitchCountLoRead_leavesWf h
  | beatsLoRead => exact execBeatsLoRead_leavesWf h
  | tableWindowRead => exact execTableWindowRead_leavesWf h
  | tableWindowWrite => exact execTableWindowWrite_leavesWf h
  | coefDataAccess => exact execCoefDataAccess_leavesWf h
  | ctxDataRead => exact execCtxDataRead_leavesWf h
  | unitResetDone => exact execUnitResetDone_leavesWf h
  | bistDone => exact execBistDone_leavesWf h
  | powerOnReset => exact execPowerOnReset_leavesWf
  | pwrokRise => exact execPwrokRise_leavesWf h
  | chipReset => exact execChipReset_leavesWf h
  | resetNRelease => exact execResetNRelease_leavesWf h
  | bootComplete => exact execBootComplete_leavesWf h
  | standbyCheckDone => exact execStandbyCheckDone_leavesWf h
  | fwProgramDone => exact execFwProgramDone_leavesWf h
  | fwStartTimeout => exact execFwStartTimeout_leavesWf h
  | loadTransferTimeout => exact execLoadTransferTimeout_leavesWf h
  | refclkLost => exact execRefclkLost_leavesWf h
  | pllRelock => exact execPllRelock_leavesWf h
  | stitchBoundary => exact execStitchBoundary_leavesWf h
  | encEdge => exact execEncEdge_leavesWf h
  | calComplete => exact execCalComplete_leavesWf h
  | calTimeout => exact execCalTimeout_leavesWf h
  | sensorSample => exact execSensorSample_leavesWf h
  | frameStart _ number => exact execFrameStart_leavesWf (number := number) h
  | frameEnd _ number => exact execFrameEnd_leavesWf (number := number) h
  | lineStart => exact execLineStart_leavesWf h
  | pixelLine => exact execPixelLine_leavesWf h
  | embeddedData => exact execEmbeddedData_leavesWf h
  | codedData => exact execCodedData_leavesWf h
  | jobTimeout => exact execJobTimeout_leavesWf h
  | textInput => exact execTextInput_leavesWf h
  | tokenizeDone => exact execTokenizeDone_leavesWf h
  | bulkLoad => exact execBulkLoad_leavesWf h
  | decode => exact execDecode_leavesWf h
  | kvWrite => exact execKvWrite_leavesWf h
  | decide => exact execDecide_leavesWf h
  | operationComplete => exact execOperationComplete_leavesWf h
  | late => exact execLate_leavesWf h
  | jobRelease => exact execJobRelease_leavesWf h
  | pageEnd => exact execPageEnd_leavesWf h
  | recordSend => exact execRecordSend_leavesWf h
  | hsExit => exact execHsExit_leavesWf h
  | outHold => exact execOutHold_leavesWf h
  | outHoldRelease => exact execOutHoldRelease_leavesWf h
  | holdTimeout => exact execHoldTimeout_leavesWf h
  | stageFillDone => exact execStageFillDone_leavesWf h
  | batchStaged => exact execBatchStaged_leavesWf h
  | checkpointDone => exact execCheckpointDone_leavesWf h
  | restoreDone => exact execRestoreDone_leavesWf h
  | ddrTrainingEnd => exact execDdrTrainingEnd_leavesWf h
  | selfRefreshReturn => exact execSelfRefreshReturn_leavesWf h
  | dramTempRead => exact execDramTempRead_leavesWf h
  | patrolScrub => exact execPatrolScrub_leavesWf h
  | packetDiscarded => exact execPacketDiscarded_leavesWf h
  | unknownOpcode => exact execUnknownOpcode_leavesWf h
  | hdrExitPattern => exact execHdrExitPattern_leavesWf h
  | newFirmwareStarted u => exact execNewFirmwareStarted_leavesWf (u := u) h
  | jtagUpdateIr => exact execJtagUpdateIr_leavesWf h
  | jtagUpdateDr => exact execJtagUpdateDr_leavesWf h
  | jtagCaptureDr => exact execJtagCaptureDr_leavesWf h
  | flashSpiTransferEnd => exact execFlashSpiTransferEnd_leavesWf h
  | trstNLow => exact execTrstNLow_leavesWf h

theorem step_leavesWf {s : State} (h : Memory.wf s.dev.mem = true) : LeavesWf (step s) := by
  unfold step
  split
  · exact (leavesWf_next _).2 (tick_wf h)
  · exact exec_leavesWf _ h

/-- Settles O5: an empty queue lets one cycle pass, a command is one of `exec`; whatever either writes goes through the memory's own writes,
which keep the form. -/
theorem everyStepKeepsTheMemoryCanonical : Obligations.EveryStepKeepsTheMemoryCanonical := by
  unfold Obligations.EveryStepKeepsTheMemoryCanonical
  intro s t h hs
  exact step_leavesWf h t hs

end Sys2Proof.Machine

namespace Sys2Proof.Machine

/-! ### The clears of counters (R121, R147, R180, R211, R303, R347, R388, R413, R446, R491, R512) -/

/-- The registers whose write clears counters. -/
def clearRegs : List Reg :=
  [.tCountClr, .rxCntClr, .bPerfClr, .bNumClr, .bHealthClr, .seccClr, .kCntClr, .xCntClr, .oCntClr, .dCntClr, .cmdCntClr, .aCntClr]

theorem clearRegs_named : ∀ r ∈ clearRegs, r ∈ namedRegs ∧ (rowOf r).fields.any FieldDef.shadowed = false := by
  decide +kernel

theorem clearRegs_n1 : (rowOf .tCountClr).n1 = 4 ∧ (rowOf .rxCntClr).n1 = 4 ∧ (rowOf .bPerfClr).n1 = 8 ∧ (rowOf .bNumClr).n1 = 8
    ∧ (rowOf .bHealthClr).n1 = 8 ∧ ∀ r ∈ [Reg.seccClr, .kCntClr, .xCntClr, .oCntClr, .dCntClr, .cmdCntClr, .aCntClr], (rowOf r).n1 = 1 := by
  decide +kernel

section
variable {c : Units} {d : Dev} {r : RegAt} {a v : Nat} (h : r.row.reg ∈ clearRegs)
include h

/-- No value is reserved in a clear. -/
theorem reservedWrite_clear : reservedWrite d r v = false := by
  simp only [clearRegs, List.mem_cons, List.not_mem_nil, or_false] at h
  obtain h | h | h | h | h | h | h | h | h | h | h | h := h <;> simp only [reservedWrite, badLow, badMid, badHigh, h, ite_self]

/-- A clear meets no lock and no rule of a request or a state. -/
theorem conflictWrite_clear : conflictWrite c d r a v = false := by
  simp only [clearRegs, List.mem_cons, List.not_mem_nil, or_false] at h
  obtain h | h | h | h | h | h | h | h | h | h | h | h := h <;>
    simp only [conflictWrite, lockedWrite, lockUnit, ruleRefuses, enableUnit, h, Bool.or_false]

/-- A clear acts on nothing but its counters. -/
theorem actNow_clear : actNow c d r v = d := by
  simp only [clearRegs, List.mem_cons, List.not_mem_nil, or_false] at h
  obtain h | h | h | h | h | h | h | h | h | h | h | h := h <;> simp only [actNow, h]

theorem clearBits_clear : clearBits d r v = d := by
  simp only [clearRegs, List.mem_cons, List.not_mem_nil, or_false] at h
  obtain h | h | h | h | h | h | h | h | h | h | h | h := h <;> simp only [clearBits, h]

end

/-- A clear that is carried out replies OK; its effect is `clearCounts`. -/
theorem writeReg_clear {c : Units} {d : Dev} {b : Bus} {r : Reg} {i v : Nat} (hr : r ∈ clearRegs) (hi : i < (rowOf r).n1) (hv : v < 2 ^ 32)
    (h : busTaken d b rowRegWrite) :
    writeReg c d b r i v = giveReply (clearCounts (atRegs d) ⟨rowOf r, i, 0⟩ v) 0x0003 b.tag stOk [] := by
  obtain ⟨hnamed, hnow⟩ := clearRegs_named r hr
  obtain ⟨hreg, hlt, hal⟩ := regAt_named r i hnamed hi
  have hmem : (⟨rowOf r, i, 0⟩ : RegAt).row.reg ∈ clearRegs := by rwa [rowOf_reg]
  have hres : reservedWrite (atRegs d) ⟨rowOf r, i, 0⟩ v = false := reservedWrite_clear hmem
  have hconf : ∀ a, conflictWrite c (atRegs d) ⟨rowOf r, i, 0⟩ a v = false := fun _ => conflictWrite_clear hmem
  rw [writeReg_taken c d b r i v _ hv hlt ⟨h, hreg, hres, hconf _⟩,
    regWriteAt_now c _ _ _ _ (by rw [hal, hreg]) hres (hconf _) hnow, actNow_clear hmem, clearBits_clear hmem]

/-- A command that clears counters by a write of a register. -/
theorem exec_clear {i : Instr} {b : Bus} {r : Reg} {k v : Nat} {s : State} {d : Dev} (hexec : exec i s = onDev (fun c d => writeReg c d b r k v) s)
    (hr : r ∈ clearRegs) (hk : k < (rowOf r).n1) (hv : v < 2 ^ 32) (h : busTaken s.dev b rowRegWrite)
    (hd : clearCounts (atRegs s.dev) ⟨rowOf r, k, 0⟩ v = d) : exec i s = wrote s b stOk d := by
  rw [hexec, onDev_eq, writeReg_clear hr hk hv h, hd]
  rfl

/-- What was counted in the present cycle, and at most 1. -/
theorem countNow_was {d : Dev} {i v : Nat} (h : d.clk.was[i]? = some v) : countNow d i v = 0 ∧ ∀ w, v < w → countNow d i w = 1 := by
  simp only [countNow, h, Option.getD_some]
  exact ⟨by omega, fun w hw => by omega⟩

/-- Settles O17: every clear is a write of one of the `clearRegs`, and `clearCounts` gives its counters. -/
theorem countersClear : Obligations.CountersClear := by
  unfold Obligations.CountersClear
  intro b t k s h
  obtain ⟨tamb, rx, perf, num, health, single⟩ := clearRegs_n1
  have ht := fun {r} (hr : (rowOf r).n1 = 4) => t.isLt.trans_eq hr.symm
  have hk := fun {r} (hr : (rowOf r).n1 = 8) => k.isLt.trans_eq hr.symm
  have h0 : ∀ r ∈ [Reg.seccClr, .kCntClr, .xCntClr, .oCntClr, .dCntClr, .cmdCntClr, .aCntClr], 0 < (rowOf r).n1 := fun r hr => by
    rw [single r hr]
    exact Nat.one_pos
  refine ⟨exec_clear rfl (by decide) (ht tamb) (by decide) h ?_, exec_clear rfl (by decide) (ht tamb) (by decide) h ?_,
    exec_clear rfl (by decide) (ht rx) (by decide) h ?_, exec_clear rfl (by decide) (hk num) (by decide) h ?_,
    exec_clear rfl (by decide) (hk perf) (by decide) h ?_, exec_clear rfl (by decide) (hk health) (by decide) h ?_,
    exec_clear rfl (by decide) (h0 _ (by decide)) (by decide) h ?_, exec_clear rfl (by decide) (h0 _ (by decide)) (by decide) h ?_,
    exec_clear rfl (by decide) (h0 _ (by decide)) (by decide) h ?_, exec_clear rfl (by decide) (h0 _ (by decide)) (by decide) h ?_,
    exec_clear rfl (by decide) (h0 _ (by decide)) (by decide) h ?_, exec_clear rfl (by decide) (h0 _ (by decide)) (by decide) h ?_,
    exec_clear rfl (by decide) (h0 _ (by decide)) (by decide) h ?_, fun i v => countNow_was⟩
  -- what is left is the arm of `clearCounts` of each register
  all_goals simp [clearCounts, clearTamb, rowOf_reg, bitOf]

end Sys2Proof.Machine

namespace Sys2Proof.Machine

/-! ### Events of one Tambour (R81, R84 to R97) -/

section
variable {d : Dev} {t : Fin 4}

/-- Two updates of a Tambour are one. -/
theorem setTamb_setTamb (d : Dev) (t : Fin 4) (f g : Tamb → Tamb) : setTamb (setTamb d t f) t g = setTamb d t fun m => g (f m) := by
  unfold setTamb vmod
  simp

/-- An update gives a Tambour one value, that of its present state. -/
theorem setTamb_const (d : Dev) (t : Fin 4) (f : Tamb → Tamb) : setTamb d t f = setTamb d t fun _ => f (tambOf d t) := by
  unfold setTamb vmod tambOf
  simp

/-! A field, D of the encoder and the outputs' settings are what the register words make them. -/

theorem cf_congr {e : Dev} (h : e.regs = d.regs) (r : Reg) (i j hi lo : Nat) : cf e r i j hi lo = cf d r i j hi lo := by
  unfold cf com
  rw [comAt_congr h]

theorem encD_congr {e : Dev} (h : e.regs = d.regs) (t : Nat) : encD e t = encD d t := by
  unfold encD ratioY
  rw [cf_congr h, cf_congr h]

theorem tgRegs_congr {e : Dev} (h : e.regs = d.regs) (t : Nat) : tgRegs e t = tgRegs d t := by
  unfold tgRegs com
  simp only [comAt_congr h]

/-- The words that a Tambour sees stay in force while it holds the same ones back. -/
theorem seen_regs_setTamb {f : Tamb → Tamb} (h : ∀ m, (f m).held = m.held) : (seen (setTamb d t f) t).regs = (seen d t).regs := by
  show (tambOf (setTamb d t f) t).held ++ d.regs = _
  rw [tambOf_setTamb, h]
  rfl

theorem mem_insertEv (e : Ev) (l : List Ev) : e ∈ insertEv e l := by
  induction l with
  | nil => exact List.mem_singleton_self e
  | cons x l ih =>
    unfold insertEv
    split
    · exact List.mem_cons_self
    · exact List.mem_cons_of_mem _ ih

/-- An event that a filter drops may be inserted anywhere. -/
theorem filter_insertEv {p : Ev → Bool} {e : Ev} (l : List Ev) (he : p e = false) : (insertEv e l).filter p = l.filter p := by
  induction l with
  | nil => simp [insertEv, he]
  | cons x l ih =>
    unfold insertEv
    split
    · simp [he]
    · simp [List.filter_cons, ih]

/-- What happens to one Tambour, with a tick to come at which the Tambours have something to do. -/
theorem OneTambour.later {s : State} {e : Dev} (h : OneTambour t s.dev e) (n prio : Nat) :
    TambOnly t s { s with dev := addEv e n prio 0 .tambours } := by
  obtain ⟨hdev, hothers⟩ := h
  have hagenda : e.agenda = s.dev.agenda := by rw [hdev]
  refine ⟨?_, hothers, ?_⟩
  · dsimp only [addEv]
    rw [hdev]
  · dsimp only [addEv]
    rw [filter_insertEv _ (by rfl), hagenda]

end

/-! #### Edges of the encoder (R86, R87) -/

theorem filterTakes_iff {filt now : Nat} {level new : Bool} {took : Option Nat} :
    filterTakes filt now level new took = true ↔ new ≠ level ∧ (took = none ∨ took.getD 0 + filt ≤ now) := by
  cases took <;> simp [filterTakes]

/-- The levels that the inputs hold once those whose filters let them pass are taken. -/
def edgeTaken (m : Tamb) (now : Nat) (a b newA newB : Bool) : Tamb :=
  { m with
    encA := if newA then a else m.encA, encB := if newB then b else m.encB
    tookA := if newA then some now else m.tookA, tookB := if newB then some now else m.tookB }

/-- The sense of a counted edge (R86, R114). -/
def edgeForward (d : Dev) (t : Nat) (n : Tamb) : Bool :=
  ((quadPos (tambOf d t).encA (tambOf d t).encB + 1) % 4 == quadPos n.encA n.encB) != (cf (seen d t) .tTrig t 0 8 8 == 1)

/-- The position after a counted edge. -/
def edgeMoved (d : Dev) (t : Nat) (n : Tamb) : Tamb :=
  { n with pos := movePos (tambOf d t).pos (edgeForward d t n), edgeAt := tick200 d, gapDone := false }

/-- The counter C counts a Tambour's edges (R87). -/
def edgeCounts (d : Dev) (t : Nat) : Bool := inLine d t (tick200 d) && cf (seen d t) .tTrig t 0 9 9 == 1

/-- What a counted edge makes of a Tambour that has moved to x: C counts, and at 0 a trigger falls (R87). -/
def edgeCounted (d : Dev) (t : Nat) (forward : Bool) (x : Tamb) : Dev :=
  if !edgeCounts d t then setTamb d t fun _ => x
  else if forward then
    if x.remain - 1 == 0 then
      addEv (setTamb d t fun _ => { x with trigAt := some (tick200 d + 1), remain := encD (seen d t) t })
        (d.clk.offset + cyclesTo d (tick200 d + 1)) prioRead 0 .tambours
    else setTamb d t fun _ => { x with remain := x.remain - 1 }
  else setTamb d t fun _ => { x with remain := Nat.min 16777215 (x.remain + 1) }

/-- What ENC_EDGE makes of the device, by what the two filters let pass (R86). -/
def edgeDev (d : Dev) (t : Nat) (a b newA newB : Bool) : Dev :=
  let n := edgeTaken (tambOf d t) (tick200 d) a b newA newB
  if !(newA || newB) then d
  else if newA && newB then (setTamb d t fun _ => { n with nEncErr := n.nEncErr + 1, encErr := true, errAt := some d.clk.mono })
  else edgeCounted d t (edgeForward d t n) (edgeMoved d t n)

section
variable {t : Fin 4} {a b newA newB : Bool} {s : State} (hclk : clocked s.dev = true) (hon : (tambOf s.dev t).on = true)
  (hA : filterTakes (cf (seen s.dev t) .tTrig t 0 7 0) (tick200 s.dev) (tambOf s.dev t).encA a (tambOf s.dev t).tookA = newA)
  (hB : filterTakes (cf (seen s.dev t) .tTrig t 0 7 0) (tick200 s.dev) (tambOf s.dev t).encB b (tambOf s.dev t).tookB = newB)
include hclk hon hA hB

/-- ENC_EDGE by what the two filters let pass. -/
theorem exec_encEdge : exec (.encEdge t a b) s = .next { s with dev := edgeDev s.dev t a b newA newB } := by
  show execEncEdge t a b s = _
  unfold execEncEdge edgeDev
  rw [onDev_eq]
  dsimp only
  rw [hA, hB, hclk, hon]
  simp only [Bool.and_self, Bool.not_true, Bool.false_or]
  congr 2
  refine if_congr Iff.rfl rfl (if_congr Iff.rfl ?both ?one)
  case both =>
    rw [setTamb_setTamb, setTamb_const]
    rfl
  case one =>
    simp only [encDue, setTamb_setTamb, tambOf_setTamb, edgeCounted, edgeCounts, edgeForward, edgeMoved, edgeTaken]
    rw [inLine_setTamb, encD_congr (seen_regs_setTamb _)]
    · refine if_congr Iff.rfl (setTamb_const _ _ _) (if_congr Iff.rfl (if_congr Iff.rfl ?_ (setTamb_const _ _ _)) (setTamb_const _ _ _))
      rw [setTamb_const]
      rfl
    · exact fun _ => rfl
    · exact fun _ => ⟨rfl, rfl, rfl, rfl, rfl, rfl, rfl, rfl⟩

end

theorem edgeDev_none (d : Dev) (t : Nat) (a b : Bool) : edgeDev d t a b false false = d := rfl

theorem edgeDev_both (d : Dev) (t : Nat) (a b : Bool) :
    edgeDev d t a b true true = setTamb d t fun _ =>
      { edgeTaken (tambOf d t) (tick200 d) a b true true with
        nEncErr := (tambOf d t).nEncErr + 1, encErr := true, errAt := some d.clk.mono } := rfl

theorem edgeDev_one {d : Dev} {t : Nat} {a b newA newB : Bool} (h : newA ≠ newB) :
    edgeDev d t a b newA newB =
      edgeCounted d t (edgeForward d t (edgeTaken (tambOf d t) (tick200 d) a b newA newB))
        (edgeMoved d t (edgeTaken (tambOf d t) (tick200 d) a b newA newB)) := by
  have hany : (newA || newB) = true ∧ (newA && newB) = false := by
    revert newA newB
    decide
  unfold edgeDev
  simp [hany]

section
variable {d : Dev} {t : Fin 4} {forward : Bool} {x : Tamb}

theorem edgeCounted_idle (h : edgeCounts d t = false) : edgeCounted d t forward x = setTamb d t fun _ => x := by
  simp [edgeCounted, h]

theorem edgeCounted_back (h : edgeCounts d t = true) (hf : forward = false) :
    edgeCounted d t forward x = setTamb d t fun _ => { x with remain := Nat.min 16777215 (x.remain + 1) } := by
  simp [edgeCounted, h, hf]

theorem edgeCounted_on (h : edgeCounts d t = true) (hf : forward = true) (hx : 1 < x.remain) :
    edgeCounted d t forward x = setTamb d t fun _ => { x with remain := x.remain - 1 } := by
  have : x.remain - 1 ≠ 0 := by omega
  simp [edgeCounted, h, hf, this]

theorem edgeCounted_falls (h : edgeCounts d t = true) (hf : forward = true) (hx : x.remain ≤ 1) :
    edgeCounted d t forward x =
      addEv (setTamb d t fun _ => { x with trigAt := some (tick200 d + 1), remain := encD (seen d t) t })
        (d.clk.offset + cyclesTo d (tick200 d + 1)) prioRead 0 .tambours := by
  have : x.remain - 1 = 0 := by omega
  simp [edgeCounted, h, hf, this]

end

/-! #### The encoder's trigger (R86 to R88) -/

/-- A Tambour whose trigger has been used up. -/
def trigUsed (d : Dev) (t : Nat) : Dev := setTamb d t fun m => { m with trigAt := none }

section
variable {c : Units} {d : Dev} {t : Fin 4} {n : Nat}

/-- With no effect edge ahead, what falls due at a Tambour is its trigger. -/
theorem tambDue_trigger (hedge : (tambOf d t).edge = none) (htrig : (tambOf d t).trigAt = some n) :
    tambDue c d t = if tick200 d < n then d else if inLine d t n then encTrigger (trigUsed d t) t n else trigUsed d t := by
  have hline : inLine (trigUsed d t) t n = inLine d t n := inLine_setTamb _ _ _ _ fun _ => ⟨rfl, rfl, rfl, rfl, rfl, rfl, rfl, rfl⟩
  unfold tambDue encFire
  simp only [hedge, htrig]
  rw [← hline]
  rfl

theorem seen_regs_trigUsed : (seen (trigUsed d t) t).regs = (seen d t).regs := by
  unfold trigUsed
  rw [seen_regs_setTamb]
  exact fun _ => rfl

/-- A trigger within the TICKS of the line in progress is counted and exposes no line (R88). -/
theorem encTrigger_early {l : LineCfg} (hl : (tambOf d t).line = some l) (h : n < l.t0 + l.period) :
    encTrigger d t n = setTamb d t fun m => { m with
      nTrigMis := m.nTrigMis + 1, trigMiss := true, missAt := some d.clk.mono
      remain := if m.reload then encD (seen d t) t else m.remain, reload := false } := by
  simp only [encTrigger, hl, if_pos h]

/-- Any other trigger is accepted (R87). -/
theorem encTrigger_accepted (h : ∀ l, (tambOf d t).line = some l → ¬ n < l.t0 + l.period) : encTrigger d t n = acceptTrigger d t n := by
  unfold encTrigger
  split
  next l hl => exact if_neg (h l hl)
  · rfl

theorem encTrigger_oneTambour : OneTambour t d (encTrigger d t n) := by
  unfold encTrigger
  split
  · split
    · exact oneTambour_setTamb _ _ _
    · exact acceptTrigger_oneTambour _ _ _
  · exact acceptTrigger_oneTambour _ _ _

end

/-- Settles O45: an edge by the answers of the two filters, which of the counter's cases holds, and what falls due when the tick has come. -/
theorem encoderEdgesMoveAndTrigger : Obligations.EncoderEdgesMoveAndTrigger := by
  unfold Obligations.EncoderEdgesMoveAndTrigger
  intro t a b s hclk hon d m v now filt newA newB taken forward moved counts one falls
  refine ⟨?_, ?_⟩
  · have hA : filterTakes filt now m.encA a m.tookA = decide newA := by
      rw [Bool.eq_iff_iff, filterTakes_iff, decide_eq_true_iff]
    have hB : filterTakes filt now m.encB b m.tookB = decide newB := by
      rw [Bool.eq_iff_iff, filterTakes_iff, decide_eq_true_iff]
    have htaken : edgeTaken m now a b (decide newA) (decide newB) = taken := by
      simp only [edgeTaken, decide_eq_true_iff]
      rfl
    have hforward : edgeForward d t taken = decide forward := by
      rw [Bool.eq_iff_iff, decide_eq_true_iff]
      simp [edgeForward, forward, m, d, v]
    have hmoved : edgeMoved d t taken = moved := by
      unfold edgeMoved
      rw [hforward]
    have hcounts : edgeCounts d t = decide counts := by
      rw [Bool.eq_iff_iff, decide_eq_true_iff]
      simp [edgeCounts, counts, now, v]
    have state : ∀ x, TambOnly t s { s with dev := setTamb d t fun _ => x } := fun x => (oneTambour_setTamb t d _).state
    refine ⟨_, exec_encEdge hclk hon hA hB, ?_⟩
    generalize hdev : edgeDev s.dev t a b (decide newA) (decide newB) = e
    dsimp only
    by_cases hone : one
    · obtain ⟨hany, hboth, hne⟩ : (¬ newA → newB) ∧ (newA → ¬ newB) ∧ decide newA ≠ decide newB := by
        obtain ⟨h1, h2⟩ | ⟨h1, h2⟩ := hone
        · exact ⟨fun h => absurd h1 h, fun _ => h2, by rw [decide_eq_true h1, decide_eq_false h2]; decide⟩
        · exact ⟨fun _ => h2, fun h => absurd h h1, by rw [decide_eq_false h1, decide_eq_true h2]; decide⟩
      rw [edgeDev_one hne, show edgeTaken _ _ _ _ _ _ = taken from htaken, hforward, hmoved] at hdev
      have idle : ∀ {p : Prop}, ¬ newA → ¬ newB → p := fun ha hb => absurd (hany ha) hb
      have error : ∀ {p : Prop}, newA → newB → p := fun ha hb => absurd hb (hboth ha)
      by_cases hc : counts
      · have hct := hcounts.trans (decide_eq_true hc)
        by_cases hf : forward
        · by_cases hr : m.remain ≤ 1
          · rw [edgeCounted_falls (x := moved) hct (decide_eq_true hf) hr] at hdev
            subst hdev
            exact ⟨(oneTambour_setTamb t d _).later _ _, idle, error, fun _ h => absurd hc h, fun _ _ h => absurd hf h,
              fun _ _ _ h => absurd hr (Nat.not_le.2 h), fun _ => ⟨tambOf_setTamb d t _, mem_insertEv _ _⟩, fun h => absurd ⟨hone, hc, hf, hr⟩ h⟩
          · rw [edgeCounted_on (x := moved) hct (decide_eq_true hf) (Nat.lt_of_not_le hr)] at hdev
            subst hdev
            exact ⟨state _, idle, error, fun _ h => absurd hc h, fun _ _ h => absurd hf h, fun _ _ _ _ => tambOf_setTamb d t _,
              fun h => absurd h.2.2.2 hr, fun _ => rfl⟩
        · rw [edgeCounted_back hct (decide_eq_false hf)] at hdev
          subst hdev
          exact ⟨state _, idle, error, fun _ h => absurd hc h, fun _ _ _ => tambOf_setTamb d t _, fun _ _ h => absurd h hf,
            fun h => absurd h.2.2.1 hf, fun _ => rfl⟩
      · rw [edgeCounted_idle (hcounts.trans (decide_eq_false hc))] at hdev
        subst hdev
        exact ⟨state _, idle, error, fun _ _ => tambOf_setTamb d t _, fun _ h => absurd h hc, fun _ h => absurd h hc,
          fun h => absurd h.2.1 hc, fun _ => rfl⟩
    · by_cases hnA : newA
      · have hnB : newB := not_not.1 fun h => hone (.inl ⟨hnA, h⟩)
        rw [decide_eq_true hnA, decide_eq_true hnB] at hdev htaken
        rw [edgeDev_both, show edgeTaken _ _ _ _ _ _ = taken from htaken] at hdev
        subst hdev
        exact ⟨state _, fun h => absurd hnA h, fun _ _ => tambOf_setTamb d t _, fun h => absurd h hone, fun h => absurd h hone, fun h => absurd h hone,
          fun h => absurd h.1 hone, fun _ => rfl⟩
      · have hnB : ¬ newB := fun h => hone (.inr ⟨hnA, h⟩)
        rw [decide_eq_false hnA, decide_eq_false hnB, edgeDev_none] at hdev
        subst hdev
        exact ⟨(OneTambour.refl t d).state, fun _ _ => rfl, fun h => absurd h hnA, fun h => absurd h hone, fun h => absurd h hone,
          fun h => absurd h hone, fun h => absurd h.1 hone, fun _ => rfl⟩
  · intro at_ hedge htrig e n early
    have he := tambDue_trigger (c := s.committed) hedge htrig
    have hused : tambOf (trigUsed d t) t = { m with trigAt := none } := tambOf_setTamb d t _
    have hone : OneTambour t d (trigUsed d t) := oneTambour_setTamb t d _
    refine ⟨fun h => he.trans (if_pos h), fun h => ?_⟩
    replace he := he.trans (if_neg (Nat.not_lt.2 h))
    refine ⟨?_, fun hline => ?_, fun hline hearly => ?_, fun hline hearly => ?_⟩
    · refine OneTambour.state ?_
      show OneTambour t d (tambDue s.committed d t)
      rw [he]
      split
      · exact hone.trans encTrigger_oneTambour
      · exact hone
    · rw [if_neg (by rw [hline]; decide)] at he
      show tambOf (tambDue s.committed d t) t = _
      rw [he, hused]
    · obtain ⟨l, hl, hlt⟩ := hearly
      rw [if_pos hline, encTrigger_early (by rw [hused]; exact hl) hlt] at he
      show tambOf (tambDue s.committed d t) t = _
      rw [he, tambOf_setTamb, hused, encD_congr seen_regs_trigUsed]
      rfl
    · rw [if_pos hline, encTrigger_accepted (by rw [hused]; exact fun l hl hlt => hearly ⟨l, hl, hlt⟩)] at he
      obtain ⟨hdue, hlast, ⟨l, hl, hstart, hperiod, hopen, hclose⟩, houts, htrigAt, hremain, hpos, hstamps, -, -, hmis, hencA, hencB, -, hcal, -⟩ :=
        acceptTrigger_accepts t (trigUsed d t) at_
      rw [← he] at hdue hlast hl houts htrigAt hremain hpos hstamps hmis hencA hencB hcal
      rw [hused] at htrigAt hremain hpos hstamps hmis hencA hencB hcal
      rw [encD_congr seen_regs_trigUsed] at hremain
      rw [tgRegs_congr seen_regs_trigUsed] at houts
      rw [cf_congr seen_regs_trigUsed] at hperiod hopen hclose
      exact ⟨hmis, hpos, hencA, hencB, hcal, fun h => (hstamps h).1, htrigAt, hremain, hlast, hdue, houts, l, hl, hstart, hperiod, hopen, hclose⟩

end Sys2Proof.Machine

namespace Sys2Proof.Machine

/-! ### Events of the Tambours that time brings (R84, R85, R89, R92 to R97) -/

/-- What a command of a Tambour's event does: the event is due at a tick, if at all, and makes this of the Tambour when the tick has come. -/
def EventActs (t : Fin 4) (s : State) (i : Instr) (due : Dev → Option Nat) (does : Nat → Dev → Tamb → Prop) : Prop :=
  let comes := fun (n : Nat) => (passCycles s.committed s.dev (cyclesTo s.dev n)).isSome = true
  let at_ := fun (n : Nat) => (passCycles s.committed s.dev (cyclesTo s.dev n)).getD s.dev
  let then_ := fun (n : Nat) => ({ s with dev := at_ n } : State)
  (∀ n, due s.dev = some n → comes n → due (at_ n) = some n → ∃ u, exec i s = .next u ∧ TambOnly t (then_ n) u ∧ does n (at_ n) (tambOf u.dev t))
    ∧ (∀ n, due s.dev = some n → comes n → due (at_ n) ≠ some n → exec i s = .next (then_ n))
    ∧ (∀ n, due s.dev = some n → ¬ comes n → exec i s = .next s)
    ∧ (due s.dev = none → exec i s = .next s)

section
variable {t : Fin 4} {s : State} {i : Instr} {due' : Dev → Option Nat} {does : Nat → Dev → Tamb → Prop}

/-- Time passes to the tick at which an event is due; there it acts, if it is due then as well (log entry 91). -/
theorem atDue_acts (due : Dev → Option Nat) (f : Dev → Nat → Dev) (hexec : exec i s = onDev (fun c d => atDue c d due f) s) (hdue : ∀ e, due e = due' e)
    (hf : ∀ e n, due e = some n → OneTambour t e (f e n) ∧ does n e (tambOf (f e n) t)) : EventActs t s i due' does := by
  obtain rfl : due = due' := funext hdue
  have hnext : exec i s = .next { s with dev := atDue s.committed s.dev due f } := hexec
  have hsome : ∀ {n}, due s.dev = some n → atDue s.committed s.dev due f = atTick s.committed s.dev n fun e => if due e == some n then f e n else e :=
    fun h => by simp only [atDue, h]
  unfold EventActs
  dsimp only
  refine ⟨fun n h hc hd => ?_, fun n h hc hd => ?_, fun n h hc => ?_, fun h => ?_⟩
  · obtain ⟨e, he⟩ := Option.isSome_iff_exists.1 hc
    rw [he, Option.getD_some] at hd ⊢
    have hdev : atDue s.committed s.dev due f = f e n := by simp [hsome h, atTick, he, hd]
    obtain ⟨hone, hdoes⟩ := hf e n hd
    exact ⟨_, hdev ▸ hnext, hone.state (s := { s with dev := e }), hdoes⟩
  · obtain ⟨e, he⟩ := Option.isSome_iff_exists.1 hc
    rw [he, Option.getD_some] at hd ⊢
    have hdev : atDue s.committed s.dev due f = e := by simp [hsome h, atTick, he, hd]
    exact hdev ▸ hnext
  · have hdev : atDue s.committed s.dev due f = s.dev := by simp [hsome h, atTick, Option.not_isSome_iff_eq_none.1 hc]
    rw [hnext, hdev]
  · have hdev : atDue s.committed s.dev due f = s.dev := by simp [atDue, h]
    rw [hnext, hdev]

end

section
variable {d e : Dev} {t : Fin 4} (h : OneTambour t d e) (hheld : (tambOf e t).held = (tambOf d t).held)
include h hheld

/-- What happens to a Tambour leaves the words that it sees, while it holds the same ones back. -/
theorem seen_regs : (seen e t).regs = (seen d t).regs := by
  show (tambOf e t).held ++ e.regs = (tambOf d t).held ++ d.regs
  rw [hheld, h.1]

/-- The length of a pattern step is what the register words and the pattern RAM make it. -/
theorem patTicks_seen (j : Nat) : patTicks (seen e t) t j = patTicks (seen d t) t j := by
  have hstep : patStep (seen e t) t j = patStep (seen d t) t j := by
    rw [h.1]
    rfl
  unfold patTicks
  rw [hstep, cf_congr (seen_regs h hheld)]

end

/-! #### Stamps (R96, R97) -/

section
variable {d : Dev} {t : Fin 4} {n : Nat}

theorem pushStamp_oneTambour : OneTambour t d (pushStamp d t) := by
  unfold pushStamp
  split
  · exact OneTambour.refl _ _
  · exact oneTambour_setTamb _ _ _

/-- A stamp falls due where a line has one. -/
theorem stampTick_some (h : stampTick d t = some n) : ∃ l, (tambOf d t).line = some l ∧ l.t0 + l.stop = n := by
  unfold stampTick at h
  dsimp only at h
  split at h
  next l hl =>
    split at h
    · exact ⟨l, hl, Option.some.inj h⟩
    · cases h
  · cases h

/-- The stamp of the line in progress is queued; a full queue loses its oldest entry. -/
theorem pushStamp_queues {l : LineCfg} (hl : (tambOf d t).line = some l) :
    let m := tambOf d t
    let x := tambOf (pushStamp d t) t
    let stamp := (timeAtTick d (l.t0 + l.stop), l.xavg)
    x.stampDue = false ∧ x.line = m.line ∧ x.pos = m.pos
      ∧ (m.stamps.length < 16 → x.stamps = m.stamps ++ [stamp] ∧ x.nLost = m.nLost ∧ x.stampFlt = m.stampFlt)
      ∧ (16 ≤ m.stamps.length → x.stamps = m.stamps.drop 1 ++ [stamp] ∧ x.nLost = m.nLost + 1 ∧ x.stampFlt = true) := by
  intro m x stamp
  have hx : x = tambOf (pushStamp d t) t := rfl
  unfold pushStamp at hx
  simp only [hl, tambOf_setTamb] at hx
  rw [hx]
  refine ⟨rfl, hl.symm, rfl, fun h => ?_, fun h => ?_⟩
  · have hfull : ¬ 16 ≤ m.stamps.length := Nat.not_le.2 h
    simp [m, stamp, hfull]
  · simp [m, stamp, h]

end

/-! #### Pattern steps (R94) -/

section
variable {d : Dev} {t : Fin 4}

theorem patNext_oneTambour : OneTambour t d (patNext d t) := by
  unfold patNext
  dsimp only
  split
  · exact oneTambour_setTamb _ _ _
  · split
    · exact (oneTambour_setTamb _ _ _).trans (oneTambour_setTamb _ _ _)
    · exact oneTambour_setTamb _ _ _

theorem patNext_last (h : patLast d t = true) : tambOf (patNext d t) t =
    { tambOf d t with pgDone := true, pgPasses := Nat.min 65535 ((tambOf d t).pgPasses + 1) } := by
  unfold patNext
  simp only [h, if_true, patFinish]
  exact tambOf_setTamb _ _ _

theorem patNext_again (h : patLast d t = false) (hlast : (tambOf d t).pgStep = cf (seen d t) .tPgLoop t 0 27 16) :
    tambOf (patNext d t) t = { tambOf d t with
      pgPasses := Nat.min 65535 ((tambOf d t).pgPasses + 1), pgStep := cf (seen d t) .tPgLoop t 0 11 0
      pgAt := (tambOf d t).pgAt + (tambOf d t).pgLen, pgLen := patTicks (seen d t) t (cf (seen d t) .tPgLoop t 0 11 0) } := by
  unfold patNext patBegin
  simp only [h, hlast, Bool.false_eq_true, if_false, beq_self_eq_true, if_true, tambOf_setTamb]
  rw [patTicks_seen (oneTambour_setTamb _ _ _)]
  rw [tambOf_setTamb]

theorem patNext_step (h : patLast d t = false) (hlast : (tambOf d t).pgStep ≠ cf (seen d t) .tPgLoop t 0 27 16) :
    tambOf (patNext d t) t = { tambOf d t with
      pgStep := ((tambOf d t).pgStep + 1) % 4096, pgAt := (tambOf d t).pgAt + (tambOf d t).pgLen
      pgLen := patTicks (seen d t) t (((tambOf d t).pgStep + 1) % 4096) } := by
  unfold patNext patBegin
  simp only [h, Bool.false_eq_true, if_false, beq_iff_eq, hlast, tambOf_setTamb]

/-- A step ends when its ticks have passed. -/
theorem patTick_some {n : Nat} (h : patTick d t = some n) : (tambOf d t).pgAt + (tambOf d t).pgLen = n := by
  unfold patTick at h
  dsimp only at h
  split at h
  · exact Option.some.inj h
  · cases h

end

/-! #### Modes (R84, R106) -/

/-- What a stamp that is queued leaves of a Tambour. -/
structure Settled (m x : Tamb) : Prop where
  pos : x.pos = m.pos
  bank : x.bank = m.bank
  encA : x.encA = m.encA
  encB : x.encB = m.encB
  held : x.held = m.held
  driving : x.driving = m.driving
  effAt : x.effAt = m.effAt
  cal : x.cal = m.cal
  stamps : m.stampDue = false → x.stamps = m.stamps ∧ x.nLost = m.nLost
  due : x.stampDue = true → m.stampDue = true

theorem settleStamp_settled (d : Dev) (t : Fin 4) (n : Nat) : Settled (tambOf d t) (tambOf (settleStamp d t n) t) :=
  settleStamp_keeps t d n (Settled (tambOf d t))
    (fun _ _ _ _ _ _ hx h => { h with stamps := fun hm => absurd (h.due hx) (by rw [hm]; decide), due := fun _ => h.due hx })
    ⟨rfl, rfl, rfl, rfl, rfl, rfl, rfl, rfl, fun _ => ⟨rfl, rfl⟩, id⟩

/-- A change of mode has taken effect on a Tambour: a running calibration is aborted, and no change waits any more. -/
structure ModeTaken (m x : Tamb) (mode : Nat) : Prop where
  pos : x.pos = m.pos
  bank : x.bank = m.bank
  encA : x.encA = m.encA
  encB : x.encB = m.encB
  stamps : m.stampDue = false → x.stamps = m.stamps ∧ x.nLost = m.nLost
  active : x.active = BitVec.ofNat 2 mode
  effAt : x.effAt = none
  aborted : m.cal.state = .running → x.cal.state = .fail ∧ x.cal.cause = 3

/-- The same, with no line begun yet. -/
structure ModeEntered (m x : Tamb) (mode : Nat) : Prop extends ModeTaken m x mode where
  line : x.line = none
  stampDue : x.stampDue = false
  held : x.held = m.held
  driving : x.driving = m.driving

theorem calAbort_aborts {m : Tamb} (h : m.cal.state = .running) : (calAbort m).state = .fail ∧ (calAbort m).cause = 3 := by
  unfold calAbort
  simp [h]

/-- The device as a mode comes into force, before its line or its pattern begins. -/
def modeEntered (d : Dev) (t mode now : Nat) : Dev :=
  setTamb (settleStamp d t now) t fun m => { m with
    active := BitVec.ofNat 2 mode, line := none, stampDue := false, lastTrig := none, effAt := none, trigFrom := now, trigAt := none
    outs := tgRegs (seen (settleStamp d t now) t) t, feedF := if m.active == 2 || mode == 2 then Vector.replicate 8 0 else m.feedF
    cal := calAbort m }

section
variable {d : Dev} {t : Fin 4} {mode now : Nat}

theorem modeEntered_oneTambour : OneTambour t d (modeEntered d t mode now) :=
  (settleStamp_oneTambour t d now).trans (oneTambour_setTamb _ _ _)

theorem modeEntered_entered : ModeEntered (tambOf d t) (tambOf (modeEntered d t mode now) t) mode := by
  have h := settleStamp_settled d t now
  unfold modeEntered
  rw [tambOf_setTamb]
  exact ⟨⟨h.pos, h.bank, h.encA, h.encB, h.stamps, rfl, rfl, fun hm => calAbort_aborts (by rwa [h.cal])⟩, rfl, rfl, h.held, h.driving⟩

/-- The start of the feed periods keeps what a mode has given. -/
theorem feedStart_entered {m : Tamb} {d : Dev} (h : ModeEntered m (tambOf d t) mode) : ModeEntered m (tambOf (feedStart d t now) t) mode :=
  feedStart_keeps t d now (fun x => ModeEntered m x mode) (fun _ _ _ h => { h with }) h

/-- The device as LINE mode comes into force, C loaded (R87), before a line begins. -/
def lineEntered (d : Dev) (t now : Nat) : Dev :=
  let e := feedStart (modeEntered d t 1 now) t now
  setTamb e t fun m => { m with remain := encD (seen e t) t, reload := false }

theorem lineEntered_oneTambour : OneTambour t d (lineEntered d t now) :=
  (modeEntered_oneTambour.trans (feedStart_oneTambour _ _ _)).trans (oneTambour_setTamb _ _ _)

theorem lineEntered_entered : ModeEntered (tambOf d t) (tambOf (lineEntered d t now) t) 1 := by
  have h := feedStart_entered (now := now) (modeEntered_entered (d := d) (t := t) (mode := 1) (now := now))
  unfold lineEntered
  dsimp only
  rw [tambOf_setTamb]
  exact { h with }

theorem lineEntered_remain : (tambOf (lineEntered d t now) t).remain = encD (seen d t) t := by
  have h := feedStart_entered (now := now) (modeEntered_entered (d := d) (t := t) (mode := 1) (now := now))
  have hone : OneTambour t d (feedStart (modeEntered d t 1 now) t now) := modeEntered_oneTambour.trans (feedStart_oneTambour _ _ _)
  unfold lineEntered
  dsimp only
  rw [tambOf_setTamb]
  exact encD_congr (seen_regs hone h.held) t

theorem enterMode_line : enterMode d t 1 now =
    if cf (seen (lineEntered d t now) t) .tTrig t 0 9 9 == 0 then acceptTrigger (lineEntered d t now) t now else lineEntered d t now := rfl

theorem enterMode_pattern : enterMode d t 2 now =
    patBegin (setTamb (modeEntered d t 2 now) t fun m => { m with pgPasses := 0, pgDone := false }) t 0 now := rfl

theorem enterMode_other (h1 : mode ≠ 1) (h2 : mode ≠ 2) : enterMode d t mode now = feedStart (modeEntered d t mode now) t now := by
  unfold enterMode
  simp only [beq_iff_eq, h1, h2, if_false]
  simp [modeEntered, h2]

theorem acceptTrigger_effAt : (tambOf (acceptTrigger d t now) t).effAt = (tambOf d t).effAt := by
  unfold acceptTrigger
  dsimp only
  rw [tambOf_setTamb]
  exact (settleStamp_settled d t now).effAt

/-- A trigger leaves what the mode has given. -/
theorem acceptTrigger_taken {m : Tamb} (h : ModeEntered m (tambOf d t) mode) : ModeTaken m (tambOf (acceptTrigger d t now) t) mode := by
  obtain ⟨-, -, -, -, -, -, hpos, hstamps, hbank, hactive, -, hencA, hencB, -, hstate, hcause, -⟩ := acceptTrigger_accepts t d now
  specialize hstamps h.stampDue
  exact ⟨hpos.trans h.pos, hbank.trans h.bank, hencA.trans h.encA, hencB.trans h.encB,
    fun hm => ⟨hstamps.1.trans (h.stamps hm).1, hstamps.2.trans (h.stamps hm).2⟩, hactive.trans h.active, acceptTrigger_effAt.trans h.effAt,
    fun hm => ⟨hstate.trans (h.aborted hm).1, hcause.trans (h.aborted hm).2⟩⟩

theorem enterMode_taken : ModeTaken (tambOf d t) (tambOf (enterMode d t mode now) t) mode
    ∧ (tambOf (enterMode d t mode now) t).driving = (tambOf d t).driving := by
  by_cases h1 : mode = 1
  · subst h1
    have h := lineEntered_entered (d := d) (t := t) (now := now)
    rw [enterMode_line]
    split
    · obtain ⟨-, -, -, -, -, -, -, -, -, -, -, -, -, -, -, -, hdriving⟩ := acceptTrigger_accepts t (lineEntered d t now) now
      exact ⟨acceptTrigger_taken h, hdriving.trans h.driving⟩
    · exact ⟨h.toModeTaken, h.driving⟩
  · by_cases h2 : mode = 2
    · subst h2
      have h := modeEntered_entered (d := d) (t := t) (mode := 2) (now := now)
      rw [enterMode_pattern, patBegin, tambOf_setTamb, tambOf_setTamb]
      exact ⟨{ h.toModeTaken with }, h.driving⟩
    · have h := feedStart_entered (now := now) (modeEntered_entered (d := d) (t := t) (mode := mode) (now := now))
      rw [enterMode_other h1 h2]
      exact ⟨h.toModeTaken, h.driving⟩

theorem enterMode_oneTambour : OneTambour t d (enterMode d t mode now) := by
  by_cases h1 : mode = 1
  · subst h1
    rw [enterMode_line]
    split
    · exact lineEntered_oneTambour.trans (acceptTrigger_oneTambour _ _ _)
    · exact lineEntered_oneTambour
  · by_cases h2 : mode = 2
    · subst h2
      rw [enterMode_pattern]
      exact (modeEntered_oneTambour.trans (oneTambour_setTamb _ _ _)).trans (oneTambour_setTamb _ _ _)
    · rw [enterMode_other h1 h2]
      exact modeEntered_oneTambour.trans (feedStart_oneTambour _ _ _)

theorem takeMode_oneTambour : OneTambour t d (takeMode d t now) := by
  unfold takeMode
  split
  · exact enterMode_oneTambour
  · exact (settleStamp_oneTambour t d now).trans (oneTambour_setTamb _ _ _)

theorem takeMode_on (h : (tambOf d t).on = true) : takeMode d t now = enterMode d t (modeWanted d t) now := by
  unfold takeMode
  rw [if_pos h]

theorem takeMode_off (h : (tambOf d t).on = false) : let x := tambOf (takeMode d t now) t
    ModeTaken (tambOf d t) x (modeWanted d t) ∧ x.driving = false ∧ x.line = none ∧ x.stampDue = false := by
  have hs := settleStamp_settled d t now
  unfold takeMode
  rw [if_neg (by rw [h]; decide), tambOf_setTamb]
  exact ⟨⟨hs.pos, hs.bank, hs.encA, hs.encB, hs.stamps, rfl, rfl, fun hm => calAbort_aborts (by rwa [hs.cal])⟩, rfl, rfl, rfl⟩

theorem takeMode_taken : ModeTaken (tambOf d t) (tambOf (takeMode d t now) t) (modeWanted d t) := by
  cases h : (tambOf d t).on
  · exact (takeMode_off h).1
  · rw [takeMode_on h]
    exact enterMode_taken.1

theorem ModeTaken.active_toNat {m x : Tamb} (h : ModeTaken m x (modeWanted d t)) : x.active.toNat = modeWanted d t := by
  rw [h.active, BitVec.toNat_ofNat]
  exact Nat.mod_eq_of_lt (Nat.mod_lt _ (by decide))

/-- LINE mode of the timer triggers at once (R85). -/
theorem enterMode_timer (h : cf (seen d t) .tTrig t 0 9 9 = 0) : let x := tambOf (enterMode d t 1 now) t
    x.stampDue = true ∧ x.lastTrig = some now ∧ x.outs = tgRegs (seen d t) t
      ∧ ∃ l, x.line = some l ∧ l.t0 = now ∧ l.period = cf (seen d t) .tPeriod t 0 23 0 ∧ l.start = cf (seen d t) .tExposure t 0 15 0
        ∧ l.stop = cf (seen d t) .tExposure t 0 31 16 := by
  have hregs := seen_regs (lineEntered_oneTambour (d := d) (t := t) (now := now)) lineEntered_entered.held
  obtain ⟨hdue, hlast, ⟨l, hl, hstart, hperiod, hopen, hclose⟩, houts, -⟩ := acceptTrigger_accepts t (lineEntered d t now) now
  rw [tgRegs_congr hregs] at houts
  rw [cf_congr hregs] at hperiod hopen hclose
  rw [enterMode_line, cf_congr hregs, h]
  exact ⟨hdue, hlast, houts, l, hl, hstart, hperiod, hopen, hclose⟩

/-- LINE mode of the encoder loads C and waits for its edges (R87). -/
theorem enterMode_encoder (h : cf (seen d t) .tTrig t 0 9 9 = 1) :
    (tambOf (enterMode d t 1 now) t).line = none ∧ (tambOf (enterMode d t 1 now) t).remain = encD (seen d t) t := by
  have hregs := seen_regs (lineEntered_oneTambour (d := d) (t := t) (now := now)) lineEntered_entered.held
  rw [enterMode_line, cf_congr hregs, h]
  exact ⟨lineEntered_entered.line, lineEntered_remain⟩

/-- PATTERN starts its steps (R94). -/
theorem enterMode_steps : let x := tambOf (enterMode d t 2 now) t
    x.line = none ∧ x.pgStep = 0 ∧ x.pgAt = now ∧ x.pgLen = patTicks (seen d t) t 0 ∧ x.pgPasses = 0 ∧ x.pgDone = false := by
  have h := modeEntered_entered (d := d) (t := t) (mode := 2) (now := now)
  have hticks : patTicks (seen (setTamb (modeEntered d t 2 now) t fun m => { m with pgPasses := 0, pgDone := false }) t) t 0 = patTicks (seen d t) t 0 :=
    patTicks_seen (modeEntered_oneTambour.trans (oneTambour_setTamb _ _ _)) (by rw [tambOf_setTamb]; exact h.held) 0
  rw [enterMode_pattern, patBegin, tambOf_setTamb, tambOf_setTamb]
  exact ⟨h.line, rfl, rfl, hticks, rfl, rfl⟩

end

/-- Settles O46: each command lets time pass to its event's tick (`atDue_acts`); what the event makes of its Tambour is in the lemmas above. -/
theorem tambourEventsChangeTheirTambour : Obligations.TambourEventsChangeTheirTambour := by
  unfold Obligations.TambourEventsChangeTheirTambour
  intro t k s hclk c d comes at_ then_ acts set triggered plain plays stepEnd passed finished
  have hacts : acts = EventActs t s := rfl
  clear_value acts
  subst hacts
  refine ⟨?trigger, ?timeout, ?stamp, ?mode, ?feed, ?patDone, ?patStep⟩
  case trigger =>
    refine atDue_acts (fun e => timerTick e t) (fun e n => acceptTrigger e t n) rfl (fun e => ?_) fun e n h => ?_
    · simp [timerTick, set]
    · obtain ⟨hdue, hlast, hline, houts, -, -, hpos, hstamps, hbank, hactive, -, hencA, hencB, -⟩ := acceptTrigger_accepts t e n
      exact ⟨acceptTrigger_oneTambour t e n, ⟨hdue, hlast, houts, hline⟩, ⟨hpos, hbank, hencA, hencB, hstamps⟩, hactive⟩
  case timeout =>
    refine atDue_acts (fun e => timeoutTick e t) (fun e n => encGap e t n) rfl (fun e => ?_) fun e n h => ?_
    · simp [timeoutTick, set, and_assoc]
    · exact ⟨oneTambour_setTamb t e _, tambOf_setTamb e t _⟩
  case stamp =>
    refine atDue_acts (fun e => stampTick e t) (fun e _ => pushStamp e t) rfl (fun e => ?_) fun e n h => ?_
    · unfold stampTick
      cases hl : (tambOf e t).line with
      | none => simp [hl]
      | some l => simp [hl, and_assoc]
    · obtain ⟨l, hl, rfl⟩ := stampTick_some h
      refine ⟨pushStamp_oneTambour, fun l' hl' => ?_⟩
      obtain rfl : l = l' := Option.some.inj (hl.symm.trans hl')
      exact pushStamp_queues hl
  case mode =>
    refine atDue_acts (fun e => modeDue e t) (fun e n => takeMode e t n) rfl (fun e => ?_) fun e n h => ?_
    · rfl
    · have hx := takeMode_taken (d := e) (t := t) (now := n)
      refine ⟨takeMode_oneTambour, ⟨hx.pos, hx.bank, hx.encA, hx.encB, hx.stamps⟩, hx.effAt, hx.active_toNat, hx.aborted, fun hoff => (takeMode_off hoff).2,
        fun hon => ?_⟩
      rw [takeMode_on hon]
      refine ⟨enterMode_taken.2, fun hw htimer => ?_, fun hw henc => ?_, fun hw => ?_⟩
      · rw [show modeWanted e t = 1 from hw]
        exact enterMode_timer htimer
      · rw [show modeWanted e t = 1 from hw]
        exact enterMode_encoder henc
      · rw [show modeWanted e t = 2 from hw]
        exact enterMode_steps
  case feed =>
    refine atDue_acts (fun e => feedTick e t k) (fun e n => setTamb e t fun m =>
      { m with feedF := vmod m.feedF k (fun _ => feedPeriod (seen e t) t), feedAt := vmod m.feedAt k (fun _ => n) }) rfl (fun e => ?_) fun e n h => ?_
    · simp [feedTick, and_assoc]
    · exact ⟨oneTambour_setTamb t e _, tambOf_setTamb e t _⟩
  case patDone =>
    refine atDue_acts (fun e => if patLast e t then patTick e t else none) (fun e _ => patFinish e t) rfl (fun e => ?_) fun e n h => ?_
    · simp [patTick, patPlays, stepEnd, plays, and_assoc]
    · exact ⟨oneTambour_setTamb t e _, tambOf_setTamb e t _⟩
  case patStep =>
    refine atDue_acts (fun e => patTick e t) (fun e _ => patNext e t) rfl (fun e => ?_) fun e n h => ?_
    · simp [patTick, patPlays, stepEnd, plays, and_assoc]
    · obtain rfl := patTick_some h
      exact ⟨patNext_oneTambour, patNext_last, patNext_again, patNext_step⟩

end Sys2Proof.Machine

namespace Sys2Proof.Machine

/-! ### The ends of a calibration (R104 to R106) -/

/-- What each entry of a calibration has come to (R105). -/
def calResults (d : Dev) (t : Nat) : List (Option (Nat × Nat)) :=
  List.zipWith (fun (b x : Nat) =>
      calEntry (cf (seen d t) .tCalTarget t 0 15 0) (cf (seen d t) .tCalBounds t 0 15 0) (cf (seen d t) .tCalLimits t 0 15 0)
        (cf (seen d t) .tCalLimits t 0 31 16) (rneDiv b (calWin (seen d t) t).2.1) (rneDiv x (calWin (seen d t) t).2.2.2))
    (tambOf d t).cal.black (tambOf d t).cal.white

/-- The four bytes of entry i: O and G of the nearest passing pixel. -/
def calBytes (d : Dev) (t i : Nat) : List Byte :=
  match calNear (calResults d t) (calChans d t) i with
  | some x => leBytes 2 x.1 ++ leBytes 2 x.2
  | none => leBytes 4 (Config.openValue 7 (d.free + i)).toNat

/-- The entries that fail. -/
def calFailing (d : Dev) (t : Nat) : List Nat :=
  (List.range (calResults d t).length).filter fun i => (((calResults d t)[i]?).bind id).isNone

/-- The device with the new coefficients in the inactive bank. -/
def calStored (c : Units) (d : Dev) (t : Nat) : Dev :=
  store c { d with free := d.free + (calResults d t).length } { unit := 0x10 + t } (coefKey t (b2n !(tambOf d t).bank) 0)
    ((List.range (calResults d t).length).map (calBytes d t)).flatten

/-- Calibration of a Tambour has ended in a state, and nothing else of the Tambours, of the committed and pending register words and of
the requests has changed. -/
structure CalEnded (d e : Dev) (t : Nat) (f : Cal → Cal) : Prop where
  regs : e.regs = d.regs
  shadow : e.shadow = d.shadow
  req : e.req = d.req
  tambs : e.tambs = (setTamb d t fun m => { m with cal := f m.cal }).tambs

section
variable {c : Units} {d e : Dev} {t : Fin 4} {f : Cal → Cal}

theorem tambOf_congr (h : e.tambs = d.tambs) (n : Nat) : tambOf e n = tambOf d n := by
  unfold tambOf
  rw [h]

theorem CalEnded.tamb (h : CalEnded d e t f) : tambOf e t = { tambOf d t with cal := f (tambOf d t).cal } :=
  (tambOf_congr h.tambs t).trans (tambOf_setTamb d t _)

theorem CalEnded.others (h : CalEnded d e t f) (n : Nat) (hn : n ≠ t) : tambOf e n = tambOf d n :=
  (tambOf_congr h.tambs n).trans (tambOf_setTamb_other d t n _ hn)

theorem reportCal_events (d : Dev) (t cause bad first last : Nat) : EventsOnly d (reportCal c d t cause bad first last) := by
  unfold reportCal
  split
  · exact raise_events _ _ _ _
  · exact logAt_events _ _ _ _ _ _ _ _

/-- A calibration that fails is reported. -/
theorem calFail_ended (cause bad first last : Nat) :
    CalEnded d (reportCal c (calFail d t cause bad first last) t cause bad first last) t fun cal =>
      { state := .fail, cause := BitVec.ofNat 2 cause, bad, first, last, swapDue := cal.swapDue } := by
  have h := reportCal_events (c := c) (calFail d t cause bad first last) t cause bad first last
  constructor <;> rw [h] <;> rfl

theorem calFinish_eq : calFinish c d t =
    let bad := calFailing d t
    if bad.length ≤ cf (seen d t) .tCalBounds t 0 31 16 then
      setTamb (calStored c d t) t fun m => { m with
        cal := { state := .pass, bad := bad.length, first := bad.headD 0, last := bad.getLastD 0, swapDue := true } }
    else
      reportCal c (calFail (calStored c d t) t 1 bad.length (bad.headD 0) (bad.getLastD 0)) t 1 bad.length (bad.headD 0) (bad.getLastD 0) := rfl

/-- As many entries fail as have no result. -/
theorem calFailing_length : (calFailing d t).length = ((calResults d t).filter (·.isNone)).length := by
  have h : ∀ l : List (Option (Nat × Nat)), (List.range l.length).map (fun i => (l[i]?).bind id) = l := fun l =>
    List.ext_getElem (by simp) fun i _ hi => by
      rw [List.getElem_map, List.getElem_range, List.getElem?_eq_getElem hi]
      rfl
  conv_rhs => rw [← h (calResults d t), List.filter_map, List.length_map]
  rfl

theorem calBytes_length (d : Dev) (t i : Nat) : (calBytes d t i).length = 4 := by
  unfold calBytes
  split <;> simp [leBytes_length]

/-- An entry that passes keeps its own O and G. -/
theorem calBytes_of_pass {i o g : Nat} (h : (calResults d t)[i]? = some (some (o, g))) : calBytes d t i = leBytes 2 o ++ leBytes 2 g := by
  have hnear : calNear (calResults d t) (calChans d t) i = some (o, g) := by
    unfold calNear
    rw [List.range_succ_eq_map, List.findSome?_cons]
    simp [h]
  unfold calBytes
  rw [hnear]

/-- Blocks of four bytes, one after another. -/
theorem getD_flatten_four {l : List (List Byte)} (hl : ∀ x ∈ l, x.length = 4) {i j : Nat} (hj : j < 4) {x : List Byte} (hi : l[i]? = some x) :
    l.flatten.getD (4 * i + j) 0 = x.getD j 0 := by
  induction l generalizing i with
  | nil => simp at hi
  | cons y l ih =>
    have hy : y.length = 4 := hl y List.mem_cons_self
    rw [List.flatten_cons]
    cases i with
    | zero =>
      obtain rfl : y = x := by simpa using hi
      rw [Nat.mul_zero, Nat.zero_add, List.getD_append _ _ _ _ (by omega)]
    | succ i =>
      rw [List.getD_append_right _ _ _ _ (by omega), show 4 * (i + 1) + j - y.length = 4 * i + j by omega]
      exact ih (fun z hz => hl z (List.mem_cons_of_mem _ hz)) (by simpa using hi)

theorem length_flatten_four {l : List (List Byte)} (hl : ∀ x ∈ l, x.length = 4) : l.flatten.length = 4 * l.length := by
  rw [List.length_flatten, List.map_congr_left hl]
  simp [Nat.mul_comm]

theorem calFinish_mem : (calFinish c d t).mem = (calStored c d t).mem := by
  rw [calFinish_eq]
  dsimp only
  split
  · rfl
  · rw [reportCal_mem, calFail_mem]

section
variable (hecc : d.ecc = []) (hne : calResults d t ≠ [])
include hecc hne

/-- The bytes of the new coefficients, the inactive bank's from its first on. -/
theorem calStored_eq : calStored c d t = { d with
    free := d.free + (calResults d t).length
    mem := Memory.setAll d.mem (coefKey t (b2n !(tambOf d t).bank) 0) ((List.range (calResults d t).length).map (calBytes d t)).flatten } := by
  have hlen : ((List.range (calResults d t).length).map (calBytes d t)).flatten.length = 4 * (calResults d t).length := by
    rw [length_flatten_four (by simp [calBytes_length]), List.length_map, List.length_range]
  have hpos : 0 < (calResults d t).length := List.length_pos_iff.2 hne
  have hbytes : ((List.range (calResults d t).length).map (calBytes d t)).flatten ≠ [] := by
    rw [← List.length_pos_iff, hlen]
    omega
  exact store_plain _ _ _ _ _ hecc hbytes

/-- A calibration ends PASS or FAIL by its bad entries (R106). -/
theorem calFinish_ended : CalEnded d (calFinish c d t) t fun cal =>
    let bad := calFailing d t
    if bad.length ≤ cf (seen d t) .tCalBounds t 0 31 16 then
      { state := .pass, bad := bad.length, first := bad.headD 0, last := bad.getLastD 0, swapDue := true }
    else { state := .fail, cause := 1, bad := bad.length, first := bad.headD 0, last := bad.getLastD 0, swapDue := cal.swapDue } := by
  have hs := calStored_eq (c := c) hecc hne
  rw [calFinish_eq]
  dsimp only
  split
  · constructor <;> rw [hs] <;> rfl
  · obtain ⟨hregs, hshadow, hreq, htambs⟩ := calFail_ended (c := c) (d := calStored c d t) (t := t) 1 (calFailing d t).length
      ((calFailing d t).headD 0) ((calFailing d t).getLastD 0)
    constructor
    · rw [hregs, hs]
    · rw [hshadow, hs]
    · rw [hreq, hs]
    · rw [htambs, hs]
      rfl

theorem calFinish_get_other {a : Nat} (h : a < coefKey t (b2n !(tambOf d t).bank) 0 ∨ coefKey t (b2n !(tambOf d t).bank) 0 + 4 * (calResults d t).length ≤ a) :
    Memory.get (calFinish c d t).mem a = Memory.get d.mem a := by
  have hlen := length_flatten_four (l := (List.range (calResults d t).length).map (calBytes d t)) (by simp [calBytes_length])
  rw [List.length_map, List.length_range] at hlen
  rw [calFinish_mem, calStored_eq hecc hne, get_setAll, hlen, if_neg (by omega)]

theorem calFinish_get_pass {i o g j : Nat} (h : (calResults d t)[i]? = some (some (o, g))) (hj : j < 4) :
    Memory.get (calFinish c d t).mem (coefKey t (b2n !(tambOf d t).bank) 0 + 4 * i + j) = (leBytes 2 o ++ leBytes 2 g).getD j 0 := by
  have hi : i < (calResults d t).length := (List.getElem?_eq_some_iff.1 h).1
  have hlen := length_flatten_four (l := (List.range (calResults d t).length).map (calBytes d t)) (by simp [calBytes_length])
  rw [List.length_map, List.length_range] at hlen
  rw [calFinish_mem, calStored_eq hecc hne, get_setAll, hlen, if_pos (by omega), Nat.add_assoc, Nat.add_sub_cancel_left]
  refine getD_flatten_four (by simp [calBytes_length]) hj ?_
  simp [hi, calBytes_of_pass h]

end

end

/-! #### The two commands -/

section
variable {c : Units} {d e : Dev} {n : Nat} {f : Dev → Dev}

theorem atCycle_some (h : passCycles c d (n - d.clk.mono) = some e) : atCycle c d n f = f e := by
  unfold atCycle
  rw [h]

theorem atCycle_none (h : passCycles c d (n - d.clk.mono) = none) : atCycle c d n f = d := by
  unfold atCycle
  rw [h]

end

section
variable {t : Fin 4} {s : State} (hclk : clocked s.dev = true) (hrun : (tambOf s.dev t).cal.state = .running)
include hclk hrun

/-- A calibration whose last line is readable in time completes. -/
theorem exec_calComplete : exec (.calComplete t) s = .next
    { s with
      dev := if calTaken s.dev t then
          atCycle s.committed s.dev ((tambOf s.dev t).cal.lastAt + calEntries s.dev t) fun e =>
            if (tambOf e t).cal.state == .running then calFinish s.committed e t else e
        else s.dev } := by
  show execCalComplete t s = _
  unfold execCalComplete
  rw [onDev_eq]
  simp only [hclk, hrun, beq_self_eq_true, Bool.true_and]

/-- Any other times out. -/
theorem exec_calTimeout : exec (.calTimeout t) s = .next
    { s with
      dev := if calTaken s.dev t then s.dev
        else atCycle s.committed s.dev (calLimit s.dev t) fun e =>
          if (tambOf e t).cal.state == .running then reportCal s.committed (calFail e t 2 0 0 0) t 2 0 0 0 else e } := by
  show execCalTimeout t s = _
  unfold execCalTimeout
  rw [onDev_eq]
  cases h : calTaken s.dev t <;> simp [hclk, hrun]

end

/-- Settles O47: by `calTaken` one of the two commands acts, at its cycle (`atCycle`), and ends the calibration (`CalEnded`). -/
theorem calibrationsEnd : Obligations.CalibrationsEnd := by
  unfold Obligations.CalibrationsEnd
  intro t s hclk hrun c d cal limit last reach frame
  have hcomplete := exec_calComplete hclk hrun
  have htimeout := exec_calTimeout hclk hrun
  have htaken : calTaken d t = true ↔ last ≤ cal.line ∧ cal.lastAt ≤ limit := by
    unfold calTaken
    rw [Bool.and_eq_true, decide_eq_true_iff, decide_eq_true_iff]
    rfl
  have hframe : ∀ {e : Dev} {u : Dev} {f}, CalEnded e u t f → frame e { s with dev := u } := fun h =>
    ⟨rfl, rfl, h.regs, h.shadow, h.req, h.others, by rw [h.tamb]⟩
  refine ⟨fun hline hlast e he => ?_, fun hline hlast he => ?_, fun hline hlast => ?_, fun h => ?_⟩
  · rw [if_pos (htaken.2 ⟨hline, hlast⟩), atCycle_some he] at hcomplete
    refine ⟨fun hstop => ?_, fun hon hecc => ?_⟩
    · rw [hcomplete, if_neg (by simpa using hstop)]
    · intro m v w es bad k hne
      rw [if_pos (by simpa using hon)] at hcomplete
      have hend := calFinish_ended (c := c) (t := t) hecc hne
      have hbad : (calFailing e t).length = bad := calFailing_length
      have htamb := hend.tamb
      dsimp only at htamb
      rw [hbad] at htamb
      refine ⟨_, hcomplete, hframe hend, fun h => ?_, fun h => ?_, ?_, fun a ha => calFinish_get_other hecc hne ha,
        fun i o g hi j hj => calFinish_get_pass hecc hne hi hj⟩
      · rw [htamb, if_pos h]
        exact ⟨rfl, rfl⟩
      · rw [htamb, if_neg (Nat.not_le.2 h)]
        exact ⟨rfl, rfl, rfl⟩
      · rw [htamb]
        split <;> rfl
  · rw [hcomplete, if_pos (htaken.2 ⟨hline, hlast⟩), atCycle_none he]
  · rw [htimeout, if_pos (htaken.2 ⟨hline, hlast⟩)]
  · have hnot : ¬ calTaken d t = true := fun hk => by
      obtain ⟨h1, h2⟩ := htaken.1 hk
      omega
    rw [if_neg hnot] at hcomplete htimeout
    refine ⟨hcomplete, fun he => ?_, fun e he => ⟨fun hstop => ?_, fun hon => ?_⟩⟩
    · rw [htimeout, atCycle_none (n := calLimit d t) he]
    · rw [htimeout, atCycle_some (n := calLimit d t) he, if_neg (by simpa using hstop)]
    · rw [atCycle_some (n := calLimit d t) he, if_pos (by simpa using hon)] at htimeout
      have hend := calFail_ended (c := c) (d := e) (t := t) 2 0 0 0
      refine ⟨_, htimeout, hframe hend, ?_, ?_, ?_⟩
      · exact reportCal_mem
      · rw [hend.tamb]
      · rw [hend.tamb]
        rfl

end Sys2Proof.Machine

namespace Sys2Proof.Machine

/-! ### Which packets a receive port takes (R123 to R125) -/

/-- Whatever a packet does, it does on a running port only (R123). -/
theorem exec_rxPacket {i : Instr} {r : RxHdr} (h : rxPacket i = some r) (s : State) :
    ∃ e, exec i s = .next { s with dev := if rxOn s.committed s.dev r.port then e else s.dev } := by
  cases i with
  | jobBegin | jobEnd | pageMark | frameStart | frameEnd | lineStart | pixelLine | embeddedData | codedData | textInput | bulkLoad =>
    cases h
    exact ⟨_, rfl⟩
  | packetDiscarded r cause =>
    cases h
    cases cause <;> exact ⟨_, rfl⟩
  | _ => cases h

/-- A long packet acts through the checks of its channel (R124). -/
theorem exec_longPacket {i : Instr} {r : RxHdr} (h : longPacket i = some r) (s : State) :
    ∃ f, exec i s = .next { s with dev := rxLong s.committed s.dev r f } := by
  cases i with
  | jobBegin | jobEnd | pageMark | pixelLine | embeddedData | codedData | textInput =>
    cases h
    exact ⟨_, rfl⟩
  | packetDiscarded r cause =>
    cases cause with
    | inband bytes =>
      cases h
      exact ⟨_, rfl⟩
    | _ => cases h
  | _ => cases h

section
variable {c : Units} {d : Dev} {r : RxHdr} {f : Dev → Dev}

/-- A running port acts on a packet once its header has been seen. -/
theorem rxIn_on (h : rxOn c d r.port = true) : rxIn c d r f = f (rxSeen d r) := if_pos h

/-- A corrected header changes no register, so that the channel is read as before it. -/
theorem rxSeen_regs : (rxSeen d r).regs = d.regs := by
  unfold rxSeen
  split <;> rfl

theorem isBulk_congr {d e : Dev} (h : e.regs = d.regs) (x v : Nat) : isBulk e x v = isBulk d x v := by
  unfold isBulk
  rw [cf_congr h, cf_congr h]

/-- A long packet of the bulk channel, or of one with MODE OFF, has no job. -/
theorem rxLong_noJob (h : rxOn c d r.port = true) (ho : isBulk d r.port r.vc = true ∨ vcMode d r.port r.vc = 0) :
    rxLong c d r f = countNoJob (rxSeen d r) r.port 1 := by
  unfold rxLong
  rw [rxIn_on h, isBulk_congr rxSeen_regs, vcMode_congr rxSeen_regs]
  exact if_pos (by simpa using ho)

end

/-- Settles O48: every packet is ignored on a port that does not run, and each cause of discarding counts once. -/
theorem portsTakeOnlyWhatTheyAccept : Obligations.PortsTakeOnlyWhatTheyAccept := by
  unfold Obligations.PortsTakeOnlyWhatTheyAccept
  intro i r s left
  refine ⟨fun hi hoff => ?ignored, fun hon => ⟨fun cause hc => ?header, ?dataType, fun hi ho => ?noJob⟩⟩
  case ignored =>
    obtain ⟨e, he⟩ := exec_rxPacket hi s
    rw [he, hoff]
    rfl
  case header =>
    obtain rfl | rfl := hc
    all_goals exact congrArg (fun e => Host.Outcome.next { s with dev := e }) (if_pos hon)
  case dataType => exact congrArg (fun e => Host.Outcome.next { s with dev := e }) (rxIn_on hon)
  case noJob =>
    obtain ⟨f, hf⟩ := exec_longPacket hi s
    rw [hf, rxLong_noJob hon ho]

end Sys2Proof.Machine

namespace Sys2Proof.Machine

/-! ### Frames open and close jobs (R96, R127 to R130, R133, R140) -/

/-- Ports, Tambours and registers apart, the device is the same. -/
def MarksChannel (d e : Dev) : Prop := e = { d with regs := e.regs, rx := e.rx, tambs := e.tambs }

/-- A channel at a frame start: stamped, with its width in force, and no line counted. -/
def frameBegun (now : BitVec 64) (xavg : Nat) (q : Vc) : Vc := { q with frame := some now, xavg := xavg, firstLn := none, curLn := none }

/-- The device once a frame start has stamped its channel; a calibration that waits for a frame is armed (R104). -/
def frameStamped (c : Units) (d : Dev) (x v : Nat) : Dev :=
  let e := setVc d x v (frameBegun d.clk.time (ratioX (seen d x) x))
  if processed c e x v && (tambOf e x).active == 0 && (tambOf e x).cal.state == .running && (tambOf e x).cal.from_ ≤ tick200 e then
    setTamb e x (fun m => { m with cal := { m.cal with armed := true } })
  else e

/-- A FRAME channel closes its open job and opens the next, where a partition may run it (R127 to R129). -/
def frameOpens (c : Units) (d : Dev) (x v : Nat) (now : BitVec 64) : Dev :=
  let d := if (vcOf d x v).job.isSome then closeJob c d x v else d
  match opener c d x v with
  | none => d
  | some p => openJob c (nextSeq d x v).1 x v p 0 0 0 (nextSeq d x v).2 none now (lineX (nextSeq d x v).1 x v)

/-- What a frame start makes of a channel that is not OFF. -/
def frameStarts (c : Units) (d : Dev) (x v : Nat) : Dev :=
  let e := frameStamped c d x v
  if vcMode d x v != 1 then e else frameOpens c e x v d.clk.time

/-- What a frame end makes of a channel: in FRAME mode its open job is closed. -/
def frameEnds (c : Units) (d : Dev) (x v : Nat) : Dev :=
  if vcMode d x v == 1 && (vcOf d x v).job.isSome then closeJob c d x v else d

/-- A channel with the number of its latest line, and of its first (R133). -/
def lineBegun (n : Nat) (q : Vc) : Vc :=
  { q with firstLn := match q.firstLn with | some m => some m | none => some n, curLn := some n }

/-- What a line start makes of a channel: with LSLN = 1 its number is kept, unless the channel is OFF. -/
def lineStarts (d : Dev) (x v n : Nat) : Dev :=
  if cf d .rxCfg x 0 12 12 == 1 && vcMode d x v != 0 then setVc d x v (lineBegun n) else d

section
variable {c : Units} {d : Dev} {x v n : Nat}

theorem frameStarts_frame (h : vcMode d x v = 1) : frameStarts c d x v = frameOpens c (frameStamped c d x v) x v d.clk.time := if_neg (by simp [h])

theorem frameStarts_other (h : vcMode d x v ≠ 1) : frameStarts c d x v = frameStamped c d x v := if_pos (bne_iff_ne.2 h)

theorem frameEnds_frame (h : vcMode d x v = 1) (hj : (vcOf d x v).job.isSome = true) : frameEnds c d x v = closeJob c d x v :=
  if_pos (by rw [h, hj]; rfl)

theorem frameEnds_other (h : vcMode d x v ≠ 1) : frameEnds c d x v = d := if_neg (by simp [h])

theorem lineStarts_numbered (h : cf d .rxCfg x 0 12 12 = 1) (hm : vcMode d x v ≠ 0) : lineStarts d x v n = setVc d x v (lineBegun n) :=
  if_pos (by rw [h, bne_iff_ne.2 hm]; rfl)

theorem lineStarts_unnumbered (h : cf d .rxCfg x 0 12 12 = 0) : lineStarts d x v n = d := if_neg (by simp [h])

end

section
variable {c : Units} {d : Dev} {x : Fin 4} {v : Fin 16}

theorem frameStamped_marks : MarksChannel d (frameStamped c d x v) := by
  unfold MarksChannel frameStamped
  dsimp only
  split <;> rfl

theorem frameStamped_regs : (frameStamped c d x v).regs = d.regs := by
  unfold frameStamped
  dsimp only
  split <;> rfl

theorem vcOf_frameStamped : vcOf (frameStamped c d x v) x v = frameBegun d.clk.time (ratioX (seen d x) x) (vcOf d x v) := by
  unfold frameStamped
  dsimp only
  split <;> exact vcOf_setVc d x v _

/-- The partition that a channel may open a job for rests on the images and on the channel's numbers. -/
theorem opener_frameStamped : opener c (frameStamped c d x v) x v = opener c d x v := by
  have hb : binder (frameStamped c d x v) x v = binder d x v := by
    rw [show frameStamped c d x v = _ from frameStamped_marks]
    rfl
  unfold opener
  rw [hb, vcOf_frameStamped]
  rfl

theorem nextSeq_marks : MarksChannel d (nextSeq d x v).1 := by
  unfold MarksChannel nextSeq
  dsimp only
  split <;> rfl

theorem nextSeq_regs : (nextSeq d x v).1.regs = (putCom d .vcSeq x v ((com d .vcSeq x v + 1) % 2 ^ 32)).regs := by
  unfold nextSeq
  dsimp only
  split <;> rfl

theorem vcOf_nextSeq_frame : (vcOf (nextSeq d x v).1 x v).frame = (vcOf d x v).frame := by
  unfold nextSeq
  dsimp only
  split
  · rw [vcOf_setVc]
    rfl
  · rfl

theorem com_congr {d e : Dev} (h : e.regs = d.regs) (r : Reg) (i j : Nat) : com e r i j = com d r i j := comAt_congr h _ _

/-- VC_SEQ advances with the number that it gives. -/
theorem com_nextSeq : com (nextSeq d x v).1 .vcSeq x v = (com d .vcSeq x v + 1) % 2 ^ 32 := by
  rw [com_congr nextSeq_regs, com_putCom _ _ _ _ _ (Nat.mod_lt _ (by decide))]

/-- A register at another address than VC_SEQ is left as it was. -/
theorem cf_nextSeq {r : Reg} {i j : Nat} (h : addrOf r i j ≠ addrOf .vcSeq x v) (hi lo : Nat) :
    cf (nextSeq d x v).1 r i j hi lo = cf d r i j hi lo := by
  rw [cf_congr nextSeq_regs]
  refine congrArg (bitsOf · hi lo) ?_
  unfold com
  dsimp only
  rw [comAt_putCom _ _ _ _ _ _ _ (Nat.mod_lt _ (by decide)), if_neg h]

theorem vcSeq_apart : ∀ (x : Fin 4) (v : Fin 16), addrOf .vcCfg x v ≠ addrOf .vcSeq x v ∧ addrOf .vcLines x v ≠ addrOf .vcSeq x v
    ∧ addrOf .jobCfg 0 0 ≠ addrOf .vcSeq x v := by decide +kernel

theorem MarksChannel.trans {a b e : Dev} (h : MarksChannel a b) (g : MarksChannel b e) : MarksChannel a e := by
  unfold MarksChannel at *
  rw [h] at g
  exact g

/-- What a job's opening leaves, told from before its channel was marked. -/
theorem Opened.of_marks {d e u : Dev} {p : Nat} {seq : Word} {j : Job} (ho : Opened e u x v p seq j) (h : MarksChannel d e)
    (hm : vcMode e x v = vcMode d x v) : Opened d u x v p seq j := by
  unfold Opened at ho ⊢
  unfold MarksChannel at h
  rw [hm, h] at ho
  exact ho

/-- A frame start on a FRAME channel without an open job opens the channel's next. -/
theorem frameOpens_opened {p : Nat} (ho : opener c d x v = some p) (hn : (vcOf d x v).job = none) :
    let u := frameOpens c (frameStamped c d x v) x v d.clk.time
    ∃ j, Opened d u x v p (BitVec.ofNat 32 (com d .vcSeq x v)) j ∧ j.kind = 0 ∧ j.height = cf d .vcLines x v 15 0
      ∧ j.minPct = cf d .jobCfg 0 0 6 0 ∧ j.opened = d.clk.time ∧ (vcOf u x v).frame = some d.clk.time
      ∧ com u .vcSeq x v = (com d .vcSeq x v + 1) % 2 ^ 32 := by
  intro u
  let e := frameStamped c d x v
  let m := (nextSeq e x v).1
  have hregs : e.regs = d.regs := frameStamped_regs
  have hchan : vcOf e x v = frameBegun d.clk.time (ratioX (seen d x) x) (vcOf d x v) := vcOf_frameStamped
  have hu : u = openJob c m x v p 0 0 0 (BitVec.ofNat 32 (com e .vcSeq x v)) none d.clk.time (lineX m x v) := by
    show frameOpens c e x v d.clk.time = _
    unfold frameOpens
    rw [hchan, show (frameBegun _ _ (vcOf d x v)).job = none from hn]
    dsimp only [Option.isSome]
    rw [if_neg (by decide), show opener c e x v = some p from opener_frameStamped.trans ho]
    rfl
  obtain ⟨j, hopened, hkind, -, -, hstamp, hpct, hkeep, hheight, hvc⟩ := openJob_opened c m x v p 0 0 0 (BitVec.ofNat 32 (com e .vcSeq x v)) none
    d.clk.time (lineX m x v)
  rw [← hu] at hopened hkeep hvc
  obtain ⟨hcfg, hlines, hjob⟩ := vcSeq_apart x v
  have hmode : vcMode m x v = vcMode d x v := (cf_nextSeq hcfg 31 30).trans (cf_congr hregs ..)
  rw [com_congr hregs] at hopened
  refine ⟨j, hopened.of_marks (frameStamped_marks.trans nextSeq_marks) hmode, hkind, hheight.trans ?_, hpct.trans ?_, hstamp, ?_, ?_⟩
  · exact (cf_nextSeq hlines 15 0).trans (cf_congr hregs ..)
  · exact (cf_nextSeq hjob 6 0).trans (cf_congr hregs ..)
  · rw [hvc]
    show (vcOf m x v).frame = _
    rw [vcOf_nextSeq_frame, hchan]
    rfl
  · rw [com_congr hkeep, com_nextSeq, com_congr hregs]

end

section
variable {r : RxHdr} {n : BitVec 16} {s : State}

section
variable (h : rxOn s.committed s.dev r.port = true) (hb : isBulk (rxSeen s.dev r) r.port r.vc = false)
include h hb

theorem exec_frameStart (hm : vcMode (rxSeen s.dev r) r.port r.vc ≠ 0) :
    exec (.frameStart r n) s = .next { s with dev := frameStarts s.committed (rxSeen s.dev r) r.port r.vc } := by
  show execFrameStart r n s = _
  unfold execFrameStart
  rw [onDev_eq, rxIn_on h]
  dsimp only
  rw [if_neg (by simp [hb, hm])]
  rfl

theorem exec_frameEnd : exec (.frameEnd r n) s = .next { s with dev := frameEnds s.committed (rxSeen s.dev r) r.port r.vc } := by
  show execFrameEnd r n s = _
  unfold execFrameEnd
  rw [onDev_eq, rxIn_on h, hb]
  rfl

theorem exec_lineStart : exec (.lineStart r n) s = .next { s with dev := lineStarts (rxSeen s.dev r) r.port r.vc n.toNat } := by
  show execLineStart r n s = _
  unfold execLineStart
  rw [onDev_eq, rxIn_on h, hb, Bool.not_false, Bool.and_true]
  rfl

end

/-- A timeout closes its channel's job once the cycle has come (R127). -/
theorem exec_jobTimeout {x : Fin 4} {v : Fin 16} {j : Job} (hclk : clocked s.dev = true) (hj : openJobOf s.dev x v = some j) :
    exec (.jobTimeout x v) s = .next { s with dev :=
      (atCycle s.committed s.dev (j.lastPkt + cyclesPerMs * j.tmoMs) fun e => closeJob s.committed e x v) } := by
  show execJobTimeout x v s = _
  unfold execJobTimeout
  rw [onDev_eq, hj]
  dsimp only
  rw [if_pos hclk]

end

/-- Settles O50: a frame start marks its channel and opens by `openJob_opened`; what ends a job is `closeJob`, by `closeJob_closed`. -/
theorem framesOpenAndCloseJobs : Obligations.FramesOpenAndCloseJobs := by
  unfold Obligations.FramesOpenAndCloseJobs
  intro r n s c d x v left closes
  have closes_of : ∀ {i : Instr} {e : Dev}, (∀ j, openJobOf e x v = some j → exec i s = .next (left (closeJob c e x v))) → closes i e := by
    intro i e hexec j hj hc
    obtain ⟨w, hrest⟩ := closeJob_closed c e r.port r.vc j hj hc
    exact ⟨_, w, hexec j hj, rfl, hrest⟩
  refine ⟨fun hon hb => ⟨fun p hm ho hn => ?opens, fun hm => ?stamps, fun hm => closes_of fun j hj => ?ends, fun hm => ?endsOther, fun hl hm => ?line,
      fun hl => ?noLine⟩, fun hclk j hj => ⟨fun e he => closes_of fun _ _ => ?timeout, fun he => ?early⟩⟩
  case opens =>
    have run := exec_frameStart (n := n) hon hb (by rw [hm]; decide)
    rw [frameStarts_frame hm] at run
    obtain ⟨j, hj⟩ := frameOpens_opened ho hn
    exact ⟨_, j, run, rfl, hj⟩
  case stamps =>
    have hother : vcMode d x v ≠ 0 ∧ vcMode d x v ≠ 1 := by omega
    have run := exec_frameStart (n := n) hon hb hother.1
    rw [frameStarts_other hother.2] at run
    have hframe : frameStamped c d r.port r.vc = _ := frameStamped_marks
    refine ⟨_, run, rfl, by rw [hframe], ?_, ?_, frameStamped_regs, by rw [hframe]⟩ <;> rw [vcOf_frameStamped] <;> rfl
  case ends => rw [exec_frameEnd hon hb, frameEnds_frame hm (by rw [(openJobOf_job hj).1]; rfl)]
  case endsOther => rw [exec_frameEnd hon hb, frameEnds_other hm]
  case line =>
    rw [exec_lineStart hon hb, lineStarts_numbered hl hm]
    rfl
  case noLine => rw [exec_lineStart hon hb, lineStarts_unnumbered hl]
  case timeout => rw [exec_jobTimeout hclk hj, atCycle_some (n := j.lastPkt + cyclesPerMs * j.tmoMs) he]
  case early => rw [exec_jobTimeout hclk hj, atCycle_none (n := j.lastPkt + cyclesPerMs * j.tmoMs) he]

end Sys2Proof.Machine

namespace Sys2Proof.Machine

/-! ### Text strings gather (R141) -/

/-- A channel's string has ended. -/
def strEnded (q : Vc) : Vc := { q with str := none, strBad := false }

/-- A channel holds the first fragments of a string. -/
def strHeld (g : Gather) (q : Vc) : Vc := { q with str := some g, strBad := false }

/-- A channel's string is discarded: the fragments up to the next fragment 0 are dropped. -/
def strDiscarded (q : Vc) : Vc := { q with str := none, strBad := true }

/-- A channel without a string drops the fragments up to the next fragment 0. -/
def strAwaited (q : Vc) : Vc := { q with strBad := true }

/-- A string before its first fragment. -/
def newString (payload : List Byte) : Gather :=
  { job := BitVec.ofNat 32 (fld payload 0 4), kind := fld payload 4 1, next := 0, text := [], excess := false }

/-- A text packet names a job that its channel's partition holds. -/
def namesHeldJob (d : Dev) (x v : Nat) (payload : List Byte) : Bool :=
  match binder d x v with | some p => (heldJob d p (BitVec.ofNat 32 (fld payload 0 4))).isSome | none => false

/-- A fragment is added to its string, and the last one hands the string over. -/
def textTakes (c : Units) (d : Dev) (x v : Nat) (payload : List Byte) (g : Gather) : Dev :=
  let g := addText g (payload.drop 8)
  if fld payload 5 1 == 1 then handString c (setVc d x v strEnded) x v g.kind g.job g.text g.excess
  else setVc d x v (strHeld g)

/-- What a text packet that names its job makes of the string of its channel. -/
def textGathers (c : Units) (d : Dev) (x v : Nat) (payload : List Byte) : Dev :=
  let no := fun (d : Dev) => refuseInband d x v (fld payload 4 1) 8 (fld payload 0 4)
  match (vcOf d x v).str with
  | some g =>
    if fld payload 6 2 == 0 then textTakes c (no d) x v payload (newString payload)
    else if fld payload 6 2 == g.next then textTakes c d x v payload g
    else no (setVc d x v strDiscarded)
  | none =>
    if fld payload 6 2 == 0 then textTakes c d x v payload (newString payload)
    else if (vcOf d x v).strBad then d
    else no (setVc d x v strAwaited)

theorem namesHeldJob_iff {d : Dev} {x v : Nat} {payload : List Byte} :
    namesHeldJob d x v payload = true ↔ ∃ p, binder d x v = some p ∧ heldJob d p (BitVec.ofNat 32 (fld payload 0 4)) ≠ none := by
  unfold namesHeldJob
  cases binder d x v <;> simp [Option.isSome_iff_ne_none]

theorem exec_textInput {r : RxHdr} {payload : List Byte} {s : State} (h : longTaken s.committed s.dev r) (hc : r.crcBad = false)
    (hlen : 8 ≤ payload.length) (hk : 1 ≤ fld payload 4 1) (hk3 : fld payload 4 1 ≤ 3) (hl : fld payload 5 1 ≤ 1) :
    exec (.textInput r payload) s = .next { s with dev := (
      if fld payload 0 4 != 0xFFFFFFFF && !namesHeldJob (rxSeen s.dev r) r.port r.vc payload then
        refuseInband (rxSeen s.dev r) r.port r.vc (fld payload 4 1) 9 (fld payload 0 4)
      else textGathers s.committed (rxSeen s.dev r) r.port r.vc payload) } := by
  have hform : ¬ ((decide (payload.length < 8) || fld payload 4 1 == 0 || decide (3 < fld payload 4 1) || decide (1 < fld payload 5 1)) = true) := by
    simp only [Bool.or_eq_true, decide_eq_true_eq, beq_iff_eq]
    omega
  show execTextInput r payload s = _
  unfold execTextInput
  rw [onDev_eq, rxLong_taken _ _ _ _ h]
  dsimp only
  rw [hc, if_neg (by decide), if_neg hform]
  rfl

/-- A refused packet counts on its port; the text unit and the string of its channel stay. -/
theorem refuseInband_leaves (d : Dev) (x : Fin 4) (v : Fin 16) (op why seq : Nat) :
    let e := refuseInband d x v op why seq
    e.txt = d.txt ∧ e.jobs = d.jobs ∧ e.mem = d.mem ∧ vcOf e x v = vcOf d x v ∧ (rxOf e x).inband = (rxOf d x).inband + 1 := by
  intro e
  obtain ⟨hjobs, hmem, -, hcount, -⟩ := refuseInband_frame d x v op why seq
  obtain ⟨h, he, -⟩ := logOnly_spec (setRx d x fun r => { r with inband := r.inband + 1 }) 0x0104 (0x14 + x) 255 [x, v, op, why, seq]
  refine ⟨by rw [show e = _ from he]; rfl, hjobs, hmem, ?_, hcount⟩
  rw [show e = _ from he]
  exact vcOf_setRx d x _ v fun _ => rfl

/-- A refused packet that discards its channel's string. -/
theorem refuseInband_setVc (d : Dev) (x : Fin 4) (v : Fin 16) (op why seq : Nat) (f : Vc → Vc) :
    let e := refuseInband (setVc d x v f) x v op why seq
    e.txt = d.txt ∧ e.jobs = d.jobs ∧ e.mem = d.mem ∧ (vcOf e x v).str = (f (vcOf d x v)).str
      ∧ (rxOf e x).inband = (rxOf d x).inband + 1 := by
  obtain ⟨htxt, hjobs, hmem, hvc, hcount⟩ := refuseInband_leaves (setVc d x v f) x v op why seq
  refine ⟨htxt, hjobs, hmem, ?_, ?_⟩
  · rw [hvc, vcOf_setVc]
  · rw [hcount, rxOf_setVc]

/-! ### The tokenizer's strings (R315, R317, R319) -/

/-- A string of which tokenization starts where it has not (R315). -/
def strStarted (d : Dev) (q : Str) : Str :=
  if q.toks.isNone then { q with toks := some (tokenize d (b2n d.txt.active) q.text, bufSet d.txt d.txt.active) } else q

/-- The text unit with other strings. -/
def withStrs (d : Dev) (l : List Str) : Dev := { d with txt := { d.txt with strs := l } }

theorem withStrs_self {d : Dev} {l : List Str} (h : d.txt.strs = l) : withStrs d l = d := by
  rw [← h]
  rfl

/-- Only the string in front is touched when tokenization starts. -/
theorem startStr_eq (d : Dev) : startStr d = withStrs d (d.txt.strs.modifyHead (strStarted d)) := by
  unfold startStr
  split
  case h_1 hs =>
    rw [hs]
    rfl
  case h_2 hnone =>
    refine (withStrs_self ?_).symm
    cases hs : d.txt.strs with
    | nil => rfl
    | cons q rest =>
      have htoks : q.toks.isNone = false := by
        cases ht : q.toks with
        | none => exact (hnone q.port q.vc q.job q.kind q.text q.trunc rest (by rw [hs, ← ht])).elim
        | some _ => rfl
      rw [List.modifyHead_cons, strStarted, if_neg (by rw [htoks]; decide)]

/-- An update of the head of a list changes an element put behind it only where that element is the head. -/
theorem getLast?_modifyHead_append {α : Type} (f : α → α) (l : List α) (a : α) :
    ((l ++ [a]).modifyHead f).getLast? = some (if l = [] then f a else a) := by
  cases l with
  | nil => rfl
  | cons b l =>
    rw [List.cons_append, List.modifyHead_cons, ← List.cons_append, List.getLast?_concat, if_neg (List.cons_ne_nil b l)]

/-- The text unit takes a whole string when it runs with a valid set and has room. -/
theorem handString_taken {c : Units} {d : Dev} {x v kind : Nat} {job : Word} {text : List Byte} (hrun : running c 0x1A = true)
    (hset : activeValid d.txt = true) (hroom : queueUsed d.txt + 8256 ≤ 1048576) :
    let l := d.txt.strs ++ [{ port := x, vc := v, job, kind, text, trunc := false }]
    handString c d x v kind job text false = withStrs d (l.modifyHead (strStarted (withStrs d l))) := by
  intro l
  unfold handString
  dsimp only
  rw [hrun, hset, if_neg (by decide), if_neg (by omega), if_neg (by decide)]
  exact startStr_eq (withStrs d l)

/-- The input-queue entry that a string becomes (R319, R320). -/
def strEntry (d : Dev) (q : Str) : InEntry :=
  let x := q.toks.getD ([], 0)
  let cut := decide (2048 < x.1.length)
  { port := q.port, vc := q.vc, job := q.job, kind := q.kind, setId := x.2, trunc := q.trunc || cut
    kept := q.text.length, cut := b2n q.trunc + 2 * b2n cut, tokens := x.1.take 2048, part := none, doneAt := d.clk.mono }

/-- The text unit once the string in front has become an entry. -/
def strQueued (d : Dev) (q : Str) (rest : List Str) : Dev :=
  { d with txt := { d.txt with
    strs := rest, queue := d.txt.queue ++ [strEntry d q], trunc := if (strEntry d q).trunc then d.txt.trunc + 1 else d.txt.trunc } }

theorem exec_tokenizeDone {s : State} {q : Str} {rest : List Str} (hclk : clocked s.dev = true) (hrun : running s.committed 0x1A = true)
    (hs : s.dev.txt.strs = q :: rest) :
    exec .tokenizeDone s = .next { s with dev := withStrs (strQueued s.dev q rest) (rest.modifyHead (strStarted (strQueued s.dev q rest))) } := by
  show execTokenizeDone s = _
  unfold execTokenizeDone
  rw [onDev_eq, hclk, hrun, if_pos (by decide)]
  unfold tokenizeFront
  rw [hs]
  exact congrArg (fun e => Host.Outcome.next { s with dev := e }) (startStr_eq (strQueued s.dev q rest))

/-- A fragment that is not the last is kept with its string. -/
theorem textTakes_held {c : Units} {d : Dev} {x v : Nat} {payload : List Byte} {g : Gather} (h : fld payload 5 1 = 0) :
    textTakes c d x v payload g = setVc d x v (strHeld (addText g (payload.drop 8))) := by
  unfold textTakes
  rw [h]
  rfl

/-- The last fragment hands the string over. -/
theorem textTakes_last {c : Units} {d : Dev} {x v : Nat} {payload : List Byte} {g : Gather} (h : fld payload 5 1 = 1) :
    textTakes c d x v payload g = handString c (setVc d x v strEnded) x v (addText g (payload.drop 8)).kind (addText g (payload.drop 8)).job
      (addText g (payload.drop 8)).text (addText g (payload.drop 8)).excess := by
  unfold textTakes
  rw [h]
  rfl

/-- No fragment makes a string longer than 8,192 bytes. -/
theorem addText_length_le (g : Gather) (t : List Byte) : (addText g t).text.length ≤ Nat.max g.text.length 8192 := by
  show (g.text ++ t.take (8192 - g.text.length)).length ≤ max g.text.length 8192
  rw [List.length_append, List.length_take]
  omega

/-- Settles O52: a fragment is refused or taken by `textGathers`; a string joins the queue by `handString_taken` and leaves it by `strQueued`. -/
theorem textStringsGatherAndQueue : Obligations.TextStringsGatherAndQueue := by
  unfold Obligations.TextStringsGatherAndQueue
  intro r payload s c d x v seq kind last frag text held refused taken start
  have refused_of : ∀ {why : Nat} {f : Vc → Vc}, exec (.textInput r payload) s = .next { s with dev := refuseInband (setVc d x v f) x v kind why seq }
      → refused (f (vcOf d x v)).str := by
    intro why f h
    obtain ⟨htxt, hjobs, hmem, hstr, hcount⟩ := refuseInband_setVc d r.port r.vc kind why seq f
    exact ⟨_, h, rfl, htxt, hjobs, hmem, hstr, hcount⟩
  have taken_of : ∀ {g : Gather}, exec (.textInput r payload) s = .next { s with dev := textTakes c d x v payload g } → taken (addText g text) := by
    intro g h
    refine ⟨fun hl => ?_, fun hl hrun hset hroom hex => ?_⟩
    · rw [textTakes_held hl] at h
      exact ⟨_, h, rfl, by rw [vcOf_setVc]; rfl, rfl, rfl, rfl, rfl⟩
    · rw [textTakes_last hl, show (addText g (payload.drop 8)).excess = false from hex,
        handString_taken (d := setVc d x v strEnded) hrun hset hroom] at h
      refine ⟨_, h, rfl, ?_, rfl, rfl, rfl, ?_, _, getLast?_modifyHead_append _ _ _, ?_⟩
      · show (vcOf (setVc d x v strEnded) x v).str = none
        rw [vcOf_setVc]
        rfl
      · show (List.modifyHead _ (_ ++ [_])).length = _
        rw [List.length_modifyHead, List.length_append]
        rfl
      · split <;> exact ⟨rfl, rfl, rfl, rfl, rfl, rfl⟩
  refine ⟨fun htaken hc hlen hk hk3 hl => ?packets, fun f => ?bounds, fun hclk hrun q rest hs => ?entry⟩
  case packets =>
    have run := exec_textInput htaken hc hlen hk hk3 hl
    refine ⟨fun hseq hheld => ?_, fun hnamed => ?_⟩
    · have hno : namesHeldJob d x v payload = false := Bool.eq_false_iff.2 fun h => hheld (namesHeldJob_iff.1 h)
      rw [if_pos (by rw [show namesHeldJob (rxSeen s.dev r) r.port r.vc payload = false from hno]; simpa using hseq)] at run
      obtain ⟨htxt, hjobs, hmem, hvc, hcount⟩ := refuseInband_leaves d r.port r.vc kind 9 seq
      exact ⟨_, run, rfl, htxt, hjobs, hmem, congrArg Vc.str hvc, hcount⟩
    · have hgo : ¬ ((fld payload 0 4 != 0xFFFFFFFF && !namesHeldJob (rxSeen s.dev r) r.port r.vc payload) = true) := by
        obtain h | h := hnamed
        · simp [show fld payload 0 4 = 0xFFFFFFFF from h]
        · simp [show namesHeldJob (rxSeen s.dev r) r.port r.vc payload = true from namesHeldJob_iff.2 h]
      rw [if_neg hgo] at run
      unfold textGathers at run
      refine ⟨fun hf hnone => taken_of (g := newString payload) ?_, fun g hg hf => ⟨fun hnext => taken_of (g := g) ?_, fun hnext => ?_⟩,
        fun hf hnone hbad => ?_⟩
      · rw [run, show (vcOf (rxSeen s.dev r) r.port r.vc).str = none from hnone]
        dsimp only
        rw [if_pos (beq_iff_eq.2 hf)]
      · rw [run, show (vcOf (rxSeen s.dev r) r.port r.vc).str = some g from hg]
        dsimp only
        rw [if_neg (mt beq_iff_eq.1 hf), if_pos (beq_iff_eq.2 hnext)]
      · refine refused_of (why := 8) (f := strDiscarded) ?_
        rw [run, show (vcOf (rxSeen s.dev r) r.port r.vc).str = some g from hg]
        dsimp only
        rw [if_neg (mt beq_iff_eq.1 hf), if_neg (mt beq_iff_eq.1 hnext)]
      · rw [← show (strAwaited (vcOf d x v)).str = none from hnone]
        refine refused_of (why := 8) (f := strAwaited) ?_
        rw [run, show (vcOf (rxSeen s.dev r) r.port r.vc).str = none from hnone]
        dsimp only
        rw [if_neg (mt beq_iff_eq.1 hf), show (vcOf (rxSeen s.dev r) r.port r.vc).strBad = false from hbad, if_neg (by decide)]
  case bounds =>
    refine ⟨rfl, rfl, ?_, addText_length_le f text⟩
    show (false || decide (8192 < 0 + text.length)) = true ↔ _
    simp
  case entry =>
    refine ⟨_, strEntry s.dev q, exec_tokenizeDone hclk hrun hs, rfl, rfl, rfl, rfl, rfl, rfl, fun ts set ht => ?_, List.length_take_le _ _, ?_, rfl, rfl⟩
    · unfold strEntry
      rw [ht]
      exact ⟨rfl, rfl⟩
    · exact List.length_modifyHead

end Sys2Proof.Machine

namespace Sys2Proof.Machine

/-! ### Bulk load (R142, R143) -/

/-- Only the receive ports differ. -/
def PortsOnly (d e : Dev) : Prop := e = { d with rx := e.rx }

/-- A packet is the FIRST of its transfer. -/
def bulkFirst (payload : List Byte) : Bool := bitOf (fld payload 1 1) 0

/-- The transfer that a packet belongs to: a FIRST packet begins one. -/
def bulkHeld (payload : List Byte) (b : Bulk) : Bulk :=
  if bulkFirst payload then
    { state := 1, id := BitVec.ofNat 16 (fld payload 2 2), target := fld payload 0 1, next := fld payload 4 8 }
  else b

/-- The device once a bulk-load packet has been counted, where its CRC failed, and its transfer begun, where it is the FIRST. -/
def bulkSeen (d : Dev) (r : RxHdr) (payload : List Byte) : Dev :=
  let d := if r.crcBad then setRx d r.port (fun q => { q with crcBad := q.crcBad + 1 }) else d
  if bulkFirst payload then
    setRx d r.port (fun q => { q with bulk :=
      { state := 1, id := BitVec.ofNat 16 (fld payload 2 2), target := fld payload 0 1, next := fld payload 4 8 } })
  else d

/-- A packet does not continue its transfer (check 1 of R142). -/
def bulkStray (payload : List Byte) (b : Bulk) : Bool :=
  !bulkFirst payload && (b.state != 1 || b.id.toNat != fld payload 2 2 || b.next != fld payload 4 8)

/-- What the port's buffer holds when a packet arrives, in elevenths of a byte (R143). -/
def bulkHolds (d : Dev) : Nat := d.bulkLevel - 40 * (d.clk.mono - d.bulkAt)

/-- The CRC of a transfer behind a packet. -/
def bulkCrc (payload : List Byte) (b : Bulk) : Word := crcFrom b.crc (payload.drop 16)

/-- The checks of R142 in their order: the cause with which a packet fails its transfer. -/
def bulkCause (c : Units) (d : Dev) (payload : List Byte) (crcBad : Bool) (b : Bulk) : Option Nat :=
  let a := fld payload 4 8
  let n := (payload.drop 16).length
  if bulkStray payload b then some 3
  else
    match bulkSize d (fld payload 0 1) with
    | none => some 1
    | some size =>
      if n % 4 != 0 || a % 4 != 0 || size < a + n then some 1
      else if !bulkState c d (fld payload 0 1) a n then some 2
      else if crcBad then some 6
      else if 11 * 262144 < bulkHolds d + 11 * n then some 5
      else if bitOf (fld payload 1 1) 1 && ~~~ bulkCrc payload b != BitVec.ofNat 32 (fld payload 12 4) then some 4
      else none

/-- The data of a packet goes to its target. -/
def bulkWrite (c : Units) (d : Dev) (x : Nat) (payload : List Byte) : Dev :=
  let a := fld payload 4 8
  let data := payload.drop 16
  let d := { d with bulkLevel := bulkHolds d + 11 * data.length, bulkAt := d.clk.mono }
  if fld payload 0 1 == 7 then ddrWrite c d { unit := 0x14 + x } regsBulk a data
  else store c d { unit := 0x14 + x } (key (fld payload 0 1) a) data

/-- A transfer goes on behind a packet that is stored, or is done with it. -/
def bulkGoesOn (payload : List Byte) (crc : Word) (b : Bulk) : Bulk :=
  { b with
    crc, next := fld payload 4 8 + (payload.drop 16).length, target := fld payload 0 1, bytes := satAdd 32 b.bytes (payload.drop 16).length
    state := if bitOf (fld payload 1 1) 1 then 2 else 1 }

/-- What a packet that its transfer does not drop leaves: the transfer fails with a cause, or the data is stored. -/
def bulkEnds (c : Units) (e : Dev) (r : RxHdr) (payload : List Byte) : Option Nat → Dev
  | some cause => bulkFail e r.port (fld payload 2 2) cause
  | none => setRx (bulkWrite c e r.port payload) r.port (fun q => { q with bulk := bulkGoesOn payload (bulkCrc payload (rxOf e r.port).bulk) q.bulk })

/-- What a bulk-load packet makes of the device that it finds. -/
def bulkLands (c : Units) (e : Dev) (r : RxHdr) (payload : List Byte) : Dev :=
  if !bulkFirst payload && (rxOf e r.port).bulk.state == 3 then e
  else bulkEnds c e r payload (bulkCause c e payload r.crcBad (rxOf e r.port).bulk)

theorem exec_bulkLoad_other {r : RxHdr} {payload : List Byte} {s : State} (hon : rxOn s.committed s.dev r.port = true)
    (hb : isBulk (rxSeen s.dev r) r.port r.vc = false) :
    exec (.bulkLoad r payload) s = .next { s with dev := countNoJob (rxSeen s.dev r) r.port 1 } := by
  show execBulkLoad r payload s = _
  unfold execBulkLoad
  rw [onDev_eq, rxIn_on hon]
  dsimp only
  rw [hb, if_pos (by decide)]

theorem exec_bulkLoad {r : RxHdr} {payload : List Byte} {s : State} (hon : rxOn s.committed s.dev r.port = true)
    (hb : isBulk (rxSeen s.dev r) r.port r.vc = true) :
    exec (.bulkLoad r payload) s = .next { s with dev := bulkLands s.committed (bulkSeen (rxSeen s.dev r) r payload) r payload } := by
  show execBulkLoad r payload s = _
  unfold execBulkLoad
  rw [onDev_eq, rxIn_on hon]
  refine congrArg (fun e => Host.Outcome.next { s with dev := e }) ?_
  extract_lets x d target flags id a data n first e b level crc
  rw [hb, Bool.not_true, if_neg (by decide)]
  have he : bulkSeen (rxSeen s.dev r) r payload = e := rfl
  clear_value e
  rw [he]
  unfold bulkLands bulkCause
  dsimp only
  cases bulkSize e target <;> (simp only [apply_ite (bulkEnds s.committed e r payload)]; rfl)

section
variable {d : Dev} {r : RxHdr} {payload : List Byte}

/-- A FIRST packet begins with nothing counted and the seed of CRC-32C; another packet goes on from where its transfer stands. -/
theorem bulkHeld_bytes (b : Bulk) : (bulkHeld payload b).bytes = if bulkFirst payload then 0 else b.bytes := by
  unfold bulkHeld
  split <;> rfl

theorem bulkHeld_crc (b : Bulk) : (bulkHeld payload b).crc = if bulkFirst payload then 0xFFFFFFFF else b.crc := by
  unfold bulkHeld
  split <;> rfl

/-- A transfer that has not failed, or begins, has not failed as its packet finds it. -/
theorem bulkHeld_live {b : Bulk} (h : bulkFirst payload = true ∨ b.state ≠ 3) : bulkFirst payload = true ∨ (bulkHeld payload b).state ≠ 3 := by
  refine or_iff_not_imp_left.2 fun hf => ?_
  rw [bulkHeld, if_neg hf]
  exact h.resolve_left hf

theorem bulkSeen_ports : PortsOnly d (bulkSeen d r payload) := by
  unfold PortsOnly bulkSeen
  split_ifs <;> rfl

theorem rxOf_bulkSeen : (rxOf (bulkSeen d r payload) r.port).bulk = bulkHeld payload (rxOf d r.port).bulk := by
  unfold bulkSeen bulkHeld
  split_ifs <;> simp only [rxOf_setRx]

/-- The checks rest on nothing that the packet's counting and beginning change. -/
theorem bulkCause_seen (c : Units) (crcBad : Bool) (b : Bulk) : bulkCause c (bulkSeen d r payload) payload crcBad b = bulkCause c d payload crcBad b := by
  rw [show bulkSeen d r payload = _ from bulkSeen_ports]
  rfl

/-- A transfer that has failed drops what follows it. -/
theorem bulkLands_dropped (c : Units) {e : Dev} (hf : bulkFirst payload = false) (h : (rxOf e r.port).bulk.state = 3) : bulkLands c e r payload = e := by
  unfold bulkLands
  rw [hf, h]
  rfl

section
variable {c : Units} {e : Dev} (h : bulkFirst payload = true ∨ (rxOf e r.port).bulk.state ≠ 3)
include h

theorem bulkLands_failed {k : Nat} (hk : bulkCause c e payload r.crcBad (rxOf e r.port).bulk = some k) :
    bulkLands c e r payload = bulkFail e r.port (fld payload 2 2) k := by
  unfold bulkLands
  rw [if_neg (by simpa [or_iff_not_imp_left] using h), hk]
  rfl

theorem bulkLands_stored (hk : bulkCause c e payload r.crcBad (rxOf e r.port).bulk = none) :
    bulkLands c e r payload = setRx (bulkWrite c e r.port payload) r.port
      (fun q => { q with bulk := bulkGoesOn payload (bulkCrc payload (rxOf e r.port).bulk) q.bulk }) := by
  unfold bulkLands
  rw [if_neg (by simpa [or_iff_not_imp_left] using h), hk]
  rfl

end

/-- A failed transfer has its cause, keeps its count, and is logged. -/
theorem bulkFail_leaves {e : Dev} (he : PortsOnly d e) (x : Fin 4) (id : Nat) (cause : BitVec 4) :
    let u := bulkFail e x id cause.toNat
    u.mem = d.mem ∧ u.regs = d.regs ∧ u.jobs = d.jobs ∧ (rxOf u x).bulk.state = 3 ∧ (rxOf u x).bulk.cause = cause
      ∧ (rxOf u x).bulk.bytes = (rxOf e x).bulk.bytes
      ∧ Logged d u (fun q => q.code = 0x0105 ∧ q.unit = 0x14 + x ∧ q.detail = [(x : Nat), id, cause.toNat, (rxOf e x).bulk.bytes]) := by
  intro u
  let m := setRx e x (fun r => { r with bulk := { r.bulk with state := 3, cause := BitVec.ofNat 4 cause.toNat, id := BitVec.ofNat 16 id } })
  obtain ⟨h, hu, hlog⟩ := logOnly_spec m 0x0105 (0x14 + x) 255 [(x : Nat), id, cause.toNat, (rxOf m x).bulk.bytes]
  have hm : rxOf m x = { rxOf e x with bulk := { (rxOf e x).bulk with state := 3, cause := cause, id := BitVec.ofNat 16 id } } := by
    rw [rxOf_setRx, BitVec.ofNat_toNat, BitVec.setWidth_eq]
  have hrx : rxOf u x = rxOf m x := by rw [show u = _ from hu]; rfl
  have hhealth : m.health = d.health := by rw [show m.health = e.health from rfl, he]
  have hclk : m.clk = d.clk := by rw [show m.clk = e.clk from rfl, he]
  rw [← hu] at hlog
  change Logged m u _ at hlog
  rw [hm] at hlog
  rw [hrx, hm]
  refine ⟨?_, ?_, ?_, rfl, rfl, rfl, hlog.from (by rw [hhealth]) (by rw [hhealth]) (by rw [hclk]) (by rw [hclk])⟩
  all_goals
    rw [show u = _ from hu, show m = setRx e x _ from rfl, he]
    rfl

end

/-- A write of DDR5 that lies in its regions is a plain write, but for what the controller notes of it. -/
theorem ddrWrite_plain (c : Units) (d : Dev) (w : Who) (ks : List Nat) (a : Nat) (bs : List Byte) (hready : d.ddr.state = .ready)
    (hin : inRegions d ks a bs.length = true) (he : d.ecc = []) (hb : bs ≠ []) :
    ∃ r, ddrWrite c d w ks a bs = { d with mem := Memory.setAll d.mem (key 7 a) bs, ddr := r } := by
  unfold ddrWrite
  rw [hready, hin, if_neg (by decide), if_neg (by decide), store_plain c (ddrWake d) w (key 7 a) bs he hb]
  dsimp only
  split
  · exact ⟨_, rfl⟩
  · exact ⟨_, rfl⟩

/-- A target in DDR5 that check 3 lets through is ready, and the data lies in its regions. -/
theorem bulkState_ddr {c : Units} {d : Dev} {a n : Nat} (h : bulkState c d 7 a n = true) : d.ddr.state = .ready ∧ inRegions d regsBulk a n = true := by
  unfold bulkState at h
  simp only [Nat.reduceBEq, Bool.false_eq_true, if_false, if_true, Bool.and_eq_true, beq_iff_eq] at h
  obtain ⟨⟨⟨hready, hin⟩, -⟩, -⟩ := h
  exact ⟨hready, hin⟩

/-- The data of a packet past the checks is stored in its target. -/
theorem bulkWrite_stores {c : Units} {d : Dev} {x : Nat} {payload : List Byte}
    (hs : bulkState c d (fld payload 0 1) (fld payload 4 8) (payload.drop 16).length = true) (he : d.ecc = []) (hn : payload.drop 16 ≠ []) :
    let u := bulkWrite c d x payload
    u.mem = Memory.setAll d.mem (key (fld payload 0 1) (fld payload 4 8)) (payload.drop 16) ∧ u.regs = d.regs ∧ u.jobs = d.jobs ∧ u.rx = d.rx := by
  intro u
  have hu : u = bulkWrite c d x payload := rfl
  unfold bulkWrite at hu
  dsimp only at hu
  by_cases h7 : fld payload 0 1 = 7
  · rw [h7] at hs hu ⊢
    obtain ⟨hready, hin⟩ := bulkState_ddr hs
    obtain ⟨r, hr⟩ := ddrWrite_plain c { d with bulkLevel := bulkHolds d + 11 * (payload.drop 16).length, bulkAt := d.clk.mono }
      { unit := 0x14 + x } regsBulk (fld payload 4 8) (payload.drop 16) hready hin he hn
    rw [if_pos (by decide), hr] at hu
    rw [hu]
    exact ⟨rfl, rfl, rfl, rfl⟩
  · rw [if_neg (by simpa using h7), store_plain _ _ _ _ _ (by exact he) hn] at hu
    rw [hu]
    exact ⟨rfl, rfl, rfl, rfl⟩

/-! #### The checks of R142, row by row -/

section
variable {c : Units} {d : Dev} {payload : List Byte} {crcBad : Bool} {b : Bulk}

theorem bulkCause_stray (h : bulkStray payload b = true) : bulkCause c d payload crcBad b = some 3 := if_pos h

section
variable (h : bulkStray payload b = false)
include h

theorem bulkCause_noTarget (hs : bulkSize d (fld payload 0 1) = none) : bulkCause c d payload crcBad b = some 1 := by
  simp [bulkCause, h, hs]

variable {size : Nat} (hs : bulkSize d (fld payload 0 1) = some size)
include hs

theorem bulkCause_place (hp : (payload.drop 16).length % 4 ≠ 0 ∨ fld payload 4 8 % 4 ≠ 0 ∨ size < fld payload 4 8 + (payload.drop 16).length) :
    bulkCause c d payload crcBad b = some 1 := by
  unfold bulkCause
  dsimp only
  rw [h, if_neg (by decide), hs]
  exact if_pos (by simpa [or_assoc] using hp)

variable (hn : (payload.drop 16).length % 4 = 0) (ha : fld payload 4 8 % 4 = 0) (hfit : fld payload 4 8 + (payload.drop 16).length ≤ size)
include hn ha hfit

/-- Past the checks of the target and of its place, the rest of the table. -/
theorem bulkCause_placed : bulkCause c d payload crcBad b =
    if !bulkState c d (fld payload 0 1) (fld payload 4 8) (payload.drop 16).length then some 2
    else if crcBad then some 6
    else if 11 * 262144 < bulkHolds d + 11 * (payload.drop 16).length then some 5
    else if bitOf (fld payload 1 1) 1 && ~~~ bulkCrc payload b != BitVec.ofNat 32 (fld payload 12 4) then some 4
    else none := by
  unfold bulkCause
  dsimp only
  rw [h, if_neg (by decide), hs]
  dsimp only
  rw [if_neg]
  simp only [hn, ha, Nat.not_lt.2 hfit, bne_self_eq_false, decide_false, Bool.or_self, Bool.false_eq_true, not_false_eq_true]

theorem bulkCause_state (hst : bulkState c d (fld payload 0 1) (fld payload 4 8) (payload.drop 16).length = false) :
    bulkCause c d payload crcBad b = some 2 := by
  rw [bulkCause_placed h hs hn ha hfit, hst]
  rfl

variable (hst : bulkState c d (fld payload 0 1) (fld payload 4 8) (payload.drop 16).length = true)
include hst

theorem bulkCause_crc (hc : crcBad = true) : bulkCause c d payload crcBad b = some 6 := by
  rw [bulkCause_placed h hs hn ha hfit, hst, hc]
  rfl

variable (hc : crcBad = false)
include hc

theorem bulkCause_full (hfull : 11 * 262144 < bulkHolds d + 11 * (payload.drop 16).length) : bulkCause c d payload crcBad b = some 5 := by
  rw [bulkCause_placed h hs hn ha hfit, hst, hc, if_neg (by decide), if_neg (by decide), if_pos hfull]

variable (hroom : ¬ 11 * 262144 < bulkHolds d + 11 * (payload.drop 16).length)
include hroom

theorem bulkCause_last (hlast : bitOf (fld payload 1 1) 1 = true) (hwrong : ~~~ bulkCrc payload b ≠ BitVec.ofNat 32 (fld payload 12 4)) :
    bulkCause c d payload crcBad b = some 4 := by
  rw [bulkCause_placed h hs hn ha hfit, hst, hc, if_neg (by decide), if_neg (by decide), if_neg hroom, hlast, bne_iff_ne.2 hwrong]
  rfl

/-- A packet past every check has no cause to fail. -/
theorem bulkCause_none (hright : bitOf (fld payload 1 1) 1 = true → ~~~ bulkCrc payload b = BitVec.ofNat 32 (fld payload 12 4)) :
    bulkCause c d payload crcBad b = none := by
  rw [bulkCause_placed h hs hn ha hfit, hst, hc, if_neg (by decide), if_neg (by decide), if_neg hroom, if_neg (by simpa using hright)]

end

/-- A transfer goes on with its own identity and address, and a new one with any. -/
theorem bulkStray_iff : bulkStray payload b = false ↔
    bulkFirst payload = true ∨ b.state = 1 ∧ b.id.toNat = fld payload 2 2 ∧ b.next = fld payload 4 8 := by
  unfold bulkStray
  cases bulkFirst payload <;> simp [and_assoc]

/-- Beginning its own transfer makes no packet stray. -/
theorem bulkStray_held : bulkStray payload (bulkHeld payload b) = bulkStray payload b := by
  unfold bulkStray bulkHeld
  cases bulkFirst payload <;> rfl

end

/-- Settles O53: a packet fails with the cause that `bulkCause` gives it, or is stored, and what a failure leaves is `bulkFail_leaves`. -/
theorem bulkLoadsCheckAndStore : Obligations.BulkLoadsCheckAndStore := by
  unfold Obligations.BulkLoadsCheckAndStore
  intro r payload s hon c d x target flags id a data n b first goes seed already crc failed
  refine ⟨fun hb => exec_bulkLoad_other hon hb, fun hb => ?_⟩
  have run := exec_bulkLoad (payload := payload) hon hb
  let h := bulkHeld payload b
  have hheld : (rxOf (bulkSeen d r payload) x).bulk = h := rxOf_bulkSeen
  have hbytes : h.bytes = already := bulkHeld_bytes b
  have hcrc : bulkCrc payload h = crc := congrArg (crcFrom · data) (bulkHeld_crc b)
  have hlive : first ∨ b.state ≠ 3 → bulkFirst payload = true ∨ (rxOf (bulkSeen d r payload) r.port).bulk.state ≠ 3 := fun hl => by
    rw [rxOf_bulkSeen]
    exact bulkHeld_live hl
  have failed_of : ∀ cause : BitVec 4, first ∨ b.state ≠ 3 → bulkCause c d payload r.crcBad h = some cause.toNat → failed cause := by
    intro cause hl hk
    obtain ⟨hmem, hregs, hjobs, hstate, hcause, hcount, hlog⟩ := bulkFail_leaves (bulkSeen_ports (d := d) (r := r) (payload := payload)) r.port id cause
    rw [show (rxOf (bulkSeen d r payload) r.port).bulk = h from hheld, hbytes] at hcount hlog
    rw [bulkLands_failed (hlive hl) (by rw [bulkCause_seen, rxOf_bulkSeen]; exact hk)] at run
    exact ⟨_, run, rfl, hmem, hregs, hjobs, hstate, hcause, hcount, hlog⟩
  refine ⟨fun hf h3 => ?dropped, fun hg h3 => ?stray, fun hg hl => ?checked⟩
  case dropped =>
    have hf' : bulkFirst payload = false := Bool.eq_false_iff.2 hf
    have hseen : bulkSeen d r payload = if r.crcBad then setRx d x (fun q => { q with crcBad := q.crcBad + 1 }) else d := by
      unfold bulkSeen
      rw [hf']
      rfl
    rw [run, bulkLands_dropped _ hf' (by rw [rxOf_bulkSeen, bulkHeld, hf']; exact h3)]
    exact congrArg (fun e => Host.Outcome.next { s with dev := e }) hseen
  case stray =>
    refine failed_of 3 (.inr h3) (bulkCause_stray ?_)
    rw [bulkStray_held]
    by_contra hn
    exact hg (bulkStray_iff.1 (Bool.eq_false_iff.2 hn))
  case checked =>
    have hgo : bulkStray payload h = false := bulkStray_held.trans (bulkStray_iff.2 hg)
    refine ⟨fun hs => failed_of 1 hl (bulkCause_noTarget hgo hs), fun size hs => ⟨fun hp => failed_of 1 hl (bulkCause_place hgo hs hp),
      fun hn ha hfit => ?_⟩⟩
    rw [← hcrc]
    refine ⟨fun hst => failed_of 2 hl (bulkCause_state hgo hs hn ha hfit hst), fun hst =>
      ⟨fun hc => failed_of 6 hl (bulkCause_crc hgo hs hn ha hfit hst hc),
      fun hc hfull => failed_of 5 hl (bulkCause_full hgo hs hn ha hfit hst hc hfull),
      fun hc hroom hlast hwrong => failed_of 4 hl (bulkCause_last hgo hs hn ha hfit hst hc hroom hlast hwrong), fun hc hroom hright hecc hne => ?stored⟩⟩
    case stored =>
      have hports := bulkSeen_ports (d := d) (r := r) (payload := payload)
      unfold PortsOnly at hports
      have hstores := bulkWrite_stores (c := c) (d := bulkSeen d r payload) (x := x) (payload := payload)
        (by rw [hports]; exact hst) (by rw [hports]; exact hecc) fun h0 => hne (congrArg List.length h0)
      obtain ⟨hmem, hregs, hjobs, hrx⟩ := hstores
      have hport : rxOf (bulkWrite c (bulkSeen d r payload) x payload) r.port = rxOf (bulkSeen d r payload) r.port := by
        unfold rxOf
        rw [hrx]
      rw [bulkLands_stored (hlive hl) (by rw [bulkCause_seen, rxOf_bulkSeen]; exact bulkCause_none hgo hs hn ha hfit hst hc hroom hright)] at run
      refine ⟨_, run, rfl, hmem.trans (by rw [hports]), hregs.trans (by rw [hports]), hjobs.trans (by rw [hports]), ?_⟩
      rw [rxOf_setRx, hport, show (rxOf (bulkSeen d r payload) r.port).bulk = h from hheld]
      exact ⟨rfl, rfl, by rw [← hbytes]; rfl, rfl⟩

end Sys2Proof.Machine

namespace Sys2Proof.Machine

/-! ### Rounding to the nearest of a rising row of values (R158) -/

/-- Of the rising values g 0, g 1, … the one at c is what R158 rounds a magnitude V to: toward zero, the largest not above V; to the nearest,
V lies between the midpoints on both sides of c, and on one of them only where c is even. -/
def Nearest (rtz : Bool) (g : Nat → ℚ) (V : ℚ) (c : Nat) : Prop :=
  if rtz then g c ≤ V ∧ V < g (c + 1)
  else (2 * V ≤ g c + g (c + 1) ∧ (2 * V = g c + g (c + 1) → c % 2 = 0))
    ∧ ∀ b, b + 1 = c → g b + g c ≤ 2 * V ∧ (g b + g c = 2 * V → c % 2 = 0)

theorem nearest_rtz {g : Nat → ℚ} {V : ℚ} {c : Nat} : Nearest true g V c ↔ g c ≤ V ∧ V < g (c + 1) := by simp [Nearest]

theorem nearest_rne {g : Nat → ℚ} {V : ℚ} {c : Nat} : Nearest false g V c ↔ (2 * V ≤ g c + g (c + 1) ∧ (2 * V = g c + g (c + 1) → c % 2 = 0))
    ∧ ∀ b, b + 1 = c → g b + g c ≤ 2 * V ∧ (g b + g c = 2 * V → c % 2 = 0) := by simp [Nearest]

section
variable {rtz : Bool} {g : Nat → ℚ} {V : ℚ} {c : Nat} (hg : StrictMono g) (h : Nearest rtz g V c)
include hg h

/-- The rounded magnitude lies beyond a code exactly from the next code on, or from the midpoint to it: on the midpoint where the code
is odd. -/
theorem Nearest.lt_iff (top : Nat) : top < c ↔ if rtz then g (top + 1) ≤ V
    else if top % 2 = 0 then (g top + g (top + 1)) / 2 < V else (g top + g (top + 1)) / 2 ≤ V := by
  cases rtz with
  | true =>
    obtain ⟨hlo, hhi⟩ := nearest_rtz.1 h
    refine ⟨fun hc => (hg.monotone hc).trans hlo, fun hc => ?_⟩
    have := hg.lt_iff_lt.1 (hc.trans_lt hhi)
    omega
  | false =>
    obtain ⟨⟨hhi, heven⟩, hlo⟩ := nearest_rne.1 h
    have hbelow : c < top → g c + g (c + 1) < g top + g (top + 1) := fun hc => add_lt_add (hg hc) (hg (Nat.succ_lt_succ hc))
    have habove : ∀ b, top < b → g top + g (top + 1) < g b + g (b + 1) := fun b hb => add_lt_add (hg hb) (hg (Nat.succ_lt_succ hb))
    rcases lt_trichotomy top c with hc | rfl | hc
    · obtain ⟨b, rfl⟩ : ∃ b, c = b + 1 := ⟨c - 1, by omega⟩
      obtain ⟨hmid, htie⟩ := hlo b rfl
      simp only [hc, true_iff, Bool.false_eq_true, if_false]
      rcases (by omega : top = b ∨ top < b) with rfl | hb
      · split
        · rename_i hpar
          have hne : g top + g (top + 1) ≠ 2 * V := fun he => by have := htie he; omega
          linarith [lt_of_le_of_ne hmid hne]
        · linarith
      · have := habove b hb
        split <;> linarith
    · simp only [lt_self_iff_false, false_iff, Bool.false_eq_true, if_false]
      split
      · linarith
      · rename_i hpar
        have hne : 2 * V ≠ g top + g (top + 1) := fun he => hpar (heven he)
        linarith [lt_of_le_of_ne hhi hne]
    · simp only [not_lt.2 hc.le, false_iff, Bool.false_eq_true, if_false]
      have := hbelow hc
      split <;> linarith

end


/-- The sign of a value as a factor. -/
def sgn (s : Bool) : ℚ := if s then -1 else 1

theorem sgn_mul_self (s : Bool) : sgn s * sgn s = 1 := by cases s <;> norm_num [sgn]

theorem abs_sgn_mul (s : Bool) (x : ℚ) : |sgn s * x| = |x| := by cases s <;> simp [sgn]

theorem rat_fin (s : Bool) (m : Nat) (e : Int) : (Xv.fin s m e).rat = sgn s * (m * 2 ^ e) := rfl

section
variable {g : Nat → ℚ} {V : ℚ} {c : Nat} (hg : StrictMono g)
include hg

/-- No other value of the row is nearer, and one as near leaves an even code. -/
theorem Nearest.le_dist (h : Nearest false g V c) (j : Nat) : |V - g c| ≤ |V - g j| ∧ (|V - g c| = |V - g j| → g j = g c ∨ c % 2 = 0) := by
  obtain ⟨⟨hhi, heven⟩, hlo⟩ := nearest_rne.1 h
  rcases lt_trichotomy j c with hj | rfl | hj
  · obtain ⟨b, rfl⟩ : ∃ b, c = b + 1 := ⟨c - 1, by omega⟩
    obtain ⟨hmid, htie⟩ := hlo b rfl
    have hb : g j ≤ g b := hg.monotone (by omega)
    have hbc : g b < g (b + 1) := hg (Nat.lt_succ_self b)
    rw [abs_of_nonneg (show 0 ≤ V - g j by linarith)]
    refine ⟨abs_le.2 ⟨by linarith, by linarith⟩, fun he => .inr (htie ?_)⟩
    rcases abs_choice (V - g (b + 1)) with ha | ha <;> rw [ha] at he <;> linarith
  · exact ⟨le_rfl, fun _ => .inl rfl⟩
  · have hb : g (c + 1) ≤ g j := hg.monotone hj
    have hbc : g c < g (c + 1) := hg (Nat.lt_succ_self c)
    rw [abs_of_nonpos (show V - g j ≤ 0 by linarith)]
    refine ⟨abs_le.2 ⟨by linarith, by linarith⟩, fun he => .inr (heven ?_)⟩
    rcases abs_choice (V - g c) with ha | ha <;> rw [ha] at he <;> linarith

variable (h0 : g 0 = 0)
include h0

theorem row_nonneg (j : Nat) : 0 ≤ g j := h0 ▸ hg.monotone (Nat.zero_le j)

/-- The same among the values of both signs. -/
theorem Nearest.le_dist_signed (hV : 0 ≤ V) (h : Nearest false g V c) (t : Bool) (j : Nat) :
    |V - g c| ≤ |V - sgn t * g j| ∧ (|V - g c| = |V - sgn t * g j| → sgn t * g j = g c ∨ c % 2 = 0) := by
  cases t with
  | false => simpa [sgn] using h.le_dist hg j
  | true =>
    obtain ⟨hle, htie⟩ := h.le_dist hg 0
    have hj := row_nonneg hg h0 j
    rw [h0, sub_zero, abs_of_nonneg hV] at hle htie
    have hfar : |V - sgn true * g j| = V + g j := by
      simp only [sgn, if_true, neg_mul, one_mul, sub_neg_eq_add]
      exact abs_of_nonneg (add_nonneg hV hj)
    rw [hfar]
    refine ⟨by linarith, fun he => ?_⟩
    have hz : g j = 0 := by linarith
    rw [hz, mul_zero]
    exact htie (by linarith)

/-- Values of both signs on a rising row: the code that carries the sign and stands where the magnitude is rounded to is what R158 asks. -/
theorem roundsTo_of_nearest {rtz : Bool} {v : ℚ} {s : Bool} {val : Nat → Xv} {code : Nat} (hV : 0 ≤ V) (hn : Nearest rtz g V c)
    (hv : v = sgn s * V) (hfin : (val code).isFin = true) (hcode : (val code).rat = sgn s * g c) (hpar : code % 2 = c % 2)
    (hall : ∀ k, (val k).isFin = true → ∃ t j, (val k).rat = sgn t * g j) : RoundsTo rtz v val code := by
  refine ⟨hfin, fun k hk => ?_⟩
  obtain ⟨t, j, hz⟩ := hall k hk
  simp only [hcode, hz, hv]
  have hc := row_nonneg hg h0 c
  have hj := row_nonneg hg h0 j
  refine ⟨fun hr => ?_, fun hr => ?_⟩ <;> subst hr
  · have hy : |sgn s * V - sgn s * g c| = |V - g c| := by rw [← mul_sub, abs_sgn_mul]
    have hmul : sgn s * (sgn (s != t) * g j) = sgn t * g j := by cases s <;> cases t <;> simp [sgn]
    have hzs : |sgn s * V - sgn t * g j| = |V - sgn (s != t) * g j| := by rw [← hmul, ← mul_sub, abs_sgn_mul]
    obtain ⟨hle, htie⟩ := hn.le_dist_signed hg h0 hV (s != t) j
    rw [hy, hzs, hpar]
    exact ⟨hle, fun he => (htie he).imp_left fun h => by rw [← hmul, h]⟩
  · obtain ⟨hlo, hhi⟩ := nearest_rtz.1 hn
    have hpos : sgn s * V * (sgn s * g c) = V * g c := by rw [mul_mul_mul_comm, sgn_mul_self, one_mul]
    rw [hpos, abs_sgn_mul, abs_sgn_mul, abs_sgn_mul, abs_of_nonneg hV, abs_of_nonneg hc, abs_of_nonneg hj]
    refine ⟨mul_nonneg hV hc, hlo, fun _ hle => hg.monotone ?_⟩
    have := hg.lt_iff_lt.1 (hle.trans_lt hhi)
    omega

end

/-! ### Rounding at a step (roundAt) -/

/-- Rounding keeps with a change of unit. -/
theorem Nearest.scale {rtz : Bool} {g : Nat → ℚ} {V p : ℚ} {c : Nat} (hp : 0 < p) (h : Nearest rtz g V c) : Nearest rtz (fun k => g k * p) (V * p) c := by
  have hle : ∀ x y : ℚ, x * p ≤ y * p ↔ x ≤ y := fun x y => mul_le_mul_iff_left₀ hp
  have heq : ∀ x y : ℚ, x * p = y * p ↔ x = y := fun x y => mul_left_inj' hp.ne'
  cases rtz with
  | true =>
    rw [nearest_rtz] at h ⊢
    exact ⟨(hle _ _).2 h.1, (mul_lt_mul_iff_left₀ hp).2 h.2⟩
  | false =>
    rw [nearest_rne] at h ⊢
    simpa only [← mul_assoc, ← add_mul, hle, heq] using h

/-- A remainder against half of its divisor, as a fraction against one half. -/
theorem frac_lt_half (r den : Nat) (hd : 0 < den) : ((r : ℚ) / den < 1 / 2 ↔ 2 * r < den) ∧ (1 / 2 < (r : ℚ) / den ↔ den < 2 * r) := by
  have hq : (0 : ℚ) < den := by exact_mod_cast hd
  rw [div_lt_div_iff₀ hq two_pos, div_lt_div_iff₀ two_pos hq]
  constructor <;> norm_cast <;> omega

/-- The rounded quotient of two naturals. -/
theorem nearest_div (rtz : Bool) (num den : Nat) (hd : 0 < den) :
    Nearest rtz (fun k => (k : ℚ)) (num / den) (if rtz then num / den else if 2 * (num % den) < den then num / den
      else if den < 2 * (num % den) then num / den + 1 else if num / den % 2 == 0 then num / den else num / den + 1) := by
  have hq : (0 : ℚ) < den := by exact_mod_cast hd
  have hV : (num : ℚ) / den = (num / den : Nat) + ((num % den : Nat) : ℚ) / den := by
    rw [div_eq_iff hq.ne', add_mul, div_mul_cancel₀ _ hq.ne']
    exact_mod_cast (Nat.div_add_mod' num den).symm
  obtain ⟨hless, hmore⟩ := frac_lt_half (num % den) den hd
  have hx0 : 0 ≤ ((num % den : Nat) : ℚ) / den := by positivity
  have hx1 : ((num % den : Nat) : ℚ) / den < 1 := (div_lt_one hq).2 (by exact_mod_cast Nat.mod_lt num hd)
  rw [hV]
  generalize ((num % den : Nat) : ℚ) / den = x at *
  generalize num / den = n at *
  cases rtz with
  | true =>
    rw [if_pos rfl]
    exact nearest_rtz.2 ⟨by linarith, by push_cast; linarith⟩
  | false =>
    rw [nearest_rne, if_neg (by simp)]
    have hbelow : ∀ b, b + 1 = n → (b : ℚ) + 1 = n := fun b hb => by exact_mod_cast hb
    rcases lt_trichotomy x (1 / 2) with h | h | h
    · rw [if_pos (hless.1 h)]
      push_cast
      refine ⟨⟨by linarith, fun he => by linarith⟩, fun b hb => ?_⟩
      have := hbelow b hb
      exact ⟨by linarith, fun he => by linarith⟩
    · rw [if_neg fun hc => (hless.2 hc).ne h, if_neg fun hc => (hmore.2 hc).ne' h]
      split
      · rename_i hn
        push_cast
        refine ⟨⟨by linarith, fun _ => by simpa using hn⟩, fun b hb => ?_⟩
        have := hbelow b hb
        exact ⟨by linarith, fun he => by linarith⟩
      · rename_i hn
        have hodd : (n + 1) % 2 = 0 := by
          have : n % 2 ≠ 0 := by simpa using hn
          omega
        refine ⟨⟨by push_cast; linarith, fun _ => hodd⟩, fun b hb => ?_⟩
        obtain rfl : b = n := by omega
        exact ⟨by push_cast; linarith, fun _ => hodd⟩
    · rw [if_neg fun hc => lt_asymm h (hless.2 hc), if_pos (hmore.1 h)]
      refine ⟨⟨by push_cast; linarith, fun he => by push_cast at he; linarith⟩, fun b hb => ?_⟩
      obtain rfl : b = n := by omega
      exact ⟨by push_cast; linarith, fun he => by push_cast at he; linarith⟩

/-- The exact value that a conversion rounds. -/
def quot (a b : Nat) (e : Int) : ℚ := a / b * 2 ^ e

/-- A power of two as a factor of numerator or denominator. -/
theorem quot_as_ratio (a b : Nat) (d : Int) :
    quot a b d = ((if d < 0 then a else a * 2 ^ d.toNat : Nat) : ℚ) / (if d < 0 then b * 2 ^ (-d).toNat else b : Nat) := by
  unfold quot
  split
  · rename_i h
    obtain ⟨k, rfl⟩ : ∃ k : Nat, d = -k := ⟨(-d).toNat, by omega⟩
    simp
    field_simp
  · rename_i h
    obtain ⟨k, rfl⟩ : ∃ k : Nat, d = k := ⟨d.toNat, by omega⟩
    simp
    ring

/-- Rounding at a step 2^q is rounding to the nearest of its multiples. -/
theorem nearest_roundAt (rtz : Bool) (a b : Nat) (e q : Int) (hb : 0 < b) :
    Nearest rtz (fun k => (k : ℚ) * 2 ^ q) (quot a b e) (roundAt rtz a b e q) := by
  have hV : quot a b e = quot a b (e - q) * 2 ^ q := by
    unfold quot
    rw [mul_assoc, ← zpow_add₀ (two_ne_zero), sub_add_cancel]
  rw [hV, quot_as_ratio]
  refine Nearest.scale (by positivity) (nearest_div rtz _ _ ?_)
  split <;> positivity

end Sys2Proof.Machine

namespace Sys2Proof.Machine

/-! ### The grid of a floating format (R151, R158) -/

/-- The magnitude of code c of a floating format of mb mantissa bits whose smallest step is 2^q0, with an exponent field without bounds. -/
def gridVal (mb : Nat) (q0 : Int) (c : Nat) : ℚ :=
  (((if c / 2 ^ mb = 0 then 0 else 2 ^ mb) + c % 2 ^ mb : Nat) : ℚ) * 2 ^ (q0 + (c / 2 ^ mb - 1 : Nat))

/-- n steps of 2^(q0 + y), where n uses the mantissa in full or the step is the smallest. -/
theorem gridVal_steps (mb : Nat) (q0 : Int) (y n : Nat) (hn : n ≤ 2 * 2 ^ mb) (hy : y = 0 ∨ 2 ^ mb ≤ n) :
    gridVal mb q0 (y * 2 ^ mb + n) = n * 2 ^ (q0 + y) := by
  have hB : 0 < 2 ^ mb := by positivity
  have hdiv : (y * 2 ^ mb + n) / 2 ^ mb = y + n / 2 ^ mb := by rw [Nat.add_comm, Nat.add_mul_div_right _ _ hB, Nat.add_comm]
  have hmod : (y * 2 ^ mb + n) % 2 ^ mb = n % 2 ^ mb := by rw [Nat.add_comm, Nat.add_mul_mod_self_right]
  unfold gridVal
  rw [hdiv, hmod]
  generalize 2 ^ mb = B at *
  rcases (by omega : n < B ∨ (B ≤ n ∧ n < 2 * B) ∨ n = 2 * B) with h | ⟨h, h2⟩ | rfl
  · obtain rfl : y = 0 := by omega
    simp [Nat.div_eq_of_lt h, Nat.mod_eq_of_lt h]
  · have hd : n / B = 1 := Nat.div_eq_of_lt_le (by omega) (by omega)
    have hm : n % B = n - B := by rw [Nat.mod_eq_sub_mod h, Nat.mod_eq_of_lt (by omega)]
    simp [hd, hm, Nat.add_sub_cancel' h]
  · rw [Nat.mul_div_cancel _ hB, Nat.mul_mod_left, if_neg (by omega), show y + 2 - 1 = y + 1 from rfl]
    push_cast
    rw [← add_assoc, zpow_add_one₀ two_ne_zero]
    ring

/-- Every code is some number of steps. -/
theorem code_steps (mb c : Nat) : ∃ y n, c = y * 2 ^ mb + n ∧ n < 2 * 2 ^ mb ∧ (y = 0 ∨ 2 ^ mb ≤ n) := by
  have hB : 0 < 2 ^ mb := by positivity
  generalize 2 ^ mb = B at *
  have hc := Nat.div_add_mod c B
  have hm := Nat.mod_lt c hB
  rcases Nat.eq_zero_or_pos (c / B) with h | h
  · exact ⟨0, c, by simp, by rw [h] at hc; omega, .inl rfl⟩
  · obtain ⟨y, hy⟩ : ∃ y, c / B = y + 1 := ⟨c / B - 1, by omega⟩
    refine ⟨y, B + c % B, ?_, by omega, .inr (by omega)⟩
    rw [hy, Nat.mul_succ, Nat.mul_comm] at hc
    omega

theorem gridVal_strictMono (mb : Nat) (q0 : Int) : StrictMono (gridVal mb q0) := by
  refine strictMono_nat_of_lt_succ fun c => ?_
  obtain ⟨y, n, rfl, hn, hy⟩ := code_steps mb c
  rw [add_assoc, gridVal_steps mb q0 y n (by omega) hy, gridVal_steps mb q0 y (n + 1) (by omega) (by omega)]
  have : (0 : ℚ) < 2 ^ (q0 + y) := by positivity
  push_cast
  linarith

@[simp] theorem gridVal_zero (mb : Nat) (q0 : Int) : gridVal mb q0 0 = 0 := by simp [gridVal]

/-- The code that n steps encode to. -/
theorem encodeGrid_steps (eb mb : Nat) (bias : Int) (y n : Nat) (hn : n ≤ 2 * 2 ^ mb) (hy : y = 0 ∨ 2 ^ mb ≤ n) :
    encodeGrid eb mb bias n (1 - bias - mb + y) = y * 2 ^ mb + n := by
  have hB : 0 < 2 ^ mb := by positivity
  unfold encodeGrid
  split
  · rename_i h
    have h : n = 0 := by simpa using h
    rcases hy with rfl | hy <;> omega
  · rename_i h0
    have h0 : n ≠ 0 := by simpa using h0
    dsimp only
    split
    · rename_i hex
      have hlt : n < 2 ^ mb := (Nat.log2_lt h0).1 (by omega)
      obtain rfl : y = 0 := by omega
      omega
    · rename_i hex
      have hle : mb ≤ Nat.log2 n := by
        rcases hy with rfl | hy
        · omega
        · exact (Nat.le_log2 h0).2 hy
      have hexp : (1 - bias - mb + y + Nat.log2 n + bias).toNat = 1 + y + (Nat.log2 n - mb) := by omega
      rw [hexp]
      rcases (by omega : n < 2 * 2 ^ mb ∨ n = 2 ^ (mb + 1)) with h | rfl
      · have : Nat.log2 n < mb + 1 := (Nat.log2_lt h0).2 (by rw [pow_succ]; omega)
        have hl : Nat.log2 n = mb := by omega
        have hge : 2 ^ mb ≤ n := (Nat.le_log2 h0).1 hle
        rw [hl, if_pos le_rfl, Nat.sub_self, pow_zero, Nat.mul_one, Nat.add_zero, Nat.add_mul, Nat.one_mul, Nat.zero_mul, Nat.add_zero]
        omega
      · rw [Nat.log2_two_pow, if_neg (by omega), Nat.add_sub_cancel_left, pow_one, pow_succ, Nat.mul_div_cancel _ two_pos, Nat.sub_self]
        ring

/-- The binary exponent of a quotient. -/
theorem log2Rat_spec (a b : Nat) (ha : 0 < a) (hb : 0 < b) : (2 : ℚ) ^ log2Rat a b ≤ a / b ∧ (a : ℚ) / b < 2 ^ (log2Rat a b + 1) := by
  have hbq : (0 : ℚ) < b := by exact_mod_cast hb
  have ha1 : (2 : ℚ) ^ (Nat.log2 a : Int) ≤ a := by exact_mod_cast Nat.log2_self_le ha.ne'
  have ha2 : (a : ℚ) < 2 ^ ((Nat.log2 a : Int) + 1) := by exact_mod_cast Nat.lt_log2_self
  have hb1 : (2 : ℚ) ^ (Nat.log2 b : Int) ≤ b := by exact_mod_cast Nat.log2_self_le hb.ne'
  have hb2 : (b : ℚ) < 2 ^ ((Nat.log2 b : Int) + 1) := by exact_mod_cast Nat.lt_log2_self
  have htest : ∀ k : Int, (if k < 0 then a * 2 ^ (-k).toNat else a) < (if k < 0 then b else b * 2 ^ k.toNat) ↔ (a : ℚ) / b < 2 ^ k := by
    intro k
    rw [div_lt_iff₀ hbq]
    split
    · obtain ⟨j, rfl⟩ : ∃ j : Nat, k = -j := ⟨(-k).toNat, by omega⟩
      rw [zpow_neg, inv_mul_eq_div, lt_div_iff₀ (by positivity)]
      simp only [neg_neg, Int.toNat_natCast, zpow_natCast]
      exact_mod_cast Iff.rfl
    · obtain ⟨j, rfl⟩ : ∃ j : Nat, k = j := ⟨k.toNat, by omega⟩
      simp only [Int.toNat_natCast, zpow_natCast]
      rw [mul_comm b]
      exact_mod_cast Iff.rfl
  unfold log2Rat
  dsimp only
  simp only [htest]
  generalize hk : (Nat.log2 a : Int) - Nat.log2 b = k
  have hup : (a : ℚ) / b < 2 ^ (k + 1) := by
    rw [div_lt_iff₀ hbq]
    refine ha2.trans_le ?_
    rw [show (Nat.log2 a : Int) + 1 = k + 1 + Nat.log2 b by omega, zpow_add₀ two_ne_zero]
    exact mul_le_mul_of_nonneg_left hb1 (by positivity)
  have hlo : (2 : ℚ) ^ (k - 1) ≤ a / b := by
    rw [le_div_iff₀ hbq]
    refine le_trans ?_ ha1
    rw [show (Nat.log2 a : Int) = k - 1 + (Nat.log2 b + 1) by omega, zpow_add₀ two_ne_zero (k - 1)]
    exact mul_le_mul_of_nonneg_left hb2.le (by positivity)
  split
  · rename_i h
    exact ⟨hlo, by rwa [sub_add_cancel]⟩
  · rename_i h
    exact ⟨not_lt.1 h, hup⟩

/-- Rounding on the steps that a magnitude meets is rounding among the codes: below 2B steps, and from B on where the step is not the smallest. -/
theorem nearest_steps {rtz : Bool} {mb y n : Nat} {q0 : Int} {V : ℚ} (hmb : 0 < mb) (h : Nearest rtz (fun k => (k : ℚ) * 2 ^ (q0 + y)) V n)
    (hhi : V < (2 * 2 ^ mb : Nat) * 2 ^ (q0 + y)) (hlo : y = 0 ∨ (2 ^ mb : Nat) * 2 ^ (q0 + y) ≤ V) :
    n ≤ 2 * 2 ^ mb ∧ (y = 0 ∨ 2 ^ mb ≤ n) ∧ Nearest rtz (gridVal mb q0) V (y * 2 ^ mb + n) := by
  have hB : 0 < 2 ^ mb := by positivity
  have hp : (0 : ℚ) < 2 ^ (q0 + y) := by positivity
  have hmono : StrictMono fun k : Nat => (k : ℚ) * 2 ^ (q0 + y) := fun i j hij => mul_lt_mul_of_pos_right (by exact_mod_cast hij) hp
  have hstep := fun m => gridVal_steps mb q0 y m
  have hrise := gridVal_strictMono mb q0
  have hle : n ≤ 2 * 2 ^ mb := by
    refine not_lt.1 fun hc => ?_
    have := (h.lt_iff hmono _).1 hc
    push_cast at this hhi
    split_ifs at this <;> linarith
  have hge : y = 0 ∨ 2 ^ mb ≤ n := hlo.imp_right fun hV => by
    obtain ⟨k, hk⟩ : ∃ k, 2 ^ mb = k + 1 := ⟨2 ^ mb - 1, by omega⟩
    rw [hk] at hV ⊢
    refine (h.lt_iff hmono k).2 ?_
    push_cast at hV ⊢
    split_ifs <;> linarith
  have hc := hstep n hle hge
  generalize (2 : ℚ) ^ (q0 + y) = p at *
  refine ⟨hle, hge, ?_⟩
  cases rtz with
  | true =>
    obtain ⟨h1, h2⟩ := nearest_rtz.1 h
    have hlt : n < 2 * 2 ^ mb := by exact_mod_cast lt_of_mul_lt_mul_right (h1.trans_lt hhi) hp.le
    rw [nearest_rtz, hc, add_assoc, hstep (n + 1) hlt (by omega)]
    exact ⟨h1, h2⟩
  | false =>
    obtain ⟨hup, hdown⟩ := nearest_rne.1 h
    have hpar : (y * 2 ^ mb + n) % 2 = n % 2 := by
      obtain ⟨k, rfl⟩ : ∃ k, mb = k + 1 := ⟨mb - 1, by omega⟩
      rw [pow_succ, show y * (2 ^ k * 2) + n = n + 2 * (y * 2 ^ k) by ring, Nat.add_mul_mod_self_left]
    rw [nearest_rne, hc, hpar]
    refine ⟨?_, fun b hb => ?_⟩
    · rcases hle.lt_or_eq with hlt | rfl
      · rw [add_assoc, hstep (n + 1) hlt (by omega)]
        exact hup
      · have := hrise (Nat.lt_succ_self (y * 2 ^ mb + 2 * 2 ^ mb))
        rw [hc] at this
        exact ⟨by linarith, fun he => by linarith⟩
    · obtain ⟨m, rfl⟩ : ∃ m, n = m + 1 := by
        refine Nat.exists_eq_succ_of_ne_zero fun h0 => ?_
        obtain rfl : y = 0 := by omega
        omega
      rcases (by omega : (y = 0 ∨ 2 ^ mb ≤ m) ∨ y ≠ 0 ∧ m + 1 = 2 ^ mb) with hm | ⟨hy, hm⟩
      · obtain rfl : b = y * 2 ^ mb + m := by omega
        rw [hstep m (by omega) hm]
        exact hdown m rfl
      · have hV := hlo.resolve_left hy
        have := hrise (show b < y * 2 ^ mb + (m + 1) by omega)
        rw [hc, hm] at this
        rw [hm]
        exact ⟨by linarith, fun he => by linarith⟩

/-- The steps that roundGrid rounds to: no more than a mantissa holds, and not fewer unless the step is the smallest. -/
theorem roundGrid_steps (rtz : Bool) (a b : Nat) (e : Int) (mb : Nat) (q0 : Int) (hb : 0 < b) :
    let r := roundGrid rtz a b e mb q0
    ∃ y : Nat, r.2 = q0 + y ∧ quot a b e < (2 * 2 ^ mb : Nat) * 2 ^ (q0 + y) ∧ (y = 0 ∨ (2 ^ mb : Nat) * 2 ^ (q0 + y) ≤ quot a b e)
      ∧ Nearest rtz (fun k => (k : ℚ) * 2 ^ (q0 + y)) (quot a b e) r.1 := by
  intro r
  rcases Nat.eq_zero_or_pos a with rfl | ha
  · have hz : quot 0 b e = 0 := by simp [quot]
    refine ⟨0, (Int.add_zero q0).symm, by rw [hz]; positivity, .inl rfl, ?_⟩
    rw [hz]
    have hp : (0 : ℚ) < 2 ^ (q0 + (0 : Nat)) := by positivity
    show Nearest rtz _ 0 0
    cases rtz with
    | true => exact nearest_rtz.2 ⟨by simp, by simpa using hp⟩
    | false => exact nearest_rne.2 ⟨⟨by simpa using hp.le, fun _ => rfl⟩, fun b hb => by omega⟩
  · obtain ⟨hlo, hhi⟩ := log2Rat_spec a b ha hb
    have hpe : (0 : ℚ) < 2 ^ e := by positivity
    have hlo : (2 : ℚ) ^ (log2Rat a b + e) ≤ quot a b e := by
      rw [zpow_add₀ two_ne_zero]
      exact mul_le_mul_of_nonneg_right hlo hpe.le
    have hhi : quot a b e < (2 : ℚ) ^ (log2Rat a b + e + 1) := by
      rw [add_right_comm, zpow_add₀ two_ne_zero]
      exact mul_lt_mul_of_pos_right hhi hpe
    have hpow : ∀ k : Int, ((2 ^ mb : Nat) : ℚ) * 2 ^ k = 2 ^ (mb + k) := fun k => by rw [zpow_add₀ two_ne_zero]; norm_cast
    obtain ⟨y, hy, hle, hmin⟩ : ∃ y : Nat, (if log2Rat a b + e - mb < q0 then q0 else log2Rat a b + e - mb) = q0 + y
        ∧ log2Rat a b + e ≤ mb + (q0 + y) ∧ (y = 0 ∨ log2Rat a b + e = mb + (q0 + y)) := by
      refine ⟨(log2Rat a b + e - mb - q0).toNat, ?_⟩
      split <;> omega
    have hr : r = (roundAt rtz a b e (q0 + y), q0 + y) := by
      show roundGrid rtz a b e mb q0 = _
      unfold roundGrid
      dsimp only
      rw [if_neg (by simpa using ha.ne'), hy]
    rw [hr]
    refine ⟨y, rfl, ?_, hmin.imp_right fun h => ?_, nearest_roundAt rtz a b e _ hb⟩
    · refine hhi.trans_le ?_
      rw [Nat.cast_mul, mul_assoc, hpow, mul_comm, Nat.cast_ofNat, ← zpow_add_one₀ two_ne_zero]
      exact zpow_le_zpow_right₀ one_le_two (by omega)
    · rwa [hpow, ← h]

/-- Rounding to a grid encodes to the code that R158 rounds to, and gives no steps exactly at code 0. -/
theorem nearest_encodeGrid (rtz : Bool) (a b : Nat) (e : Int) (eb mb : Nat) (bias : Int) (hb : 0 < b) (hmb : 0 < mb) :
    let r := roundGrid rtz a b e mb (1 - bias - mb)
    Nearest rtz (gridVal mb (1 - bias - mb)) (quot a b e) (encodeGrid eb mb bias r.1 r.2) ∧ (r.1 = 0 ↔ encodeGrid eb mb bias r.1 r.2 = 0) := by
  intro r
  obtain ⟨y, hy, hhi, hlo, hn⟩ := roundGrid_steps rtz a b e mb (1 - bias - mb) hb
  obtain ⟨hle, hge, hnear⟩ := nearest_steps hmb hn hhi hlo
  have hcode : encodeGrid eb mb bias r.1 r.2 = y * 2 ^ mb + r.1 := by rw [show r.2 = _ from hy, encodeGrid_steps eb mb bias y r.1 hle hge]
  have hB : 0 < 2 ^ mb := by positivity
  rw [hcode]
  refine ⟨hnear, fun h => ?_, fun h => by omega⟩
  have hge : y = 0 ∨ 2 ^ mb ≤ r.1 := hge
  obtain rfl : y = 0 := by omega
  omega

end Sys2Proof.Machine

namespace Sys2Proof.Machine

/-! ### The values of codes (R151 to R157) -/

/-- A finite value of a floating layout is its sign and the magnitude of the code below it. -/
theorem floatVal_rat (eb mb : Nat) (bias : Int) (nanOnly : Bool) (code : Nat) (heb : 0 < eb) (h : (floatVal eb mb bias nanOnly code).isFin = true) :
    (floatVal eb mb bias nanOnly code).rat = sgn (bitOf code (eb + mb)) * gridVal mb (1 - bias - mb) (code % 2 ^ (eb + mb)) := by
  have hdiv : code % 2 ^ (eb + mb) / 2 ^ mb = bitsOf code (eb + mb - 1) mb := by
    rw [bitsOf, show eb + mb - 1 + 1 - mb = eb by omega, Nat.add_comm, pow_add, Nat.mod_mul_right_div_self]
  have hmod : code % 2 ^ (eb + mb) % 2 ^ mb = code % 2 ^ mb := by rw [Nat.add_comm, pow_add, Nat.mod_mul_right_mod]
  unfold gridVal
  rw [hdiv, hmod]
  unfold floatVal at h ⊢
  dsimp only at h ⊢
  generalize bitsOf code (eb + mb - 1) mb = ex at *
  split at h
  · cases h
  · rename_i h1
    rw [if_neg h1]
    split at h
    · split at h <;> cases h
    · rename_i h2
      rw [if_neg h2]
      split
      · rename_i h3
        obtain rfl : ex = 0 := by simpa using h3
        simp [rat_fin]
      · rename_i h3
        have h3 : ex ≠ 0 := by simpa using h3
        rw [rat_fin, if_neg h3, show ((ex : Int) - bias - mb) = 1 - bias - mb + (ex - 1 : Nat) by omega]

/-- A code below the infinity, or below the NaN of a format without infinities, with its sign. -/
theorem floatVal_signed (eb mb : Nat) (bias : Int) (nanOnly s : Bool) (c : Nat) (heb : 0 < eb)
    (hc : c < if nanOnly then 2 ^ (eb + mb) - 1 else (2 ^ eb - 1) * 2 ^ mb) :
    (floatVal eb mb bias nanOnly (c + if s then 2 ^ (eb + mb) else 0)).isFin = true
      ∧ (floatVal eb mb bias nanOnly (c + if s then 2 ^ (eb + mb) else 0)).rat = sgn s * gridVal mb (1 - bias - mb) c := by
  have hB : 0 < 2 ^ mb := by positivity
  have hE : 0 < 2 ^ eb := by positivity
  have hfull : 2 ^ (eb + mb) = 2 ^ eb * 2 ^ mb := pow_add _ _ _
  have hlt : c < 2 ^ (eb + mb) := by
    rw [hfull] at hc ⊢
    split at hc
    · omega
    · exact hc.trans_le (Nat.mul_le_mul_right _ (Nat.sub_le _ _))
  have hmod : (c + if s then 2 ^ (eb + mb) else 0) % 2 ^ (eb + mb) = c := by
    cases s <;> simp [Nat.mod_eq_of_lt hlt]
  have hsign : bitOf (c + if s then 2 ^ (eb + mb) else 0) (eb + mb) = s := by
    cases s <;> simp [bitOf, Nat.div_eq_of_lt hlt, Nat.add_div_right]
  have hex : bitsOf (c + if s then 2 ^ (eb + mb) else 0) (eb + mb - 1) mb = c / 2 ^ mb := by
    rw [bitsOf, show eb + mb - 1 + 1 - mb = eb by omega, ← Nat.mod_mul_right_div_self, ← pow_add, Nat.add_comm mb, hmod]
  have hm : (c + if s then 2 ^ (eb + mb) else 0) % 2 ^ mb = c % 2 ^ mb := by
    rw [← Nat.mod_mul_right_mod _ (2 ^ mb) (2 ^ eb), ← pow_add, Nat.add_comm mb, hmod]
  have hfin : (floatVal eb mb bias nanOnly (c + if s then 2 ^ (eb + mb) else 0)).isFin = true := by
    unfold floatVal
    dsimp only
    rw [hex, hm]
    have hsplit := Nat.div_add_mod c (2 ^ mb)
    cases nanOnly with
    | false =>
      have : c / 2 ^ mb < 2 ^ eb - 1 := (Nat.div_lt_iff_lt_mul hB).2 (by simpa using hc)
      simp [this.ne]
      split <;> rfl
    | true =>
      have : ¬ (c / 2 ^ mb = 2 ^ eb - 1 ∧ c % 2 ^ mb = 2 ^ mb - 1) := by
        rintro ⟨h1, h2⟩
        rw [h1, h2, Nat.mul_sub, Nat.mul_one, Nat.mul_comm] at hsplit
        have := Nat.le_mul_of_pos_left (2 ^ mb) hE
        simp only [if_true] at hc
        omega
      simp [this]
      split <;> rfl
  refine ⟨hfin, ?_⟩
  rw [floatVal_rat eb mb bias nanOnly _ heb hfin, hsign, hmod]

/-- The magnitudes of a format other than PF4 in the order of its codes without sign, continued beyond the largest. -/
def rowVal (fmt : Nat) : Nat → ℚ :=
  if fmt < 4 then gridVal (floatFmt fmt).2.1 (1 - (floatFmt fmt).2.2 - (floatFmt fmt).2.1) else fun k => k

/-- The code of a magnitude's code with a sign. -/
def signedCode (fmt : Nat) (s : Bool) (c : Nat) : Nat :=
  if fmt < 4 then c + (if s then signBit fmt else 0) else if fmt = 6 then c else if s then unsx (if fmt == 5 then 4 else 8) (-(c : Int)) else c

theorem rowVal_strictMono (fmt : Nat) : StrictMono (rowVal fmt) := by
  unfold rowVal
  split
  · exact gridVal_strictMono _ _
  · exact Nat.strictMono_cast

@[simp] theorem rowVal_zero (fmt : Nat) : rowVal fmt 0 = 0 := by unfold rowVal; split <;> simp

/-- An integer's value. -/
theorem rat_ofInt (i : Int) : (Xv.ofInt i).rat = i := by
  unfold Xv.ofInt
  rw [rat_fin, zpow_zero, mul_one]
  rcases lt_or_ge i 0 with h | h
  · simp [sgn, h, abs_of_neg]
  · simp [sgn, not_lt.2 h, abs_of_nonneg h]

/-- An integer's value as sign and magnitude. -/
theorem int_signed (i : Int) : (i : ℚ) = sgn (decide (i < 0)) * (i.natAbs : ℚ) := by
  have := rat_ofInt i
  rw [Xv.ofInt, rat_fin, zpow_zero, mul_one] at this
  exact this.symm

/-- Every finite value of a format stands on its row, with a sign. -/
theorem codeVal_onRow (fmt : Nat) (h7 : fmt < 7) (k : Nat) (h : (codeVal fmt k 0).isFin = true) :
    ∃ t j, (codeVal fmt k 0).rat = sgn t * rowVal fmt j := by
  interval_cases fmt
  · exact ⟨_, _, floatVal_rat 8 23 127 false k (by decide) h⟩
  · exact ⟨_, _, floatVal_rat 8 7 127 false k (by decide) h⟩
  · exact ⟨_, _, floatVal_rat 4 3 7 true k (by decide) h⟩
  · exact ⟨_, _, floatVal_rat 5 2 15 false k (by decide) h⟩
  · exact ⟨_, _, (rat_ofInt _).trans (int_signed _)⟩
  · exact ⟨_, _, (rat_ofInt _).trans (int_signed _)⟩
  · exact ⟨false, k % 256, by simp [codeVal, rat_fin, rowVal]⟩

/-- The two's complement code of a signed magnitude reads back, and keeps its parity. -/
theorem sx_unsx_signed (w : Nat) (hw : w = 4 ∨ w = 8) (s : Bool) (c : Nat) (h : 2 * c < 2 ^ w) :
    sx w (if s then unsx w (-(c : Int)) else c) = (if s then -c else c : Int) ∧ (if s then unsx w (-(c : Int)) else c) % 2 = c % 2 := by
  rcases hw with rfl | rfl <;> cases s <;> simp only [sx, unsx, if_true, Bool.false_eq_true, if_false] at h ⊢ <;> norm_num at h ⊢ <;> omega

/-- The code of a magnitude up to the largest, with its sign, has that value and keeps its parity. -/
theorem codeVal_signedCode (fmt : Nat) (h7 : fmt < 7) (s : Bool) (c : Nat) (hc : c ≤ maxCode fmt) (h6 : fmt = 6 → s = true → c = 0) :
    (codeVal fmt (signedCode fmt s c) 0).isFin = true ∧ (codeVal fmt (signedCode fmt s c) 0).rat = sgn s * rowVal fmt c
      ∧ signedCode fmt s c % 2 = c % 2 := by
  have hfloat : ∀ b : Nat, b % 2 = 0 → (c + if s then b else 0) % 2 = c % 2 := fun b hb => by split <;> omega
  have hint : ((if s then -c else c : Int) : ℚ) = sgn s * c := by cases s <;> simp [sgn]
  have hfin : ∀ i, (Xv.ofInt i).isFin = true := fun _ => rfl
  interval_cases fmt
  · obtain ⟨h1, h2⟩ := floatVal_signed 8 23 127 false s c (by decide) (Nat.lt_of_le_of_lt hc (by decide))
    exact ⟨h1, h2, hfloat _ rfl⟩
  · obtain ⟨h1, h2⟩ := floatVal_signed 8 7 127 false s c (by decide) (Nat.lt_of_le_of_lt hc (by decide))
    exact ⟨h1, h2, hfloat _ rfl⟩
  · obtain ⟨h1, h2⟩ := floatVal_signed 4 3 7 true s c (by decide) (Nat.lt_of_le_of_lt hc (by decide))
    exact ⟨h1, h2, hfloat _ rfl⟩
  · obtain ⟨h1, h2⟩ := floatVal_signed 5 2 15 false s c (by decide) (Nat.lt_of_le_of_lt hc (by decide))
    exact ⟨h1, h2, hfloat _ rfl⟩
  · obtain ⟨h1, h2⟩ := sx_unsx_signed 8 (.inr rfl) s c (by simp [maxCode] at hc; omega)
    exact ⟨rfl, (rat_ofInt _).trans ((congrArg Int.cast h1).trans hint), h2⟩
  · obtain ⟨h1, h2⟩ := sx_unsx_signed 4 (.inl rfl) s c (by simp [maxCode] at hc; omega)
    exact ⟨rfl, (rat_ofInt _).trans ((congrArg Int.cast h1).trans hint), h2⟩
  · have hlt : c < 256 := Nat.lt_succ_of_le hc
    refine ⟨rfl, ?_, rfl⟩
    cases s with
    | false => simp [codeVal, signedCode, rat_fin, rowVal, sgn, Nat.mod_eq_of_lt hlt]
    | true =>
      obtain rfl := h6 rfl rfl
      simp [codeVal, signedCode, rat_fin]

/-- The largest code of a format and the next of its row (R159). -/
theorem rowVal_next (fmt : Nat) (h7 : fmt < 7) :
    rowVal fmt (maxCode fmt + 1) = ([2 ^ 128, 2 ^ 128, 480, 65536, 128, 8, 256] : List ℚ).getD fmt 0 := by
  interval_cases fmt <;> norm_num [rowVal, maxCode, floatFmt, gridVal]

/-- The code that a conversion saturates to (R159). -/
def boundCode (fmt : Nat) (nonsat s : Bool) : Nat :=
  if fmt < 4 then (if nonsat then (2 ^ (floatFmt fmt).1 - 1) * 2 ^ (floatFmt fmt).2.1 else maxCode fmt) + (if s then signBit fmt else 0)
  else if fmt = 6 ∧ s = true then 0 else signedCode fmt s (maxCode fmt)

/-- A conversion of a finite value: its magnitude is rounded among the codes of its format; beyond the largest, and below zero in UINT8, it
saturates (R158 to R161). -/
theorem convert1_fin (fmt : Nat) (rtz nonsat : Bool) (sn : Nat) (se : Int) (s : Bool) (m : Nat) (e : Int) (hsn : 0 < sn) :
    ∃ c, Nearest rtz (rowVal fmt) (quot m sn (e - se)) c ∧ convert1 fmt rtz nonsat sn se (.fin s m e) =
      if maxCode fmt < c ∨ fmt = 6 ∧ s = true ∧ c ≠ 0 then { code := boundCode fmt nonsat s, sat := true }
      else { code := signedCode fmt s c, uflow := m != 0 && c == 0 } := by
  unfold convert1
  by_cases h4 : fmt < 4
  · have hmb : 0 < (floatFmt fmt).2.1 := by unfold floatFmt; split_ifs <;> decide
    obtain ⟨hn, hzero⟩ := nearest_encodeGrid rtz m sn (e - se) (floatFmt fmt).1 (floatFmt fmt).2.1 (floatFmt fmt).2.2 hsn hmb
    refine ⟨_, by rw [rowVal, if_pos h4]; exact hn, ?_⟩
    have h6 : ¬ fmt = 6 := by omega
    have hbeq : ∀ a b : Nat, (a = 0 ↔ b = 0) → (a == 0) = (b == 0) := fun a b h => by simp only [beq_eq_decide, h]
    rw [if_pos h4]
    simp only [boundCode, signedCode, h4, h6, if_true, false_and, or_false, hbeq _ _ hzero]
  · refine ⟨roundAt rtz m sn (e - se) 0, ?_, ?_⟩
    · have := nearest_roundAt rtz m sn (e - se) 0 hsn
      rw [rowVal, if_neg h4]
      simpa using this
    · rw [if_neg h4]
      by_cases h6 : fmt = 6
      · subst h6
        cases s with
        | false => simp [boundCode, signedCode]
        | true => by_cases hz : roundAt rtz m sn (e - se) 0 = 0 <;> simp [boundCode, signedCode, hz]
      · simp [boundCode, signedCode, h4, h6]

/-- The exact quotient of a value and a scale, as sign and magnitude (R158). -/
theorem rat_div_scale (s : Bool) (m sn : Nat) (e se : Int) : (Xv.fin s m e).rat / (sn * 2 ^ se) = sgn s * quot m sn (e - se) := by
  rw [rat_fin, quot, zpow_sub₀ two_ne_zero]
  ring

theorem quot_nonneg (m sn : Nat) (e : Int) : 0 ≤ quot m sn e := by unfold quot; positivity

theorem quot_eq_zero (m sn : Nat) (e : Int) (hsn : 0 < sn) : quot m sn e = 0 ↔ m = 0 := by
  simp [quot, hsn.ne', show (2 : ℚ) ^ e ≠ 0 by positivity]

theorem sgn_mul_eq_zero (s : Bool) (x : ℚ) : sgn s * x = 0 ↔ x = 0 := by cases s <;> simp [sgn]

/-- Where the magnitude is rounded beyond the largest code of its sign (R159). -/
theorem saturates_iff (fmt : Nat) (h7 : fmt < 7) (rtz s : Bool) (V : ℚ) (c : Nat) (hV : 0 ≤ V) (hn : Nearest rtz (rowVal fmt) V c) :
    (maxCode fmt < c ∨ fmt = 6 ∧ s = true ∧ c ≠ 0) ↔
      if fmt = 6 ∧ sgn s * V < 0 then (if rtz then 1 ≤ V else 1 / 2 < V)
      else if rtz then rowVal fmt (maxCode fmt + 1) ≤ V
      else if fmt = 2 then (rowVal fmt (maxCode fmt) + rowVal fmt (maxCode fmt + 1)) / 2 < V
      else (rowVal fmt (maxCode fmt) + rowVal fmt (maxCode fmt + 1)) / 2 ≤ V := by
  have hmono := rowVal_strictMono fmt
  have htop := hn.lt_iff hmono (maxCode fmt)
  have hpar : maxCode fmt % 2 = 0 ↔ fmt = 2 := by interval_cases fmt <;> decide
  simp only [hpar] at htop
  by_cases hneg : fmt = 6 ∧ sgn s * V < 0
  · rw [if_pos hneg]
    obtain ⟨rfl, hneg⟩ := hneg
    have hs : s = true := by
      cases s
      · simp [sgn] at hneg
        linarith
      · rfl
    have hpos := hn.lt_iff hmono 0
    rw [rowVal_zero, show rowVal 6 (0 + 1) = 1 by simp [rowVal], zero_add] at hpos
    simp only [Nat.zero_mod, if_true] at hpos
    rw [← hpos]
    simp only [hs, true_and]
    omega
  · rw [if_neg hneg, ← htop]
    refine or_iff_left fun ⟨h6, hs, hc⟩ => ?_
    have hV0 : V = 0 := by
      simp only [h6, hs, sgn, if_true, true_and] at hneg
      linarith
    have hpos := (hn.lt_iff hmono 0).1 (Nat.pos_of_ne_zero hc)
    have := hmono Nat.one_pos
    rw [hV0] at hpos
    simp only [rowVal_zero, zero_add, Nat.zero_mod, if_true] at hpos this
    split_ifs at hpos <;> linarith

/-- What a conversion of a finite value writes and counts (R158 to R161). -/
theorem convert1_rounds (fmt : Nat) (h7 : fmt < 7) (rtz nonsat : Bool) (sn : Nat) (se : Int) (s : Bool) (m : Nat) (e : Int) (hsn : 0 < sn) :
    let v := (Xv.fin s m e).rat / (sn * 2 ^ se)
    let r := convert1 fmt rtz nonsat sn se (.fin s m e)
    r.nan = false
      ∧ (r.sat = false → RoundsTo rtz v (fun k => codeVal fmt k 0) r.code ∧ (r.uflow = true ↔ v ≠ 0 ∧ (codeVal fmt r.code 0).rat = 0))
      ∧ (r.sat = true → r.uflow = false ∧ r.code = boundCode fmt nonsat s)
      ∧ (r.sat = true ↔ if fmt = 6 ∧ v < 0 then (if rtz then 1 ≤ |v| else 1 / 2 < |v|)
          else if rtz then rowVal fmt (maxCode fmt + 1) ≤ |v|
          else if fmt = 2 then (rowVal fmt (maxCode fmt) + rowVal fmt (maxCode fmt + 1)) / 2 < |v|
          else (rowVal fmt (maxCode fmt) + rowVal fmt (maxCode fmt + 1)) / 2 ≤ |v|) := by
  intro v r
  have hV := quot_nonneg m sn (e - se)
  have hv : v = sgn s * quot m sn (e - se) := rat_div_scale s m sn e se
  have habs : |v| = quot m sn (e - se) := by rw [hv, abs_sgn_mul, abs_of_nonneg hV]
  have hv0 : v = 0 ↔ m = 0 := by rw [hv, sgn_mul_eq_zero, quot_eq_zero m sn _ hsn]
  obtain ⟨c, hn, hr⟩ := convert1_fin fmt rtz nonsat sn se s m e hsn
  have hr : r = _ := hr
  have hsat := saturates_iff fmt h7 rtz s _ c hV hn
  rw [← hv, ← habs] at hsat
  rw [hr]
  by_cases hb : maxCode fmt < c ∨ fmt = 6 ∧ s = true ∧ c ≠ 0
  · rw [if_pos hb]
    exact ⟨rfl, nofun, fun _ => ⟨rfl, rfl⟩, iff_of_true rfl (hsat.1 hb)⟩
  · rw [if_neg hb]
    refine ⟨rfl, fun _ => ?_, nofun, iff_of_false nofun (mt hsat.2 hb)⟩
    rw [not_or] at hb
    obtain ⟨hfin, hrat, hpar⟩ := codeVal_signedCode fmt h7 s c (not_lt.1 hb.1) fun h6 hs => by_contra fun hc => hb.2 ⟨h6, hs, hc⟩
    have hmono := rowVal_strictMono fmt
    refine ⟨roundsTo_of_nearest hmono (rowVal_zero fmt) hV hn hv hfin hrat hpar (codeVal_onRow fmt h7), ?_⟩
    have hc0 : rowVal fmt c = 0 ↔ c = 0 := by rw [← rowVal_zero fmt, hmono.injective.eq_iff]
    simp only [hrat, sgn_mul_eq_zero, hc0, ne_eq, hv0, Bool.and_eq_true, bne_iff_ne, beq_iff_eq]

end Sys2Proof.Machine

namespace Sys2Proof.Machine

/-!  lists it. -/
theorem boundCode_eq (fmt : Nat) (h7 : fmt < 7) (nonsat s : Bool) (hns : nonsat = true → fmt = 1 ∨ fmt = 3) :
    boundCode fmt nonsat s =
      (if nonsat then (if s then [0, 0xFF80, 0, 0xFC] else [0, 0x7F80, 0, 0x7C])
        else (if s then [0xFF7FFFFF, 0xFF7F, 0xFE, 0xFB, 0x81, 0x9, 0] else [0x7F7FFFFF, 0x7F7F, 0x7E, 0x7B, 127, 7, 255])).getD fmt 0 := by
  cases nonsat with
  | true => rcases hns rfl with rfl | rfl <;> cases s <;> rfl
  | false => interval_cases fmt <;> cases s <;> rfl

/-- An infinite input saturates (R159). -/
theorem convert1_inf (fmt : Nat) (h7 : fmt < 7) (rtz nonsat : Bool) (sn : Nat) (se : Int) (s : Bool) :
    convert1 fmt rtz nonsat sn se (.inf s) = { code := boundCode fmt nonsat s, sat := true } := by
  interval_cases fmt <;> cases s <;> rfl

/-- A NaN gives the canonical NaN of its sign, or 0 in an integer format (R154). -/
theorem convert1_nan (fmt : Nat) (h7 : fmt < 7) (rtz nonsat : Bool) (sn : Nat) (se : Int) (s : Bool) :
    convert1 fmt rtz nonsat sn se (.nan s)
      = { code := (if s then [0xFFC00000, 0xFFC0, 0xFF, 0xFF] else [0x7FC00000, 0x7FC0, 0x7F, 0x7F]).getD fmt 0, nan := true } := by
  interval_cases fmt <;> cases s <;> rfl

/-- RNE_FP32 of an operation is the conversion that leaves the range to an infinity (R170). -/
theorem rne32_eq_convert1 (x : Xv) : rne32 x = BitVec.ofNat 32 (convert1 0 false true 1 0 x).code := by
  cases x with
  | nan s => cases s <;> rfl
  | inf s => cases s <;> rfl
  | fin s m e =>
    unfold rne32 convert1
    rw [if_pos (show 0 < 4 by decide)]
    simp only [show floatFmt 0 = ((8, 23, 127) : Nat × Nat × Int) from rfl, show maxCode 0 = 0x7F7FFFFF from rfl,
      show (1 : Int) - 127 - (23 : Nat) = -149 from rfl, sub_zero, apply_ite Cv.code]
    split <;> rfl

/-! ### PF4 elements (R155, R165) -/

theorem pf4_magnitude (k : Nat) : (pf4Halves k : ℚ) = 2 * gridVal 1 (-1) (k % 8) := by
  have h : k % 8 < 8 := Nat.mod_lt k (by decide)
  unfold pf4Halves
  generalize k % 8 = j at *
  interval_cases j <;> norm_num [gridVal]

/-- The value of a PF4 element code at a block exponent. -/
theorem codeVal_pf4 (ex : Int) (h1 : -127 ≤ ex) (k : Nat) :
    (codeVal 7 k (ex + 128).toNat).isFin = true ∧ (codeVal 7 k (ex + 128).toNat).rat = sgn (bitOf k 3) * (gridVal 1 (-1) (k % 8) * 2 ^ ex) := by
  have hsb : ((ex + 128).toNat == 0) = false := by simp; omega
  have hval : codeVal 7 k (ex + 128).toNat = .fin (bitOf k 3) (pf4Halves k) (ex - 1) := by
    show (if ((ex + 128).toNat == 0) = true then Xv.zero else _) = _
    rw [hsb, if_neg (by decide), show (((ex + 128).toNat : Nat) : Int) - 129 = ex - 1 by omega]
  rw [hval, rat_fin, pf4_magnitude, zpow_sub_one₀ two_ne_zero]
  exact ⟨rfl, by ring⟩

/-- A PF4 element: its magnitude is rounded among the eight of its grid (R155, R158). -/
theorem pf4Elem_fin (rtz : Bool) (ex : Int) (s : Bool) (m : Nat) (e : Int) :
    ∃ c, Nearest rtz (fun k => gridVal 1 (-1) k * 2 ^ ex) (m * 2 ^ e) c ∧ pf4Elem rtz ex (.fin s m e) =
      if 7 < c then { code := 7 + (if s then 8 else 0), sat := true } else { code := c + (if s then 8 else 0), uflow := m != 0 && c == 0 } := by
  obtain ⟨hn, hzero⟩ := nearest_encodeGrid rtz m 1 (e - ex) 2 1 1 Nat.one_pos Nat.one_pos
  have hV : quot m 1 (e - ex) * 2 ^ ex = m * 2 ^ e := by
    rw [quot, Nat.cast_one, div_one, mul_assoc, ← zpow_add₀ two_ne_zero, sub_add_cancel]
  have hscaled := hn.scale (show (0 : ℚ) < 2 ^ ex by positivity)
  rw [hV] at hscaled
  have hbeq : ∀ a b : Nat, (a = 0 ↔ b = 0) → (a == 0) = (b == 0) := fun a b h => by simp only [beq_eq_decide, h]
  refine ⟨_, hscaled, ?_⟩
  rw [← hbeq _ _ hzero]
  rfl

theorem pf4Elem_rounds (rtz : Bool) (ex : Int) (h1 : -127 ≤ ex) (s : Bool) (m : Nat) (e : Int) :
    let v := (Xv.fin s m e).rat
    let r := pf4Elem rtz ex (.fin s m e)
    r.nan = false
      ∧ (r.sat = false → RoundsTo rtz v (fun k => codeVal 7 k (ex + 128).toNat) r.code
          ∧ (r.uflow = true ↔ v ≠ 0 ∧ (codeVal 7 r.code (ex + 128).toNat).rat = 0))
      ∧ (r.sat = true → r.uflow = false ∧ r.code = (if s then 15 else 7))
      ∧ (r.sat = true ↔ if rtz then 8 * 2 ^ ex ≤ |v| else 7 * 2 ^ ex ≤ |v|) := by
  intro v r
  have hp : (0 : ℚ) < 2 ^ ex := by positivity
  have hV : (0 : ℚ) ≤ m * 2 ^ e := by positivity
  have hmono : StrictMono fun k => gridVal 1 (-1) k * (2 : ℚ) ^ ex := fun i j hij => mul_lt_mul_of_pos_right (gridVal_strictMono 1 (-1) hij) hp
  have hv : v = sgn s * (m * 2 ^ e) := rat_fin s m e
  have habs : |v| = m * 2 ^ e := by rw [hv, abs_sgn_mul, abs_of_nonneg hV]
  have hv0 : v = 0 ↔ m = 0 := by rw [hv, sgn_mul_eq_zero]; simp [show (2 : ℚ) ^ e ≠ 0 by positivity]
  obtain ⟨c, hn, hr⟩ := pf4Elem_fin rtz ex s m e
  have hr : r = _ := hr
  have hsat := hn.lt_iff hmono 7
  have h67 : gridVal 1 (-1) 7 = 6 ∧ gridVal 1 (-1) (7 + 1) = 8 := by norm_num [gridVal]
  rw [← habs] at hsat
  simp only [h67, show ¬ 7 % 2 = 0 by decide, if_false, show (6 * (2 : ℚ) ^ ex + 8 * 2 ^ ex) / 2 = 7 * 2 ^ ex by ring] at hsat
  rw [hr]
  by_cases hb : 7 < c
  · rw [if_pos hb]
    exact ⟨rfl, nofun, fun _ => ⟨rfl, by cases s <;> rfl⟩, iff_of_true rfl (hsat.1 hb)⟩
  · rw [if_neg hb]
    refine ⟨rfl, fun _ => ?_, nofun, iff_of_false nofun (mt hsat.2 hb)⟩
    obtain ⟨hfin, hrat⟩ := codeVal_pf4 ex h1 (c + if s then 8 else 0)
    have hcode : bitOf (c + if s then 8 else 0) 3 = s ∧ (c + if s then 8 else 0) % 8 = c ∧ (c + if s then 8 else 0) % 2 = c % 2 := by
      have : c ≤ 7 := not_lt.1 hb
      interval_cases c <;> cases s <;> decide
    rw [hcode.1, hcode.2.1] at hrat
    refine ⟨roundsTo_of_nearest hmono (by simp) hV hn hv hfin hrat hcode.2.2 fun k _ => ⟨_, _, (codeVal_pf4 ex h1 k).2⟩, ?_⟩
    have hc0 : gridVal 1 (-1) c * (2 : ℚ) ^ ex = 0 ↔ c = 0 := by
      rw [mul_eq_zero_iff_right hp.ne', ← gridVal_zero 1 (-1), (gridVal_strictMono 1 (-1)).injective.eq_iff]
    simp only [hrat, sgn_mul_eq_zero, hc0, ne_eq, hv0, Bool.and_eq_true, bne_iff_ne, beq_iff_eq]

/-! ### Exact arithmetic -/

theorem sig_rat (s : Bool) (m : Nat) (e e0 : Int) (h : e0 ≤ e) : (sig s m e e0 : ℚ) * 2 ^ e0 = (Xv.fin s m e).rat := by
  have hpow : (2 : ℚ) ^ e = 2 ^ (e - e0).toNat * 2 ^ e0 := by
    rw [← zpow_natCast, ← zpow_add₀ two_ne_zero, Int.toNat_of_nonneg (by omega), sub_add_cancel]
  rw [rat_fin, hpow]
  cases s <;> simp [sig, sgn, mul_assoc]

theorem lt_fin_iff (s t : Bool) (m n : Nat) (e f : Int) : Xv.lt (.fin s m e) (.fin t n f) = true ↔ (Xv.fin s m e).rat < (Xv.fin t n f).rat := by
  have hmin : (if e ≤ f then e else f) ≤ e ∧ (if e ≤ f then e else f) ≤ f := by split <;> omega
  rw [← sig_rat s m e _ hmin.1, ← sig_rat t n f _ hmin.2, mul_lt_mul_iff_left₀ (by positivity), Int.cast_lt]
  simp only [Xv.lt, finLt, decide_eq_true_eq]

/-- A sum of two finite values is the finite value of their sum. -/
theorem add_fin (s t : Bool) (m n : Nat) (e f : Int) :
    ((Xv.fin s m e).add (.fin t n f)).isFin = true ∧ ((Xv.fin s m e).add (.fin t n f)).rat = (Xv.fin s m e).rat + (Xv.fin t n f).rat := by
  have hmin : (if e ≤ f then e else f) ≤ e ∧ (if e ≤ f then e else f) ≤ f := by split <;> omega
  rw [← sig_rat s m e _ hmin.1, ← sig_rat t n f _ hmin.2, ← add_mul, ← Int.cast_add]
  unfold Xv.add
  dsimp only
  generalize (if e ≤ f then e else f) = e0
  generalize sig s m e e0 + sig t n f e0 = x
  split
  · rename_i h
    obtain rfl : x = 0 := by simpa using h
    exact ⟨rfl, by simp [rat_fin]⟩
  · refine ⟨rfl, ?_⟩
    rw [rat_fin, ← mul_assoc, ← int_signed]

theorem neg_rat (s : Bool) (m : Nat) (e : Int) : (Xv.fin s m e).neg.rat = -(Xv.fin s m e).rat := by cases s <;> simp [Xv.neg, rat_fin, sgn]

theorem mul_fin (s t : Bool) (m n : Nat) (e f : Int) :
    ((Xv.fin s m e).mul (.fin t n f)).isFin = true ∧ ((Xv.fin s m e).mul (.fin t n f)).rat = (Xv.fin s m e).rat * (Xv.fin t n f).rat := by
  refine ⟨rfl, ?_⟩
  show (Xv.fin (s != t) (m * n) (e + f)).rat = _
  rw [rat_fin, rat_fin, rat_fin, zpow_add₀ two_ne_zero, Nat.cast_mul]
  cases s <;> cases t <;> simp [sgn] <;> ring

/-! ### The exponent of a PF4 block (R165) -/

/-- The exponent that a block takes: the smallest that holds its largest magnitude, kept to -127 to 127. -/
theorem pf4Exp_smallest (m : Nat) (e : Int) (hm : 0 < m) :
    let v := (Xv.fin false m e).rat
    let ex := pf4Exp (.fin false m e)
    ex ≤ 127 ∧ -127 ≤ ex ∧ (ex < 127 → v ≤ 6 * 2 ^ ex) ∧ (-127 < ex → 6 * 2 ^ (ex - 1) < v) := by
  intro v ex
  have hfits : ∀ x, (!(Xv.lt (.fin false 6 x) (.fin false m e))) = true ↔ v ≤ 6 * 2 ^ x := by
    intro x
    rw [Bool.not_eq_true', ← Bool.not_eq_true, lt_fin_iff, not_lt]
    simp [v, rat_fin, sgn]
  have hrise : ∀ x y : Int, x ≤ y → (6 : ℚ) * 2 ^ x ≤ 6 * 2 ^ y := fun x y h =>
    mul_le_mul_of_nonneg_left (zpow_le_zpow_right₀ one_le_two h) (by norm_num)
  have hpe : (0 : ℚ) < 2 ^ e := by positivity
  have hlo : (2 : ℚ) ^ ((Nat.log2 m : Int) + e) ≤ v := by
    rw [zpow_add₀ two_ne_zero]
    simp only [v, rat_fin, sgn]
    have : (2 : ℚ) ^ (Nat.log2 m : Int) ≤ m := by exact_mod_cast Nat.log2_self_le hm.ne'
    simpa using mul_le_mul_of_nonneg_right this hpe.le
  have hhi : v < (2 : ℚ) ^ ((Nat.log2 m : Int) + e + 1) := by
    rw [add_right_comm, zpow_add₀ two_ne_zero]
    simp only [v, rat_fin, sgn]
    have : (m : ℚ) < 2 ^ ((Nat.log2 m : Int) + 1) := by exact_mod_cast Nat.lt_log2_self
    simpa using mul_lt_mul_of_pos_right this hpe
  have hpow : ∀ j : Int, (2 : ℚ) ^ (j + 1) = 2 * 2 ^ j := fun j => by rw [zpow_add_one₀ two_ne_zero]; ring
  obtain ⟨x, hx, hle, hlt⟩ : ∃ x : Int, ex = (if x < -127 then -127 else if 127 < x then 127 else x) ∧ v ≤ 6 * 2 ^ x ∧ 6 * 2 ^ (x - 1) < v := by
    generalize hk : (Nat.log2 m : Int) + e - 3 = k at *
    rw [show (Nat.log2 m : Int) + e = k + 1 + 1 + 1 by omega, hpow, hpow, hpow] at hlo
    rw [show (Nat.log2 m : Int) + e + 1 = k + 1 + 1 + 1 + 1 by omega, hpow, hpow, hpow, hpow] at hhi
    have hp : (0 : ℚ) < 2 ^ k := by positivity
    have hno : ¬ v ≤ 6 * 2 ^ k := by linarith
    refine ⟨if v ≤ 6 * 2 ^ (k + 1) then k + 1 else k + 2, ?_, ?_⟩
    · show pf4Exp _ = _
      unfold pf4Exp
      simp only [hk, hfits, if_neg hno]
    · split
      · rename_i h
        exact ⟨h, by rw [add_sub_cancel_right]; exact not_le.1 hno⟩
      · rename_i h
        rw [show k + 2 - 1 = k + 1 by omega]
        refine ⟨?_, not_le.1 h⟩
        rw [show k + 2 = k + 1 + 1 by omega, hpow, hpow]
        linarith
  rw [hx]
  refine ⟨by split_ifs <;> omega, by split_ifs <;> omega, fun h => hle.trans (hrise _ _ ?_), fun h => (hrise _ _ ?_).trans_lt hlt⟩
  · split_ifs at h ⊢ <;> omega
  · split_ifs at h ⊢ <;> omega

/-- Settles O39: a conversion rounds among the rising magnitudes of its format (`nearest_encodeGrid`, `nearest_roundAt`), to which every code
belongs with its sign, and saturates where it rounds beyond the largest. -/
theorem conversionsRoundToTheNearestCode : Obligations.ConversionsRoundToTheNearestCode := by
  unfold Obligations.ConversionsRoundToTheNearestCode
  refine ⟨fun fmt sn se rtz nonsat h7 hsn hns => ?_, rne32_eq_convert1, fun rtz ex h1 _ => ⟨pf4Elem_rounds rtz ex h1, fun s => ?_, fun _ => rfl⟩,
    pf4Exp_smallest, fun s t m n e f => ?_⟩
  · intro pick largest bound last above
    have hbound : ∀ s, boundCode fmt nonsat s = bound s := fun s => by
      rw [boundCode_eq fmt h7 nonsat s hns]
      cases nonsat <;> cases s <;> rfl
    have hlast : last = rowVal fmt (maxCode fmt) := by
      obtain ⟨-, h, -⟩ := codeVal_signedCode fmt h7 false (maxCode fmt) le_rfl nofun
      have hcode : largest.getD fmt 0 = signedCode fmt false (maxCode fmt) := by interval_cases fmt <;> rfl
      show (codeVal fmt (largest.getD fmt 0) 0).rat = _
      rw [hcode, h]
      exact one_mul _
    refine ⟨fun s m e => ?_, fun s => ?_, fun s => ?_⟩
    · have h := convert1_rounds fmt h7 rtz nonsat sn se s m e hsn
      rw [hbound, rowVal_next fmt h7, ← hlast] at h
      exact h
    · rw [convert1_inf fmt h7, hbound]
    · exact convert1_nan fmt h7 rtz nonsat sn se s
  · cases s <;> rfl
  · intro x y
    obtain ⟨hadd, hsum⟩ := add_fin s t m n e f
    obtain ⟨-, hdiff⟩ := add_fin s (!t) m n e f
    obtain ⟨hmul, hprod⟩ := mul_fin s t m n e f
    refine ⟨hadd, hsum, ?_, hmul, hprod⟩
    rw [sub_eq_add_neg, ← neg_rat]
    exact hdiff

end Sys2Proof.Machine

namespace Sys2Proof.Machine

/-! ### Elements of a row in a local store (R151, R183) -/

/-- A row of cnt elements of a format without packed codes lies in the local store. -/
def PlainAt (fmt addr cnt : Nat) : Prop := fmt < 7 ∧ fmt ≠ 5 ∧ addr + fmtBytes fmt * cnt ≤ 20971520

/-- Element i of such a row at a local-store address. -/
def elemVal (m : List Host.Cell) (n fmt addr i : Nat) : Xv :=
  codeVal fmt (leNat (Memory.getN m (key (8 + n) (addr + fmtBytes fmt * i)) (fmtBytes fmt))) 0

theorem dropWhile_dropWhile_lt (m : List Host.Cell) (a : Nat) :
    (m.dropWhile fun c => decide (c.1 < a)).dropWhile (fun c => decide (c.1 < a + 1)) = m.dropWhile fun c => decide (c.1 < a + 1) := by
  induction m with
  | nil => rfl
  | cons x m ih =>
    by_cases h : x.1 < a
    · rw [List.dropWhile_cons_of_pos (by simpa using h), ih, List.dropWhile_cons_of_pos (by simp; omega)]
    · rw [List.dropWhile_cons_of_neg (by simpa using h)]

/-- What a run of bytes reads rests on the cells from its address on. -/
theorem getN_dropWhile (m : List Host.Cell) (a n : Nat) : Memory.getN (m.dropWhile fun c => decide (c.1 < a)) a n = Memory.getN m a n := by
  cases n with
  | zero => rfl
  | succ n =>
    have h : (m.dropWhile fun c => decide (c.1 < a)).dropWhile (fun c => decide (c.1 < a)) = m.dropWhile fun c => decide (c.1 < a) := by
      rw [List.dropWhile_idempotent]
    rw [Memory.getN, Memory.getN, h]

/-- The first byte of a run, and the run behind it. -/
theorem getN_succ (m : List Host.Cell) (a n : Nat) : Memory.getN m a (n + 1) = Memory.getN m a 1 ++ Memory.getN m (a + 1) n := by
  have h := getN_dropWhile (m.dropWhile fun c => decide (c.1 < a)) (a + 1) n
  rw [dropWhile_dropWhile_lt, getN_dropWhile] at h
  rw [Memory.getN, Memory.getN, h]
  cases m.dropWhile fun c => decide (c.1 < a) <;> rfl

/-- A run of bytes in two parts. -/
theorem getN_add (m : List Host.Cell) (a i n : Nat) : Memory.getN m a (i + n) = Memory.getN m a i ++ Memory.getN m (a + i) n := by
  induction i generalizing a with
  | zero => rw [Nat.zero_add]; rfl
  | succ i ih => rw [Nat.add_right_comm, getN_succ, ih, getN_succ m a i, List.append_assoc, Nat.add_assoc, Nat.add_comm 1 i]

/-- A field of a run of bytes is what the bytes at its place read. -/
theorem fld_getN (m : List Host.Cell) (a len o z : Nat) (h : o + z ≤ len) : fld (Memory.getN m a len) o z = leNat (Memory.getN m (a + o) z) := by
  obtain ⟨r, rfl⟩ : ∃ r, len = o + (z + r) := ⟨len - o - z, by omega⟩
  rw [fld, getN_add, getN_add, List.drop_left' (getN_length _ _ _), List.take_left' (getN_length _ _ _)]


/-- A row read from a local store without words in error. -/
theorem lsVals_plain (d : Dev) (n fmt a cnt : Nat) (hecc : d.ecc = []) (h : PlainAt fmt a cnt) :
    lsVals d n fmt a 0 cnt = (List.range cnt).map (elemVal d.mem n fmt a) := by
  obtain ⟨h7, h5, hend⟩ := h
  have h7' : (fmt == 7) = false := by simp; omega
  have h5' : (fmt == 5) = false := by simpa using h5
  have hget : lsGet d n (a + fmtBytes fmt * 0) (fmtBytes fmt * cnt) = Memory.getN d.mem (key (8 + n) a) (fmtBytes fmt * cnt) := by
    rw [Nat.mul_zero, Nat.add_zero, lsGet, if_pos hend, peek_plain _ _ _ hecc]
  unfold lsVals
  simp only [h7', h5', Bool.false_eq_true, if_false, hget]
  refine List.map_congr_left fun i hi => ?_
  have hi : i < cnt := List.mem_range.1 hi
  have hin : fmtBytes fmt * i + fmtBytes fmt ≤ fmtBytes fmt * cnt := Nat.mul_le_mul_left (fmtBytes fmt) hi
  have hfld := fld_getN d.mem (key (8 + n) a) _ _ _ hin
  have hkey : key (8 + n) a + fmtBytes fmt * i = key (8 + n) (a + fmtBytes fmt * i) := by unfold key; omega
  rw [hkey] at hfld
  unfold elemVal valAt
  rw [← hfld]
  unfold elemAt fmtBytes
  simp only [h7', h5', Bool.false_eq_true, if_false]
  split_ifs <;> simp

/-! ### Counts and bytes of a group's conversions (R178) -/

theorem foldl_tally (cs : List Cv) (t : Tally) : cs.foldl Tally.add t = { t with
    sat := t.sat + (cs.filter (·.sat)).length, uflow := t.uflow + (cs.filter (·.uflow)).length, nan := t.nan + (cs.filter (·.nan)).length } := by
  have hcons : ∀ (p : Cv → Bool) (c : Cv) (l : List Cv), ((c :: l).filter p).length = b2n (p c) + (l.filter p).length := by
    intro p c l
    rw [List.filter_cons]
    cases p c <;> simp [b2n, Nat.add_comm]
  induction cs generalizing t with
  | nil => rfl
  | cons c cs ih =>
    rw [List.foldl_cons, ih, hcons, hcons, hcons]
    simp only [Tally.add, Nat.add_assoc]

theorem packCodes_plain (fmt free : Nat) (cs : List Nat) (h : fmt ≠ 5) : packCodes fmt free cs = cs.flatMap (leBytes (fmtBytes fmt)) := by
  induction cs with
  | nil => rfl
  | cons c cs ih =>
    rw [packCodes.eq_def]
    simp [h, ih]

/-- Operations of one operand do not use the second, and only FMA uses the third. -/
theorem vecFn_unused (op : Nat) (a b c z y : Xv) : vecFn op a (if op ≤ 5 then b else z) (if op = 3 then c else y) = vecFn op a b c := by
  by_cases h : op ≤ 5
  · rw [if_pos h]
    interval_cases op <;> rfl
  · rw [if_neg h, if_neg (by omega)]
    unfold vecFn
    split
    iterate 6 exact absurd (by decide) h
    all_goals rfl

/-! ### The element group of a one-row VECTOR word (R197, R198, R200) -/

/-- The word of a flight is an elementwise VECTOR word of one row of at most 256 elements, without scales, with plain operands and target. -/
structure VectorRow (f : Flight) (n : Nat) : Prop where
  vector : wClass f.word.toNat = 2
  elementwise : wOp f.word.toNat ≤ 9
  bobbin : f.bob = some n
  held : n < 8
  oneRow : (vecD f.desc).rows = 1
  notEmpty : 1 ≤ (vecD f.desc).n
  oneGroup : (vecD f.desc).n ≤ 256
  unscaled : (vecD f.desc).aScale = 0
  noScale : (vecD f.desc).ccw.src = 0
  unguarded : (vecD f.desc).ccw.guarded = false
  operandA : PlainAt (vecD f.desc).fmtA (vecD f.desc).srcA (vecD f.desc).n
  operandB : wOp f.word.toNat ≤ 5 → (vecD f.desc).srcB ≠ 0xFFFFFFFF → PlainAt (vecD f.desc).fmtB (vecD f.desc).srcB (vecD f.desc).n
  operandC : wOp f.word.toNat = 3 → PlainAt (vecD f.desc).fmtC (vecD f.desc).srcC (vecD f.desc).n
  target : PlainAt (vecD f.desc).ccw.fmt (vecD f.desc).dst (vecD f.desc).n

/-- The result of element i of such a row, from memory m. -/
def rowResult (m : List Host.Cell) (n op : Nat) (v : VecD) (i : Nat) : Xv :=
  vecFn op (elemVal m n v.fmtA v.srcA i) (if v.srcB = 0xFFFFFFFF then f32 v.imm else elemVal m n v.fmtB v.srcB i) (elemVal m n v.fmtC v.srcC i)

/-- Its conversion. -/
def rowConv (m : List Host.Cell) (n op : Nat) (v : VecD) (i : Nat) : Cv := convert1 v.ccw.fmt v.ccw.rtz v.ccw.nonsat 1 0 (rowResult m n op v i)

/-- The counts of the row's conversions. -/
def rowTally (m : List Host.Cell) (n op : Nat) (v : VecD) : Tally := ((List.range v.n).map (rowConv m n op v)).foldl Tally.add {}

/-- The bytes of the row. -/
def rowBytes (m : List Host.Cell) (n op : Nat) (v : VecD) : List Byte :=
  (List.range v.n).flatMap fun i => leBytes (fmtBytes v.ccw.fmt) (rowConv m n op v i).code

/-- Conversion without a scale. -/
theorem vecConvert_plain (d : Dev) (n lo : Nat) (v : VecD) (first : Bool) (xs : List Xv) (h7 : v.ccw.fmt < 7) (h5 : v.ccw.fmt ≠ 5) (hsrc : v.ccw.src = 0) :
    vecConvert d n v first lo xs =
      ((xs.map (convert1 v.ccw.fmt v.ccw.rtz v.ccw.nonsat 1 0)).flatMap (fun c => leBytes (fmtBytes v.ccw.fmt) c.code),
        (xs.map (convert1 v.ccw.fmt v.ccw.rtz v.ccw.nonsat 1 0)).foldl Tally.add {}, []) := by
  have h7' : (v.ccw.fmt == 7) = false := by simp; omega
  have hz : v.ccw.zeroTensor = false := by simp [Ccw.zeroTensor, hsrc]
  unfold vecConvert
  simp only [h7', hsrc, hz]
  simp [convertAll, packCodes_plain _ _ _ h5, List.flatMap_map]

/-- A write to a key outside the page store is made as it is (R396). -/
theorem pageWrite_other (d : Dev) (k : Nat) (bytes : List Byte) (h : k / 2 ^ 44 ≠ 1) : pageWrite d (k, bytes) = [(k, bytes)] := by
  unfold pageWrite
  dsimp only
  rw [bne_iff_ne.2 h, Bool.or_true, if_pos rfl]


theorem cdiv_one (n k : Nat) (h : 1 ≤ n) (h2 : n ≤ k) : cdiv n k = 1 := Nat.div_eq_of_lt_le (by omega) (by omega)

/-- Three rows that are read element by element are combined element by element. -/
theorem zipWith_range (k : Nat) (fn : Xv → Xv → Xv → Xv) (a b c : Nat → Xv) :
    List.zipWith (fun x p => fn x p.1 p.2) ((List.range k).map a) (((List.range k).map b).zip ((List.range k).map c))
      = (List.range k).map fun i => fn (a i) (b i) (c i) := by
  refine List.ext_getElem (by simp) fun i h1 h2 => ?_
  simp

/-- The second operand of an elementwise group, from the values of the first: the immediate where it names no row. -/
def operandB (d : Dev) (n op : Nat) (v : VecD) (as : List Xv) : List Xv :=
  if op ≤ 5 then (if v.srcB == 0xFFFFFFFF then as.map (fun _ => f32 v.imm) else lsVals d n v.fmtB v.srcB 0 v.n) else as.map fun _ => Xv.zero

/-- The third operand, which only FMA reads. -/
def operandC (d : Dev) (n op : Nat) (v : VecD) (as : List Xv) : List Xv :=
  if op == 3 then lsVals d n v.fmtC v.srcC 0 v.n else as.map fun _ => Xv.zero

/-- The results of a group whose operands stand in plain rows. -/
theorem zipWith_operands (d : Dev) (n op : Nat) (v : VecD) (hecc : d.ecc = []) (hA : PlainAt v.fmtA v.srcA v.n)
    (hB : op ≤ 5 → v.srcB ≠ 0xFFFFFFFF → PlainAt v.fmtB v.srcB v.n) (hC : op = 3 → PlainAt v.fmtC v.srcC v.n) :
    let as := lsVals d n v.fmtA v.srcA 0 v.n
    List.zipWith (fun a p => vecFn op a p.1 p.2) as ((operandB d n op v as).zip (operandC d n op v as))
      = (List.range v.n).map (rowResult d.mem n op v) := by
  intro as
  have has : as = (List.range v.n).map (elemVal d.mem n v.fmtA v.srcA) := lsVals_plain d n _ _ _ hecc hA
  have hreadB : operandB d n op v as
      = (List.range v.n).map fun i => if op ≤ 5 then (if v.srcB = 0xFFFFFFFF then f32 v.imm else elemVal d.mem n v.fmtB v.srcB i) else Xv.zero := by
    unfold operandB
    by_cases hop : op ≤ 5
    · by_cases hsrc : v.srcB = 0xFFFFFFFF
      · simp only [hop, hsrc, has, beq_self_eq_true, if_true, List.map_map, Function.comp_def]
      · simp [hop, hsrc, lsVals_plain d n _ _ _ hecc (hB hop hsrc)]
    · simp only [hop, has, if_false, List.map_map, Function.comp_def]
  have hreadC : operandC d n op v as = (List.range v.n).map fun i => if op = 3 then elemVal d.mem n v.fmtC v.srcC i else Xv.zero := by
    unfold operandC
    by_cases hop : op = 3
    · simp [hop, lsVals_plain d n _ _ _ hecc (hC hop)]
    · simp only [hop, has, beq_iff_eq, if_false, List.map_map, Function.comp_def]
  rw [has, ← has, hreadB, hreadC, has, zipWith_range]
  exact List.map_congr_left fun i _ => vecFn_unused _ _ _ _ _ _

/-- A conversion that is neither guarded nor under a zero scale is booked as its counts alone. -/
theorem book_plain (d : Dev) (f : Flight) (n : Nat) (ccw : Ccw) (t : Tally) (hbob : f.bob = some n) (hg : ccw.guarded = false) (hz : t.zr = 0)
    (hm : t.met = 0) : book d f ccw t = countNum d n t := by
  unfold book
  simp [hbob, hg, hz, hm]

theorem rowTally_eq (m : List Host.Cell) (n op : Nat) (v : VecD) : rowTally m n op v = {
    sat := ((List.range v.n).filter fun i => (rowConv m n op v i).sat).length
    uflow := ((List.range v.n).filter fun i => (rowConv m n op v i).uflow).length
    nan := ((List.range v.n).filter fun i => (rowConv m n op v i).nan).length } := by
  have hcount : ∀ p : Cv → Bool, (((List.range v.n).map (rowConv m n op v)).filter p).length
      = ((List.range v.n).filter fun i => p (rowConv m n op v i)).length :=
    fun p => by rw [List.filter_map, List.length_map]; rfl
  unfold rowTally
  rw [foldl_tally, hcount, hcount, hcount]
  simp only [Nat.zero_add]

theorem rowBytes_length (m : List Host.Cell) (n op : Nat) (v : VecD) : (rowBytes m n op v).length = fmtBytes v.ccw.fmt * v.n := by
  simp [rowBytes, List.length_flatMap, leBytes_length, Nat.mul_comm]

/-- Element group 0 of a one-row word (R198, R200). -/
theorem actGroup_row (c : Units) {d : Dev} {f : Flight} {n : Nat} (h : VectorRow f n) (hecc : d.ecc = []) :
    actGroup c d f 0 =
      putAt { countNum d n (rowTally d.mem n (wOp f.word.toNat) (vecD f.desc)) with free := d.free + 1 }
        (f.issue + 6 + vecLat (wOp f.word.toNat)) prioVec f.id
        [(key (8 + n) (vecD f.desc).dst, rowBytes d.mem n (wOp f.word.toNat) (vecD f.desc))] := by
  obtain ⟨-, -, hbob, -, -, hpos, hmax, hscale, hsrc, hguard, hA, hB, hC, h7, h5, hend⟩ := h
  have hresults := zipWith_operands d n _ _ hecc hA hB hC
  generalize hv : vecD f.desc = v at *
  generalize hop : wOp f.word.toNat = op at *
  have hconv := vecConvert_plain d n 0 v true ((List.range v.n).map (rowResult d.mem n op v)) h7 h5 hsrc
  rw [List.map_map, List.flatMap_map] at hconv
  have hnote : noteVec c d f v op 0 0 v.n = d := by simp [noteVec, hecc]
  have hread : readA d n v 0 0 v.n = (lsVals d n v.fmtA v.srcA 0 v.n, 0) := by simp [readA, hscale]
  have hput : lsPut n v.dst (rowBytes d.mem n op v) = (key (8 + n) v.dst, rowBytes d.mem n op v) := by
    rw [lsPut, List.take_of_length_le (by rw [rowBytes_length]; omega)]
  have hspan : (spanOf v.ccw.fmt 0 v.n).1 = 0 := by
    unfold spanOf
    split_ifs <;> simp
  simp only [operandB, operandC] at hresults
  unfold actGroup
  simp only [hv, hop, hbob, cdiv_one _ _ hpos hmax, Option.getD_some, Nat.zero_div, Nat.zero_mod, Nat.zero_mul, Nat.add_zero, Nat.sub_zero,
    Nat.min_eq_right hmax, hnote, hread, beq_self_eq_true, hresults, hconv, hspan]
  rw [book_plain _ _ n _ _ hbob hguard (by rw [foldl_tally]) (by rw [foldl_tally])]
  exact congrArg (fun w => putAt _ _ _ _ [w]) hput

/-- The group counts its conversions and puts the row's bytes on the agenda. -/
theorem runAct_group (c : Units) {d : Dev} {f : Flight} {n t : Nat} (h : VectorRow f n) (hecc : d.ecc = [])
    (ht : t = f.issue + 6 + vecLat (wOp f.word.toNat)) :
    runAct c d f (.group 0) =
      addEv { countNum d n (rowTally d.mem n (wOp f.word.toNat) (vecD f.desc)) with free := d.free + 1 } (t - 1) prioVec f.id
        (.put [(key (8 + n) (vecD f.desc).dst, rowBytes d.mem n (wOp f.word.toNat) (vecD f.desc))]) := by
  have hkey : key (8 + n) (vecD f.desc).dst / 2 ^ 44 ≠ 1 := by unfold key; omega
  have hlast : ¬ 0 + 1 < vecGroups (vecD f.desc) := by rw [vecGroups, h.oneRow, cdiv_one _ _ h.notEmpty h.oneGroup]; decide
  have hgroup : runAct c d f (.group 0) = actGroup c d f 0 := by
    show actPart c d f 0 = _
    unfold actPart
    rw [h.vector]
    show actVector c d f 0 = _
    unfold actVector
    simp only [h.elementwise, if_true, hlast, if_false]
  rw [hgroup, actGroup_row c h hecc, ← ht]
  unfold putAt
  simp only [List.isEmpty_cons, Bool.false_eq_true, if_false, List.flatMap_cons, List.flatMap_nil, pageWrite_other _ _ _ hkey, List.append_nil]

end Sys2Proof.Machine

namespace Sys2Proof.Machine

/-! ### Steps up to an operation's end (R63, R200) -/

theorem comeDue_at {d : Dev} {a : Nat} (rest : List Ev) (h : d.clk.offset ≤ a) : ∃ k, comeDue d a rest = { d with agenda := rest, clk := k } ∧ k.offset = a :=
  ⟨_, comeDue_eq d a rest, comeDue_offset rest h⟩

section
variable (d : Dev) (n : Nat) (t : Tally)
@[simp] theorem countNum_flights : (countNum d n t).flights = d.flights := rfl
@[simp] theorem countNum_agenda : (countNum d n t).agenda = d.agenda := rfl
@[simp] theorem countNum_clk : (countNum d n t).clk = d.clk := rfl
@[simp] theorem countNum_ecc : (countNum d n t).ecc = d.ecc := rfl
@[simp] theorem countNum_tambs : (countNum d n t).tambs = d.tambs := rfl

theorem bobOf_countNum (h : n < 8) : bobOf (countNum d n t) n = { bobOf d n with num := {
    sat := (bobOf d n).num.sat + t.sat, uflow := (bobOf d n).num.uflow + t.uflow, nan := (bobOf d n).num.nan + t.nan
    zr := (bobOf d n).num.zr + t.zr, accOvf := (bobOf d n).num.accOvf + t.ovf } } := bobOf_setBob d n _ h

theorem bobOf_countNum_other (m : Nat) (h : m ≠ n) : bobOf (countNum d n t) m = bobOf d m := bobOf_setBob_other d n m _ h
end

theorem flightRuns_of {X : Dev} {f : Flight} {n : Nat} (hbob : f.bob = some n) (h : (bobOf X n).accepting = true) : FlightRuns X f := fun m hm => by
  obtain rfl : m = n := Option.some.inj (hm.symm.trans hbob)
  exact h

theorem runAct_ovf (c : Units) (d : Dev) (f : Flight) (k n : Nat) (hbob : f.bob = some n) : runAct c d f (.ovf k) = countNum d n { ovf := k } := by
  show countNum d (f.bob.getD 0) _ = _
  rw [hbob]
  rfl

/-- Time passes until an operation completes: it leaves with its entries of the agenda, and beside what comes due at a Tambour the steps before
have left the device as X. -/
def LeavesAs (s : State) (f : Flight) (t : Nat) (rest : List Ev) (X : Dev) : Prop :=
  ∃ u, exec .operationComplete s = .next { s with dev := u }
    ∧ u = { X with
        clk := u.clk, tambs := u.tambs, flights := s.dev.flights.filter (fun g => g.id != f.id), agenda := rest.filter (fun v => v.fl != f.id) }
    ∧ u.clk.offset = t ∧ ((∀ i, i < 4 → (tambOf s.dev i).edge = none ∧ (tambOf s.dev i).trigAt = none) → u.tambs = s.dev.tambs)

section
variable {s : State} {f : Flight} {t pr : Nat} {rest : List Ev} (hclk : clocked s.dev = true)
  (hfirst : firstAt s.dev (fun a => a == .finish) = some t) (hper : t < periodOf s.dev) (hf : flightOf s.dev f.id = some f) (hrest : ∀ v ∈ rest, t < v.at_)
include hclk hfirst hper hf hrest

/-- Where the steps before it lead to an operation's end, it completes at that cycle and leaves what they made. -/
theorem operationComplete_leaves {X : Dev} (hsteps : ∃ n, drainTo s.committed t fuel s.dev = drainTo s.committed t n X)
    (hag : X.agenda = ⟨t, pr, f.id, .finish⟩ :: rest) (hoff : X.clk.offset ≤ t) (hfl : X.flights = s.dev.flights) (htb : X.tambs = s.dev.tambs) :
    LeavesAs s f t rest X := by
  obtain ⟨n, hsteps⟩ := hsteps
  have hidle : drainTo s.committed t n X = X :=
    drainTo_none s.committed t n X (by simpa [hag] using fun v hv => Nat.le_of_lt (hrest v hv))
  have hfX : flightOf X f.id = some f := by rw [flightOf, hfl]; exact hf
  obtain ⟨k, m, hlast, hk, hm⟩ := drainTo_last s.committed X f X.clk.offset t pr rest hoff hrest hag hfX rfl
  refine ⟨_, operationComplete_runs s t hclk hfirst hper, ?_⟩
  rw [advanceTo, hsteps, hidle, hlast]
  refine ⟨by rw [hfl], hk, fun htambs => (hm fun i hi => ?_).trans htb⟩
  rw [tambOf, htb]
  exact htambs i hi

/-- The same where a count of overflows comes first in the operation's last cycle. -/
theorem operationComplete_counts {X : Dev} {n k : Nat} (hsteps : ∃ m, drainTo s.committed t fuel s.dev = drainTo s.committed t m X)
    (hag : X.agenda = ⟨t, prioRead, f.id, .ovf k⟩ :: ⟨t, pr, f.id, .finish⟩ :: rest) (hoff : X.clk.offset ≤ t) (hfl : X.flights = s.dev.flights)
    (htb : X.tambs = s.dev.tambs) (hbob : f.bob = some n) (hruns : (bobOf X n).accepting = true) :
    LeavesAs s f t rest (countNum X n { ovf := k }) := by
  obtain ⟨m, hsteps⟩ := hsteps
  have hidle : drainTo s.committed t m X = X :=
    drainTo_none s.committed t m X (by simpa [hag] using fun v hv => Nat.le_of_lt (hrest v hv))
  obtain ⟨Y, hY⟩ : ∃ Y, cameTo s.committed X t = Y := ⟨_, rfl⟩
  have hYeq := cameTo_eq hY
  have hYoff : Y.clk.offset = t := hY ▸ cameTo_offset s.committed hoff
  have hYag : Y.agenda = ⟨t, prioRead, f.id, .ovf k⟩ :: ⟨t, pr, f.id, .finish⟩ :: rest := by rw [hYeq]; exact hag
  have hYfl : Y.flights = s.dev.flights := by rw [hYeq]; exact hfl
  have hfY : flightOf Y f.id = some f := by rw [flightOf, hYfl]; exact hf
  have hYruns : FlightRuns Y f := flightRuns_of hbob (by rw [hYeq]; exact hruns)
  have htake := drainTo_takes (c := s.committed) hYag rfl rfl hfY hYruns (Nat.lt_succ_self t) 1073741823
  have hact := runAct_ovf s.committed (comeDue Y t (⟨t, pr, f.id, .finish⟩ :: rest)) f k n hbob
  obtain ⟨q, hdue, hq⟩ := comeDue_at (⟨t, pr, f.id, .finish⟩ :: rest) hYoff.le
  have hfinish := drainTo_finish s.committed (countNum (comeDue Y t (⟨t, pr, f.id, .finish⟩ :: rest)) n { ovf := k }) f t pr rest 1073741823 (by decide)
    (by rw [hdue]; rfl) (by rw [hdue]; exact hfY) hrest
  rw [elapse_zero _ _ (by rw [hdue]; exact Nat.sub_eq_zero_of_le hq.ge)] at hfinish
  refine ⟨_, operationComplete_runs s t hclk hfirst hper, ?_⟩
  have hfuel : fuel = 1073741823 + 1 := rfl
  rw [advanceTo, hsteps, hidle, show tamboursDue s.committed (elapse X (t - X.clk.offset)) = Y from hY, hfuel, htake, hact, hfinish, hdue]
  refine ⟨?_, hq, fun htambs => ?_⟩
  · dsimp only [countNum_flights]
    rw [hYfl]
    conv_lhs => rw [hYeq]
    rfl
  · have hnone : Y = elapse X (t - X.clk.offset) := by
      refine hY.symm.trans (tamboursDue_none _ _ fun i hi => ?_)
      rw [elapse_clk, tambOf]
      exact (congrArg (fun v => ((v[i]?).getD {}).edge = none ∧ ((v[i]?).getD {}).trigAt = none) htb).mpr (htambs i hi)
    show Y.tambs = _
    rw [hnone, elapse_clk, ← htb]

end

/-- The bytes of a list of writes, made in order. -/
def writeAll (m : List Host.Cell) (ws : List (Nat × List Byte)) : List Host.Cell := ws.foldl (fun m w => Memory.setAll m w.1 w.2) m

/-- Without words in error a list of writes is made as it stands. -/
theorem storeAll_plain (c : Units) (w : Who) (ws : List (Nat × List Byte)) (d : Dev) (hecc : d.ecc = []) (hws : ∀ x ∈ ws, x.2 ≠ []) :
    storeAll c d w ws = { d with mem := writeAll d.mem ws } := by
  induction ws generalizing d with
  | nil => rfl
  | cons x ws ih =>
    have hstep := store_plain c d w x.1 x.2 hecc (hws x List.mem_cons_self)
    show storeAll c (store c d w x.1 x.2) w ws = _
    rw [hstep]
    exact ih { d with mem := Memory.setAll d.mem x.1 x.2 } hecc fun y hy => hws y (List.mem_cons_of_mem _ hy)

/-- Writes that come due are made. -/
theorem drainTo_put (c : Units) {Z : Dev} {f : Flight} {b t o : Nat} {ws : List (Nat × List Byte)} {R : List Ev} (hag : Z.agenda = ⟨b, o, f.id, .put ws⟩ :: R)
    (hf : flightOf Z f.id = some f) (hruns : FlightRuns Z f) (hbt : b < t) (hecc : Z.ecc = []) (hws : ∀ x ∈ ws, x.2 ≠ []) (m : Nat) :
    drainTo c t (m + 1) Z = drainTo c t m { comeDue Z b R with mem := writeAll Z.mem ws } := by
  rw [drainTo_takes hag rfl rfl hf hruns hbt, ← comeDue_mem Z b R]
  exact congrArg _ (storeAll_plain c _ ws _ (by simpa using hecc) hws)

@[simp] theorem comeDue_flights (d : Dev) (a : Nat) (rest : List Ev) : (comeDue d a rest).flights = d.flights := by rw [comeDue_eq]
@[simp] theorem comeDue_tambs (d : Dev) (a : Nat) (rest : List Ev) : (comeDue d a rest).tambs = d.tambs := by rw [comeDue_eq]
@[simp] theorem comeDue_free (d : Dev) (a : Nat) (rest : List Ev) : (comeDue d a rest).free = d.free := by rw [comeDue_eq]

/-- Two devices differ in the schedule only: in time, at the Tambours, and in what is in flight and due. -/
def ScheduleOnly (Y X : Dev) : Prop := X = { Y with clk := X.clk, tambs := X.tambs, flights := X.flights, agenda := X.agenda }

theorem ScheduleOnly.trans {X Y Z : Dev} (h : ScheduleOnly X Y) (g : ScheduleOnly Y Z) : ScheduleOnly X Z := by
  unfold ScheduleOnly at *
  rw [h] at g
  exact g

theorem scheduleOnly_comeDue (d : Dev) (a : Nat) (rest : List Ev) : ScheduleOnly d (comeDue d a rest) := by
  unfold ScheduleOnly
  rw [comeDue_eq]

theorem ScheduleOnly.countNum {X Y : Dev} (h : ScheduleOnly Y X) (n : Nat) (t : Tally) : ScheduleOnly (countNum Y n t) (countNum X n t) := by
  unfold ScheduleOnly at *
  conv_lhs => rw [h]
  rfl

/-- What an operation leaves does not rest on the schedule of the device before its end. -/
theorem LeavesAs.congr {s : State} {f : Flight} {t : Nat} {rest : List Ev} {X Y : Dev} (h : LeavesAs s f t rest X) (hXY : ScheduleOnly Y X) :
    LeavesAs s f t rest Y := by
  obtain ⟨u, hexec, hu, hend⟩ := h
  refine ⟨u, hexec, hu.trans ?_, hend⟩
  conv_lhs => rw [show X = _ from hXY]

section
variable {s : State} {f : Flight} {t pr n b : Nat} {rest : List Ev} (hclk : clocked s.dev = true)
  (hfirst : firstAt s.dev (fun a => a == .finish) = some t) (hper : t < periodOf s.dev) (hf : flightOf s.dev f.id = some f) (hrest : ∀ v ∈ rest, t < v.at_)
  (hbob : f.bob = some n) {Y : Dev} {ws : List (Nat × List Byte)} (hag : Y.agenda = ⟨t, pr, f.id, .finish⟩ :: rest) (hoff : Y.clk.offset ≤ b)
  (hbt : b < t) (hfl : Y.flights = s.dev.flights) (htb : Y.tambs = s.dev.tambs) (hecc : Y.ecc = []) (hacc : (bobOf Y n).accepting = true)
  (hws : ∀ x ∈ ws, x.2 ≠ [])
include hclk hfirst hper hf hrest hbob hag hoff hbt hfl htb hecc hacc hws

/-- An operation whose steps have left Y and put writes on the agenda completes with the writes made. -/
theorem operationComplete_writes (hsteps : ∃ m, drainTo s.committed t fuel s.dev = drainTo s.committed t (m + 1) (addEv Y b prioVec f.id (.put ws))) :
    LeavesAs s f t rest { Y with mem := writeAll Y.mem ws } := by
  obtain ⟨m, hsteps⟩ := hsteps
  have hagZ : (addEv Y b prioVec f.id (.put ws)).agenda = ⟨b, prioVec, f.id, .put ws⟩ :: ⟨t, pr, f.id, .finish⟩ :: rest := by
    rw [addEv_first Y b t _ pr f.id _ .finish rest hag hbt, ← hag]
  have hput := drainTo_put s.committed hagZ ((congrArg (List.find? _) hfl).trans hf) (flightRuns_of hbob hacc) hbt hecc hws m
  refine (operationComplete_leaves (pr := pr) hclk hfirst hper hf hrest ⟨_, hsteps.trans hput⟩ (by simp) ?_ (by simpa using hfl) (by simpa using htb)).congr ?_
  · exact (comeDue_offset _ hoff).le.trans hbt.le
  · rw [comeDue_eq]
    rfl

/-- The same with a count of overflows that comes due behind the writes. -/
theorem operationComplete_writes_counts {k : Nat} (hpr : prioRead < pr)
    (hsteps : ∃ m, drainTo s.committed t fuel s.dev
      = drainTo s.committed t (m + 2) (addEv (addEv Y b prioVec f.id (.put ws)) (b + 1) prioRead f.id (.ovf k))) :
    LeavesAs s f t rest (countNum { Y with mem := writeAll Y.mem ws } n { ovf := k }) := by
  obtain ⟨m, hsteps⟩ := hsteps
  have hagZ : (addEv (addEv Y b prioVec f.id (.put ws)) (b + 1) prioRead f.id (.ovf k)).agenda
      = ⟨b, prioVec, f.id, .put ws⟩ :: ⟨b + 1, prioRead, f.id, .ovf k⟩ :: ⟨t, pr, f.id, .finish⟩ :: rest := by
    have hbehind : (⟨b + 1, prioRead, f.id, .ovf k⟩ : Ev).before ⟨b, prioVec, f.id, .put ws⟩ = false := by simp [Ev.before]
    have hahead : (⟨b + 1, prioRead, f.id, .ovf k⟩ : Ev).before ⟨t, pr, f.id, .finish⟩ = true := by
      rcases (Nat.lt_or_eq_of_le hbt : b + 1 < t ∨ b + 1 = t) with h | h <;> simp [Ev.before, h, hpr]
    rw [addEv_first Y b t _ pr f.id _ .finish rest hag hbt, addEv, hag]
    simp only [insertEv, hbehind, hahead, Bool.false_eq_true, if_false, if_true]
  generalize hZ : addEv (addEv Y b prioVec f.id (.put ws)) (b + 1) prioRead f.id (.ovf k) = Z at *
  have hZfl : Z.flights = s.dev.flights := by rw [← hZ]; exact hfl
  have hZtb : Z.tambs = s.dev.tambs := by rw [← hZ]; exact htb
  have hZacc : (bobOf Z n).accepting = true := by rw [← hZ]; exact hacc
  have hZoff : Z.clk.offset ≤ b := by rw [← hZ]; exact hoff
  have hput := drainTo_put s.committed hagZ ((congrArg (List.find? _) hZfl).trans hf) (flightRuns_of hbob hZacc) hbt (by rw [← hZ]; exact hecc) hws (m + 1)
  obtain ⟨q, hdue, hq⟩ := comeDue_at (⟨b + 1, prioRead, f.id, .ovf k⟩ :: ⟨t, pr, f.id, .finish⟩ :: rest) hZoff
  rw [hdue] at hput
  obtain ⟨X, hX, hput⟩ : ∃ X, X = _ ∧ drainTo s.committed t (m + 1 + 1) Z = drainTo s.committed t (m + 1) X := ⟨_, rfl, hput⟩
  have hXag : X.agenda = ⟨b + 1, prioRead, f.id, .ovf k⟩ :: ⟨t, pr, f.id, .finish⟩ :: rest := by rw [hX]
  have hXfl : X.flights = s.dev.flights := by rw [hX]; exact hZfl
  have hXtb : X.tambs = s.dev.tambs := by rw [hX]; exact hZtb
  have hXacc : (bobOf X n).accepting = true := by rw [hX]; exact hZacc
  have hXoff : X.clk.offset ≤ b + 1 := by rw [hX]; exact Nat.le_succ_of_le hq.le
  have hXY : ScheduleOnly { Y with mem := writeAll Y.mem ws } X := by rw [hX, ← hZ]; rfl
  have hsteps := hsteps.trans hput
  rcases Nat.lt_or_eq_of_le hbt with h | h
  · have htake := drainTo_takes (c := s.committed) hXag rfl rfl ((congrArg (List.find? _) hXfl).trans hf) (flightRuns_of hbob hXacc) h m
    rw [runAct_ovf _ _ _ k n hbob] at htake
    refine (operationComplete_leaves (pr := pr) hclk hfirst hper hf hrest ⟨_, hsteps.trans htake⟩ (by simp) ?_
      (by simpa using hXfl) (by simpa using hXtb)).congr ?_
    · exact (comeDue_offset _ hXoff).le.trans h.le
    · exact (hXY.trans (scheduleOnly_comeDue X _ _)).countNum n _
  · obtain rfl : b + 1 = t := h
    exact (operationComplete_counts (pr := pr) hclk hfirst hper hf hrest ⟨_, hsteps⟩ hXag hXoff hXfl hXtb hbob hXacc).congr (hXY.countNum n _)

end

section
variable {s : State} {f : Flight} {a t pr n : Nat} {rest : List Ev} (hclk : clocked s.dev = true) (hnow : s.dev.clk.offset ≤ a)
  (hper : t < periodOf s.dev) (hf : flightOf s.dev f.id = some f) (hrest : ∀ v ∈ rest, t < v.at_) (hbob : f.bob = some n) (hn : n < 8)
  (hacc : (bobOf s.dev n).accepting = true) (hecc : s.dev.ecc = [])
include hclk hnow hper hf hrest hbob hn hacc hecc

/-- A one-row VECTOR word computes in its group's cycle, writes its row in the cycle before its end, and leaves (R200). -/
theorem operationComplete_group (hrow : VectorRow f n) (hag : s.dev.agenda = ⟨a, prioRead, f.id, .group 0⟩ :: ⟨t, pr, f.id, .finish⟩ :: rest)
    (hat : a + 1 < t) (ht : t = f.issue + 6 + vecLat (wOp f.word.toNat)) :
    LeavesAs s f t rest { countNum s.dev n (rowTally s.dev.mem n (wOp f.word.toNat) (vecD f.desc)) with
      free := s.dev.free + 1
      mem := Memory.setAll s.dev.mem (key (8 + n) (vecD f.desc).dst) (rowBytes s.dev.mem n (wOp f.word.toNat) (vecD f.desc)) } := by
  have hbytes : rowBytes s.dev.mem n (wOp f.word.toNat) (vecD f.desc) ≠ [] := by
    have hz : 0 < fmtBytes (vecD f.desc).ccw.fmt := by unfold fmtBytes; split_ifs <;> decide
    exact List.ne_nil_of_length_pos (by rw [rowBytes_length]; exact Nat.mul_pos hz hrow.notEmpty)
  have hfirst : firstAt s.dev (fun x => x == .finish) = some t := firstAt_second s.dev _ _ rest .finish hag (by simp) rfl
  have hgroup := drainTo_takes (c := s.committed) hag rfl rfl hf (flightRuns_of hbob hacc) (Nat.lt_of_succ_lt hat) 1073741823
  rw [runAct_group _ hrow (by simpa using hecc) ht, comeDue_mem, comeDue_free] at hgroup
  obtain ⟨Y, hY, hgroup⟩ : ∃ Y, Y = { countNum (comeDue s.dev a (⟨t, pr, f.id, .finish⟩ :: rest)) n
        (rowTally s.dev.mem n (wOp f.word.toNat) (vecD f.desc)) with free := s.dev.free + 1 }
      ∧ drainTo s.committed t fuel s.dev = drainTo s.committed t (1073741822 + 1) (addEv Y (t - 1) prioVec f.id
          (.put [(key (8 + n) (vecD f.desc).dst, rowBytes s.dev.mem n (wOp f.word.toNat) (vecD f.desc))])) := ⟨_, rfl, hgroup⟩
  have hYag : Y.agenda = ⟨t, pr, f.id, .finish⟩ :: rest := by rw [hY]; exact comeDue_agenda _ _ _
  have hYoff : Y.clk.offset ≤ t - 1 := by rw [hY]; exact (comeDue_offset _ hnow).le.trans (by omega)
  have hYfl : Y.flights = s.dev.flights := by rw [hY]; exact comeDue_flights _ _ _
  have hYtb : Y.tambs = s.dev.tambs := by rw [hY]; exact comeDue_tambs _ _ _
  have hYecc : Y.ecc = [] := by rw [hY]; exact (comeDue_ecc _ _ _).trans hecc
  have hYacc : (bobOf Y n).accepting = true := by
    rw [hY]
    exact (congrArg Bob.accepting (bobOf_countNum _ n _ hn)).trans ((congrArg Bob.accepting (comeDue_bobOf _ _ _ _)).trans hacc)
  refine (operationComplete_writes hclk hfirst hper hf hrest hbob hYag hYoff (by omega) hYfl hYtb hYecc hYacc (by simpa using hbytes)
    ⟨_, hgroup⟩).congr ?_
  rw [hY]
  unfold ScheduleOnly
  rw [comeDue_eq]
  rfl

end

end Sys2Proof.Machine

namespace Sys2Proof.Machine

/-! ### The beat of a one-row MATMUL (R168 to R170, R182) -/

/-- The word of a flight is a MATMUL of one row and depth 1 without write-out. -/
structure OneBeat (f : Flight) (n : Nat) : Prop where
  array : wClass f.word.toNat = 1
  bobbin : f.bob = some n
  held : n < 8
  oneRow : maRows f.word.toNat = 1
  oneDeep : maDepth f.word.toNat = 1
  noOut : maOut f.word.toNat = false

/-- The format of the weights in the bank that a word names. -/
def heldFmt (d : Dev) (n w : Nat) : Nat := (if maBank w = 0 then (bobOf d n).bankA else (bobOf d n).bankB).fmt

/-- What the beat makes of the entry of DPU j: the new entry, and whether it overflowed. -/
def beatUpdate (d : Dev) (n : Nat) (f : Flight) (e j : Nat) : Word × Bool :=
  accUpdate (isInt (fld f.desc 12 1) && isInt (heldFmt d n f.word.toNat)) (accNow d n j (maBase f.word.toNat)) (!maAcc f.word.toNat)
    (actVals d n f.desc e 0 0) (weightVals d n j (maBank f.word.toNat) (heldFmt d n f.word.toNat) e 0)

/-- The writes of the beat, DPU by DPU. -/
def beatWrites (d : Dev) (n : Nat) (f : Flight) (e : Nat) : List (Nat × List Byte) :=
  (List.range 128).map fun j => (accKey n j (maBase f.word.toNat), leBytes 4 (beatUpdate d n f e j).1.toNat)

/-- How many DPUs overflow. -/
def beatOverflows (d : Dev) (n : Nat) (f : Flight) (e : Nat) : Nat := ((List.range 128).filter fun j => (beatUpdate d n f e j).2).length

theorem mapIdx_range {α : Type} (k : Nat) (g : Nat → α) (h : Nat → α → Nat × List Byte) :
    ((List.range k).map g).mapIdx h = (List.range k).map fun j => h j (g j) := by
  refine List.ext_getElem (by simp) fun i h1 h2 => ?_
  simp

theorem flatMap_pageWrite (d : Dev) (ws : List (Nat × List Byte)) (h : ∀ x ∈ ws, x.1 / 2 ^ 44 ≠ 1) : ws.flatMap (pageWrite d) = ws := by
  induction ws with
  | nil => rfl
  | cons x ws ih =>
    rw [List.flatMap_cons, pageWrite_other d x.1 x.2 (h x List.mem_cons_self), ih fun y hy => h y (List.mem_cons_of_mem _ hy)]
    rfl

theorem accKey_store (n j e : Nat) : accKey n j e / 2 ^ 44 ≠ 1 := by
  unfold accKey key
  omega

/-- The beat counts itself, puts the new entries on the agenda and, where some overflow, their count. -/
theorem runAct_beat (c : Units) {d : Dev} {f : Flight} {n e ab wb : Nat} (h : OneBeat f n) (hecc : d.ecc = [])
    (hpair : pairOf (fld f.desc 12 1) (heldFmt d n f.word.toNat) = some (e, ab, wb)) :
    runAct c d f (.beat 0 0) =
      if beatOverflows d n f e = 0 then addEv (noteBeat d n) (d.clk.offset + 13) prioVec f.id (.put (beatWrites d n f e))
      else addEv (addEv (noteBeat d n) (d.clk.offset + 13) prioVec f.id (.put (beatWrites d n f e))) (d.clk.offset + 14) prioRead f.id
        (.ovf (beatOverflows d n f e)) := by
  obtain ⟨hclass, hbob, hn, hrows, hdepth, hout⟩ := h
  show (if wClass f.word.toNat == 5 then actAttnBeat d f 0 0 else actBeat c d f 0 0) = _
  rw [hclass, if_neg (by decide)]
  unfold actBeat
  have hoperands : ∀ bank act wt pair, noteOperands c (noteBeat d n) f n bank act wt pair 0 0 = noteBeat d n := fun _ _ _ _ => by
    simp [noteOperands, noteBeat, hecc]
  have hnote : noteAcc c (noteBeat d n) f n (maBase f.word.toNat) = noteBeat d n := by simp [noteAcc, noteBeat, hecc]
  have hwrites : (beatWrites d n f e).flatMap (pageWrite (noteBeat d n)) = beatWrites d n f e :=
    flatMap_pageWrite _ _ fun x hx => by
      obtain ⟨j, -, rfl⟩ := List.mem_map.1 hx
      exact accKey_store n j _
  have hfull : (beatWrites d n f e).isEmpty = false := rfl
  have hput : putAt (noteBeat d n) (d.clk.offset + 14) prioVec f.id (beatWrites d n f e)
      = addEv (noteBeat d n) (d.clk.offset + 13) prioVec f.id (.put (beatWrites d n f e)) := by
    rw [putAt, hfull, hwrites]
    rfl
  have hupd : ∀ j, accUpdate (isInt (fld f.desc 12 1) && isInt (heldFmt d n f.word.toNat)) (accNow (noteBeat d n) n j (maBase f.word.toNat))
      (!maAcc f.word.toNat) (actVals (noteBeat d n) n f.desc e 0 0)
      (weightVals (noteBeat d n) n j (maBank f.word.toNat) (heldFmt d n f.word.toNat) e 0) = beatUpdate d n f e j := fun _ => rfl
  have hfmt : (if (maBank f.word.toNat == 0) = true then (bobOf d n).bankA else (bobOf d n).bankB).fmt = heldFmt d n f.word.toNat := by
    simp [heldFmt]
  simp only [hbob, Option.getD_some, hfmt, hpair, hoperands, hnote, ite_self, hdepth, hrows, hout, Nat.add_zero, Nat.zero_add, beq_self_eq_true,
    Bool.and_true, Bool.and_false, Bool.false_eq_true, if_false, if_true, hupd, mapIdx_range, List.filter_map, List.length_map]
  change (if (beatOverflows d n f e == 0) = true then putAt (noteBeat d n) (d.clk.offset + 14) prioVec f.id (beatWrites d n f e)
    else addEv (putAt (noteBeat d n) (d.clk.offset + 14) prioVec f.id (beatWrites d n f e))
      ((putAt (noteBeat d n) (d.clk.offset + 14) prioVec f.id (beatWrites d n f e)).clk.offset + 14) prioRead f.id (.ovf (beatOverflows d n f e))) = _
  rw [hput]
  simp only [beq_iff_eq]
  rfl

/-! The entries after the beat. -/

/-- Writes of four bytes each at places four bytes apart or more: every place holds its own, and other bytes are as they were. -/
theorem get_writeAll (m : List Host.Cell) (place : Nat → Nat) (bytes : Nat → List Byte) (hlen : ∀ j, (bytes j).length = 4)
    (hplace : ∀ i j, i < j → place i + 4 ≤ place j) (k : Nat) :
    (∀ a, (∀ j, j < k → a < place j ∨ place j + 4 ≤ a) → Memory.get (writeAll m ((List.range k).map fun j => (place j, bytes j))) a = Memory.get m a)
      ∧ ∀ j, j < k → ∀ i, i < 4 → Memory.get (writeAll m ((List.range k).map fun j => (place j, bytes j))) (place j + i) = (bytes j).getD i 0 := by
  induction k with
  | zero => exact ⟨fun _ _ => rfl, fun j hj => absurd hj (Nat.not_lt_zero j)⟩
  | succ k ih =>
    obtain ⟨hout, hin⟩ := ih
    have hlast : writeAll m ((List.range (k + 1)).map fun j => (place j, bytes j))
        = Memory.setAll (writeAll m ((List.range k).map fun j => (place j, bytes j))) (place k) (bytes k) := by
      simp [writeAll, List.range_succ]
    rw [hlast]
    refine ⟨fun a ha => ?_, fun j hj i hi => ?_⟩
    · have hk := ha k (Nat.lt_succ_self k)
      rw [get_setAll, hlen, if_neg (by omega)]
      exact hout a fun j hj => ha j (Nat.lt_succ_of_lt hj)
    · rw [get_setAll, hlen]
      rcases Nat.lt_succ_iff_lt_or_eq.1 hj with h | rfl
      · have := hplace j k h
        rw [if_neg (by omega)]
        exact hin j h i hi
      · rw [if_pos (by omega), Nat.add_sub_cancel_left]

/-- A value without binary places. -/
def IsWhole (x : Xv) : Prop := ∃ s m, x = .fin s m 0

theorem isWhole_ofInt (i : Int) : IsWhole (Xv.ofInt i) := ⟨_, _, rfl⟩

theorem isWhole_codeVal (fmt code sb : Nat) (h : isInt fmt = true) : IsWhole (codeVal fmt code sb) := by
  have : fmt = 4 ∨ fmt = 5 ∨ fmt = 6 := by simpa [isInt, or_assoc] using h
  rcases this with rfl | rfl | rfl
  · exact isWhole_ofInt _
  · exact isWhole_ofInt _
  · exact ⟨_, _, rfl⟩

theorem isWhole_mul {x y : Xv} (hx : IsWhole x) (hy : IsWhole y) : IsWhole (x.mul y) := by
  obtain ⟨s, m, rfl⟩ := hx
  obtain ⟨t, n, rfl⟩ := hy
  exact ⟨s != t, m * n, rfl⟩

theorem ne_pf4_of_isInt {fmt : Nat} (h : isInt fmt = true) : (fmt == 7) = false := by
  by_contra hc
  obtain rfl : fmt = 7 := by simpa using hc
  exact absurd h (by decide)

theorem isWhole_lsVals (d : Dev) (n fmt a lo cnt : Nat) (h : isInt fmt = true) : ∀ x ∈ lsVals d n fmt a lo cnt, IsWhole x := by
  intro x hx
  unfold lsVals at hx
  rw [ne_pf4_of_isInt h, if_neg (by decide)] at hx
  split at hx
  · rename_i h5
    obtain ⟨i, -, rfl⟩ := List.mem_map.1 hx
    exact isWhole_codeVal 5 _ 0 rfl
  · obtain ⟨i, -, rfl⟩ := List.mem_map.1 hx
    exact isWhole_codeVal _ _ _ h

theorem isWhole_actVals (d : Dev) (n : Nat) (desc : List Byte) (e r b : Nat) (h : isInt (fld desc 12 1) = true) : ∀ x ∈ actVals d n desc e r b, IsWhole x := by
  unfold actVals
  dsimp only
  rw [ne_pf4_of_isInt h, if_neg (by decide)]
  exact isWhole_lsVals d n _ _ _ _ h

theorem isWhole_weightVals (d : Dev) (n j bank fmt e b : Nat) (h : isInt fmt = true) : ∀ x ∈ weightVals d n j bank fmt e b, IsWhole x := by
  intro x hx
  unfold weightVals at hx
  dsimp only at hx
  rw [ne_pf4_of_isInt h, if_neg (by decide)] at hx
  obtain ⟨i, -, rfl⟩ := List.mem_map.1 hx
  exact isWhole_codeVal _ _ _ h

/-- The products of whole operands are whole. -/
theorem isWhole_products {as ws : List Xv} (ha : ∀ x ∈ as, IsWhole x) (hw : ∀ x ∈ ws, IsWhole x) : ∀ x ∈ List.zipWith Xv.mul as ws, IsWhole x := by
  intro x hx
  obtain ⟨i, hi, rfl⟩ := List.mem_iff_getElem.1 hx
  rw [List.getElem_zipWith]
  exact isWhole_mul (ha _ (List.getElem_mem _)) (hw _ (List.getElem_mem _))

/-- One term of an integer accumulation. -/
def addTerm (z : Int) (x : Xv) : Int := match x with | .fin sg m e => z + sig sg m e 0 | _ => z

/-- An integer accumulation is the exact sum. -/
theorem foldl_addTerm (ps : List Xv) (z : Int) (h : ∀ x ∈ ps, IsWhole x) : ((ps.foldl addTerm z : Int) : ℚ) = z + (ps.map Xv.rat).sum := by
  induction ps generalizing z with
  | nil => simp
  | cons x ps ih =>
    obtain ⟨s, m, rfl⟩ := h x List.mem_cons_self
    have hterm : (sig s m 0 0 : ℚ) = (Xv.fin s m 0).rat := by simpa using sig_rat s m 0 0 le_rfl
    rw [List.foldl_cons, ih _ fun y hy => h y (List.mem_cons_of_mem _ hy), List.map_cons, List.sum_cons, ← hterm]
    simp only [addTerm]
    push_cast
    ring

/-- The signed reading of a 32-bit word. -/
theorem sx_word (w : Word) : sx 32 w.toNat = w.toInt := by
  rw [BitVec.toInt_eq_toNat_cond, sx, Nat.mod_eq_of_lt w.isLt]

/-- An integer kept to the ends of the 32-bit range, as a word, and whether it lay beyond them. -/
def clampWord (v : Int) : Word × Bool :=
  if v < -2147483648 then (0x80000000, true) else if 2147483647 < v then (0x7FFFFFFF, true) else (BitVec.ofInt 32 v, false)

theorem clampWord_toInt (v : Int) : (clampWord v).1.toInt = max (-2147483648) (min 2147483647 v) := by
  unfold clampWord
  split
  · rw [show ((0x80000000 : Word), true).1.toInt = -2147483648 from rfl]
    omega
  · split
    · rw [show ((0x7FFFFFFF : Word), true).1.toInt = 2147483647 from rfl]
      omega
    · rw [BitVec.toInt_ofInt, Int.bmod_eq_of_le (by omega) (by omega)]
      omega

theorem accUpdate_true (acc : Word) (clear : Bool) (as ws : List Xv) :
    accUpdate true acc clear as ws = clampWord ((List.zipWith Xv.mul as ws).foldl addTerm (if clear then 0 else sx 32 acc.toNat)) := by
  unfold accUpdate
  dsimp only
  rw [if_pos rfl]
  exact congrArg clampWord (List.foldl_ext _ _ _ fun z x _ => by cases x <;> rfl)

/-- An integer update holds the exact sum at the ends of the range (R170). -/
theorem accUpdate_int (acc : Word) (clear : Bool) (as ws : List Xv) (ha : ∀ x ∈ as, IsWhole x) (hw : ∀ x ∈ ws, IsWhole x) :
    ((accUpdate true acc clear as ws).1.toInt : ℚ) = max (-2147483648) (min 2147483647
      ((if clear then 0 else (acc.toInt : ℚ)) + ((List.zipWith Xv.mul as ws).map Xv.rat).sum)) := by
  have hstart : ((if clear then 0 else sx 32 acc.toNat : Int) : ℚ) = if clear then 0 else (acc.toInt : ℚ) := by
    rw [sx_word]
    split <;> simp
  rw [accUpdate_true, clampWord_toInt, ← hstart, ← foldl_addTerm _ _ (isWhole_products ha hw)]
  push_cast
  rfl

end Sys2Proof.Machine

namespace Sys2Proof.Machine

/-!  no entry of the accumulators that is under way. -/
theorem accNow_comeDue {d : Dev} {v : Ev} {R : List Ev} (hag : d.agenda = v :: R) (hv : ∀ ws, v.act ≠ .put ws) (a n j e : Nat) :
    accNow (comeDue d a R) n j e = accNow d n j e := by
  have hpend : ∀ k, pendingPut (comeDue d a R) k = pendingPut d k := by
    intro k
    unfold pendingPut
    rw [comeDue_agenda, hag, List.reverse_cons, List.findSome?_append]
    obtain ⟨at_, prio, fl, act⟩ := v
    cases act with
    | put ws => exact absurd rfl (hv ws)
    | _ => simp
  have hpeek : ∀ k z, peek (comeDue d a R) k z = peek d k z := fun k z => by rw [comeDue_eq]; rfl
  rw [accNow, accNow, hpend, hpeek]

theorem beatUpdate_comeDue {d : Dev} {v : Ev} {R : List Ev} (hag : d.agenda = v :: R) (hv : ∀ ws, v.act ≠ .put ws) (a n : Nat) (f : Flight) (e j : Nat) :
    beatUpdate (comeDue d a R) n f e j = beatUpdate d n f e j := by
  unfold beatUpdate
  rw [accNow_comeDue hag hv, heldFmt, comeDue_bobOf, comeDue_eq]
  rfl

section
variable {s : State} {f : Flight} {a t pr n e ab wb : Nat} {rest : List Ev} (hclk : clocked s.dev = true) (hnow : s.dev.clk.offset ≤ a)
  (hper : t < periodOf s.dev) (hf : flightOf s.dev f.id = some f) (hrest : ∀ v ∈ rest, t < v.at_) (hacc : (bobOf s.dev n).accepting = true)
  (hecc : s.dev.ecc = [])
include hclk hnow hper hf hrest hacc hecc

/-- The one beat of a MATMUL is counted, its updates are made in the thirteenth cycle behind it, overflows are counted in the next, and the word
leaves (R182, R189). -/
theorem operationComplete_beat (hbeat : OneBeat f n) (hag : s.dev.agenda = ⟨a, prioRead, f.id, .beat 0 0⟩ :: ⟨t, pr, f.id, .finish⟩ :: rest)
    (hat : a + 14 ≤ t) (hpr : prioRead < pr) (hpair : pairOf (fld f.desc 12 1) (heldFmt s.dev n f.word.toNat) = some (e, ab, wb)) :
    ∃ bobs, LeavesAs s f t rest { s.dev with mem := writeAll s.dev.mem (beatWrites s.dev n f e), bobs }
      ∧ (((bobs[n]?).getD {}).beats = (bobOf s.dev n).beats + 1) ∧ ∀ m, m ≠ n → (bobs[m]?).getD {} = bobOf s.dev m := by
  obtain ⟨-, hbob, hn, -, -, -⟩ := id hbeat
  have hfirst : firstAt s.dev (fun x => x == .finish) = some t := firstAt_second s.dev _ _ rest .finish hag (by simp) rfl
  have hstep := drainTo_takes (c := s.committed) (t := t) hag rfl rfl hf (flightRuns_of hbob hacc) (by omega) 1073741823
  have hsame := beatUpdate_comeDue hag (by simp) a n f e
  obtain ⟨k, hdue, hk⟩ := comeDue_at (⟨t, pr, f.id, .finish⟩ :: rest) hnow
  obtain ⟨Y, hY⟩ : ∃ Y : Dev, Y = { s.dev with agenda := ⟨t, pr, f.id, .finish⟩ :: rest, clk := k } := ⟨_, rfl⟩
  rw [hdue, ← hY] at hstep
  simp only [hdue, ← hY] at hsame
  have hwrites : beatWrites Y n f e = beatWrites s.dev n f e := List.map_congr_left fun j _ => by rw [hsame]
  have hfull : ∀ x ∈ beatWrites s.dev n f e, x.2 ≠ [] := fun x hx => by
    obtain ⟨j, -, rfl⟩ := List.mem_map.1 hx
    exact List.ne_nil_of_length_pos (by rw [leBytes_length]; decide)
  have hYoff : Y.clk.offset = a := hY ▸ hk
  have hYecc : Y.ecc = [] := hY ▸ hecc
  have hYag : (noteBeat Y n).agenda = ⟨t, pr, f.id, .finish⟩ :: rest := hY ▸ rfl
  have hYfl : (noteBeat Y n).flights = s.dev.flights := hY ▸ rfl
  have hYtb : (noteBeat Y n).tambs = s.dev.tambs := hY ▸ rfl
  have hYmem : (noteBeat Y n).mem = s.dev.mem := hY ▸ rfl
  have hYbob : ∀ m, bobOf Y m = bobOf s.dev m := fun m => hY ▸ rfl
  have hbob1 : bobOf (noteBeat Y n) n = { bobOf Y n with beats := (bobOf Y n).beats + 1, since := (bobOf Y n).since + 1, lastBeat := some Y.clk.mono } :=
    bobOf_setBob Y n _ hn
  have hothers : ∀ m, m ≠ n → bobOf (noteBeat Y n) m = bobOf s.dev m := fun m hm => (bobOf_setBob_other Y n m _ hm).trans (hYbob m)
  have hbeats : (bobOf (noteBeat Y n) n).beats = (bobOf s.dev n).beats + 1 := by rw [hbob1, hYbob]
  have hruns : (bobOf (noteBeat Y n) n).accepting = true := by rw [hbob1, hYbob]; exact hacc
  rw [runAct_beat (d := Y) _ hbeat hYecc (by rw [heldFmt, hYbob]; exact hpair), hwrites, hYoff] at hstep
  split at hstep
  · refine ⟨(noteBeat Y n).bobs, (operationComplete_writes hclk hfirst hper hf hrest hbob hYag (hYoff.le.trans (Nat.le_add_right a 13)) hat hYfl hYtb hYecc
      hruns hfull ⟨_, hstep⟩).congr ?_, hbeats, hothers⟩
    rw [hYmem, hY]
    rfl
  · refine ⟨(countNum (noteBeat Y n) n { ovf := beatOverflows Y n f e }).bobs, (operationComplete_writes_counts hclk hfirst hper hf hrest hbob hYag
      (hYoff.le.trans (Nat.le_add_right a 13)) hat hYfl hYtb hYecc hruns hfull hpr ⟨_, hstep⟩).congr ?_,
      (congrArg Bob.beats (bobOf_countNum _ n _ hn)).trans hbeats, fun m hm => (bobOf_countNum_other _ n _ m hm).trans (hothers m hm)⟩
    rw [hYmem, hY]
    rfl

end

/-- A floating update is RNE_FP32 of the exact sum (R170). -/
theorem beatUpdate_float (d : Dev) (n : Nat) (f : Flight) (e j : Nat) (h : ¬ (isInt (fld f.desc 12 1) = true ∧ isInt (heldFmt d n f.word.toNat) = true)) :
    (beatUpdate d n f e j).1 = rne32 (Xv.sum (if maAcc f.word.toNat then f32 (accNow d n j (maBase f.word.toNat)) else Xv.zero)
      (List.zipWith Xv.mul (actVals d n f.desc e 0 0) (weightVals d n j (maBank f.word.toNat) (heldFmt d n f.word.toNat) e 0))) := by
  have hint : (isInt (fld f.desc 12 1) && isInt (heldFmt d n f.word.toNat)) = false := by
    rw [Bool.eq_false_iff]
    simpa using h
  unfold beatUpdate
  rw [hint]
  cases maAcc f.word.toNat <;> rfl

/-- An integer update is the exact sum, held at the ends of the range (R170). -/
theorem beatUpdate_int (d : Dev) (n : Nat) (f : Flight) (e j : Nat) (hact : isInt (fld f.desc 12 1) = true) (hfmt : isInt (heldFmt d n f.word.toNat) = true) :
    ((beatUpdate d n f e j).1.toInt : ℚ) = max (-2147483648) (min 2147483647
      ((if maAcc f.word.toNat then ((accNow d n j (maBase f.word.toNat)).toInt : ℚ) else 0)
        + ((List.zipWith Xv.mul (actVals d n f.desc e 0 0)
            (weightVals d n j (maBank f.word.toNat) (heldFmt d n f.word.toNat) e 0)).map Xv.rat).sum)) := by
  unfold beatUpdate
  rw [hact, hfmt]
  refine (accUpdate_int _ _ _ _ (isWhole_actVals _ _ _ _ _ _ hact) (isWhole_weightVals _ _ _ _ _ _ _ hfmt)).trans ?_
  cases maAcc f.word.toNat <;> rfl

/-- Entries of two DPUs lie at least four bytes apart. -/
theorem accKey_apart (n e i j : Nat) (h : i < j) : accKey n i e + 4 ≤ accKey n j e := by
  unfold accKey key
  omega

/-- Settles O40: the group of a VECTOR word and the beat of a MATMUL put their results on the agenda (`runAct_group`, `runAct_beat`), the write is
made in its cycle, and the word leaves (`operationComplete_writes`). -/
theorem vectorAndArrayWordsCompute : Obligations.VectorAndArrayWordsCompute := by
  unfold Obligations.VectorAndArrayWordsCompute
  intro s f a t pr n rest d w left tambsDue others later hclk hnow hper hf hrest hbob hn hacc hecc
  refine ⟨fun hclass hop hag hat ht => ?vector, fun hclass hop hag hat hpr hrows hdepth hout => ?matmul⟩
  case vector =>
    intro v k plain rd hrow hpos hmax hscale hsrc hguard hA hB hC htar res many bytes
    have hvec : VectorRow f n := ⟨hclass, hop, hbob, hn, hrow, hpos, hmax, hscale, hsrc, hguard, hA, hB, hC, htar⟩
    obtain ⟨u, hexec, hu, hoff, htambs⟩ := operationComplete_group hclk hnow hper hf hrest hbob hn hacc hecc hvec hag hat ht
    have hbobs : u.bobs = (countNum s.dev n (rowTally s.dev.mem n (wOp f.word.toNat) (vecD f.desc))).bobs := (congrArg Dev.bobs hu :)
    have hbobOf : ∀ m, bobOf u m = bobOf (countNum s.dev n (rowTally s.dev.mem n (wOp f.word.toNat) (vecD f.desc))) m := fun m => by rw [bobOf, hbobs]; rfl
    refine ⟨u, hexec, hoff, htambs, hu.trans ?_, ?_, fun m hm => (hbobOf m).trans (bobOf_countNum_other _ n _ m hm)⟩
    · rw [hbobs]
      rfl
    · rw [hbobOf, bobOf_countNum _ n _ hn, rowTally_eq]
      rfl
  case matmul =>
    intro act fmt e ab wb hpair entry old products
    have hbeat : OneBeat f n := ⟨hclass, hbob, hn, hrows, hdepth, hout⟩
    obtain ⟨bobs, ⟨u, hexec, hu, hoff, htambs⟩, hbeats, hsame⟩ :=
      operationComplete_beat hclk hnow hper hf hrest hacc hecc hbeat hag hat (hpr ▸ by decide) hpair
    have hbobs : u.bobs = bobs := (congrArg Dev.bobs hu :)
    have hmem : u.mem = writeAll s.dev.mem (beatWrites s.dev n f e) := (congrArg Dev.mem hu :)
    obtain ⟨hkept, hwritten⟩ := get_writeAll s.dev.mem (fun j => accKey n j (maBase f.word.toNat)) (fun j => leBytes 4 (beatUpdate s.dev n f e j).1.toNat)
      (fun j => leBytes_length _ _) (fun i j => accKey_apart n _ i j) 128
    refine ⟨u, hexec, hoff, htambs, hu.trans ?_, ?_, fun m hm => ?_, fun k hk => ?_, fun j hj => ⟨(beatUpdate s.dev n f e j).1, fun i hi => ?_,
      beatUpdate_float s.dev n f e j, beatUpdate_int s.dev n f e j⟩⟩
    · rw [hbobs, hmem]
    · rw [bobOf, hbobs]
      exact hbeats
    · rw [bobOf, hbobs]
      exact hsame m hm
    · rw [hmem]
      exact hkept k hk
    · rw [hmem]
      exact hwritten j hj i hi

end Sys2Proof.Machine

namespace Sys2Proof.Machine

/-! ### HS exit, holds and their timeout (R351, R376, R377) -/

/-- Only port x of the transmit ports differs. -/
def PortOnly (d u : Dev) (x : Nat) : Prop :=
  u = { d with out := u.out } ∧ u.out = { d.out with tx := u.out.tx } ∧ ∀ y, y ≠ x → txOf u y = txOf d y

theorem portOnly_setTx (d : Dev) (x : Nat) (f : TxPort → TxPort) : PortOnly d (setTx d x f) x :=
  ⟨rfl, rfl, fun _ hy => txOf_setTx_other _ _ _ _ hy⟩

section
variable (d : Dev) (x : Nat) (t : TxPort)

/-! #### Leaving HS -/

/-- A port in HS leaves it behind the packet on its lanes. -/
theorem leaveHs_of_hs (h : t.hs = true) : leaveHs d x t =
    { t with hs := false, hsEnd := Nat.max d.clk.mono t.laneAt, laneAt := Nat.max d.clk.mono t.laneAt + hsExit d x } := by
  unfold leaveHs
  exact if_pos h

/-- Leaving HS sets when the lanes are free; the port is then out of HS, whatever it was before. -/
theorem leaveHs_eq : leaveHs d x t = { t with hs := false, hsEnd := (leaveHs d x t).hsEnd, laneAt := (leaveHs d x t).laneAt } := by
  cases h : t.hs with
  | true => rw [leaveHs_of_hs d x t h]
  | false =>
    have hstays : leaveHs d x t = t := if_neg (by simp [h])
    rw [hstays, ← h]

/-- A port whose linger has passed, in the cycle in which it has. -/
def lingered : Dev := if (portDue (txOf d x)).all (fun n => decide (d.clk.mono < n)) then setTx d x (leaveHs d x) else d

/-- A packet that is ready keeps the port in HS (R351). -/
theorem lingered_ready {n : Nat} (hn : portDue (txOf d x) = some n) (hle : n ≤ d.clk.mono) : lingered d x = d := by
  unfold lingered
  rw [hn, Option.all_some, if_neg (by simpa using hle)]

/-- With nothing ready the port leaves HS (R351). -/
theorem lingered_quiet (h : ∀ n, portDue (txOf d x) = some n → d.clk.mono < n) : lingered d x = setTx d x (leaveHs d x) :=
  if_pos ((Option.all_eq_true _ _).2 fun n hn => decide_eq_true (h n hn))

/-! #### Cutting off the unit in progress -/

/-- Packets of the unit in progress that have begun: those that have left, and the one on the lanes. -/
def begunPackets : Nat := (t.leaving.takeWhile (fun p => decide (p.1 ≤ d.clk.mono))).length + 1

/-- Crop lines of the unit in progress that have not begun, with their virtual channel. -/
def linesCut : List (Nat × List Byte) :=
  (t.wire.drop (begunPackets d t)).filterMap (fun p => match p with | .cropLine w l => some (w, l) | _ => none)

/-- A cut keeps the packets that have begun, and holds on to the quota of the others. -/
theorem cutUnit_eq : cutUnit d t = { t with
    used := t.used + ((t.leaving.drop (begunPackets d t)).map (·.2)).sum
    wire := t.wire.take (begunPackets d t), leaving := t.leaving.take (begunPackets d t)
    laneAt := (cutUnit d t).laneAt, rest := (cutUnit d t).rest } := by
  have hback : ((t.leaving.drop (begunPackets d t)).map (·.2)).sum = (t.leaving.drop (begunPackets d t)).foldl (fun n p => n + p.2) 0 := by
    rw [foldl_add_map, Nat.zero_add]
  rw [hback]
  rfl

/-- The lanes are free behind the last packet that has begun. -/
theorem cutUnit_laneAt (p : Nat × Nat) (h : (t.leaving.take (begunPackets d t)).getLast? = some p) : (cutUnit d t).laneAt = p.1 := by
  obtain ⟨ps, hps⟩ := List.getLast?_eq_some_iff.1 h
  show (t.leaving.take (begunPackets d t)).foldl (fun _ p => p.1) t.laneAt = p.1
  rw [hps, List.foldl_concat]

/-- The crop lines that are cut off wait on their channel; where none are, what waited before still does. -/
theorem cutUnit_rest : (cutUnit d t).rest = match linesCut d t with
    | [] => t.rest
    | (w, _) :: _ => some (w, (linesCut d t).map (·.2)) := rfl

/-- The port once a hold has come into force. -/
def heldPort : TxPort :=
  { leaveHs d x (cutUnit d t) with held := true, heldAt := d.clk.mono, tmoDone := false, holds := t.holds + 1 }

/-- A hold leaves the port out of HS with what has begun of its unit, the rest of which waits. -/
theorem heldPort_eq : heldPort d x t = { t with
    held := true, heldAt := d.clk.mono, tmoDone := false, holds := t.holds + 1, hs := false
    used := t.used + ((t.leaving.drop (begunPackets d t)).map (·.2)).sum
    wire := t.wire.take (begunPackets d t), leaving := t.leaving.take (begunPackets d t)
    hsEnd := (heldPort d x t).hsEnd, laneAt := (heldPort d x t).laneAt, rest := (cutUnit d t).rest } := by
  unfold heldPort
  rw [leaveHs_eq, cutUnit_eq]

/-- A port that is held in HS leaves it behind the packet that is on its lanes. -/
theorem heldPort_lanes (h : t.hs = true) :
    let n := Nat.max d.clk.mono (cutUnit d t).laneAt
    heldPort d x t = { heldPort d x t with hs := false, hsEnd := n, laneAt := n + hsExit d x } := by
  unfold heldPort
  rw [leaveHs_of_hs d x (cutUnit d t) h]

/-- The port once a release counts: it enters HS (R376). -/
def releasedPort : TxPort := { t with held := false, hs := true, laneAt := Nat.max d.clk.mono t.laneAt + hsEntry d x }

end

/-! #### The timeout of a hold -/

/-- Port x once its hold has timed out. -/
def timedOut (e : Dev) (x : Nat) : Dev :=
  setTx e x (fun t => { t with tmo := true, tmoDone := true, tmos := t.tmos + 1, tmoAt := some e.clk.mono })

/-- The event of a hold on port x that has lasted its time. -/
def timeoutEvent (x ms : Nat) : Event := { code := 0x000C, unit := 0x18 + x, detail := [x, ms], log := true }

theorem writeStream_out (d : Dev) (x v : Nat) : writeStream d x v = { d with out := (writeStream d x v).out } := by
  unfold writeStream; split <;> rfl

theorem handFree_out (d : Dev) (x v : Nat) (r : Rec) : handFree d x v r = { d with out := (handFree d x v r).out } := by
  have hstream := writeStream_out d x v
  unfold handFree
  split
  · generalize writeStream d x v = e at hstream
    rw [hstream]
    rfl
  · rfl

/-- A record handed to OUT_SNAP touches the outputs only. -/
theorem handSnap_out (c : Units) (d : Dev) (r : Rec) : handSnap c d r = { d with out := (handSnap c d r).out } := by
  unfold handSnap
  dsimp only
  split
  · exact handFree_out _ _ _ _
  · rfl

/-- An event tied to nothing, its record handed to OUT_SNAP where that is enabled (R383, R492). -/
def handEvent (c : Units) (d : Dev) (v : Event) : Dev :=
  if cf d .oSnap 0 0 9 9 = 1 then handSnap c d { bytes := recEvent false noWord v.ctx v.code v.unit 255 d.clk.time v.detail } else d

theorem handEvent_out (c : Units) (d : Dev) (v : Event) : handEvent c d v = { d with out := (handEvent c d v).out } := by
  unfold handEvent
  split
  · exact handSnap_out _ _ _
  · rfl

/-- An event tied to nothing that is to be logged is logged behind its record. -/
theorem raise_nothing (c : Units) (d : Dev) (v : Event) (h : v.log = true) :
    raise c d .nothing v = logAt (handEvent c d v) v.code v.unit 255 noWord v.ctx v.detail (b2n (cf d .oSnap 0 0 9 9 == 1)) := by
  simp only [raise, handEvent, h, beq_iff_eq, Bool.true_or, if_true]

/-- Such an event touches outputs and log only, and has its entry in the log. -/
theorem raise_nothing_spec (c : Units) (d : Dev) (v : Event) (h : v.log = true) :
    let u := raise c d .nothing v
    u = { d with out := u.out, health := u.health } ∧ u.out = (handEvent c d v).out
      ∧ Logged d u (fun g => g.code = v.code ∧ g.unit = v.unit ∧ g.detail = v.detail) := by
  intro u
  have hlog := logAt_logged (handEvent c d v) v.code v.unit 255 noWord v.ctx v.detail (b2n (cf d .oSnap 0 0 9 9 == 1))
  have hout := congrArg Dev.out (logAt_health (handEvent c d v) v.code v.unit 255 noWord v.ctx v.detail (b2n (cf d .oSnap 0 0 9 9 == 1)))
  rw [← raise_nothing c d v h] at hlog hout
  refine ⟨by rw [show u = _ from raise_events c d .nothing v], hout, ?_⟩
  rw [handEvent_out] at hlog
  refine (hlog.from rfl rfl rfl rfl).imp fun g hg => ?_
  obtain ⟨hcode, hunit, -, -, -, hdetail, -⟩ := hg
  exact ⟨hcode, hunit, hdetail⟩

section
variable (x : Fin 2) (s : State)

/-! #### The commands -/

/-- A port that is not committed RUN on a clocked device stands (log entry 49). -/
theorem exec_hold_off (h : ¬ (clocked s.dev = true ∧ running s.committed (0x18 + x) = true)) :
    exec (.hsExit x) s = .next s ∧ exec (.outHold x) s = .next s ∧ exec (.outHoldRelease x) s = .next s
      ∧ exec (.holdTimeout x) s = .next s := by
  have hoff : (clocked s.dev && running s.committed (0x18 + x)) = false := by
    rw [← Bool.not_eq_true, Bool.and_eq_true]
    exact h
  refine ⟨?_, ?_, ?_, ?_⟩
  · show execHsExit x s = _
    simp only [execHsExit, onDev_eq, hoff, Bool.false_and, Bool.false_eq_true, if_false]
  · show execOutHold x s = _
    simp only [execOutHold, onDev_eq, hoff, Bool.false_and, Bool.false_eq_true, if_false]
  · show execOutHoldRelease x s = _
    simp only [execOutHoldRelease, onDev_eq, hoff, Bool.false_and, Bool.false_eq_true, if_false]
  · show execHoldTimeout x s = _
    simp only [execHoldTimeout, onDev_eq, hoff, Bool.false_and, Bool.false_eq_true, if_false]

/-- A port that is not in HS has no HS to leave, and one whose linger lies beyond the Stitch waits. -/
theorem exec_hsExit_idle (h : (txOf s.dev x).hs = false
    ∨ passCycles s.committed s.dev ((txOf s.dev x).laneAt + lingerCycles s.dev x - s.dev.clk.mono) = none) :
    exec (.hsExit x) s = .next s := by
  show execHsExit x s = _
  unfold execHsExit
  rw [onDev_eq]
  obtain h | h := h
  · rw [h, Bool.and_false, if_neg Bool.false_ne_true]
  · rw [atCycle_none h, ite_self]

/-- A released port has no timeout to come, and one that has come or is switched off does not come again. -/
theorem exec_holdTimeout_idle (h : (txOf s.dev x).held = false ∨ (txOf s.dev x).tmoDone = true ∨ cf s.dev .oTiming x 0 31 16 = 0
    ∨ passCycles s.committed s.dev ((txOf s.dev x).heldAt + cyclesPerMs * cf s.dev .oTiming x 0 31 16 - s.dev.clk.mono) = none) :
    exec (.holdTimeout x) s = .next s := by
  show execHoldTimeout x s = _
  unfold execHoldTimeout
  rw [onDev_eq]
  dsimp only
  obtain h | h | h | h := h
  · rw [h, Bool.and_false, Bool.false_and, Bool.false_and, if_neg Bool.false_ne_true]
  · rw [h, Bool.not_true, Bool.and_false, Bool.false_and, if_neg Bool.false_ne_true]
  · rw [h, bne_self_eq_false, Bool.and_false, if_neg Bool.false_ne_true]
  · rw [atCycle_none h, ite_self]

/-- OUT_HOLD does nothing to a port that is held already. -/
theorem exec_outHold_idle (h : (txOf s.dev x).held = true) : exec (.outHold x) s = .next s := by
  show execOutHold x s = _
  unfold execOutHold
  rw [onDev_eq, h, Bool.not_true, Bool.and_false, if_neg Bool.false_ne_true]

/-- A release does nothing to a port that is not held. -/
theorem exec_outHoldRelease_idle (h : (txOf s.dev x).held = false) : exec (.outHoldRelease x) s = .next s := by
  show execOutHoldRelease x s = _
  unfold execOutHoldRelease
  rw [onDev_eq, h, Bool.and_false, if_neg Bool.false_ne_true]

variable (hc : clocked s.dev = true) (hr : running s.committed (0x18 + x) = true)
include hc hr

/-- HS_EXIT acts in the cycle in which the linger has passed (R351). -/
theorem exec_hsExit_due {e : Dev} (hs : (txOf s.dev x).hs = true)
    (hd : passCycles s.committed s.dev ((txOf s.dev x).laneAt + lingerCycles s.dev x - s.dev.clk.mono) = some e) :
    exec (.hsExit x) s = .next { s with dev := lingered e x } := by
  show execHsExit x s = _
  unfold execHsExit
  rw [onDev_eq, atCycle_some hd, hc, hr, hs]
  rfl

theorem exec_outHold (h : (txOf s.dev x).held = false) : exec (.outHold x) s = .next { s with dev := setTx s.dev x (heldPort s.dev x) } := by
  show execOutHold x s = _
  unfold execOutHold
  rw [onDev_eq, hc, hr, h]
  rfl

theorem exec_outHoldRelease (h : (txOf s.dev x).held = true) :
    exec (.outHoldRelease x) s = .next { s with dev := setTx s.dev x (releasedPort s.dev x) } := by
  show execOutHoldRelease x s = _
  unfold execOutHoldRelease
  rw [onDev_eq, hc, hr, h]
  rfl

/-- HOLD_TIMEOUT acts in the cycle in which the hold has lasted the committed time (R377). -/
theorem exec_holdTimeout_due {e : Dev} (h : (txOf s.dev x).held = true) (ht : (txOf s.dev x).tmoDone = false)
    (hms : cf s.dev .oTiming x 0 31 16 ≠ 0)
    (hd : passCycles s.committed s.dev ((txOf s.dev x).heldAt + cyclesPerMs * cf s.dev .oTiming x 0 31 16 - s.dev.clk.mono) = some e) :
    exec (.holdTimeout x) s =
      .next { s with dev := raise s.committed (timedOut e x) .nothing (timeoutEvent x (cf s.dev .oTiming x 0 31 16)) } := by
  show execHoldTimeout x s = _
  unfold execHoldTimeout
  rw [onDev_eq]
  dsimp only
  rw [atCycle_some hd, hc, hr, h, ht, bne_iff_ne.2 hms]
  rfl

end

/-- Settles O57: each command is the change of its port that the lemmas above describe, in the cycle in which it falls due. -/
theorem holdsStopAndResumeThePort : Obligations.HoldsStopAndResumeThePort := by
  unfold Obligations.HoldsStopAndResumeThePort
  intro x s c d left t ms on due linger keeps leaves
  have hx : (x : Nat) < 2 := x.isLt
  refine ⟨exec_hold_off x s, fun _ h => exec_hsExit_idle x s h, fun e ⟨hc, hr⟩ hs hd hes => ?linger, fun ⟨hc, hr⟩ hh => ?hold,
    fun ⟨hc, hr⟩ hh => ⟨exec_outHold_idle x s hh, _, exec_outHoldRelease x s hc hr hh, portOnly_setTx _ _ _, txOf_setTx _ _ _ hx⟩,
    fun _ hh => exec_outHoldRelease_idle x s hh, fun h => exec_holdTimeout_idle x s h, fun ⟨hc, hr⟩ hh ht hms e hd => ?timeout⟩
  case linger =>
    have hexec := exec_hsExit_due x s hc hr hs hd
    refine ⟨fun ⟨n, hn, hle⟩ => ?_, fun hlater => ?_⟩
    · rwa [lingered_ready e x hn hle] at hexec
    · rw [lingered_quiet e x hlater] at hexec
      exact ⟨_, hexec, portOnly_setTx _ _ _, (txOf_setTx _ _ _ hx).trans (leaveHs_of_hs e x _ hes)⟩
  case hold =>
    refine ⟨_, exec_outHold x s hc hr hh, portOnly_setTx _ _ _, ?_⟩
    rw [txOf_setTx _ _ _ hx]
    intro v k cut
    have hv : v = _ := heldPort_eq d x t
    have hrest : v.rest = (cutUnit d t).rest := by rw [hv]
    refine ⟨rfl, rfl, by rw [hv], rfl, rfl, by rw [hv], by rw [hv]; rfl, by rw [hv]; rfl, by rw [hv]; rfl, fun hcut => ?_, fun w l more hcut => ?_,
      fun hs => ⟨_, heldPort_lanes d x t hs, Nat.le_max_left _ _, fun p hp => ?_⟩⟩
    · rw [hrest, cutUnit_rest, show linesCut d t = [] from hcut]
    · rw [hrest, cutUnit_rest, show linesCut d t = _ from hcut, hcut]
    · rw [cutUnit_laneAt d t p hp]
  case timeout =>
    intro counted reported
    obtain ⟨hframe, hout, hlog⟩ := raise_nothing_spec c counted (timeoutEvent x ms) rfl
    refine ⟨_, exec_holdTimeout_due x s hc hr hh ht hms hd, hframe, fun hno => ?_, fun hyes => ?_, hlog.from rfl rfl rfl rfl⟩
    · exact hout.trans (congrArg Dev.out (if_neg hno))
    · exact hout.trans (congrArg Dev.out (if_pos hyes))

end Sys2Proof.Machine

namespace Sys2Proof.Machine

/-! ### ADAPT_RUN (R391, R412) -/

/-- A command that asks for an action of ADAPT_RUN. -/
def isAdaptRun (i : Instr) (w : HostWrite) : Prop :=
  i = .adaptRunStart w ∨ i = .adaptRunStop w ∨ i = .adaptRunCheckpoint w ∨ i = .adaptRunResume w

/-- The device once an accepted action waits for the boundary; a START and a RESUME clear RESTORE_FAIL. -/
def awaitingAction (d : Dev) (x : Nat) : Dev :=
  { d with adapt := { d.adapt with pend := d.adapt.pend ++ [x], fail := d.adapt.fail && x != 1 && x != 4 } }

/-- Each of the four commands answers what `doAdapt` gives. -/
theorem exec_adaptRun {i : Instr} {s : State} {w : HostWrite} (hi : isAdaptRun i w) (h : taken s.dev rowAdapt adaptBody w) :
    exec i s =
      let x := doAdapt s.committed (heard s.dev) w.pkt.payload
      answered s w 0x0050 x.2.1 x.2.2 x.1 := by
  rcases hi with rfl | rfl | rfl | rfl <;> exact onDev_hostCmd_taken doAdapt h

theorem doAdapt_refused {c : Units} {d : Dev} {b : List Byte} {st : Nat} (h : adaptRefusal c (adaptGuard d) (fld b 0 1) = some st) :
    doAdapt c d b = (adaptGuard d, st, []) := by
  unfold doAdapt
  dsimp only
  rw [h]

theorem doAdapt_accepted {c : Units} {d : Dev} {b : List Byte} (h : adaptRefusal c (adaptGuard d) (fld b 0 1) = none) :
    doAdapt c d b = (awaitingAction (adaptGuard d) (fld b 0 1), stDeferred, []) := by
  unfold doAdapt
  dsimp only
  rw [h]
  rfl

/-- R391's conditions of a START. -/
def RunStarts (c : Units) (d : Dev) : Prop :=
  running c 0x1D = true ∧ d.adapt.ready = true ∧ d.adapt.run ≠ .active ∧ d.adapt.copy = 0 ∧ hasImage d (adaptPart d) = true
    ∧ coversStage d (imgOf d (adaptPart d)) = true

/-- R391's conditions of a CHECKPOINT on the state of the run. -/
def CheckpointDue (d : Dev) : Prop := d.adapt.copy = 0 ∧ (d.adapt.run = .active ∨ d.adapt.clean = true)

/-- R391's conditions of a RESUME on the state of the run and its partition. -/
def RunResumes (c : Units) (d : Dev) : Prop :=
  d.adapt.run ≠ .active ∧ d.adapt.copy = 0 ∧ (ust c (adaptPart d) = .idle ∨ ust c (adaptPart d) = .halted) ∧ reqOf d (adaptPart d) ≠ some .run

section
variable {c : Units} {d : Dev}

theorem adaptRefusal_start : (RunStarts c d → adaptRefusal c d 1 = none) ∧ (¬ RunStarts c d → adaptRefusal c d 1 = some stConflict) := by
  have cond : (running c 0x1D && d.adapt.ready && d.adapt.run != .active && d.adapt.copy == 0 && hasImage d (adaptPart d)
      && coversStage d (imgOf d (adaptPart d))) = true ↔ RunStarts c d := by
    simp only [RunStarts, Bool.and_eq_true, bne_iff_ne, beq_iff_eq, and_assoc]
  exact ⟨fun h => if_pos (cond.2 h), fun h => if_neg (mt cond.1 h)⟩

theorem adaptRefusal_stop :
    (d.adapt.run = .active → adaptRefusal c d 2 = none) ∧ (d.adapt.run ≠ .active → adaptRefusal c d 2 = some stConflict) :=
  ⟨fun h => if_pos (beq_iff_eq.2 h), fun h => if_neg (mt beq_iff_eq.1 h)⟩

theorem adaptRefusal_checkpoint :
    (¬ CheckpointDue d → adaptRefusal c d 3 = some stConflict)
      ∧ (CheckpointDue d → adaptRefusal c d 3 =
          if inRegions d regsAdapt (ckptAt d) (256 + (stateArea d).2) = false then some stValue
          else if meetsClaims c d (ckptAt d) (256 + (stateArea d).2) = true then some stConflict else none) := by
  have cond : (d.adapt.copy == 0 && (d.adapt.run == .active || d.adapt.clean)) = true ↔ CheckpointDue d := by
    simp only [CheckpointDue, Bool.and_eq_true, Bool.or_eq_true, beq_iff_eq]
  refine ⟨fun h => if_neg (mt cond.1 h), fun h => (if_pos (cond.2 h)).trans ?_⟩
  cases inRegions d regsAdapt (ckptAt d) (256 + (stateArea d).2) <;> cases meetsClaims c d (ckptAt d) (256 + (stateArea d).2) <;> rfl

theorem adaptRefusal_resume :
    (¬ RunResumes c d → adaptRefusal c d 4 = some stConflict)
      ∧ (RunResumes c d → adaptRefusal c d 4 = if ckptOk d = true then none else some stValue) := by
  have cond : (d.adapt.run != .active && d.adapt.copy == 0 && (ust c (adaptPart d) == .idle || ust c (adaptPart d) == .halted)
      && reqOf d (adaptPart d) != some .run) = true ↔ RunResumes c d := by
    simp only [RunResumes, Bool.and_eq_true, Bool.or_eq_true, bne_iff_ne, beq_iff_eq, and_assoc, ne_eq]
  exact ⟨fun h => if_neg (mt cond.1 h), fun h => if_pos (cond.2 h)⟩

end

/-- Settles O35: an action is refused as `adaptRefusal` judges its row, and otherwise waits (`doAdapt_accepted`). -/
theorem adaptActionsWaitForTheBoundary : Obligations.AdaptActionsWaitForTheBoundary := by
  unfold Obligations.AdaptActionsWaitForTheBoundary
  intro i s w hi h c d x a p accept refuse n start check resume
  have accepted (hr : adaptRefusal c d x = none) : accept := by
    rw [show accept = (exec i s = _) from rfl, exec_adaptRun hi h, doAdapt_accepted hr]
    rfl
  have refused {st : Nat} (hr : adaptRefusal c d x = some st) : refuse st := by
    rw [show refuse st = (exec i s = _) from rfl, exec_adaptRun hi h, doAdapt_refused hr]
    rfl
  refine ⟨fun hx => ?start, fun hx => ?stop, fun hx => ?checkpoint, fun hx => ?resume⟩ <;> rw [hx] at accepted refused
  case start => exact ⟨fun hs => accepted (adaptRefusal_start.1 hs), fun hs => refused (adaptRefusal_start.2 hs)⟩
  case stop => exact ⟨fun hs => accepted (adaptRefusal_stop.1 hs), fun hs => refused (adaptRefusal_stop.2 hs)⟩
  case checkpoint =>
    have judged (hc : check) := (adaptRefusal_checkpoint (c := c) (d := d)).2 hc
    refine ⟨fun hc => refused (adaptRefusal_checkpoint.1 hc), fun hc hin => refused ?_, fun hc hin hm => refused ?_, fun hc hin hm => accepted ?_⟩
    · rw [judged hc, if_pos hin]
    · rw [judged hc, if_neg (by rw [hin]; decide), if_pos hm]
    · rw [judged hc, if_neg (by rw [hin]; decide), if_neg (by rw [hm]; decide)]
  case resume =>
    have judged (hr : resume) := (adaptRefusal_resume (c := c) (d := d)).2 hr
    refine ⟨fun hr => refused (adaptRefusal_resume.1 hr), fun hr hck => refused ?_, fun hr hck => accepted ?_⟩
    · rw [judged hr, if_neg (by rw [hck]; decide)]
    · rw [judged hr, if_pos hck]

end Sys2Proof.Machine

namespace Sys2Proof.Machine

/-! ### The staging fill and the swap (R391, R397, R398) -/

theorem alive_adaptGuard (d : Dev) : alive (adaptGuard d) = alive d := by
  rw [adaptGuard_frame]
  rfl

theorem adaptGuard_stageAt (d : Dev) : (adaptGuard d).adapt.stageAt = d.adapt.stageAt := by
  unfold adaptGuard
  split <;> rfl

theorem adaptGuard_clk (d : Dev) : (adaptGuard d).clk = d.clk := by rw [adaptGuard_frame]

/-- The adaptation once a fill has wiped a batch that was not published: it is built anew from the epoch of POS (log entry 82). -/
def unstaged (d : Dev) : Adapt :=
  if d.adapt.staged = none ∨ d.adapt.run ≠ .active then d.adapt
  else { d.adapt with
    staged := none, spos := d.adapt.pos, sIdx := d.adapt.done, batch := if d.adapt.pos = 0 then 0 else d.adapt.batch - 1
    perm := adaptPerm d.adapt.seed d.adapt.epoch.toNat (setCount d) }

theorem unstage_eq (d : Dev) : unstage d = { d with adapt := unstaged d } := by
  unfold unstage unstaged
  by_cases h : d.adapt.staged = none ∨ d.adapt.run ≠ .active
  · rw [if_pos h]
    exact if_pos (by simpa using h)
  · rw [if_neg h]
    refine (if_neg (by simpa using h)).trans ?_
    simp only [beq_iff_eq]

/-- A fill that is due zeroes the staging range and sets STAGE_READY. -/
theorem exec_stageFillDone {s : State} (ha : alive s.dev = true) (hr : running s.committed 0x1D = true)
    (hf : (adaptGuard s.dev).adapt.filling = true) :
    exec .stageFillDone s =
      let z := zeroPages s.dev (stageBase s.dev) (2 * halfSize s.dev)
      .next { s with dev := { s.dev with mem := z.mem, ecc := z.ecc, adapt := { unstaged s.dev with filling := false, ready := true } } } := by
  have hg : adaptGuard s.dev = s.dev := adaptGuard_kept _ (.inl hf)
  rw [hg] at hf
  show execStageFillDone s = _
  unfold execStageFillDone
  rw [onDev_eq, hg]
  dsimp only
  rw [if_pos (by rw [ha, hr, hf]; rfl), unstage_eq]
  rfl

theorem exec_stageFillDone_idle {s : State}
    (h : ¬ ((alive s.dev = true ∧ running s.committed 0x1D = true) ∧ (adaptGuard s.dev).adapt.filling = true)) :
    exec .stageFillDone s = .next { s with dev := adaptGuard s.dev } := by
  show execStageFillDone s = _
  unfold execStageFillDone
  rw [onDev_eq]
  dsimp only
  rw [if_neg]
  rw [alive_adaptGuard]
  simpa only [Bool.and_eq_true] using h

/-- The zeroed range reads as unlisted memory, the rest as before. -/
theorem get_zeroPages (d : Dev) (a n k : Nat) :
    Memory.get (zeroPages d a n).mem k = if key 1 a ≤ k ∧ k < key 1 a + n then Memory.unlisted k else Memory.get d.mem k :=
  get_erase d.mem (key 1 a) n k

/-- A swap publishes the staged batch, and staging begins at offset 64 of the Stitch. -/
theorem swapHalf_publishes {c : Units} {d : Dev} {b : Batch} (hr : running c (adaptPart d) = true) (ha : d.adapt.run = .active)
    (hc : d.adapt.copy = 0) (hready : d.adapt.ready = true) (hs : d.adapt.staged = some b) :
    swapHalf c d = { d with adapt := { d.adapt with
      half := !d.adapt.half, shown := some b, staged := none, stageAt := d.clk.mono - d.clk.offset + 64 } } := by
  unfold swapHalf
  rw [if_neg (by rw [hr]; decide)]
  dsimp only
  rw [if_pos (by rw [ha, hc, hready, hs]; rfl), hs]

/-! ### Runs of bytes of a memory in canonical form -/

theorem le_of_wfFrom {m : List Host.Cell} {lo : Nat} (hw : Memory.wfFrom lo m = true) {x : Host.Cell} (hx : x ∈ m) : lo ≤ x.1 := by
  induction m generalizing lo with
  | nil => cases hx
  | cons y m ih =>
    obtain ⟨k, v⟩ := y
    simp only [Memory.wfFrom, Bool.and_eq_true, decide_eq_true_eq] at hw
    obtain ⟨⟨hlo, -⟩, hm⟩ := hw
    rcases List.mem_cons.1 hx with rfl | hx
    · exact hlo
    · exact Nat.le_of_succ_le (hlo.trans_lt (ih hm hx))

/-- One byte of a run, where the cells' addresses rise. -/
theorem getN_one {m : List Host.Cell} {lo : Nat} (hw : Memory.wfFrom lo m = true) (a : Nat) : Memory.getN m a 1 = [Memory.get m a] := by
  induction m generalizing lo with
  | nil => rfl
  | cons y m ih =>
    obtain ⟨k, v⟩ := y
    simp only [Memory.wfFrom, Bool.and_eq_true, decide_eq_true_eq] at hw
    obtain ⟨-, hm⟩ := hw
    by_cases hlt : k < a
    · have hne : (k == a) = false := beq_eq_false_iff_ne.2 (by omega)
      have h := ih hm
      rw [Memory.getN, List.dropWhile_cons_of_pos (by simpa using hlt)]
      rw [Memory.getN] at h
      rw [h, Memory.get, Memory.get, List.find?_cons_of_neg (by simpa using hne)]
    · rw [Memory.getN, List.dropWhile_cons_of_neg (by simpa using hlt)]
      by_cases heq : k = a
      · subst heq
        simp [Memory.get, Memory.getN]
      · have none : m.find? (fun c => c.1 == a) = none := List.find?_eq_none.2 fun x hx => by
          have := le_of_wfFrom hm hx
          simpa using show x.1 ≠ a by omega
        simp [Memory.get, Memory.getN, heq, none]

/-- A run reads as given where each of its bytes does. -/
theorem getN_eq {m : List Host.Cell} (hw : Memory.wf m = true) {a : Nat} {bs : List Byte}
    (h : ∀ i, i < bs.length → Memory.get m (a + i) = bs.getD i 0) :
    Memory.getN m a bs.length = bs := by
  induction bs generalizing a with
  | nil => rfl
  | cons b bs ih =>
    have hb : Memory.get m a = b := h 0 (Nat.succ_pos _)
    have hbs : Memory.getN m (a + 1) bs.length = bs := ih fun i hi => by
      rw [Nat.add_assoc, Nat.add_comm 1 i]
      exact h (i + 1) (Nat.succ_lt_succ hi)
    rw [List.length_cons, getN_succ, getN_one hw, hb, hbs, List.singleton_append]

/-- A run within a longer one. -/
theorem getN_within {m : List Host.Cell} {a o z : Nat} {bs : List Byte} (h : Memory.getN m a bs.length = bs) (hz : o + z ≤ bs.length) :
    Memory.getN m (a + o) z = (bs.drop o).take z := by
  obtain ⟨r, hr⟩ : ∃ r, bs.length = o + (z + r) := ⟨bs.length - o - z, by omega⟩
  rw [hr] at h
  rw [← h, getN_add, getN_add, List.drop_left' (getN_length _ _ _), List.take_left' (getN_length _ _ _)]

/-! ### Bytes that list words -/

/-- Behind the bytes of the first i of a list's entries, each of z bytes, those of the others. -/
theorem drop_flatMap {α β : Type} {f : α → List β} {z : Nat} (hf : ∀ x, (f x).length = z) (l : List α) (i : Nat) :
    (l.flatMap f).drop (z * i) = (l.drop i).flatMap f := by
  induction i generalizing l with
  | zero => rfl
  | succ i ih =>
    cases l with
    | nil => simp
    | cons x l =>
      rw [List.flatMap_cons, Nat.mul_succ, Nat.add_comm, ← List.drop_drop, List.drop_left' (hf x), ih, List.drop_succ_cons]

theorem length_flatMap_const {α β : Type} {f : α → List β} {z : Nat} (hf : ∀ x, (f x).length = z) (l : List α) :
    (l.flatMap f).length = z * l.length := by
  simp [List.length_flatMap, hf, Nat.mul_comm]

/-- Word i of bytes that list words. -/
theorem fld_words {ws : List Nat} {i v : Nat} (h : ws[i]? = some v) : leNat (((ws.flatMap (leBytes 4)).drop (4 * i)).take 4) = v % 2 ^ 32 := by
  obtain ⟨hi, rfl⟩ := List.getElem?_eq_some_iff.1 h
  rw [drop_flatMap (leBytes_length 4), List.drop_eq_getElem_cons hi, List.flatMap_cons, List.take_left' (leBytes_length _ _), leNat_leBytes]
  rfl

/-- Entry i of a flattened list of entries, each of z elements. -/
theorem getElem?_flatMap {α β : Type} {f : α → List β} {z : Nat} (hf : ∀ x, (f x).length = z) {l : List α} {i j : Nat} {x : α}
    (h : l[i]? = some x) (hj : j < z) : (l.flatMap f)[z * i + j]? = (f x)[j]? := by
  obtain ⟨hi, rfl⟩ := List.getElem?_eq_some_iff.1 h
  rw [← List.getElem?_drop, drop_flatMap hf, List.drop_eq_getElem_cons hi, List.flatMap_cons, List.getElem?_append_left (by rw [hf]; exact hj)]

end Sys2Proof.Machine

namespace Sys2Proof.Machine

/-! ### Checked reads of DDR5 (R476, R480, R496) -/

/-- What a checked read of DDR5 may touch: reports, error counts, and what the controller notes of an access. -/
def ReadsOnly (d e : Dev) : Prop :=
  e = { d with
    out := e.out, health := e.health, bobs := e.bobs
    ddr := { d.ddr with idleSr := e.ddr.idleSr, lastAt := e.ddr.lastAt, range := e.ddr.range, ce := e.ddr.ce, ue := e.ddr.ue } }

theorem ReadsOnly.trans {a b c : Dev} (h : ReadsOnly a b) (g : ReadsOnly b c) : ReadsOnly a c := by
  unfold ReadsOnly at *
  rw [h] at g
  exact g

theorem EventsOnly.readsOnly {d e : Dev} (h : EventsOnly d e) : ReadsOnly d e := by
  unfold EventsOnly at h
  unfold ReadsOnly
  rw [h]

/-- DDR5 serves reads alike, and delivers every byte alike. -/
def ReadsAlike (d e : Dev) : Prop :=
  e.mem = d.mem ∧ e.ecc = d.ecc ∧ e.regs = d.regs ∧ e.ddr.state = d.ddr.state ∧ e.ddr.known = d.ddr.known
    ∧ e.ddr.trainTok = d.ddr.trainTok ∧ e.ddr.lostTok = d.ddr.lostTok

theorem ReadsAlike.trans {a b c : Dev} (h : ReadsAlike a b) (g : ReadsAlike b c) : ReadsAlike a c := by
  obtain ⟨hm, he, hr, hs, hk, ht, hl⟩ := h
  obtain ⟨gm, ge, gr, gs, gk, gt, gl⟩ := g
  exact ⟨gm.trans hm, ge.trans he, gr.trans hr, gs.trans hs, gk.trans hk, gt.trans ht, gl.trans hl⟩

theorem ReadsOnly.alike {d e : Dev} (h : ReadsOnly d e) : ReadsAlike d e := by
  unfold ReadsOnly at h
  rw [h]
  exact ⟨rfl, rfl, rfl, rfl, rfl, rfl, rfl⟩

section
variable {d e : Dev} (h : ReadsAlike d e)
include h

theorem ReadsAlike.regs : e.regs = d.regs := by
  obtain ⟨-, -, hr, -⟩ := h
  exact hr

theorem ReadsAlike.state : e.ddr.state = d.ddr.state := by
  obtain ⟨-, -, -, hs, -⟩ := h
  exact hs

theorem ReadsAlike.ddrPeek (a n : Nat) : ddrPeek e a n = ddrPeek d a n := by
  obtain ⟨hm, he, hr, -, hk, ht, hl⟩ := h
  have byte (a : Nat) : ddrByte e a = ddrByte d a := by
    unfold ddrByte inTraining ddrCap peek1 flipsAt
    rw [hk, hm, he, ht, hl, com_congr hr]
  unfold Machine.ddrPeek
  simp only [hk, peek_sameMem ⟨hm, he⟩, byte]

end

theorem noteCe_readsOnly (d : Dev) (w : Nat) : ReadsOnly d (noteCe d w) := by
  unfold noteCe
  dsimp only
  split
  · rfl
  · split
    · rfl
    · split <;> rfl

theorem judgeLimit_readsOnly (c : Units) (d : Dev) (n : Nat) : ReadsOnly d (judgeLimit c d n) := by
  unfold judgeLimit
  dsimp only
  split <;> rfl

theorem noteUe_readsOnly (c : Units) (d : Dev) (w : Who) (k : Nat) (f : BitVec 72) : ReadsOnly d (noteUe c d w k f) := by
  unfold noteUe
  dsimp only
  refine ReadsOnly.trans ?_ (raise_events c _ _ _).readsOnly
  split
  · have judged (y : Dev) (h : ReadsOnly d y) (n : Nat) : ReadsOnly d (judgeLimit c y n) := h.trans (judgeLimit_readsOnly c y n)
    refine judged _ ?_ _
    rfl
  · split
    · rfl
    · split <;> rfl

theorem eccRead_readsOnly (c : Units) (d : Dev) (w : Who) (k n : Nat) : ReadsOnly d (eccRead c d w k n).1 := by
  unfold eccRead
  split
  · rfl
  · refine foldl_inv (fun x : Dev × Bool => ReadsOnly d x.1) _ _ (fun x e _ hx => ?_) _ rfl
    split
    · exact hx
    · exact hx.trans (noteCe_readsOnly _ _)
    · exact hx.trans (noteUe_readsOnly _ _ _ _ _)

theorem ddrRead_readsOnly (c : Units) (d : Dev) (w : Who) (ks : List Nat) (a n : Nat) : ReadsOnly d (ddrRead c d w ks a n).1 := by
  unfold ddrRead
  split
  · rfl
  split
  · unfold ddrRefuse
    exact ReadsOnly.trans (b := { d with ddr := { d.ddr with range := d.ddr.range + 1 } }) rfl (logAt_events _ _ _ _ _ _ _ _).readsOnly
  · exact ReadsOnly.trans (b := ddrWake d) rfl (eccRead_readsOnly c _ _ _ _)

/-- What a read delivers where DDR5 serves it, and where it does not. -/
theorem ddrRead_bytes (c : Units) (d : Dev) (w : Who) (ks : List Nat) (a n : Nat) :
    (ddrRead c d w ks a n).2.1 = if d.ddr.state = .ready ∧ inRegions d ks a n = true then ddrPeek d a n else List.replicate n 0 := by
  unfold ddrRead
  by_cases hs : d.ddr.state = .ready
  · rw [if_neg (by rw [hs]; decide)]
    by_cases hin : inRegions d ks a n = true
    · rw [if_neg (by rw [hin]; decide), if_pos ⟨hs, hin⟩]
    · rw [if_pos (by simpa using hin), if_neg (fun h => hin h.2)]
  · rw [if_pos (by simpa using hs), if_neg (fun h => hs h.1)]

/-! ### The samples of a batch (R392, R393, R395) -/

/-- A sample is as its entry of the table gives it, and passes R393's checks. -/
def SampleChecked (d : Dev) (x : Sample) : Prop :=
  let e := ddrPeek d (com d .aSetBase 0 0 * 256 + 32 * x.idx) 32
  fld e 0 8 % 64 = 0 ∧ x.len = fld e 8 4 ∧ x.len ≠ 0 ∧ x.len ≤ cf d .aStage 0 0 28 16 * 1024 ∧ x.tag = fld e 16 4
    ∧ x.data = ddrPeek d (fld e 0 8) x.len ∧ (crc32c x.data).toNat = fld e 12 4

theorem SampleChecked.congr {d e : Dev} {x : Sample} (h : ReadsAlike d e) (hx : SampleChecked e x) : SampleChecked d x := by
  unfold SampleChecked at hx ⊢
  dsimp only at hx ⊢
  rwa [com_congr h.regs, cf_congr h.regs, h.ddrPeek, h.ddrPeek] at hx

section
variable {d : Dev} {x : Sample} (h : SampleChecked d x)
include h

theorem SampleChecked.data_length : x.data.length = x.len := by
  obtain ⟨-, -, -, -, -, hdata, -⟩ := h
  rw [hdata, ddrPeek_length]

theorem SampleChecked.fits : x.data.length ≤ cf d .aStage 0 0 28 16 * 1024 := by
  rw [h.data_length]
  obtain ⟨-, -, -, hfits, -⟩ := h
  exact hfits

theorem SampleChecked.words : x.len < 2 ^ 32 ∧ x.tag < 2 ^ 32 := by
  obtain ⟨-, hlen, -, -, htag, -⟩ := h
  rw [hlen, htag]
  exact ⟨fld_lt4 _ _, fld_lt4 _ _⟩

end

theorem checkSample_readsOnly (c : Units) (d : Dev) (i : Nat) : ReadsOnly d (checkSample c d i).1 := by
  unfold checkSample
  have entry := ddrRead_readsOnly c d (whoAdapt d) regsAdapt (com d .aSetBase 0 0 * 256 + 32 * i) 32
  dsimp only
  split
  · exact entry
  split
  · exact entry
  split
  · exact entry.trans (ddrRead_readsOnly ..)
  · split <;> exact entry.trans (ddrRead_readsOnly ..)

theorem checkSample_ok {c : Units} {d : Dev} {i : Nat} {x : Sample} (h : (checkSample c d i).2 = .ok x) : x.idx = i ∧ SampleChecked d x := by
  unfold checkSample at h
  dsimp only at h
  have alike := (ddrRead_readsOnly c d (whoAdapt d) regsAdapt (com d .aSetBase 0 0 * 256 + 32 * i) 32).alike
  have bytes := ddrRead_bytes c d (whoAdapt d) regsAdapt (com d .aSetBase 0 0 * 256 + 32 * i) 32
  generalize ddrRead c d (whoAdapt d) regsAdapt (com d .aSetBase 0 0 * 256 + 32 * i) 32 = r at h alike bytes
  obtain ⟨d1, e, bad⟩ := r
  dsimp only at h alike bytes
  split_ifs at h with hentry hrange hcrc hbad
  simp only [Bool.or_eq_true, not_or, Bool.not_eq_true', bne_iff_ne, beq_iff_eq, decide_eq_true_eq, not_lt, ne_eq, not_not,
    Bool.not_eq_false] at hentry hrange hcrc
  obtain ⟨⟨⟨-, haddr⟩, hlen⟩, hslot⟩ := hentry
  obtain ⟨-, hin⟩ := hrange
  -- an entry that is not served reads as zeros, and so has length 0
  have served : d.ddr.state = .ready ∧ inRegions d regsAdapt (com d .aSetBase 0 0 * 256 + 32 * i) 32 = true := by
    by_contra hno
    rw [if_neg hno] at bytes
    exact hlen (by rw [bytes]; decide)
  rw [if_pos served] at bytes
  have data := ddrRead_bytes c d1 (whoAdapt d) regsAdapt (fld e 0 8) (fld e 8 4)
  rw [if_pos ⟨alike.state.trans served.1, hin⟩, alike.ddrPeek] at data
  rw [cf_congr alike.regs] at hslot
  subst bytes
  cases h
  exact ⟨rfl, haddr, rfl, hlen, hslot, rfl, data, hcrc⟩

/-- One position of the permutation is taken: a sample that passes the checks joins those taken. -/
theorem fillSlots_takes (c : Units) (b n : Nat) (d : Dev) (got : List Sample) (h : ¬ (b ≤ got.length ∨ setCount d ≤ d.adapt.spos)) :
    ∃ e more, fillSlots c b (n + 1) d got = fillSlots c b n e (got ++ more) ∧ ReadsAlike d e ∧ e.adapt.perm = d.adapt.perm
      ∧ e.adapt.spos = d.adapt.spos + 1 ∧ ∀ x ∈ more, x.idx = d.adapt.perm.getD d.adapt.spos 0 ∧ SampleChecked d x := by
  have read := checkSample_readsOnly c d (d.adapt.perm.getD d.adapt.spos 0)
  have ok := fun x => checkSample_ok (c := c) (d := d) (i := d.adapt.perm.getD d.adapt.spos 0) (x := x)
  rw [fillSlots, if_neg (by simpa using h)]
  dsimp only
  have alike := read.alike
  have same : (checkSample c d (d.adapt.perm.getD d.adapt.spos 0)).1.adapt = d.adapt := by rw [read]
  generalize checkSample c d (d.adapt.perm.getD d.adapt.spos 0) = y at ok alike same ⊢
  obtain ⟨e, r⟩ := y
  dsimp only at ok alike same ⊢
  cases r with
  | ok x => exact ⟨_, [x], rfl, alike, by dsimp only; rw [same], by dsimp only; rw [same], fun y hy => List.mem_singleton.1 hy ▸ ok x rfl⟩
  | error k =>
    have skipped (e : Dev) (i k : Nat) : ReadsAlike e (skipSample e i k) ∧ (skipSample e i k).adapt.perm = e.adapt.perm
        ∧ (skipSample e i k).adapt.spos = e.adapt.spos := by
      unfold skipSample
      dsimp only
      rw [logAt_health]
      exact ⟨⟨rfl, rfl, rfl, rfl, rfl, rfl, rfl⟩, rfl, rfl⟩
    obtain ⟨hs, hp, hn⟩ := skipped { e with adapt := { e.adapt with spos := e.adapt.spos + 1 } } (e.adapt.perm.getD e.adapt.spos 0) k
    refine ⟨_, [], by rw [List.append_nil], alike.trans hs, ?_, ?_, fun y hy => nomatch hy⟩
    · rw [hp, ← same]
    · rw [hn, ← same]

/-- Each sample of a batch stands at a position that was taken, and passes the checks. -/
theorem fillSlots_samples (c : Units) (b n : Nat) (d : Dev) (got : List Sample) :
    let r := fillSlots c b n d got
    d.adapt.spos ≤ r.1.adapt.spos ∧ ∀ x ∈ r.2, x ∈ got
      ∨ (∃ i, d.adapt.spos ≤ i ∧ i < r.1.adapt.spos ∧ x.idx = d.adapt.perm.getD i 0) ∧ SampleChecked d x := by
  induction n generalizing d got with
  | zero => exact ⟨le_rfl, fun x hx => .inl hx⟩
  | succ n ih =>
    by_cases h : b ≤ got.length ∨ setCount d ≤ d.adapt.spos
    · rw [fillSlots, if_pos (by simpa using h)]
      exact ⟨le_rfl, fun x hx => .inl hx⟩
    · obtain ⟨e, more, heq, alike, hperm, hspos, hmore⟩ := fillSlots_takes c b n d got h
      obtain ⟨hle, hin⟩ := ih e (got ++ more)
      rw [heq]
      refine ⟨by omega, fun x hx => ?_⟩
      rcases hin x hx with hx | ⟨⟨i, hlo, hhi, hidx⟩, hchecked⟩
      · rcases List.mem_append.1 hx with hx | hx
        · exact .inl hx
        · exact .inr ⟨⟨_, le_rfl, by omega, (hmore x hx).1⟩, (hmore x hx).2⟩
      · rw [hperm] at hidx
        exact .inr ⟨⟨i, by omega, hhi, hidx⟩, hchecked.congr alike⟩

end Sys2Proof.Machine

namespace Sys2Proof.Machine

/-! ### The header of a staged half (R397, R399) -/

/-- The words of slot i's entry: those of its sample, or of an empty slot. -/
def slotWords (weight : Word) (xs : List Sample) (i : Nat) : List Nat :=
  match xs[i]? with
  | some x => [x.idx, x.len, x.tag, weight.toNat]
  | none => [0xFFFFFFFF, 0, 0, 0]

theorem slotWords_length (weight : Word) (xs : List Sample) (i : Nat) : (slotWords weight xs i).length = 4 := by
  unfold slotWords
  split <;> rfl

theorem slotWords_some (weight : Word) {xs : List Sample} {i : Nat} {x : Sample} (h : xs[i]? = some x) :
    slotWords weight xs i = [x.idx, x.len, x.tag, weight.toNat] := by
  unfold slotWords
  rw [h]

theorem slotWords_none (weight : Word) {xs : List Sample} {i : Nat} (h : xs[i]? = none) : slotWords weight xs i = [0xFFFFFFFF, 0, 0, 0] := by
  unfold slotWords
  rw [h]

/-- The words of a header, before the entries of its slots. -/
def batchWords (d : Dev) (b : Batch) (epoch : Word) (first : Bool) (index : Nat) : List Nat :=
  [b.step, epoch.toNat, index, b.count, 0x3F800000, 0, b2n first + 2 * b2n b.last, 0]
    ++ (stepScalars d b.p1 b.p2).map (·.toNat) ++ List.replicate 49 0

theorem batchWords_length (d : Dev) (b : Batch) (epoch : Word) (first : Bool) (index : Nat) : (batchWords d b epoch first index).length = 64 := by
  simp [batchWords, stepScalars]

theorem batchWords_drop (d : Dev) (b : Batch) (epoch : Word) (first : Bool) (index : Nat) :
    (batchWords d b epoch first index).drop 15 = List.replicate 49 0 :=
  List.drop_left' (by simp [stepScalars])

theorem flatMap_zero_words (n : Nat) : (List.replicate n 0).flatMap (leBytes 4) = List.replicate (n * 4) 0 := by
  rw [List.flatMap_replicate, show leBytes 4 0 = List.replicate 4 0 from rfl, List.flatten_replicate_replicate]

/-- A header lists words: its own 64, and four for each slot. -/
theorem halfHead_words (d : Dev) (b : Batch) (epoch : Word) (first : Bool) (index : Nat) (xs : List Sample) :
    halfHead d b epoch first index xs =
      (batchWords d b epoch first index ++ (List.range (batchSize d)).flatMap (slotWords (rneQuot false 1 b.count 0) xs)).flatMap (leBytes 4) := by
  have flags : leBytes 1 (b2n first + 2 * b2n b.last) ++ List.replicate 7 0 = leBytes 4 (b2n first + 2 * b2n b.last) ++ leBytes 4 0 := by
    cases first <;> cases b.last <;> decide
  unfold halfHead
  rw [List.flatMap_append, List.flatMap_assoc]
  refine congrArg₂ (· ++ ·) ?words (List.flatMap_congr fun i _ => ?slot)
  case words =>
    simp only [batchWords, List.append_assoc, List.flatMap_append, List.flatMap_cons, List.flatMap_nil, List.flatMap_map,
      flatMap_zero_words, List.nil_append]
    rw [← List.append_assoc (leBytes 1 _), flags, List.append_assoc]
  case slot =>
    unfold slotWords
    cases xs[i]? with
    | none => rfl
    | some x => simp only [List.flatMap_cons, List.flatMap_nil, List.append_nil, List.append_assoc]

/-! ### What the written half holds -/

/-- Samples stored one behind the other read back, each as it was given. -/
theorem foldl_store_reads (c : Units) (w : Who) (l : List (Nat × Sample)) (d : Dev) (f : Nat → Nat) (hi : Nat) (he : d.ecc = [])
    (hl : l.Pairwise fun y z => f y.1 + y.2.data.length ≤ f z.1) (hhi : ∀ y ∈ l, f y.1 + y.2.data.length ≤ hi)
    (y : Nat × Sample) (hy : y ∈ l) (j : Nat) (hj : j < y.2.data.length) :
    Memory.get (l.foldl (fun d y => store c d w (f y.1) y.2.data) d).mem (f y.1 + j) = y.2.data.getD j 0 := by
  induction l generalizing d with
  | nil => cases hy
  | cons z l ih =>
    rw [List.pairwise_cons] at hl
    obtain ⟨hz, hl⟩ := hl
    have hecc : (store c d w (f z.1) z.2.data).ecc = [] := (store_get_other c d w (f z.1) z.2.data (f z.1 + z.2.data.length) he (.inr le_rfl)).2
    rw [List.foldl_cons]
    rcases List.mem_cons.1 hy with rfl | hy
    · have hlen : f y.1 + y.2.data.length ≤ hi := hhi y (List.mem_cons_self ..)
      have within := (foldl_store_within c w l (store c d w (f y.1) y.2.data) f (f y.1 + y.2.data.length) hi hecc
        fun z hz' => ⟨hz z hz', hhi z (List.mem_cons_of_mem _ hz')⟩).2
      have hne : y.2.data ≠ [] := List.ne_nil_of_length_pos (Nat.zero_lt_of_lt hj)
      rw [within _ (.inl (by omega)), store_plain c d w _ _ he hne, get_setAll, if_pos ⟨by omega, by omega⟩, Nat.add_sub_cancel_left]
    · exact ih _ hecc hl (fun z hz => hhi z (List.mem_cons_of_mem _ hz)) hy

/-- First byte of the half that is not published, and of its slot i, in the page store. -/
def halfKey (d : Dev) : Nat := key 1 (halfAt d (!d.adapt.half))
def slotKey (d : Dev) (i : Nat) : Nat := key 1 (halfAt d (!d.adapt.half) + 4096 + i * (cf d .aStage 0 0 28 16 * 1024))

theorem slotKey_eq (d : Dev) (i : Nat) : slotKey d i = halfKey d + 4096 + i * (cf d .aStage 0 0 28 16 * 1024) := by
  unfold slotKey halfKey key
  omega

/-- The half once it is zeroed and written: a header, and the data of each sample in its slot. -/
def writtenHalf (c : Units) (d : Dev) (head : List Byte) (xs : List Sample) : Dev :=
  (xs.mapIdx (fun i x => (i, x))).foldl (fun e y => store c e (whoAdapt d) (slotKey d y.1) y.2.data)
    (store c (zeroPages d (halfAt d (!d.adapt.half)) (halfSize d)) (whoAdapt d) (halfKey d) head)

section
variable {d : Dev} {xs : List Sample} (hB : xs.length ≤ batchSize d) (hl : ∀ x ∈ xs, x.data.length ≤ cf d .aStage 0 0 28 16 * 1024)
include hl

/-- The slots stand one behind the other. -/
theorem slots_apart : (xs.mapIdx (fun i x => (i, x))).Pairwise fun y z => slotKey d y.1 + y.2.data.length ≤ slotKey d z.1 := by
  refine List.pairwise_iff_getElem.2 fun i j hi hj hij => ?_
  rw [List.getElem_mapIdx, List.getElem_mapIdx, slotKey_eq, slotKey_eq]
  have hdata := hl _ (List.getElem_mem (show i < xs.length by simpa using hi))
  have hle : (i + 1) * (cf d .aStage 0 0 28 16 * 1024) ≤ j * (cf d .aStage 0 0 28 16 * 1024) := Nat.mul_le_mul_right _ hij
  rw [Nat.succ_mul] at hle
  dsimp only
  omega

include hB

/-- The slots stand behind the header and within the half. -/
theorem slots_inside : ∀ y ∈ xs.mapIdx (fun i x => (i, x)),
    halfKey d + 4096 ≤ slotKey d y.1 ∧ slotKey d y.1 + y.2.data.length ≤ halfKey d + halfSize d := by
  intro y hy
  obtain ⟨i, hi, rfl⟩ := List.mem_mapIdx.1 hy
  have hdata := hl _ (List.getElem_mem hi)
  have hle : (i + 1) * (cf d .aStage 0 0 28 16 * 1024) ≤ batchSize d * (cf d .aStage 0 0 28 16 * 1024) := Nat.mul_le_mul_right _ (by omega)
  have hsize : halfSize d = 4096 + batchSize d * (cf d .aStage 0 0 28 16 * 1024) := by unfold halfSize; ring
  rw [Nat.succ_mul] at hle
  rw [slotKey_eq]
  dsimp only
  omega

variable {c : Units} {head : List Byte} (he : d.ecc = []) (hh : head.length ≤ 4096) (hne : head ≠ [])
include he hh hne

/-- Only the half that is written differs. -/
theorem writtenHalf_frame :
    writtenHalf c d head xs = { d with mem := (writtenHalf c d head xs).mem }
      ∧ ∀ k, k < halfKey d ∨ halfKey d + halfSize d ≤ k → Memory.get (writtenHalf c d head xs).mem k = Memory.get d.mem k := by
  obtain ⟨hdev, hmem⟩ := half_within c d (whoAdapt d) (halfAt d (!d.adapt.half)) head xs (cf d .aStage 0 0 28 16 * 1024) (batchSize d)
    he hh hne hB (by unfold halfSize; ring) hl
  refine ⟨?_, hmem⟩
  have hdev : writtenHalf c d head xs = { d with mem := (writtenHalf c d head xs).mem, ecc := [] } := hdev
  rwa [← he] at hdev

/-- The written half holds the header, and in each slot the sample's data. -/
theorem writtenHalf_reads (hw : Memory.wf d.mem = true) :
    Memory.getN (writtenHalf c d head xs).mem (halfKey d) head.length = head
      ∧ ∀ i x, xs[i]? = some x → Memory.getN (writtenHalf c d head xs).mem (slotKey d i) x.data.length = x.data := by
  have wf : Memory.wf (writtenHalf c d head xs).mem = true := foldl_wf (store_wf (zeroPages_wf hw)) fun _ _ hy => store_wf hy
  have inside := slots_inside hB hl
  have hzecc : (zeroPages d (halfAt d (!d.adapt.half)) (halfSize d)).ecc = [] := by unfold zeroPages; rw [he]; rfl
  have hstore := store_plain c (zeroPages d (halfAt d (!d.adapt.half)) (halfSize d)) (whoAdapt d) (halfKey d) head hzecc hne
  have hecc : (store c (zeroPages d (halfAt d (!d.adapt.half)) (halfSize d)) (whoAdapt d) (halfKey d) head).ecc = [] := by
    rw [hstore]
    exact hzecc
  refine ⟨getN_eq wf fun o ho => ?head, fun i x hx => getN_eq wf fun o ho => ?slot⟩
  case head =>
    have kept := (foldl_store_within c (whoAdapt d) (xs.mapIdx (fun i x => (i, x))) _ (slotKey d) _ _ hecc inside).2
    refine (kept _ (.inl (by omega))).trans ?_
    rw [hstore, get_setAll, if_pos ⟨by omega, by omega⟩, Nat.add_sub_cancel_left]
  case slot =>
    obtain ⟨hi, rfl⟩ := List.getElem?_eq_some_iff.1 hx
    exact foldl_store_reads c (whoAdapt d) _ _ (slotKey d) _ hecc (slots_apart hl) (fun y hy => (inside y hy).2) (i, xs[i])
      (List.mem_mapIdx.2 ⟨i, hi, rfl⟩) o ho

end

/-! ### The batch that is staged (R394, R395, R398, R399) -/

/-- The device whose epoch is staged from: the next epoch's where the present one is through. -/
def stagingFrom (d : Dev) : Dev := if setCount d ≤ d.adapt.spos ∧ d.adapt.sIdx + 1 < d.adapt.epochs then nextEpoch d else d

/-- P1, P2 and STEP as the batch staged before leaves them, once it is applied. -/
def lastApplied (a : Adapt) : Word × Word × Nat :=
  ((a.shown.filter (·.apply)).map (fun q => (q.p1, q.p2, q.step))).getD (a.p1, a.p2, a.step.toNat)

/-- The batch of n samples that is staged next. -/
def nextBatch (d : Dev) (n : Nat) : Batch :=
  { step := sat 32 ((lastApplied d.adapt).2.2 + 1), count := n, spos := d.adapt.spos, last := setCount d ≤ d.adapt.spos, apply := true
    p1 := mul32 (lastApplied d.adapt).1 (param d .aBeta1), p2 := mul32 (lastApplied d.adapt).2.1 (param d .aBeta2) }

/-- The header of the batch that is staged next. -/
def nextHead (d : Dev) (xs : List Sample) : List Byte :=
  halfHead d (nextBatch d xs.length) (d.adapt.first + BitVec.ofNat 32 d.adapt.sIdx) (d.adapt.batch == 0) d.adapt.batch xs

/-- The device once that batch is staged in the half that is not published. -/
def stagedBatch (c : Units) (d : Dev) (xs : List Sample) : Dev :=
  let e := writtenHalf c d (nextHead d xs) xs
  { e with adapt := { e.adapt with staged := some (nextBatch d xs.length), batch := d.adapt.batch + 1 } }

theorem stagingFrom_frame (d : Dev) :
    stagingFrom d = { d with adapt := (stagingFrom d).adapt }
      ∧ (stagingFrom d).adapt = { d.adapt with
          sIdx := (stagingFrom d).adapt.sIdx, spos := (stagingFrom d).adapt.spos, batch := (stagingFrom d).adapt.batch
          perm := (stagingFrom d).adapt.perm } := by
  unfold stagingFrom
  split <;> exact ⟨rfl, rfl⟩

theorem stagingFrom_regs (d : Dev) : (stagingFrom d).regs = d.regs := by rw [(stagingFrom_frame d).1]

/-- With the epoch through, no sample is taken. -/
theorem fillSlots_through {c : Units} {b n : Nat} {d : Dev} {got : List Sample} (h : setCount d ≤ d.adapt.spos) : fillSlots c b n d got = (d, got) := by
  cases n with
  | zero => rfl
  | succ n => rw [fillSlots, if_pos (by simp [h])]

theorem setCount_stagingFrom (d : Dev) : setCount (stagingFrom d) = setCount d := cf_congr (stagingFrom_regs d) ..

theorem batchSize_stagingFrom (d : Dev) : batchSize (stagingFrom d) = batchSize d := congrArg (· + 1) (cf_congr (stagingFrom_regs d) ..)

theorem ite_nextEpoch (d : Dev) :
    (if (decide (setCount d ≤ d.adapt.spos) && decide (d.adapt.sIdx + 1 < d.adapt.epochs)) = true then nextEpoch d else d) = stagingFrom d := by
  simp only [Bool.and_eq_true, decide_eq_true_eq, stagingFrom]

/-- The device and the samples once the slots of the next batch have been filled. -/
def batchTaken (c : Units) (d : Dev) : Dev × List Sample := fillSlots c (batchSize d) (setCount d) (stagingFrom d) []

section
variable {c : Units} {d : Dev}

/-- Without a sample no batch is staged, and memory is as it was. -/
theorem stageBatch_empty (h : (batchTaken c d).2 = []) :
    ∃ shown tail, stageBatch c d = { (batchTaken c d).1 with adapt := { (batchTaken c d).1.adapt with shown, tail } } := by
  unfold batchTaken at h ⊢
  unfold stageBatch
  dsimp only
  rw [ite_nextEpoch, setCount_stagingFrom, batchSize_stagingFrom]
  by_cases hthrough : setCount d ≤ (stagingFrom d).adapt.spos
  · rw [if_pos hthrough, fillSlots_through ((setCount_stagingFrom d).trans_le hthrough)]
    exact ⟨_, _, rfl⟩
  · rw [if_neg hthrough, h, if_pos (by rfl)]
    split
    · split <;> exact ⟨_, _, rfl⟩
    · exact ⟨_, _, rfl⟩

/-- With a sample the batch is staged in the half that is not published. -/
theorem stageBatch_stages (he : d.ecc = []) (h : (batchTaken c d).2 ≠ []) :
    stageBatch c d = stagedBatch c (batchTaken c d).1 (batchTaken c d).2 := by
  have hopen : ¬ setCount d ≤ (stagingFrom d).adapt.spos := fun hthrough => h (by rw [batchTaken, fillSlots_through ((setCount_stagingFrom d).trans_le hthrough)])
  obtain ⟨⟨-, hadapt⟩, -, -⟩ := fillSlots_stages c (batchSize d) (setCount d) (stagingFrom d) [] (by rw [(stagingFrom_frame d).1]; exact he)
    (Nat.zero_le _) (fun x hx => nomatch hx)
  have hfresh : (batchTaken c d).1.adapt.batch = (stagingFrom d).adapt.batch := (congrArg Adapt.batch hadapt :)
  clear hadapt
  unfold stageBatch
  rw [ite_nextEpoch]
  extract_lets e0 fresh
  rw [show setCount e0 = setCount d from setCount_stagingFrom d, show batchSize e0 = batchSize d from batchSize_stagingFrom d, if_neg hopen]
  rw [show fillSlots c (batchSize d) (setCount d) e0 [] = batchTaken c d from rfl]
  generalize batchTaken c d = taken at h hfresh ⊢
  obtain ⟨e, xs⟩ := taken
  dsimp -zeta only at h hfresh ⊢
  extract_lets a through waits p b half d1 w d2 slot d3
  rw [if_neg (by simpa using h)]
  have hp : p = lastApplied e.adapt := by
    unfold p waits a lastApplied
    cases e.adapt.shown with
    | none => rfl
    | some q => cases ha : q.apply <;> simp [ha, Option.filter]
  have hb : b = nextBatch e xs.length := by
    unfold b
    rw [hp]
    rfl
  have hd2 : d2 = store c d1 w (key 1 half) (nextHead e xs) := by
    unfold d2 fresh
    rw [hb, ← hfresh]
    rfl
  have hstored : StoresOnly d1 d2 := store_stores ..
  have hslot : slot = cf e .aStage 0 0 28 16 * 1024 := congrArg (· * 1024) (cf_congr (congrArg Dev.regs (show d2 = _ from hstored)) ..)
  have hd3 : d3 = writtenHalf c e (nextHead e xs) xs := by
    unfold d3
    rw [hslot, hd2]
    rfl
  show ({ d3 with adapt := { d3.adapt with staged := some b, batch := e.adapt.batch + 1 } } : Dev) = _
  rw [hd3, hb]
  rfl

end

end Sys2Proof.Machine

namespace Sys2Proof.Machine

/-! ### What a staged half reads as (R397, R399) -/

/-- The words of the header of the batch that is staged next. -/
def nextWords (d : Dev) (xs : List Sample) : List Nat :=
  batchWords d (nextBatch d xs.length) (d.adapt.first + BitVec.ofNat 32 d.adapt.sIdx) (d.adapt.batch == 0) d.adapt.batch
    ++ (List.range (batchSize d)).flatMap (slotWords (rneQuot false 1 xs.length 0) xs)

theorem nextHead_words (d : Dev) (xs : List Sample) : nextHead d xs = (nextWords d xs).flatMap (leBytes 4) := halfHead_words ..

theorem nextHead_length (d : Dev) (xs : List Sample) : (nextHead d xs).length = 256 + 16 * batchSize d := halfHead_length ..

/-- Of the 256 bytes ahead of the slots' entries, those behind the scalars are zero. -/
theorem nextHead_zeros (d : Dev) (xs : List Sample) : ((nextHead d xs).drop 60).take 196 = List.replicate 196 0 := by
  rw [nextHead_words, show 60 = 4 * 15 from rfl, drop_flatMap (leBytes_length 4), nextWords,
    List.drop_append_of_le_length (by rw [batchWords_length]; decide), batchWords_drop, List.flatMap_append, flatMap_zero_words,
    List.take_left' List.length_replicate]

/-- Word j of slot i's entry. -/
theorem nextWords_slot (d : Dev) (xs : List Sample) {i j : Nat} (hi : i < batchSize d) (hj : j < 4) :
    (nextWords d xs)[64 + 4 * i + j]? = (slotWords (rneQuot false 1 xs.length 0) xs i)[j]? := by
  have hrange : (List.range (batchSize d))[i]? = some i := List.getElem?_range hi
  rw [nextWords, List.getElem?_append_right (by rw [batchWords_length]; omega), batchWords_length, show 64 + 4 * i + j - 64 = 4 * i + j by omega,
    getElem?_flatMap (slotWords_length _ _) hrange hj]

theorem nextWords_scalar (d : Dev) (xs : List Sample) {i : Nat} {w : Word}
    (h : (stepScalars d (nextBatch d xs.length).p1 (nextBatch d xs.length).p2)[i]? = some w) : (nextWords d xs)[8 + i]? = some w.toNat := by
  have hi : i < 7 := (List.getElem?_eq_some_iff.1 h).1
  rw [nextWords, List.getElem?_append_left (by rw [batchWords_length]; omega), batchWords, List.append_assoc,
    List.getElem?_append_right (Nat.le_add_right 8 i), List.getElem?_append_left (by simpa [stepScalars] using hi)]
  simp [h]

/-- The four words of slot i's entry, as a half holds them in memory. -/
def slotEntryAt (m : List Host.Cell) (half i : Nat) : Nat × Nat × Nat × Nat :=
  let word := fun (o : Nat) => leNat (Memory.getN m (half + o) 4)
  (word (256 + 16 * i), word (260 + 16 * i), word (264 + 16 * i), word (268 + 16 * i))

section
variable {m : List Host.Cell} {half : Nat} {d : Dev} {xs : List Sample} (hhead : Memory.getN m half (nextHead d xs).length = nextHead d xs)
include hhead

/-- A word of the header as memory holds it. -/
theorem read_nextWord {o i v : Nat} (ho : o = 4 * i) (h : (nextWords d xs)[i]? = some v) : leNat (Memory.getN m (half + o) 4) = v % 2 ^ 32 := by
  obtain ⟨hi, -⟩ := List.getElem?_eq_some_iff.1 h
  have hlen : (nextHead d xs).length = 4 * (nextWords d xs).length := by rw [nextHead_words, length_flatMap_const (leBytes_length 4)]
  rw [getN_within hhead (by omega), nextHead_words, ho, fld_words h]

/-- The header's own words. -/
theorem read_header (hB : xs.length ≤ batchSize d) :
    let b := nextBatch d xs.length
    let word := fun (o : Nat) => leNat (Memory.getN m (half + o) 4)
    word 0 = b.step ∧ word 4 = (d.adapt.first + BitVec.ofNat 32 d.adapt.sIdx).toNat ∧ word 8 = d.adapt.batch % 2 ^ 32 ∧ word 12 = xs.length
      ∧ word 16 = 0x3F800000 ∧ word 20 = 0 ∧ word 24 = b2n (d.adapt.batch == 0) + 2 * b2n b.last ∧ word 28 = 0
      ∧ ∀ i w, (stepScalars d b.p1 b.p2)[i]? = some w → word (32 + 4 * i) = w.toNat := by
  intro b word
  have word_eq {o i v : Nat} (ho : o = 4 * i) (h : (nextWords d xs)[i]? = some v) (hv : v < 2 ^ 32) : word o = v :=
    (read_nextWord hhead ho h).trans (Nat.mod_eq_of_lt hv)
  have hstep : b.step < 2 ^ 32 := Nat.lt_of_le_of_lt (Nat.min_le_right _ _) (by decide)
  have hcount : xs.length < 2 ^ 32 := Nat.lt_of_le_of_lt (hB.trans (batchSize_le d)) (by decide)
  have hflags : b2n (d.adapt.batch == 0) + 2 * b2n b.last < 2 ^ 32 := by cases d.adapt.batch == 0 <;> cases b.last <;> decide
  exact ⟨word_eq (i := 0) rfl rfl hstep, word_eq (i := 1) rfl rfl (BitVec.isLt _), read_nextWord hhead (i := 2) rfl rfl,
    word_eq (i := 3) rfl rfl hcount, word_eq (i := 4) rfl rfl (by decide), word_eq (i := 5) rfl rfl (by decide),
    word_eq (i := 6) rfl rfl hflags, word_eq (i := 7) rfl rfl (by decide),
    fun i w h => word_eq (by omega) (nextWords_scalar d xs h) w.isLt⟩

theorem read_zeros : Memory.getN m (half + 60) 196 = List.replicate 196 0 :=
  (getN_within hhead (by rw [nextHead_length]; omega)).trans (nextHead_zeros ..)

/-- The entry of slot i, word by word. -/
theorem read_entry {i w0 w1 w2 w3 : Nat} (hi : i < batchSize d) (h : slotWords (rneQuot false 1 xs.length 0) xs i = [w0, w1, w2, w3]) :
    slotEntryAt m half i = (w0 % 2 ^ 32, w1 % 2 ^ 32, w2 % 2 ^ 32, w3 % 2 ^ 32) := by
  have word_eq {o j v : Nat} (hj : j < 4) (ho : o = 4 * (64 + 4 * i + j)) (hv : [w0, w1, w2, w3][j]? = some v) :
      leNat (Memory.getN m (half + o) 4) = v % 2 ^ 32 :=
    read_nextWord hhead ho (by rw [nextWords_slot d xs hi hj, h, hv])
  dsimp only [slotEntryAt]
  rw [word_eq (j := 0) (by decide) (by omega) rfl, word_eq (j := 1) (by decide) (by omega) rfl, word_eq (j := 2) (by decide) (by omega) rfl,
    word_eq (j := 3) (by decide) (by omega) rfl]

theorem read_filled {i : Nat} {x : Sample} (hB : xs.length ≤ batchSize d) (hx : xs[i]? = some x) (hlen : x.len < 2 ^ 32) (htag : x.tag < 2 ^ 32) :
    slotEntryAt m half i = (x.idx % 2 ^ 32, x.len, x.tag, (rneQuot false 1 xs.length 0).toNat) := by
  have hi : i < batchSize d := (List.getElem?_eq_some_iff.1 hx).1.trans_le hB
  have hread := read_entry hhead hi (slotWords_some _ hx)
  rwa [Nat.mod_eq_of_lt hlen, Nat.mod_eq_of_lt htag, Nat.mod_eq_of_lt (BitVec.isLt _)] at hread

theorem read_empty {i : Nat} (hi : xs.length ≤ i) (hB : i < batchSize d) : slotEntryAt m half i = (0xFFFFFFFF, 0, 0, 0) :=
  read_entry hhead hB (slotWords_none _ (List.getElem?_eq_none hi))

end

/-! ### The batch that an event stages -/

/-- Conditions of BATCH_STAGED (R391, R398). -/
def StagesBatch (s : State) : Prop :=
  (alive s.dev = true ∧ running s.committed 0x1D = true) ∧ s.dev.adapt.stageAt ≤ s.dev.clk.mono
    ∧ (adaptGuard s.dev).adapt.run = .active ∧ (adaptGuard s.dev).adapt.ready = true ∧ (adaptGuard s.dev).adapt.staged = none

theorem batchStaged_cond (s : State) :
    (alive (adaptGuard s.dev) && running s.committed 0x1D && (adaptGuard s.dev).adapt.run == .active && (adaptGuard s.dev).adapt.ready
      && (adaptGuard s.dev).adapt.staged.isNone && !decide ((adaptGuard s.dev).clk.mono < (adaptGuard s.dev).adapt.stageAt)) = true
        ↔ StagesBatch s := by
  rw [alive_adaptGuard, adaptGuard_stageAt, adaptGuard_clk]
  simp only [StagesBatch, Bool.and_eq_true, beq_iff_eq, Option.isNone_iff_eq_none, Bool.not_eq_true', decide_eq_false_iff_not, not_lt]
  tauto

theorem exec_batchStaged_idle {s : State} (h : ¬ StagesBatch s) : exec .batchStaged s = .next { s with dev := adaptGuard s.dev } := by
  show execBatchStaged s = _
  unfold execBatchStaged
  rw [onDev_eq]
  dsimp only
  rw [if_neg (mt (batchStaged_cond s).1 h)]

theorem exec_batchStaged {s : State} (h : StagesBatch s) :
    adaptGuard s.dev = s.dev ∧ exec .batchStaged s = .next { s with dev := stageBatch s.committed s.dev } := by
  have hcond := (batchStaged_cond s).2 h
  obtain ⟨-, -, -, hready, -⟩ := h
  have hg := adaptGuard_kept _ (.inr hready)
  refine ⟨hg, ?_⟩
  show execBatchStaged s = _
  unfold execBatchStaged
  rw [onDev_eq]
  dsimp only
  rw [if_pos hcond, hg]

/-- With the last epoch through, nothing is staged. -/
theorem stageBatch_ended {c : Units} {d : Dev} (h : setCount d ≤ d.adapt.spos) (hlast : d.adapt.epochs ≤ d.adapt.sIdx + 1) : stageBatch c d = d := by
  have hfrom : stagingFrom d = d := if_neg fun hn => by omega
  unfold stageBatch
  rw [ite_nextEpoch, hfrom]
  exact if_pos h

end Sys2Proof.Machine

namespace Sys2Proof.Machine

/-! ### Checkpoint and restore (R403, R404) -/

/-- The state area and the places of the checkpoint can be read and written: DDR5 READY, all in the adaptation region, no word in error. -/
def AreasServed (d : Dev) : Prop :=
  d.ddr.state = .ready ∧ d.ecc = [] ∧ (stateArea d).2 ≠ 0 ∧ inRegions d regsAdapt (stateArea d).1 (stateArea d).2 = true
    ∧ inRegions d regsAdapt (ckptAt d) 256 = true ∧ inRegions d regsAdapt (ckptAt d) 64 = true
    ∧ inRegions d regsAdapt (ckptAt d + 256) (stateArea d).2 = true

/-- A read that DDR5 serves, without a word in error. -/
theorem ddrRead_served {c : Units} {d : Dev} {w : Who} {ks : List Nat} {a n : Nat} (hs : d.ddr.state = .ready) (hin : inRegions d ks a n = true)
    (he : d.ecc = []) : ddrRead c d w ks a n = (ddrWake d, ddrPeek d a n, false) := by
  unfold ddrRead
  rw [if_neg (by rw [hs]; decide), if_neg (by rw [hin]; decide)]
  dsimp only
  rw [eccRead_plain _ (ddrWake d) _ _ _ he]

/-- A write that DDR5 serves: the bytes, and what the controller notes of an access. -/
theorem ddrWrite_served {c : Units} {d : Dev} {w : Who} {ks : List Nat} {a : Nat} {bs : List Byte} (hs : d.ddr.state = .ready)
    (hin : inRegions d ks a bs.length = true) (he : d.ecc = []) (hb : bs ≠ []) :
    ∃ known, ddrWrite c d w ks a bs = { d with mem := Memory.setAll d.mem (key 7 a) bs, ddr := { (ddrWake d).ddr with known } } := by
  unfold ddrWrite
  rw [if_neg (by rw [hs]; decide), if_neg (by rw [hin]; decide), store_plain c (ddrWake d) w (key 7 a) bs he hb]
  dsimp only
  split <;> exact ⟨_, rfl⟩

theorem ddrPeek_ne_nil {d : Dev} {a n : Nat} (hn : n ≠ 0) : ddrPeek d a n ≠ [] := fun h => hn (by rw [← ddrPeek_length d a n, h]; rfl)

theorem ckptHead_ne_nil (d : Dev) (crc : Word) (clean ecc : Bool) : ckptHead d crc clean ecc ≠ [] :=
  List.ne_nil_of_length_pos (by rw [ckptHead_length]; decide)

section
variable {s : State}

theorem exec_checkpointDone_idle (h : ¬ (alive s.dev = true ∧ s.dev.adapt.copy = 1 ∧ s.dev.adapt.copyAt ≤ s.dev.clk.mono
      ∧ meetsClaims s.committed s.dev (ckptAt s.dev) (256 + (stateArea s.dev).2) = false)) : exec .checkpointDone s = .next s := by
  show execCheckpointDone s = _
  unfold execCheckpointDone
  rw [onDev_eq]
  dsimp only
  rw [if_pos]
  simp only [Bool.or_eq_true, Bool.not_eq_true', Bool.and_eq_false_iff, beq_eq_false_iff_ne, decide_eq_true_eq]
  by_contra hn
  simp only [not_or, Bool.not_eq_false, ne_eq, not_not, not_lt, Bool.not_eq_true] at hn
  tauto

/-- A checkpoint that is due copies the state area, and then writes its header. -/
theorem exec_checkpointDone (ha : alive s.dev = true) (hc : s.dev.adapt.copy = 1) (hat : s.dev.adapt.copyAt ≤ s.dev.clk.mono)
    (hm : meetsClaims s.committed s.dev (ckptAt s.dev) (256 + (stateArea s.dev).2) = false) (hw : AreasServed s.dev) :
    let d := s.dev
    let bytes := ddrPeek d (stateArea d).1 (stateArea d).2
    ∃ known, exec .checkpointDone s = .next { s with dev := { d with
      mem := Memory.setAll (Memory.setAll d.mem (key 7 (ckptAt d + 256)) bytes) (key 7 (ckptAt d)) (ckptHead d (crc32c bytes) d.adapt.clean false)
      ddr := { (ddrWake d).ddr with known }, adapt := { d.adapt with copy := 0, rFlags := d.adapt.rFlags ||| 0x08 } } } := by
  intro d bytes
  obtain ⟨hs, he, hn, harea, hhead, -, hcopy⟩ := hw
  have hlen : bytes.length = (stateArea d).2 := ddrPeek_length ..
  have hread := ddrRead_served (c := s.committed) (w := whoAdapt d) hs harea he
  have run {e1 e2 : Dev} (h1 : ddrWrite s.committed (ddrWake d) (whoAdapt d) regsAdapt (ckptAt d + 256) bytes = e1)
      (h2 : ddrWrite s.committed e1 (whoAdapt d) regsAdapt (ckptAt e1) (ckptHead e1 (crc32c bytes) (e1.adapt.clean && !false) false) = e2) :
      exec .checkpointDone s = .next { s with dev := { e2 with adapt := { e2.adapt with
        copy := 0, rFlags := e2.adapt.rFlags ||| 0x08, rEcc := e2.adapt.rEcc || false } } } := by
    subst h1 h2
    show execCheckpointDone s = _
    unfold execCheckpointDone
    rw [onDev_eq]
    dsimp only
    rw [if_neg (by rw [ha, hc, hm]; simpa using hat), hread]
    rfl
  obtain ⟨k1, hwrite1⟩ := ddrWrite_served (c := s.committed) (d := ddrWake d) (w := whoAdapt d) (bs := bytes) (a := ckptAt d + 256) (ks := regsAdapt) hs
    (by rw [hlen]; exact hcopy) he (ddrPeek_ne_nil hn)
  obtain ⟨k2, hwrite2⟩ := ddrWrite_served (c := s.committed)
    (d := { ddrWake d with mem := Memory.setAll d.mem (key 7 (ckptAt d + 256)) bytes, ddr := { (ddrWake d).ddr with known := k1 } }) (w := whoAdapt d)
    (bs := ckptHead d (crc32c bytes) (d.adapt.clean && !false) false) (a := ckptAt d) (ks := regsAdapt) hs (by rw [ckptHead_length]; exact hhead) he
    (ckptHead_ne_nil _ _ _ _)
  refine ⟨k2, (run hwrite1 hwrite2).trans ?_⟩
  simp only [Bool.or_false, Bool.not_false, Bool.and_true]
  rfl

/-- The device once the checkpoint's copy stands in the state area. -/
def copiedBack (d : Dev) (known : List (Nat × Nat)) : Dev :=
  { d with
    mem := Memory.setAll d.mem (key 7 (stateArea d).1) (ddrPeek d (ckptAt d + 256) (stateArea d).2), ddr := { (ddrWake d).ddr with known } }

theorem exec_restoreDone_idle (h : ¬ (alive s.dev = true ∧ s.dev.adapt.copy = 2)) : exec .restoreDone s = .next s := by
  show execRestoreDone s = _
  unfold execRestoreDone
  rw [onDev_eq]
  dsimp only
  rw [if_pos]
  simp only [Bool.not_eq_true', Bool.and_eq_false_iff, beq_eq_false_iff_ne]
  rw [← Bool.not_eq_true]
  tauto

/-- The run that a restore makes ACTIVE, from a checkpoint's header (R404). -/
def resumed (d : Dev) (h : List Byte) : Adapt :=
  let seed := BitVec.ofNat 64 (fld h 8 8)
  let first := BitVec.ofNat 32 (fld h 16 4)
  let epoch := BitVec.ofNat 32 (fld h 24 4)
  let pos := fld h 28 4
  let at_ := (epoch - first).toNat
  { d.adapt with
    copy := 0, run := .active, clean := true, seed, first, epochs := fld h 20 4, epoch, pos, spos := pos
    done := at_, sIdx := at_, tail := b2n (setCount d ≤ pos), step := BitVec.ofNat 32 (fld h 32 4)
    p1 := BitVec.ofNat 32 (fld h 36 4), p2 := BitVec.ofNat 32 (fld h 40 4)
    perm := adaptPerm seed epoch.toNat (setCount d), batch := cdiv pos (batchSize d), staged := none
    shown := d.adapt.shown.map (fun b => { b with apply := false })
    rList := [], rSkip := 0, rFlags := d.adapt.rFlags ||| 0x80 }

/-- What a restore makes of the run, once its header h and its copy bs have been read. -/
def restoreOutcome (c : Units) (d : Dev) (h bs : List Byte) : Dev :=
  if d.adapt.broken || running c (adaptPart d) then restoreFail d 2
  else if (crc32c bs).toNat != fld h 4 4 then restoreFail d 1
  else { d with adapt := resumed d h }

/-- A restore copies the checkpoint back, and fails or makes the run ACTIVE. -/
theorem exec_restoreDone (ha : alive s.dev = true) (hc : s.dev.adapt.copy = 2) (hw : AreasServed s.dev) :
    let d := s.dev
    ∃ known, exec .restoreDone s = .next { s with
      dev := restoreOutcome s.committed (copiedBack d known) (ddrPeek d (ckptAt d) 64) (ddrPeek d (ckptAt d + 256) (stateArea d).2) } := by
  intro d
  obtain ⟨hs, he, hn, harea, -, hhead, hcopy⟩ := hw
  have hread1 := ddrRead_served (c := s.committed) (w := whoAdapt d) hs hhead he
  have hread2 := ddrRead_served (c := s.committed) (d := ddrWake d) (w := whoAdapt d) hs hcopy he
  have run {e1 : Dev}
      (h1 : ddrWrite s.committed (ddrWake d) (whoAdapt d) regsAdapt (stateArea d).1 (ddrPeek d (ckptAt d + 256) (stateArea d).2) = e1) :
      exec .restoreDone s = .next { s with
        dev := restoreOutcome s.committed { e1 with adapt := { e1.adapt with rEcc := e1.adapt.rEcc || false || false } } (ddrPeek d (ckptAt d) 64)
          (ddrPeek d (ckptAt d + 256) (stateArea d).2) } := by
    show execRestoreDone s = _
    unfold execRestoreDone
    rw [onDev_eq]
    dsimp only
    rw [if_neg (by rw [ha, hc]; decide), hread1]
    dsimp only
    rw [show ckptAt (ddrWake s.dev) = ckptAt d from rfl, hread2]
    dsimp only
    rw [show ddrWrite s.committed (ddrWake (ddrWake d)) (whoAdapt s.dev) regsAdapt (stateArea s.dev).1
      (ddrPeek (ddrWake d) (ckptAt d + 256) (stateArea s.dev).2) = e1 from h1]
    rfl
  obtain ⟨known, hwrite⟩ := ddrWrite_served (c := s.committed) (d := ddrWake d) (w := whoAdapt d) (bs := ddrPeek d (ckptAt d + 256) (stateArea d).2)
    (a := (stateArea d).1) (ks := regsAdapt) hs (by rw [ddrPeek_length]; exact harea) he (ddrPeek_ne_nil hn)
  refine ⟨known, (run hwrite).trans ?_⟩
  simp only [Bool.or_false]
  rfl

end

/-- The run as a restore that fails leaves it (R404). -/
def failedRun (a : Adapt) : Adapt :=
  { a with copy := 0, run := .idle, clean := false, fail := true, broken := false, rFlags := a.rFlags ||| 0x100 }

/-- The epoch's order is that of the header's epoch. -/
theorem resumed_perm (d : Dev) (h : List Byte) : (resumed d h).perm = adaptPerm (BitVec.ofNat 64 (fld h 8 8)) (fld h 24 4) (setCount d) := by
  unfold resumed
  dsimp only
  rw [BitVec.toNat_ofNat, Nat.mod_eq_of_lt (fld_lt4 h 24)]

/-- A restore that fails ends the run, logged. -/
theorem restoreFail_leaves (d : Dev) (k : Nat) :
    restoreFail d k = { d with health := (restoreFail d k).health, adapt := failedRun d.adapt }
      ∧ Logged d (restoreFail d k) (fun e => e.code = 0x010A) := by
  have entry : Logged { d with adapt := failedRun d.adapt } (restoreFail d k) _ := logAt_logged { d with adapt := failedRun d.adapt } 0x010A 0x1D
    (adaptPart d) 0xFFFFFFFF 0xFFFFFFFF [k] 0
  exact ⟨logAt_health .., (entry.imp fun e ⟨hcode, _⟩ => hcode).from rfl rfl rfl rfl⟩

theorem restoreOutcome_frame (c : Units) (d : Dev) (h bs : List Byte) :
    let u := restoreOutcome c d h bs
    u = { d with health := u.health, adapt := u.adapt } ∧ u.adapt.copy = 0 := by
  have failed (k : Nat) : restoreFail d k = { d with health := (restoreFail d k).health, adapt := (restoreFail d k).adapt }
      ∧ (restoreFail d k).adapt.copy = 0 := by
    obtain ⟨hleaves, -⟩ := restoreFail_leaves d k
    generalize restoreFail d k = u at hleaves
    rw [hleaves]
    exact ⟨rfl, rfl⟩
  unfold restoreOutcome
  split
  · exact failed 2
  · split
    · exact failed 1
    · exact ⟨rfl, rfl⟩

theorem restoreOutcome_failed {c : Units} {d : Dev} {h bs : List Byte}
    (hf : d.adapt.broken = true ∨ running c (adaptPart d) = true ∨ (crc32c bs).toNat ≠ fld h 4 4) :
    ∃ k, restoreOutcome c d h bs = restoreFail d k := by
  unfold restoreOutcome
  by_cases h1 : (d.adapt.broken || running c (adaptPart d)) = true
  · exact ⟨2, if_pos h1⟩
  · have hcrc : (crc32c bs).toNat ≠ fld h 4 4 := by
      rw [Bool.or_eq_true] at h1
      tauto
    exact ⟨1, (if_neg h1).trans (if_pos (bne_iff_ne.2 hcrc))⟩

theorem restoreOutcome_resumed {c : Units} {d : Dev} {h bs : List Byte} (hb : d.adapt.broken = false) (hr : running c (adaptPart d) = false)
    (hcrc : (crc32c bs).toNat = fld h 4 4) : restoreOutcome c d h bs = { d with adapt := resumed d h } := by
  unfold restoreOutcome
  rw [if_neg (by rw [hb, hr]; decide), if_neg (by rw [hcrc]; simp)]

end Sys2Proof.Machine

namespace Sys2Proof.Machine

/-! ### The samples that a batch takes -/

theorem stagingFrom_readsAlike (d : Dev) : ReadsAlike d (stagingFrom d) := by
  unfold stagingFrom
  split <;> exact ⟨rfl, rfl, rfl, rfl, rfl, rfl, rfl⟩

theorem batchTaken_sample {c : Units} {d : Dev} {x : Sample} (hx : x ∈ (batchTaken c d).2) :
    (∃ i, (stagingFrom d).adapt.spos ≤ i ∧ i < (batchTaken c d).1.adapt.spos ∧ x.idx = (stagingFrom d).adapt.perm.getD i 0) ∧ SampleChecked d x := by
  rcases (fillSlots_samples c (batchSize d) (setCount d) (stagingFrom d) []).2 x hx with hx | ⟨hat, hchecked⟩
  · cases hx
  · exact ⟨hat, hchecked.congr (stagingFrom_readsAlike d)⟩

section
variable {c : Units} {d : Dev} (he : d.ecc = [])
include he

/-- Taking samples moves the cursor and its counts, beside reports and what DDR5 notes. -/
theorem batchTaken_frame :
    let e := (batchTaken c d).1
    e = { d with health := e.health, ddr := e.ddr, adapt := e.adapt }
      ∧ e.adapt = { (stagingFrom d).adapt with skipped := e.adapt.skipped, rSkip := e.adapt.rSkip, rList := e.adapt.rList, spos := e.adapt.spos }
      ∧ (batchTaken c d).2.length ≤ batchSize d := by
  obtain ⟨⟨hdev, hadapt⟩, hlen, -⟩ := fillSlots_stages c (batchSize d) (setCount d) (stagingFrom d) [] (by rw [(stagingFrom_frame d).1]; exact he)
    (Nat.zero_le _) (fun x hx => nomatch hx)
  refine ⟨?_, hadapt, hlen⟩
  unfold batchTaken
  generalize fillSlots c (batchSize d) (setCount d) (stagingFrom d) [] = r at hdev ⊢
  rw [(stagingFrom_frame d).1] at hdev
  exact hdev

/-- With samples, the half that is not published holds the header and the samples' data, and nothing else of memory changes. -/
theorem stagedBatch_holds (hw : Memory.wf d.mem = true) :
    let e := (batchTaken c d).1
    let xs := (batchTaken c d).2
    let u := stagedBatch c e xs
    let half := key 1 (halfAt d (!d.adapt.half))
    u = { e with mem := u.mem, adapt := { e.adapt with staged := some (nextBatch e xs.length), batch := e.adapt.batch + 1 } }
      ∧ Memory.getN u.mem half (nextHead e xs).length = nextHead e xs
      ∧ (∀ i x, xs[i]? = some x → Memory.getN u.mem (half + 4096 + i * (cf d .aStage 0 0 28 16 * 1024)) x.len = x.data)
      ∧ ∀ k, k < half ∨ half + halfSize d ≤ k → Memory.get u.mem k = Memory.get d.mem k := by
  intro e xs u half
  obtain ⟨hdev, hadapt, hlen⟩ := batchTaken_frame (c := c) he
  have hregs : e.regs = d.regs := by rw [show e = _ from hdev]
  have hslot : cf e .aStage 0 0 28 16 = cf d .aStage 0 0 28 16 := cf_congr hregs ..
  have hB : batchSize e = batchSize d := congrArg (· + 1) (cf_congr hregs ..)
  have hsize : halfSize e = halfSize d := by unfold halfSize; rw [hB, hslot]
  have hflag : e.adapt.half = d.adapt.half := by rw [show e.adapt = _ from hadapt, (stagingFrom_frame d).2]
  have hhalf : halfKey e = half := by unfold halfKey halfAt stageBase; rw [hflag, hsize, cf_congr hregs]; rfl
  have hecc : e.ecc = [] := by rw [show e = _ from hdev]; exact he
  have hmem : e.mem = d.mem := by rw [show e = _ from hdev]
  have fits : ∀ x ∈ xs, x.data.length ≤ cf e .aStage 0 0 28 16 * 1024 := fun x hx => by
    rw [hslot]
    exact (batchTaken_sample hx).2.fits
  have hhead : (nextHead e xs).length ≤ 4096 := by
    have := batchSize_le e
    rw [nextHead_length]
    omega
  have hne : nextHead e xs ≠ [] := List.ne_nil_of_length_pos (by rw [nextHead_length]; omega)
  obtain ⟨hwritten, hother⟩ := writtenHalf_frame (c := c) (hlen.trans_eq hB.symm) fits hecc hhead hne
  obtain ⟨hheader, hdata⟩ := writtenHalf_reads (c := c) (hlen.trans_eq hB.symm) fits hecc hhead hne (by rw [hmem]; exact hw)
  rw [hhalf, hsize, hmem] at hother
  rw [hhalf] at hheader
  refine ⟨?_, hheader, fun i x hx => ?_, hother⟩
  · have hu : u = { writtenHalf c e (nextHead e xs) xs with adapt := { (writtenHalf c e (nextHead e xs) xs).adapt with
        staged := some (nextBatch e xs.length), batch := e.adapt.batch + 1 } } := rfl
    have hm : u.mem = (writtenHalf c e (nextHead e xs) xs).mem := rfl
    rw [hm, hu]
    rw [hwritten]
  · have h := hdata i x hx
    rwa [slotKey_eq, hhalf, hslot, (batchTaken_sample (List.mem_of_getElem? hx)).2.data_length] at h

end

end Sys2Proof.Machine

namespace Sys2Proof.Machine

section
variable {c : Units} {d : Dev} (he : d.ecc = [])
include he

/-- What staging a batch may touch: memory, reports, what DDR5 notes, and of the run what concerns staging. -/
theorem stageBatch_frame (hw : Memory.wf d.mem = true) :
    let u := stageBatch c d
    u = { d with mem := u.mem, health := u.health, ddr := u.ddr, adapt := u.adapt }
      ∧ u.adapt = { d.adapt with
          staged := u.adapt.staged, shown := u.adapt.shown, skipped := u.adapt.skipped, rSkip := u.adapt.rSkip, rList := u.adapt.rList
          spos := u.adapt.spos, tail := u.adapt.tail, batch := u.adapt.batch, sIdx := u.adapt.sIdx, perm := u.adapt.perm } := by
  intro u
  obtain ⟨hdev, hadapt, -⟩ := batchTaken_frame (c := c) he
  rw [(stagingFrom_frame d).2] at hadapt
  by_cases h : (batchTaken c d).2 = []
  · obtain ⟨shown, tail, hu⟩ := stageBatch_empty h
    change u = _ at hu
    generalize (batchTaken c d).1 = e at hdev hadapt hu
    rw [hu]
    exact ⟨by rw [hdev], by dsimp only; rw [hadapt]⟩
  · have hu : u = _ := stageBatch_stages he h
    obtain ⟨hstaged, -⟩ := stagedBatch_holds (c := c) he hw
    rw [show stagedBatch _ _ _ = u from hu.symm] at hstaged
    clear_value u
    generalize (batchTaken c d).1 = e at hdev hadapt hstaged
    rw [hstaged]
    exact ⟨by rw [hdev], by dsimp only; rw [hadapt]⟩

theorem batchTaken_staged : (batchTaken c d).1.adapt.staged = d.adapt.staged := by
  obtain ⟨-, hadapt, -⟩ := batchTaken_frame (c := c) he
  rw [hadapt, (stagingFrom_frame d).2]

/-- The batch's step, products and place in the epoch. -/
theorem batchTaken_next (n : Nat) :
    let e := (batchTaken c d).1
    nextBatch e n = { nextBatch d n with spos := e.adapt.spos, last := setCount d ≤ e.adapt.spos }
      ∧ e.adapt.first = (stagingFrom d).adapt.first ∧ e.adapt.sIdx = (stagingFrom d).adapt.sIdx ∧ e.adapt.batch = (stagingFrom d).adapt.batch := by
  obtain ⟨hdev, hadapt, -⟩ := batchTaken_frame (c := c) he
  have hlast : lastApplied (batchTaken c d).1.adapt = lastApplied d.adapt := by
    rw [hadapt, (stagingFrom_frame d).2]
    rfl
  have hregs : (batchTaken c d).1.regs = d.regs := (congrArg Dev.regs hdev :)
  refine ⟨?_, (congrArg Adapt.first hadapt :), (congrArg Adapt.sIdx hadapt :), (congrArg Adapt.batch hadapt :)⟩
  unfold nextBatch param setCount
  rw [hlast, com_congr hregs, com_congr hregs, cf_congr hregs]

end

theorem stepScalars_congr {d e : Dev} (h : e.regs = d.regs) (p q : Word) : stepScalars e p q = stepScalars d p q := by
  unfold stepScalars param
  simp only [com_congr h]

/-- Settles O58: a fill erases the guarded range (`exec_stageFillDone`); a batch is staged of the samples taken (`batchTaken_sample`) in the half
that is not published (`stagedBatch_holds`); a checkpoint and a restore are reads and writes that DDR5 serves. -/
theorem adaptationStagesCheckpointsAndRestores : Obligations.AdaptationStagesCheckpointsAndRestores := by
  unfold Obligations.AdaptationStagesCheckpointsAndRestores
  intro s c d a left on kept0 takes ends e0 xs spos base slot area n within copies kept h
  refine ⟨fun hno => exec_stageFillDone_idle hno, fun ⟨ha, hr⟩ hf => ⟨_, exec_stageFillDone ha hr hf, rfl, fun k => get_zeroPages d _ _ k⟩, rfl,
    fun hr ha hc hready b hs => swapHalf_publishes hr ha hc hready hs, ⟨rfl, rfl⟩, fun hno => exec_batchStaged_idle hno,
    fun ht ⟨hspos, hlast⟩ => ?ended, fun ht _ he hw => ?batch, fun x hx => ?sample, fun hno => exec_checkpointDone_idle hno,
    fun ⟨ha, hc, hat, hm⟩ hw => ?checkpoint, fun hno => exec_restoreDone_idle hno, fun ha hc hw => ?restore⟩
  case ended =>
    rw [(exec_batchStaged ht).2, stageBatch_ended hspos hlast]
  case batch =>
    obtain ⟨hframe, hadapt⟩ := stageBatch_frame (c := c) he hw
    obtain ⟨hguard, hexec⟩ := exec_batchStaged ht
    refine ⟨stageBatch c d, hexec, hframe, hadapt, fun hnone => ?none, fun hsome => ?some⟩
    case none =>
      obtain ⟨shown, tail, hu⟩ := stageBatch_empty (c := c) (d := d) hnone
      obtain ⟨hdev, -⟩ := batchTaken_frame (c := c) he
      obtain ⟨-, -, -, -, hstaged⟩ := ht
      rw [hguard] at hstaged
      rw [hu]
      exact ⟨(batchTaken_staged he).trans hstaged, (congrArg Dev.mem hdev :)⟩
    case some =>
      obtain ⟨hstaged, hhead, hdata, hother⟩ := stagedBatch_holds (c := c) he hw
      obtain ⟨hdev, -, hlen⟩ := batchTaken_frame (c := c) he
      obtain ⟨hnext, hfirst, hepoch, hindex⟩ := batchTaken_next (c := c) he xs.length
      rw [← stageBatch_stages he hsome] at hstaged hhead hdata hother
      have hregs : (batchTaken c d).1.regs = d.regs := (congrArg Dev.regs hdev :)
      have hB : batchSize (batchTaken c d).1 = batchSize d := congrArg (· + 1) (cf_congr hregs ..)
      have hrun := congrArg Dev.adapt hstaged
      obtain ⟨h0, h4, h8, h12, h16, h20, h24, h28, hscalars⟩ := read_header hhead (hlen.trans_eq hB.symm)
      refine ⟨nextBatch (batchTaken c d).1 xs.length, (congrArg Adapt.staged hrun :), rfl, rfl, hlen, rfl, (congrArg Adapt.spos hrun :), ?last,
        (congrArg Adapt.batch hrun :).trans (congrArg (· + 1) hindex), ?p1, ?p2, ?step, ?half⟩
      case last => rw [hnext]; exact decide_eq_true_iff
      case p1 => rw [hnext]; rfl
      case p2 => rw [hnext]; rfl
      case step => rw [hnext]; exact Nat.min_comm _ _
      case half =>
        rw [hfirst, hepoch] at h4
        rw [hindex] at h8 h24
        have entry (i : Nat) (x : Sample) (hx : xs[i]? = some x) := by
          obtain ⟨hxlen, hxtag⟩ := (batchTaken_sample (List.mem_of_getElem? hx)).2.words
          exact read_filled hhead (hlen.trans_eq hB.symm) hx hxlen hxtag
        exact ⟨h0, h4, h8, h12, h16, h20, h24, h28, fun i w hw => hscalars i w (by rw [stepScalars_congr hregs]; exact hw), read_zeros hhead,
          fun i x hx => ⟨entry i x hx, hdata i x hx⟩, fun i hi hB' => read_empty hhead hi (hB'.trans_eq hB.symm), hother⟩
  case sample => exact batchTaken_sample hx
  case checkpoint =>
    obtain ⟨known, hrun⟩ := exec_checkpointDone ha hc hat hm hw
    exact ⟨_, hrun, rfl, rfl, rfl⟩
  case restore =>
    obtain ⟨known, hrun⟩ := exec_restoreDone ha hc hw
    obtain ⟨hframe, hcopy⟩ := restoreOutcome_frame c (copiedBack d known) h kept
    refine ⟨_, hrun, ?frame, hcopy, fun hfail => ?failed, fun hb hr hcrc => ?resumed⟩
    case frame =>
      change restoreOutcome c (copiedBack d known) h kept = _
      generalize restoreOutcome c (copiedBack d known) h kept = u at hframe
      rw [hframe]
      rfl
    case failed =>
      obtain ⟨k, hk⟩ := restoreOutcome_failed (c := c) (d := copiedBack d known) hfail
      obtain ⟨hleaves, hlog⟩ := restoreFail_leaves (copiedBack d known) k
      rw [hk]
      exact ⟨congrArg Dev.adapt hleaves, hlog.from rfl rfl rfl rfl⟩
    case resumed =>
      rw [restoreOutcome_resumed (d := copiedBack d known) hb hr hcrc]
      exact ⟨rfl, rfl, rfl, rfl, rfl, rfl, rfl, rfl, rfl, rfl, rfl, rfl, rfl, resumed_perm (copiedBack d known) h⟩

end Sys2Proof.Machine
